-- ==== Sys2Proof/Word.lean ====
section
/-!
DEFINITION. The plain word types of the XA-9 (spec 00 R1: multi-byte values are little-endian, bit 0 is the
least significant bit).
-/

namespace Sys2Proof

/-- One byte. -/
abbrev Byte := BitVec 8

/-- A 64-bit register value. -/
abbrev Word := BitVec 64

/-- A sparse table: values by key, keys strictly rising, no entry equal to what an unlisted key reads as. The
reading and writing operations are in Machine/Sparse.lean. -/
abbrev Sparse (α : Type) := List (Nat × α)

end Sys2Proof
end

