-- ==== Sys2Proof/Syntax.lean ====
section
/-!
DEFINITION. Instr: one constructor per row of spec/opcode_table.json. Control instructions carry their guard and
register specifiers (11 R283, R284); engine commands carry the fields of their format (13 Tables 3 to 7, 14 Tables
1, 2, 7, 8, 9); a step of the device outside the instruction stream carries what its rule says comes with it (the
value the host writes, the core or packet concerned).
-/

namespace Sys2Proof

/-- A register operand specifier (09 R219, Table 1): 0 to 31 g0 to g31, 32 to 47 h1 to h16, 48 to 51 q0 to q3,
52 to 62 constants, 63 none. -/
abbrev Spec := BitVec 6

/-- The guard field G (11 R283): EN, NEG, PRED. -/
structure Guard where
  en : Bool
  neg : Bool
  pred : BitVec 6
deriving DecidableEq, Repr

/-- Format MM (13 Table 3). rows and cols hold ROWS - 1 and COLS - 1. -/
structure MmArgs where
  ls : BitVec 8
  kc : BitVec 16
  rows : BitVec 8
  cols : BitVec 8
  acc : BitVec 6
  ra : BitVec 3
  rb : BitVec 3
deriving DecidableEq, Repr

/-- Format PM (13 Table 4). rows holds ROWS - 1. -/
structure PmArgs where
  d : BitVec 19
  a : BitVec 19
  qs : BitVec 8
  rows : BitVec 8
deriving DecidableEq, Repr

/-- Format EP (13 Table 5). rows holds ROWS - 1. -/
structure EpArgs where
  bias : BitVec 19
  scale : BitVec 19
  d : BitVec 19
  acc : BitVec 6
  f : BitVec 6
  mx : Bool
  act : BitVec 3
  ben : Bool
  sen : Bool
  rows : BitVec 8
deriving DecidableEq, Repr

/-- Format V3 (13 Table 7). -/
structure V3Args where
  b : BitVec 19
  a : BitVec 19
  d : BitVec 19
  sb : BitVec 3
  sa : BitVec 3
  f : BitVec 6
  n : BitVec 16
  sd : BitVec 3
  x : Bool
deriving DecidableEq, Repr

/-- Format V2 (13 Table 7). -/
structure V2Args where
  d : BitVec 19
  imm : BitVec 13
  f : BitVec 6
  n : BitVec 16
  sd : BitVec 3
  x : Bool
deriving DecidableEq, Repr

/-- Format XO (14 Table 1). -/
structure XoArgs where
  obj : BitVec 16
  s : BitVec 19
  pb : BitVec 14
  tctr : BitVec 6
  ten : Bool
  ring : BitVec 3
  rem : Bool
  tok : BitVec 6
  c : BitVec 4
  tthr : BitVec 16
deriving DecidableEq, Repr

/-- Format LC (14 Table 7). dcount holds DCOUNT - 1. -/
structure LcArgs where
  fold : BitVec 8
  drank : BitVec 6
  dcount : BitVec 6
  ds : BitVec 14
  dst : BitVec 19
  src : BitVec 19
deriving DecidableEq, Repr

/-- The fields of a collective step (14 Table 9) other than KIND, which the constructor gives. -/
structure StepArgs where
  ord : Bool
  arrival : Bool
  conv : Bool
  w : BitVec 3
  len : Bool
  lsel : BitVec 2
  mul : BitVec 12
  offin : BitVec 12
  offout : BitVec 12
  sl : Bool
  sb : BitVec 2
  dl : Bool
  db : BitVec 2
  ten : Bool
  tctr : BitVec 6
  tthr : BitVec 18
  nosend : Bool
  nodst : Bool
  ictr : BitVec 6
  inc : BitVec 8
  t : BitVec 32
deriving DecidableEq, Repr

/-- One constructor per row of spec/opcode_table.json: first the rows a decoder reads from bits, then the steps of the
device and the host, each in the table's order. -/
inductive Instr where
  /-- STREAM_CMD (R142). -/
  | streamCmd (opnd : BitVec 28) (cmd : BitVec 96)
  /-- STREAM_SET (R142). -/
  | streamSet (opnd : BitVec 28) (cmd : BitVec 96)
  /-- STREAM_WAIT (R142). -/
  | streamWait (opnd : BitVec 28) (cmd : BitVec 96)
  /-- STREAM_FLIP (R142). -/
  | streamFlip (opnd : BitVec 28) (cmd : BitVec 96)
  /-- STREAM_MARK (R142). -/
  | streamMark (opnd : BitVec 28) (cmd : BitVec 96)
  /-- STREAM_END (R142). -/
  | streamEnd (opnd : BitVec 28) (cmd : BitVec 96)
  /-- STREAM_ROUTE (R142). -/
  | streamRoute (opnd : BitVec 28) (cmd : BitVec 96)
  /-- NOP (R334). -/
  | nop (g : Guard)
  /-- ADD (R303). -/
  | add (g : Guard) (d : Spec) (a : Spec) (b : Spec)
  /-- SUB (R303). -/
  | sub (g : Guard) (d : Spec) (a : Spec) (b : Spec)
  /-- MUL (R303). -/
  | mul (g : Guard) (d : Spec) (a : Spec) (b : Spec)
  /-- AND (R303). -/
  | and (g : Guard) (d : Spec) (a : Spec) (b : Spec)
  /-- OR (R303). -/
  | or (g : Guard) (d : Spec) (a : Spec) (b : Spec)
  /-- XOR (R303). -/
  | xor (g : Guard) (d : Spec) (a : Spec) (b : Spec)
  /-- SHL (R303). -/
  | shl (g : Guard) (d : Spec) (a : Spec) (b : Spec)
  /-- SHR_N (R303). -/
  | shrN (g : Guard) (d : Spec) (a : Spec) (b : Spec)
  /-- SHR_S (R303). -/
  | shrS (g : Guard) (d : Spec) (a : Spec) (b : Spec)
  /-- ADD_IMMEDIATE (R303). -/
  | addImmediate (g : Guard) (d : Spec) (a : Spec) (imm : BitVec 32)
  /-- SUB_IMMEDIATE (R303). -/
  | subImmediate (g : Guard) (d : Spec) (a : Spec) (imm : BitVec 32)
  /-- MUL_IMMEDIATE (R303). -/
  | mulImmediate (g : Guard) (d : Spec) (a : Spec) (imm : BitVec 32)
  /-- AND_IMMEDIATE (R303). -/
  | andImmediate (g : Guard) (d : Spec) (a : Spec) (imm : BitVec 32)
  /-- OR_IMMEDIATE (R303). -/
  | orImmediate (g : Guard) (d : Spec) (a : Spec) (imm : BitVec 32)
  /-- XOR_IMMEDIATE (R303). -/
  | xorImmediate (g : Guard) (d : Spec) (a : Spec) (imm : BitVec 32)
  /-- SHL_IMMEDIATE (R303). -/
  | shlImmediate (g : Guard) (d : Spec) (a : Spec) (imm : BitVec 32)
  /-- SHR_N_IMMEDIATE (R303). -/
  | shrNImmediate (g : Guard) (d : Spec) (a : Spec) (imm : BitVec 32)
  /-- SHR_S_IMMEDIATE (R303). -/
  | shrSImmediate (g : Guard) (d : Spec) (a : Spec) (imm : BitVec 32)
  /-- MULH_S (R304). -/
  | mulhS (g : Guard) (d : Spec) (a : Spec)
  /-- MULH_N (R304). -/
  | mulhN (g : Guard) (d : Spec) (a : Spec)
  /-- DIV_S (R304). -/
  | divS (g : Guard) (d : Spec) (a : Spec)
  /-- DIV_N (R304). -/
  | divN (g : Guard) (d : Spec) (a : Spec)
  /-- REM_S (R304). -/
  | remS (g : Guard) (d : Spec) (a : Spec)
  /-- REM_N (R304). -/
  | remN (g : Guard) (d : Spec) (a : Spec)
  /-- MIN_S (R304). -/
  | minS (g : Guard) (d : Spec) (a : Spec)
  /-- MIN_N (R304). -/
  | minN (g : Guard) (d : Spec) (a : Spec)
  /-- MAX_S (R304). -/
  | maxS (g : Guard) (d : Spec) (a : Spec)
  /-- MAX_N (R304). -/
  | maxN (g : Guard) (d : Spec) (a : Spec)
  /-- ANDN (R304). -/
  | andn (g : Guard) (d : Spec) (a : Spec)
  /-- NOT (R304). -/
  | not (g : Guard) (d : Spec) (a : Spec)
  /-- NEG (R304). -/
  | neg (g : Guard) (d : Spec) (a : Spec)
  /-- PADD (R305). -/
  | padd (g : Guard) (d : Spec) (a : Spec) (lane : BitVec 2)
  /-- PSUB (R305). -/
  | psub (g : Guard) (d : Spec) (a : Spec) (lane : BitVec 2)
  /-- PADDS (R305). -/
  | padds (g : Guard) (d : Spec) (a : Spec) (lane : BitVec 2)
  /-- PSUBS (R305). -/
  | psubs (g : Guard) (d : Spec) (a : Spec) (lane : BitVec 2)
  /-- PMIN (R305). -/
  | pmin (g : Guard) (d : Spec) (a : Spec) (lane : BitVec 2)
  /-- PMAX (R305). -/
  | pmax (g : Guard) (d : Spec) (a : Spec) (lane : BitVec 2)
  /-- PSHL (R305). -/
  | pshl (g : Guard) (d : Spec) (a : Spec) (lane : BitVec 2)
  /-- PSHR (R305). -/
  | pshr (g : Guard) (d : Spec) (a : Spec) (lane : BitVec 2)
  /-- CLZ (R306). -/
  | clz (g : Guard) (d : Spec) (a : Spec)
  /-- CTZ (R306). -/
  | ctz (g : Guard) (d : Spec) (a : Spec)
  /-- POPC (R306). -/
  | popc (g : Guard) (d : Spec) (a : Spec)
  /-- BREV (R306). -/
  | brev (g : Guard) (d : Spec) (a : Spec)
  /-- BSWAP (R306). -/
  | bswap (g : Guard) (d : Spec) (a : Spec)
  /-- EXT_S (R306). -/
  | extS (g : Guard) (d : Spec) (a : Spec) (pos : BitVec 6) (wm1 : BitVec 6)
  /-- EXT_N (R306). -/
  | extN (g : Guard) (d : Spec) (a : Spec) (pos : BitVec 6) (wm1 : BitVec 6)
  /-- INS (R306). -/
  | ins (g : Guard) (d : Spec) (a : Spec) (pos : BitVec 6) (wm1 : BitVec 6)
  /-- MOV (R307). -/
  | mov (g : Guard) (d : Spec) (a : Spec)
  /-- LI (R307). -/
  | li (g : Guard) (d : Spec) (imm : BitVec 32)
  /-- LIH (R307). -/
  | lih (g : Guard) (d : Spec) (imm : BitVec 32)
  /-- CMP_EQ (R309). -/
  | cmpEq (g : Guard) (d : Spec) (a : Spec) (b : Spec)
  /-- CMP_NE (R309). -/
  | cmpNe (g : Guard) (d : Spec) (a : Spec) (b : Spec)
  /-- CMP_LT_S (R309). -/
  | cmpLtS (g : Guard) (d : Spec) (a : Spec) (b : Spec)
  /-- CMP_GE_S (R309). -/
  | cmpGeS (g : Guard) (d : Spec) (a : Spec) (b : Spec)
  /-- CMP_LT_N (R309). -/
  | cmpLtN (g : Guard) (d : Spec) (a : Spec) (b : Spec)
  /-- CMP_GE_N (R309). -/
  | cmpGeN (g : Guard) (d : Spec) (a : Spec) (b : Spec)
  /-- CMP_ANY (R309). -/
  | cmpAny (g : Guard) (d : Spec) (a : Spec) (b : Spec)
  /-- CMP_NONE (R309). -/
  | cmpNone (g : Guard) (d : Spec) (a : Spec) (b : Spec)
  /-- CMPI (R309). -/
  | cmpi (g : Guard) (d : Spec) (a : Spec) (cond : BitVec 3) (imm : BitVec 32)
  /-- PAND (R310). -/
  | pand (g : Guard) (d : Spec) (a : Spec) (b : Spec)
  /-- POR (R310). -/
  | por (g : Guard) (d : Spec) (a : Spec) (b : Spec)
  /-- PXOR (R310). -/
  | pxor (g : Guard) (d : Spec) (a : Spec) (b : Spec)
  /-- PANDN (R310). -/
  | pandn (g : Guard) (d : Spec) (a : Spec) (b : Spec)
  /-- PSET (R310). -/
  | pset (g : Guard) (d : Spec)
  /-- PCLR (R310). -/
  | pclr (g : Guard) (d : Spec)
  /-- PNOT (R310). -/
  | pnot (g : Guard) (d : Spec) (a : Spec)
  /-- PMOV (R310). -/
  | pmov (g : Guard) (d : Spec) (a : Spec)
  /-- RDP (R310). -/
  | rdp (g : Guard) (d : Spec)
  /-- WRP (R310). -/
  | wrp (g : Guard) (a : Spec)
  /-- LEA (R308). -/
  | lea (g : Guard) (d : Spec) (a : Spec) (b : Spec) (sh : BitVec 4) (disp : BitVec 28)
  /-- BR (R311). -/
  | br (g : Guard) (off : BitVec 18)
  /-- BR_LONG (R311). -/
  | brLong (g : Guard) (off : BitVec 32)
  /-- CALL (R311). -/
  | call (g : Guard) (off : BitVec 18)
  /-- CALL_LONG (R311). -/
  | callLong (g : Guard) (off : BitVec 32)
  /-- JR (R312). -/
  | jr (g : Guard) (a : Spec)
  /-- CALLR (R312). -/
  | callr (g : Guard) (a : Spec)
  /-- RET (R312). -/
  | ret (g : Guard)
  /-- ROTW (R313). -/
  | rotw (g : Guard) (rb : BitVec 3)
  /-- LOOP (R314). -/
  | loop (g : Guard) (cnt : Spec) (off : BitVec 12)
  /-- LOOP_LONG (R314). -/
  | loopLong (g : Guard) (cnt : Spec) (off : BitVec 32)
  /-- LD_S (R316). -/
  | ldS (g : Guard) (d : Spec) (a : Spec) (c : BitVec 4) (q : BitVec 2)
  /-- LD_S_DISP (R316). -/
  | ldSDisp (g : Guard) (d : Spec) (a : Spec) (c : BitVec 4) (q : BitVec 2) (disp : BitVec 32)
  /-- LD_N (R316). -/
  | ldN (g : Guard) (d : Spec) (a : Spec) (c : BitVec 4) (q : BitVec 2)
  /-- LD_N_DISP (R316). -/
  | ldNDisp (g : Guard) (d : Spec) (a : Spec) (c : BitVec 4) (q : BitVec 2) (disp : BitVec 32)
  /-- ST (R318). -/
  | st (g : Guard) (d : Spec) (a : Spec) (c : BitVec 4) (q : BitVec 2)
  /-- ST_DISP (R318). -/
  | stDisp (g : Guard) (d : Spec) (a : Spec) (c : BitVec 4) (q : BitVec 2) (disp : BitVec 32)
  /-- LD_S_SPACE_S (R317). -/
  | ldSSpaceS (g : Guard) (d : Spec) (a : Spec) (c : BitVec 4) (q : BitVec 2)
  /-- LD_S_SPACE_S_DISP (R317). -/
  | ldSSpaceSDisp (g : Guard) (d : Spec) (a : Spec) (c : BitVec 4) (q : BitVec 2) (disp : BitVec 32)
  /-- LD_N_SPACE_S (R317). -/
  | ldNSpaceS (g : Guard) (d : Spec) (a : Spec) (c : BitVec 4) (q : BitVec 2)
  /-- LD_N_SPACE_S_DISP (R317). -/
  | ldNSpaceSDisp (g : Guard) (d : Spec) (a : Spec) (c : BitVec 4) (q : BitVec 2) (disp : BitVec 32)
  /-- ST_SPACE_S (R317). -/
  | stSpaceS (g : Guard) (d : Spec) (a : Spec) (c : BitVec 4) (q : BitVec 2)
  /-- ST_SPACE_S_DISP (R317). -/
  | stSpaceSDisp (g : Guard) (d : Spec) (a : Spec) (c : BitVec 4) (q : BitVec 2) (disp : BitVec 32)
  /-- LD_SEC (R319). -/
  | ldSec (g : Guard) (d : Spec) (a : Spec) (c : BitVec 4)
  /-- LD_SEC_DISP (R319). -/
  | ldSecDisp (g : Guard) (d : Spec) (a : Spec) (c : BitVec 4) (disp : BitVec 32)
  /-- ST_SEC (R319). -/
  | stSec (g : Guard) (d : Spec) (a : Spec) (c : BitVec 4)
  /-- ST_SEC_DISP (R319). -/
  | stSecDisp (g : Guard) (d : Spec) (a : Spec) (c : BitVec 4) (disp : BitVec 32)
  /-- LDQ (R320). -/
  | ldq (g : Guard) (d : Spec) (a : Spec) (c : BitVec 4) (q : BitVec 2)
  /-- LDQ_DISP (R320). -/
  | ldqDisp (g : Guard) (d : Spec) (a : Spec) (c : BitVec 4) (q : BitVec 2) (disp : BitVec 32)
  /-- STF (R321). -/
  | stf (g : Guard) (d : Spec) (a : Spec) (c : BitVec 4) (q : BitVec 2)
  /-- STF_DISP (R321). -/
  | stfDisp (g : Guard) (d : Spec) (a : Spec) (c : BitVec 4) (q : BitVec 2) (disp : BitVec 32)
  /-- ATOM_ADD (R322). -/
  | atomAdd (g : Guard) (d : Spec) (a : Spec) (b : Spec) (sz : Bool) (log : Bool) (c : BitVec 4)
  /-- ATOM_AND (R322). -/
  | atomAnd (g : Guard) (d : Spec) (a : Spec) (b : Spec) (sz : Bool) (log : Bool) (c : BitVec 4)
  /-- ATOM_OR (R322). -/
  | atomOr (g : Guard) (d : Spec) (a : Spec) (b : Spec) (sz : Bool) (log : Bool) (c : BitVec 4)
  /-- ATOM_XOR (R322). -/
  | atomXor (g : Guard) (d : Spec) (a : Spec) (b : Spec) (sz : Bool) (log : Bool) (c : BitVec 4)
  /-- ATOM_SWAP (R322). -/
  | atomSwap (g : Guard) (d : Spec) (a : Spec) (b : Spec) (sz : Bool) (log : Bool) (c : BitVec 4)
  /-- ATOM_MIN_S (R322). -/
  | atomMinS (g : Guard) (d : Spec) (a : Spec) (b : Spec) (sz : Bool) (log : Bool) (c : BitVec 4)
  /-- ATOM_MAX_S (R322). -/
  | atomMaxS (g : Guard) (d : Spec) (a : Spec) (b : Spec) (sz : Bool) (log : Bool) (c : BitVec 4)
  /-- ATOM_CAS (R322). -/
  | atomCas (g : Guard) (d : Spec) (a : Spec) (b : Spec) (sz : Bool) (log : Bool) (c : BitVec 4)
  /-- CAS_SEC (R323). -/
  | casSec (g : Guard) (d : Spec) (a : Spec) (c : BitVec 4)
  /-- CAS_SEC_DISP (R323). -/
  | casSecDisp (g : Guard) (d : Spec) (a : Spec) (c : BitVec 4) (disp : BitVec 32)
  /-- FENCE (R325). -/
  | fence (g : Guard) (scope : BitVec 3) (mask : BitVec 16)
  /-- IFLUSH (R326). -/
  | iflush (g : Guard) (scope : BitVec 3)
  /-- ISYNC (R326). -/
  | isync (g : Guard)
  /-- OWN_T (R327). -/
  | ownT (g : Guard) (a : Spec) (n : BitVec 8)
  /-- OWN_E (R327). -/
  | ownE (g : Guard) (a : Spec) (n : BitVec 8)
  /-- TKWAIT (R328). -/
  | tkwait (g : Guard)
  /-- FOLD_SET (R132). -/
  | foldSet (g : Guard) (a : Spec) (n : BitVec 8)
  /-- FOLD_ARR (R132). -/
  | foldArr (g : Guard) (d : Spec) (n : BitVec 8)
  /-- FOLD_WAIT (R132). -/
  | foldWait (g : Guard) (a : Spec) (n : BitVec 8)
  /-- FOLD_AW (R132). -/
  | foldAw (g : Guard) (n : BitVec 8)
  /-- SPAWN (R127). -/
  | spawn (g : Guard) (a : Spec)
  /-- EXIT (R128). -/
  | exit (g : Guard)
  /-- EXIT_SUCC (R127). -/
  | exitSucc (g : Guard) (a : Spec)
  /-- COMMIT (R331). -/
  | commit (g : Guard)
  /-- WLOAN (R127). -/
  | wloan (g : Guard)
  /-- YIELD (R125). -/
  | yield (g : Guard)
  /-- SYSRD (R332). -/
  | sysrd (g : Guard) (d : Spec) (n : BitVec 12)
  /-- SYSWR (R332). -/
  | syswr (g : Guard) (n : BitVec 12) (a : Spec)
  /-- BRK (R334). -/
  | brk (g : Guard)
  /-- RTI (R244). -/
  | rti (g : Guard)
  /-- TRAP (R334). -/
  | trap (g : Guard) (a : Spec)
  /-- M_MMA (R343). -/
  | mMma (m : MmArgs)
  /-- M_MMAZ (R343). -/
  | mMmaz (m : MmArgs)
  /-- M_MMV (R343). -/
  | mMmv (m : MmArgs)
  /-- M_MMVZ (R343). -/
  | mMmvz (m : MmArgs)
  /-- M_PERM (R346). -/
  | mPerm (m : PmArgs)
  /-- M_AZERO (R347). -/
  | mAzero (acc : BitVec 6) (cnt : BitVec 6) (value : BitVec 32)
  /-- M_ACOPY (R347). -/
  | mAcopy (acc : BitVec 6) (cnt : BitVec 6) (src : BitVec 6)
  /-- M_ALOAD (R348). -/
  | mAload (off : BitVec 19) (rows : BitVec 8) (acc : BitVec 6)
  /-- M_ASTORE (R348). -/
  | mAstore (off : BitVec 19) (rows : BitVec 8) (acc : BitVec 6)
  /-- M_EPI (R350). -/
  | mEpi (m : EpArgs)
  /-- M_EPI_SEND (R352). -/
  | mEpiSend (m : EpArgs)
  /-- M_BIND (R353). -/
  | mBind (off : BitVec 19) (ring : BitVec 3)
  /-- V_ADD (R357). -/
  | vAdd (v : V3Args)
  /-- V_SUB (R357). -/
  | vSub (v : V3Args)
  /-- V_MUL (R357). -/
  | vMul (v : V3Args)
  /-- V_FMA (R357). -/
  | vFma (v : V3Args)
  /-- V_MIN (R357). -/
  | vMin (v : V3Args)
  /-- V_MAX (R357). -/
  | vMax (v : V3Args)
  /-- V_ABS (R357). -/
  | vAbs (v : V3Args)
  /-- V_NEG (R357). -/
  | vNeg (v : V3Args)
  /-- V_AND (R359). -/
  | vAnd (v : V3Args)
  /-- V_OR (R359). -/
  | vOr (v : V3Args)
  /-- V_XOR (R359). -/
  | vXor (v : V3Args)
  /-- V_SHL (R359). -/
  | vShl (v : V3Args)
  /-- V_SHR (R359). -/
  | vShr (v : V3Args)
  /-- V_CMP (R360). -/
  | vCmp (v : V3Args)
  /-- V_SEL (R360). -/
  | vSel (v : V3Args)
  /-- V_CVT (R361). -/
  | vCvt (v : V3Args)
  /-- V_QMX (R362). -/
  | vQmx (v : V3Args)
  /-- V_DQMX (R362). -/
  | vDqmx (v : V3Args)
  /-- V_EXP2 (R363). -/
  | vExp2 (v : V3Args)
  /-- V_EXP (R363). -/
  | vExp (v : V3Args)
  /-- V_LOG2 (R363). -/
  | vLog2 (v : V3Args)
  /-- V_RCP (R363). -/
  | vRcp (v : V3Args)
  /-- V_RSQRT (R363). -/
  | vRsqrt (v : V3Args)
  /-- V_SQRT (R363). -/
  | vSqrt (v : V3Args)
  /-- V_TANH (R363). -/
  | vTanh (v : V3Args)
  /-- V_RSUM (R364). -/
  | vRsum (v : V3Args)
  /-- V_RMAX (R364). -/
  | vRmax (v : V3Args)
  /-- V_RMIN (R364). -/
  | vRmin (v : V3Args)
  /-- V_ARGMAX (R364). -/
  | vArgmax (v : V3Args)
  /-- V_SCAN (R365). -/
  | vScan (v : V3Args)
  /-- V_TOPK (R366). -/
  | vTopk (v : V3Args)
  /-- V_IOTA (R367). -/
  | vIota (v : V2Args)
  /-- V_FILL (R367). -/
  | vFill (v : V2Args)
  /-- V_RAND (R368). -/
  | vRand (v : V3Args)
  /-- V_GATHER (R369). -/
  | vGather (v : V3Args)
  /-- V_SCATTER (R369). -/
  | vScatter (v : V3Args)
  /-- V_MOV (R361). -/
  | vMov (v : V3Args)
  /-- V_SAMPLE (R372). -/
  | vSample (v : V3Args)
  /-- V_VERIFY (R374). -/
  | vVerify (v : V3Args)
  /-- V_KVROLL (R376). -/
  | vKvroll (v : V2Args)
  /-- GKV_APP (R376). -/
  | gkvApp (v : V2Args)
  /-- X_LD (R384). -/
  | xLd (x : XoArgs)
  /-- X_ST (R384). -/
  | xSt (x : XoArgs)
  /-- X_FEED (R385). -/
  | xFeed (x : XoArgs)
  /-- X_KVG (R386). -/
  | xKvg (x : XoArgs)
  /-- X_SCAT (R387). -/
  | xScat (x : XoArgs)
  /-- X_FILL (R384). -/
  | xFill (x : XoArgs)
  /-- X_MCPY (R388). -/
  | xMcpy (x : XoArgs)
  /-- X_PREF (R390). -/
  | xPref (pb : BitVec 14)
  /-- X_RSW (R391). -/
  | xRsw (x : XoArgs)
  /-- L_RUN (R397). -/
  | lRun (l : LcArgs)
  /-- L_CAV (R397). -/
  | lCav (l : LcArgs)
  /-- L_ARM (R399). -/
  | lArm (ca : BitVec 6) (thr : BitVec 32) (cb : BitVec 6) (inc : BitVec 8)
  /-- L_CTR_SET (R400). -/
  | lCtrSet (ctr : BitVec 6) (value : BitVec 32)
  /-- L_CTR_ADD (R400). -/
  | lCtrAdd (ctr : BitVec 6) (value : BitVec 32)
  /-- L_CTR_RD (R400). -/
  | lCtrRd (dreg : BitVec 6) (ctr : BitVec 6)
  /-- L_FENCE (R401). -/
  | lFence (dreg : BitVec 6) (fold : BitVec 8)
  /-- L_FENCE_ALL (R401). -/
  | lFenceAll (dreg : BitVec 6)
  /-- STEP_SEND (R27). -/
  | stepSend (t : StepArgs)
  /-- STEP_RECV (R27). -/
  | stepRecv (t : StepArgs)
  /-- STEP_RECV_REDUCE_SEND (R36). -/
  | stepRecvReduceSend (t : StepArgs)
  /-- STEP_COPY (R27). -/
  | stepCopy (t : StepArgs)
  /-- STEP_WAIT (R27). -/
  | stepWait (t : StepArgs)
  /-- STEP_LOOP (R29). -/
  | stepLoop (t : StepArgs)
  /-- RPUSH (R405). -/
  | rpush (rs1 : BitVec 5) (rs2 : BitVec 5)
  /-- RWAIT_TILES (R406). -/
  | rwaitTiles (rd : BitVec 5) (rs1 : BitVec 5) (rs2 : BitVec 5)
  /-- RWAIT_FREE (R406). -/
  | rwaitFree (rd : BitVec 5) (rs1 : BitVec 5) (rs2 : BitVec 5)
  /-- RWAIT_COUNTER (R406). -/
  | rwaitCounter (rd : BitVec 5) (rs1 : BitVec 5) (rs2 : BitVec 5)
  /-- RWAIT_POP (R406). -/
  | rwaitPop (rd : BitVec 5) (rs1 : BitVec 5) (rs2 : BitVec 5)
  /-- XISS (R407). -/
  | xiss (rs1 : BitVec 5) (rs2 : BitVec 5)
  /-- TKRD (R408). -/
  | tkrd (rd : BitVec 5) (rs1 : BitVec 5)
  /-- RV64IMC_INSTRUCTION (R239). -/
  | rv64imcInstruction (w : BitVec 32)
  /-- PM_CMD_RUN (R16). -/
  | pmCmdRun (w : Word)
  /-- PM_CMD_IDLE (R16). -/
  | pmCmdIdle (w : Word)
  /-- PM_CMD_HOLD (R16). -/
  | pmCmdHold (w : Word)
  /-- PM_CMD_OFF (R16). -/
  | pmCmdOff (w : Word)
  /-- POWER_TRANSITION_COMPLETE (R16). -/
  | powerTransitionComplete
  /-- TRIP_ENTRY (R15). -/
  | tripEntry (cause : BitVec 7)
  /-- SUPPLY_LOSS (R22). -/
  | supplyLoss
  /-- POWER_FAIL (R83). -/
  | powerFail (core : BitVec 8)
  /-- FINALISATION_WINDOW_END (R84). -/
  | finalisationWindowEnd (core : BitVec 8)
  /-- SY_HUP_DONE (R85). -/
  | syHupDone (g : Guard) (a : Spec)
  /-- QUIESCE_END (R93). -/
  | quiesceEnd
  /-- HOLD_UP_SAVE (R93). -/
  | holdUpSave
  /-- HOLD_UP_SEQUENCE_END (R96). -/
  | holdUpSequenceEnd
  /-- SUPPLY_RECOVERY (R96). -/
  | supplyRecovery
  /-- FUNDAMENTAL_RESET (R56). -/
  | fundamentalReset
  /-- HOT_RESET (R56). -/
  | hotReset
  /-- FUNCTION_LEVEL_RESET (R56). -/
  | functionLevelReset
  /-- CFG_CMD_GO (R57). -/
  | cfgCmdGo (w : Word)
  /-- CONFIGURATION_CHECK_COMPLETE (R57). -/
  | configurationCheckComplete (verdict : BitVec 4)
  /-- GANG_LINK_TRAINING_COMPLETE (R14). -/
  | gangLinkTrainingComplete (tick : Word) (gidx : BitVec 6) (gsize : BitVec 7)
  /-- HOST_APERTURE_READ (R54). -/
  | hostApertureRead (off : BitVec 36) (n : Nat)
  /-- HOST_APERTURE_WRITE (R54). -/
  | hostApertureWrite (off : BitVec 36) (bytes : List (BitVec 8))
  /-- DOORBELL (R63). -/
  | doorbell (w : Word)
  /-- CTX_CMD_CREATE (R58). -/
  | ctxCmdCreate (w : Word)
  /-- CTX_CMD_REMOVE (R61). -/
  | ctxCmdRemove (w : Word)
  /-- CTX_CMD_RELOAD_GRANTS (R61). -/
  | ctxCmdReloadGrants (w : Word)
  /-- CTX_CMD_COMPLETE (R60). -/
  | ctxCmdComplete
  /-- POOL_DECODER_ENABLE (R164). -/
  | poolDecoderEnable (n : BitVec 3) (w : Word)
  /-- POOL_DECODER_DISABLE (R164). -/
  | poolDecoderDisable (n : BitVec 3) (w : Word)
  /-- POOL_DECODER_DRAINED (R164). -/
  | poolDecoderDrained (n : BitVec 3)
  /-- THRESHOLD_ARM (R78). -/
  | thresholdArm (n : BitVec 6) (w : Word)
  /-- THRESHOLD_SAMPLE (R78). -/
  | thresholdSample (src0 : Bool)
  /-- MON_CFG_WRITE (R80). -/
  | monCfgWrite (n : BitVec 6) (w : Word)
  /-- MONITOR_SAMPLE (R80). -/
  | monitorSample (n : BitVec 6) (v : BitVec 32)
  /-- REGISTER_WRITE (R3). -/
  | registerWrite (sy : Bool) (addr : BitVec 16) (size : BitVec 4) (w : Word)
  /-- LAUNCH_READ (R111). -/
  | launchRead (ctx : BitVec 6)
  /-- LAUNCH_COMPLETE (R130). -/
  | launchComplete (l : Nat)
  /-- TERMINATING_TRAP (R69). -/
  | terminatingTrap (core : BitVec 8)
  /-- PLACEMENT (R120). -/
  | placement (core : BitVec 8)
  /-- STEAL_REQUEST (R122). -/
  | stealRequest (die : BitVec 2) (victim : BitVec 3)
  /-- PRE_EMPTION_VICTIM (R123). -/
  | preEmptionVictim (t : Nat)
  /-- PREEMPT (R124). -/
  | preempt (core : BitVec 8)
  /-- COLLECTIVE_START (R23). -/
  | collectiveStart (core : BitVec 8)
  /-- SIGNATURE_POST (R38). -/
  | signaturePost (k : Nat)
  /-- COLLECTIVE_BLOCK_ARRIVAL (R403). -/
  | collectiveBlockArrival (k : Nat)
  /-- STAGING_RESEND (R43). -/
  | stagingResend (k : Nat)
  /-- SCHEDULE_TICK_ISSUE (R35). -/
  | scheduleTickIssue (p : Nat)
  /-- TRIGGER_RELEASE (R31). -/
  | triggerRelease (step : Bool) (k : Nat)
  /-- COUNTER_CHAIN_FIRE (R399). -/
  | counterChainFire (die : BitVec 2) (k : Nat)
  /-- COLLECTIVE_COMPLETE (R396). -/
  | collectiveComplete (p : Nat)
  /-- COLLECTIVE_FAULT (R42). -/
  | collectiveFault (core : BitVec 8)
  /-- EPI_SEND_ARRIVAL (R34). -/
  | epiSendArrival (k : Nat)
  /-- RSW_ARRIVAL (R391). -/
  | rswArrival (k : Nat)
  /-- HELD_ARRIVAL_RELEASE (R34). -/
  | heldArrivalRelease (die : BitVec 2) (k : Nat)
  /-- CHECKPOINT_ENGINE_RUN (R101). -/
  | checkpointEngineRun (ctx : BitVec 6)
  /-- GRANULE_COPY_AHEAD (R102). -/
  | granuleCopyAhead (ctx : BitVec 6) (k : Nat)
  /-- CHECKPOINT_COMPLETE (R103). -/
  | checkpointComplete (ctx : BitVec 6)
  /-- RESTORE_COMPLETE (R104). -/
  | restoreComplete (ctx : BitVec 6)
  /-- TRANSLATION (R178). -/
  | translation (core : BitVec 8)
  /-- FAULT_DESCRIPTOR_WRITE (R180). -/
  | faultDescriptorWrite (die : BitVec 2) (id : BitVec 32)
  /-- PAGE_WALK (R175). -/
  | pageWalk (core : BitVec 8) (va : Word) (write : Bool)
  /-- REMOTE_REQUEST (R186). -/
  | remoteRequest (k : Nat)
  /-- REMOTE_RESPONSE (R185). -/
  | remoteResponse (k : Nat)
  /-- REMOTE_RESEND (R190). -/
  | remoteResend (k : Nat)
  /-- REPLAY_NOTICE (R191). -/
  | replayNotice (k : Nat)
  /-- TICKET_REPLAY (R188). -/
  | ticketReplay (core : BitVec 8) (k : Nat)
  /-- STF_HELD_PERFORM (R206). -/
  | stfHeldPerform (die : BitVec 2) (k : Nat)
  /-- XINV_COMPLETE (R176). -/
  | xinvComplete (die : BitVec 2)
  /-- COPY_TOKEN_WRITE (R381). -/
  | copyTokenWrite (core : BitVec 8) (k : Nat)
  /-- ENGINE_TRAP_DELIVERY (R337). -/
  | engineTrapDelivery (core : BitVec 8)
  /-- SIDE_CORE_EXCEPTION (R242). -/
  | sideCoreException (core : BitVec 8)
  /-- TRAP_ENTRY (R244). -/
  | trapEntry (core : BitVec 8)
  /-- GUARD_SHAPE (R148). -/
  | guardShape (core : BitVec 8)
  /-- GUARD_HEALTH (R148). -/
  | guardHealth (core : BitVec 8)
  /-- GUARD_BRANCH (R148). -/
  | guardBranch (core : BitVec 8)
  /-- SY_ELOG_READ (R238). -/
  | syElogRead (g : Guard) (d : Spec)
  /-- SY_CKPT_CHECKPOINT (R101). -/
  | syCkptCheckpoint (g : Guard) (a : Spec)
  /-- SY_CKPT_RESTORE (R104). -/
  | syCkptRestore (g : Guard) (a : Spec)
  /-- SY_KEEPER (R179). -/
  | syKeeper (g : Guard) (a : Spec)
  /-- SY_KNOTE_RESOLVE (R181). -/
  | syKnoteResolve (g : Guard) (a : Spec)
  /-- SY_KNOTE_REFUSE (R182). -/
  | syKnoteRefuse (g : Guard) (a : Spec)
  /-- SY_XINV_PAGE (R176). -/
  | syXinvPage (g : Guard) (a : Spec)
  /-- SY_XINV_CONTEXT (R176). -/
  | syXinvContext (g : Guard) (a : Spec)
  /-- SY_XINV_HEAP (R176). -/
  | syXinvHeap (g : Guard) (a : Spec)
  /-- SY_XINV_ALL (R176). -/
  | syXinvAll (g : Guard) (a : Spec)
  /-- SY_SWAREA (R249). -/
  | sySwarea (g : Guard) (a : Spec)
  /-- SY_SWLOAD (R250). -/
  | sySwload (g : Guard) (a : Spec)
  /-- SY_PEEL_LOAD_RUN (R241). -/
  | syPeelLoadRun (g : Guard) (a : Spec) (rack : Bool)
  /-- SY_PEEL_RUN (R241). -/
  | syPeelRun (g : Guard) (a : Spec) (rack : Bool)
  /-- SY_PEEL_STOP (R241). -/
  | syPeelStop (g : Guard) (a : Spec) (rack : Bool)
  /-- TRIP_CAUSE_CLEARED (R19). -/
  | tripCauseCleared
  /-- LOAD_DATA_ARRIVAL (R316). -/
  | loadDataArrival (core : BitVec 8) (k : Nat)
  /-- STORE_PERFORMED_AT_HOME (R203). -/
  | storePerformedAtHome (core : BitVec 8) (k : Nat)
  /-- COLLECTIVE_BLOCK_ACKNOWLEDGED (R43). -/
  | collectiveBlockAcknowledged (k : Nat)
  /-- GANG_TIME_BASE_TICK (R14). -/
  | gangTimeBaseTick
deriving DecidableEq, Repr, Inhabited

end Sys2Proof
end

