-- ==== Sys2Proof/WellFormed.lean ====
section
/-!
DEFINITION. Which terms of Instr are well formed: the conditions on an instruction's own fields whose failure is an
encoding trap RESERVED_FIELD (11 R283, R284, R295; 13 R336 step 1; 14 R379). An ill-formed term is the image of no
word that the decoder accepts.
-/

namespace Sys2Proof

/-- With EN = 0, NEG and PRED are zero (11 R283). -/
def Guard.ok (g : Guard) : Bool := g.en || (!g.neg && g.pred == 0)

/-- A specifier that names a source: anything but 63 (09 R219). -/
def Spec.src (x : Spec) : Bool := x != 63

/-- A specifier that names a destination register: 0 to 31 (09 R219). -/
def Spec.dst (x : Spec) : Bool := x.ult 32

/-- An ldq queue field: 48 to 51 (11 R284). -/
def Spec.queue (x : Spec) : Bool := (48 : Spec).ule x && x.ule 51

/-- The limits every multiply form shares (13 R336, R342). -/
def MmArgs.ok (m : MmArgs) : Bool := m.rows.ult 128 && m.cols.ult 128 && m.kc != 0

/-- The limits of the epilogue forms (13 R349). -/
def EpArgs.ok (m : EpArgs) : Bool :=
  m.rows.ult 128 && m.act.ult 6 && (m.sen || m.scale == 0) && (m.ben || m.bias == 0)

/-- N at least 1 and a destination stride other than 0 (13 R354, R355). -/
def V3Args.region (v : V3Args) : Bool := v.n != 0 && v.sd != 0

/-- B and SB zero (13 R357, R361, R363). -/
def V3Args.noB (v : V3Args) : Bool := v.b == 0 && v.sb == 0

/-- F zero (13 R359 and others). -/
def V3Args.noF (v : V3Args) : Bool := v.f == 0

/-- X zero (13 R354). -/
def V3Args.noX (v : V3Args) : Bool := !v.x

/-- The segment length L = B<15:0> divides N, 0 standing for N (13 R364). -/
def V3Args.segOk (v : V3Args) : Bool :=
  let l := (v.b.extractLsb' 0 16).toNat
  l == 0 || v.n.toNat % l == 0

/-- TCTR and TTHR are zero without TEN (14 R379). -/
def XoArgs.trig (x : XoArgs) : Bool := x.ten || (x.tctr == 0 && x.tthr == 0)

/-- The fields a loop step leaves zero (14 R402). -/
def StepArgs.loopOk (t : StepArgs) : Bool :=
  t.mul != 0 && t.offout == 0 && !t.sl && t.sb == 0 && !t.dl && t.db == 0 && !t.ord && !t.arrival && !t.conv &&
    t.w == 0 && !t.len

/-- Well-formed instructions: the encoding traps of 11 Table 11 on an instruction's fields. -/
def Instr.wellFormed : Instr → Bool
  | .pmCmdRun w => w.extractLsb' 0 3 == 0
  | .pmCmdIdle w => w.extractLsb' 0 3 == 1
  | .pmCmdHold w => w.extractLsb' 0 3 == 2
  | .pmCmdOff w => w.extractLsb' 0 3 == 3
  | .powerTransitionComplete => true
  | .tripEntry _ => true
  | .supplyLoss => true
  | .powerFail _ => true
  | .finalisationWindowEnd _ => true
  | .syHupDone g a => g.ok && Spec.src a
  | .quiesceEnd => true
  | .holdUpSave => true
  | .holdUpSequenceEnd => true
  | .supplyRecovery => true
  | .fundamentalReset => true
  | .hotReset => true
  | .functionLevelReset => true
  | .cfgCmdGo w => w.extractLsb' 63 1 == 1
  | .configurationCheckComplete _ => true
  | .gangLinkTrainingComplete _ _ _ => true
  | .hostApertureRead _ _ => true
  | .hostApertureWrite _ _ => true
  | .doorbell _ => true
  | .ctxCmdCreate w => w.extractLsb' 6 2 == 0
  | .ctxCmdRemove w => w.extractLsb' 6 2 == 1
  | .ctxCmdReloadGrants w => w.extractLsb' 6 2 == 2
  | .ctxCmdComplete => true
  | .poolDecoderEnable _ _ => true
  | .poolDecoderDisable _ _ => true
  | .poolDecoderDrained _ => true
  | .thresholdArm _ _ => true
  | .thresholdSample _ => true
  | .monCfgWrite _ _ => true
  | .monitorSample _ _ => true
  | .registerWrite _ _ _ _ => true
  | .launchRead _ => true
  | .launchComplete _ => true
  | .terminatingTrap _ => true
  | .placement _ => true
  | .stealRequest _ _ => true
  | .preEmptionVictim _ => true
  | .preempt _ => true
  | .collectiveStart _ => true
  | .signaturePost _ => true
  | .collectiveBlockArrival _ => true
  | .stagingResend _ => true
  | .scheduleTickIssue _ => true
  | .triggerRelease _ _ => true
  | .counterChainFire _ _ => true
  | .collectiveComplete _ => true
  | .collectiveFault _ => true
  | .epiSendArrival _ => true
  | .rswArrival _ => true
  | .heldArrivalRelease _ _ => true
  | .checkpointEngineRun _ => true
  | .granuleCopyAhead _ _ => true
  | .checkpointComplete _ => true
  | .restoreComplete _ => true
  | .translation _ => true
  | .faultDescriptorWrite _ _ => true
  | .pageWalk _ _ _ => true
  | .remoteRequest _ => true
  | .remoteResponse _ => true
  | .remoteResend _ => true
  | .replayNotice _ => true
  | .ticketReplay _ _ => true
  | .stfHeldPerform _ _ => true
  | .xinvComplete _ => true
  | .copyTokenWrite _ _ => true
  | .engineTrapDelivery _ => true
  | .sideCoreException _ => true
  | .trapEntry _ => true
  | .guardShape _ => true
  | .guardHealth _ => true
  | .guardBranch _ => true
  | .streamCmd _ _ => true
  | .streamSet _ _ => true
  | .streamWait _ _ => true
  | .streamFlip _ _ => true
  | .streamMark _ _ => true
  | .streamEnd _ _ => true
  | .streamRoute _ _ => true
  | .syElogRead g d => g.ok && Spec.dst d
  | .syCkptCheckpoint g a => g.ok && Spec.src a
  | .syCkptRestore g a => g.ok && Spec.src a
  | .syKeeper g a => g.ok && Spec.src a
  | .syKnoteResolve g a => g.ok && Spec.src a
  | .syKnoteRefuse g a => g.ok && Spec.src a
  | .syXinvPage g a => g.ok && Spec.src a
  | .syXinvContext g a => g.ok && Spec.src a
  | .syXinvHeap g a => g.ok && Spec.src a
  | .syXinvAll g a => g.ok && Spec.src a
  | .sySwarea g a => g.ok && Spec.src a
  | .sySwload g a => g.ok && Spec.src a
  | .syPeelLoadRun g a _ => g.ok && Spec.src a
  | .syPeelRun g a _ => g.ok && Spec.src a
  | .syPeelStop g a _ => g.ok && Spec.src a
  | .nop g => g.ok
  | .add g d a b => g.ok && Spec.dst d && Spec.src a && Spec.src b
  | .sub g d a b => g.ok && Spec.dst d && Spec.src a && Spec.src b
  | .mul g d a b => g.ok && Spec.dst d && Spec.src a && Spec.src b
  | .and g d a b => g.ok && Spec.dst d && Spec.src a && Spec.src b
  | .or g d a b => g.ok && Spec.dst d && Spec.src a && Spec.src b
  | .xor g d a b => g.ok && Spec.dst d && Spec.src a && Spec.src b
  | .shl g d a b => g.ok && Spec.dst d && Spec.src a && Spec.src b
  | .shrN g d a b => g.ok && Spec.dst d && Spec.src a && Spec.src b
  | .shrS g d a b => g.ok && Spec.dst d && Spec.src a && Spec.src b
  | .addImmediate g d a _ => g.ok && Spec.dst d && Spec.src a
  | .subImmediate g d a _ => g.ok && Spec.dst d && Spec.src a
  | .mulImmediate g d a _ => g.ok && Spec.dst d && Spec.src a
  | .andImmediate g d a _ => g.ok && Spec.dst d && Spec.src a
  | .orImmediate g d a _ => g.ok && Spec.dst d && Spec.src a
  | .xorImmediate g d a _ => g.ok && Spec.dst d && Spec.src a
  | .shlImmediate g d a _ => g.ok && Spec.dst d && Spec.src a
  | .shrNImmediate g d a _ => g.ok && Spec.dst d && Spec.src a
  | .shrSImmediate g d a _ => g.ok && Spec.dst d && Spec.src a
  | .mulhS g d a => g.ok && Spec.dst d && Spec.src a
  | .mulhN g d a => g.ok && Spec.dst d && Spec.src a
  | .divS g d a => g.ok && Spec.dst d && Spec.src a
  | .divN g d a => g.ok && Spec.dst d && Spec.src a
  | .remS g d a => g.ok && Spec.dst d && Spec.src a
  | .remN g d a => g.ok && Spec.dst d && Spec.src a
  | .minS g d a => g.ok && Spec.dst d && Spec.src a
  | .minN g d a => g.ok && Spec.dst d && Spec.src a
  | .maxS g d a => g.ok && Spec.dst d && Spec.src a
  | .maxN g d a => g.ok && Spec.dst d && Spec.src a
  | .andn g d a => g.ok && Spec.dst d && Spec.src a
  | .not g d a => g.ok && Spec.dst d && Spec.src a
  | .neg g d a => g.ok && Spec.dst d && Spec.src a
  | .padd g d a _ => g.ok && Spec.dst d && Spec.src a
  | .psub g d a _ => g.ok && Spec.dst d && Spec.src a
  | .padds g d a _ => g.ok && Spec.dst d && Spec.src a
  | .psubs g d a _ => g.ok && Spec.dst d && Spec.src a
  | .pmin g d a _ => g.ok && Spec.dst d && Spec.src a
  | .pmax g d a _ => g.ok && Spec.dst d && Spec.src a
  | .pshl g d a _ => g.ok && Spec.dst d && Spec.src a
  | .pshr g d a _ => g.ok && Spec.dst d && Spec.src a
  | .clz g d a => g.ok && Spec.dst d && Spec.src a
  | .ctz g d a => g.ok && Spec.dst d && Spec.src a
  | .popc g d a => g.ok && Spec.dst d && Spec.src a
  | .brev g d a => g.ok && Spec.dst d && Spec.src a
  | .bswap g d a => g.ok && Spec.dst d && Spec.src a
  | .extS g d a pos wm1 => g.ok && Spec.dst d && Spec.src a && decide (pos.toNat + wm1.toNat + 1 ≤ 64)
  | .extN g d a pos wm1 => g.ok && Spec.dst d && Spec.src a && decide (pos.toNat + wm1.toNat + 1 ≤ 64)
  | .ins g d a pos wm1 => g.ok && Spec.dst d && Spec.src a && decide (pos.toNat + wm1.toNat + 1 ≤ 64)
  | .mov g d a => g.ok && Spec.dst d && Spec.src a
  | .li g d _ => g.ok && Spec.dst d
  | .lih g d _ => g.ok && Spec.dst d
  | .cmpEq g _ a b => g.ok && Spec.src a && Spec.src b
  | .cmpNe g _ a b => g.ok && Spec.src a && Spec.src b
  | .cmpLtS g _ a b => g.ok && Spec.src a && Spec.src b
  | .cmpGeS g _ a b => g.ok && Spec.src a && Spec.src b
  | .cmpLtN g _ a b => g.ok && Spec.src a && Spec.src b
  | .cmpGeN g _ a b => g.ok && Spec.src a && Spec.src b
  | .cmpAny g _ a b => g.ok && Spec.src a && Spec.src b
  | .cmpNone g _ a b => g.ok && Spec.src a && Spec.src b
  | .cmpi g _ a _ _ => g.ok && Spec.src a
  | .pand g _ _ _ => g.ok
  | .por g _ _ _ => g.ok
  | .pxor g _ _ _ => g.ok
  | .pandn g _ _ _ => g.ok
  | .pset g _ => g.ok
  | .pclr g _ => g.ok
  | .pnot g _ _ => g.ok
  | .pmov g _ _ => g.ok
  | .rdp g d => g.ok && Spec.dst d
  | .wrp g a => g.ok && Spec.src a
  | .lea g d a b _ _ => g.ok && Spec.dst d && Spec.src a && Spec.src b
  | .br g _ => g.ok
  | .brLong g _ => g.ok
  | .call g _ => g.ok
  | .callLong g _ => g.ok
  | .jr g a => g.ok && Spec.src a
  | .callr g a => g.ok && Spec.src a
  | .ret g => g.ok
  | .rotw g _ => g.ok
  | .loop g cnt _ => g.ok && Spec.dst cnt
  | .loopLong g cnt _ => g.ok && Spec.dst cnt
  | .ldS g d a _ _ => g.ok && Spec.dst d && Spec.src a
  | .ldSDisp g d a _ _ _ => g.ok && Spec.dst d && Spec.src a
  | .ldN g d a _ _ => g.ok && Spec.dst d && Spec.src a
  | .ldNDisp g d a _ _ _ => g.ok && Spec.dst d && Spec.src a
  | .st g d a _ _ => g.ok && Spec.src d && Spec.src a
  | .stDisp g d a _ _ _ => g.ok && Spec.src d && Spec.src a
  | .ldSSpaceS g d a _ _ => g.ok && Spec.dst d && Spec.src a
  | .ldSSpaceSDisp g d a _ _ _ => g.ok && Spec.dst d && Spec.src a
  | .ldNSpaceS g d a _ _ => g.ok && Spec.dst d && Spec.src a
  | .ldNSpaceSDisp g d a _ _ _ => g.ok && Spec.dst d && Spec.src a
  | .stSpaceS g d a _ _ => g.ok && Spec.src d && Spec.src a
  | .stSpaceSDisp g d a _ _ _ => g.ok && Spec.src d && Spec.src a
  | .ldSec g d a _ => g.ok && Spec.src d && Spec.src a
  | .ldSecDisp g d a _ _ => g.ok && Spec.src d && Spec.src a
  | .stSec g d a _ => g.ok && Spec.src d && Spec.src a
  | .stSecDisp g d a _ _ => g.ok && Spec.src d && Spec.src a
  | .ldq g d a _ _ => g.ok && Spec.queue d && Spec.src a
  | .ldqDisp g d a _ _ _ => g.ok && Spec.queue d && Spec.src a
  | .stf g d a _ _ => g.ok && Spec.src d && Spec.src a
  | .stfDisp g d a _ _ _ => g.ok && Spec.src d && Spec.src a
  | .atomAdd g d a b _ _ _ => g.ok && Spec.dst d && Spec.src a && Spec.src b
  | .atomAnd g d a b _ _ _ => g.ok && Spec.dst d && Spec.src a && Spec.src b
  | .atomOr g d a b _ _ _ => g.ok && Spec.dst d && Spec.src a && Spec.src b
  | .atomXor g d a b _ _ _ => g.ok && Spec.dst d && Spec.src a && Spec.src b
  | .atomSwap g d a b _ _ _ => g.ok && Spec.dst d && Spec.src a && Spec.src b
  | .atomMinS g d a b _ _ _ => g.ok && Spec.dst d && Spec.src a && Spec.src b
  | .atomMaxS g d a b _ _ _ => g.ok && Spec.dst d && Spec.src a && Spec.src b
  | .atomCas g d a b _ _ _ => g.ok && Spec.dst d && Spec.src a && Spec.src b
  | .casSec g d a _ => g.ok && Spec.src d && Spec.src a
  | .casSecDisp g d a _ _ => g.ok && Spec.src d && Spec.src a
  | .fence g scope _ => g.ok && scope.ult 5
  | .iflush g scope => g.ok && scope.ult 5
  | .isync g => g.ok
  | .ownT g a _ => g.ok && Spec.src a
  | .ownE g a _ => g.ok && Spec.src a
  | .tkwait g => g.ok
  | .foldSet g a _ => g.ok && Spec.src a
  | .foldArr g d _ => g.ok && Spec.dst d
  | .foldWait g a _ => g.ok && Spec.src a
  | .foldAw g _ => g.ok
  | .spawn g a => g.ok && Spec.src a
  | .exit g => g.ok
  | .exitSucc g a => g.ok && Spec.src a
  | .commit g => g.ok
  | .wloan g => g.ok
  | .yield g => g.ok
  | .sysrd g d _ => g.ok && Spec.dst d
  | .syswr g _ a => g.ok && Spec.src a
  | .brk g => g.ok
  | .rti g => g.ok
  | .trap g a => g.ok && Spec.src a
  | .mMma m => m.ok && m.ls == 0
  | .mMmaz m => m.ok && m.ls == 0
  | .mMmv m => m.ok
  | .mMmvz m => m.ok
  | .mPerm m => m.rows.ult 128
  | .mAzero _ _ _ => true
  | .mAcopy _ _ _ => true
  | .mAload _ rows _ => rows.ult 128
  | .mAstore _ rows _ => rows.ult 128
  | .mEpi m => m.ok
  | .mEpiSend m => m.ok && m.d == 0
  | .mBind _ _ => true
  | .vAdd v => v.region
  | .vSub v => v.region
  | .vMul v => v.region
  | .vFma v => v.region
  | .vMin v => v.region
  | .vMax v => v.region
  | .vAbs v => v.region && v.noB
  | .vNeg v => v.region && v.noB
  | .vAnd v => v.region && v.noF && v.noX
  | .vOr v => v.region && v.noF && v.noX
  | .vXor v => v.region && v.noF && v.noX
  | .vShl v => v.region && v.noF && v.noX
  | .vShr v => v.region && v.noF && v.noX
  | .vCmp v => v.region && v.noX && v.f.ult 6
  | .vSel v => v.region && v.noF && v.noX
  | .vCvt v => v.region && v.noB && v.noX
  | .vQmx v => v.region && v.noB && v.noX && v.n.toNat % 32 == 0 && v.sa == 1 && v.sd == 1
  | .vDqmx v => v.region && v.noB && v.noX && v.n.toNat % 32 == 0 && v.sa == 1 && v.sd == 1
  | .vExp2 v => v.region && v.noB && v.noX
  | .vExp v => v.region && v.noB && v.noX
  | .vLog2 v => v.region && v.noB && v.noX
  | .vRcp v => v.region && v.noB && v.noX
  | .vRsqrt v => v.region && v.noB && v.noX
  | .vSqrt v => v.region && v.noB && v.noX
  | .vTanh v => v.region && v.noB && v.noX
  | .vRsum v => v.region && v.sb == 0 && v.b.extractLsb' 16 3 == 0 && v.segOk
  | .vRmax v => v.region && v.noX && v.sb == 0 && v.b.extractLsb' 16 3 == 0 && v.segOk
  | .vRmin v => v.region && v.noX && v.sb == 0 && v.b.extractLsb' 16 3 == 0 && v.segOk
  | .vArgmax v => v.region && v.noF && v.noX && v.sb == 0 && v.b.extractLsb' 16 3 == 0 && v.segOk
  | .vScan v => v.region && v.sb == 0 && v.b.extractLsb' 16 2 != 3 && v.segOk
  | .vTopk v => v.region && v.noF && v.noX && v.sb == 0 && v.b != 0 && v.b.ule 1024
  | .vIota v => v.n != 0 && v.sd != 0 && !v.x
  | .vFill v => v.n != 0 && v.sd != 0 && (!v.x || v.imm.ult 7)
  | .vRand v => v.region && v.noB && v.noX && v.sa == 0
  | .vGather v => v.region && v.noF && v.noX && v.sa == 1
  | .vScatter v => v.n != 0 && v.noF && v.noX && v.sd == 1
  | .vMov v => v.region && v.noB && v.noX
  | .vSample v => v.region && v.noX && v.sa == 1 && v.sb == 0
  | .vVerify v => v.n != 0 && v.noX && v.f != 0 && v.sa == 1 && v.sb == 1 && v.sd == 0
  | .vKvroll v => v.n != 0 && v.f == 0 && v.sd == 0 && !v.x && v.imm == 0
  | .gkvApp v => v.n != 0 && v.f == 0 && v.sd == 0 && !v.x && v.imm == 0
  | .xLd x => x.trig && x.ring == 0 && !x.rem
  | .xSt x => x.trig && x.ring == 0 && !x.rem
  | .xFeed x => x.trig && x.s == 0 && !x.rem
  | .xKvg x => x.trig && x.ring == 0 && !x.rem
  | .xScat x => x.trig && x.ring == 0 && !x.rem
  | .xFill x => x.trig && x.s == 0 && x.ring == 0 && !x.rem
  | .xMcpy x => x.trig && x.obj == 0 && x.s == 0 && x.ring == 0
  | .xPref _ => true
  | .xRsw x => x.trig && x.obj == 0 && x.ring == 0 && !x.rem && x.c == 0
  | .lRun l => l.src == 0 && l.dst == 0
  | .lCav _ => true
  | .lArm _ _ _ _ => true
  | .lCtrSet _ _ => true
  | .lCtrAdd _ _ => true
  | .lCtrRd dreg _ => dreg != 0 && Spec.dst dreg
  | .lFence dreg _ => Spec.dst dreg
  | .lFenceAll dreg => Spec.dst dreg
  | .stepSend t => t.w.ult 5
  | .stepRecv t => t.w.ult 5
  | .stepRecvReduceSend t => t.w.ult 5
  | .stepCopy t => t.w.ult 5
  | .stepWait t => t.w.ult 5
  | .stepLoop t => t.loopOk
  | .rpush _ _ => true
  | .rwaitTiles _ _ _ => true
  | .rwaitFree _ _ _ => true
  | .rwaitCounter _ _ _ => true
  | .rwaitPop _ _ _ => true
  | .xiss _ _ => true
  | .tkrd _ _ => true
  | .tripCauseCleared => true
  | .rv64imcInstruction _ => true
  | .loadDataArrival _ _ => true
  | .storePerformedAtHome _ _ => true
  | .collectiveBlockAcknowledged _ => true
  | .gangTimeBaseTick => true

end Sys2Proof
end

