-- ==== Sys2Proof/Decode.lean ====
section
/-!
DEFINITION. The decoders of the XA-9, total on any bits, and the encoder, both from the encoding tables of the spec: control
instructions (11 R281 to R289, Tables 3 to 5), engine commands (11 R290 to R292; 13 Tables 3 to 7; 14 Tables 1, 2, 7,
8), collective steps (14 Table 9), side-core instructions (11 R294, 14 R404), stream entries (06 R142). A pattern that is
no instruction is rejected by the name of its fate (11 R295, Table 11).
-/

namespace Sys2Proof

/-- The fate of a pattern that is no instruction (11 Table 11). -/
inductive DecodeFault where
  | illegalLine | illegalOpcode | reservedField
deriving DecidableEq, Repr

/-- What a decoder answers. -/
abbrev Decoded (α : Type) := Except DecodeFault α

/-- The guard field G, bits <25:18> (11 R283). -/
def guardOf (w : BitVec 32) : Guard :=
  ⟨w.getLsbD 25, w.getLsbD 24, w.extractLsb' 18 6⟩

/-- A decoded term is accepted when the bits its format leaves unused are zero and its fields are well formed;
otherwise RESERVED_FIELD (11 R284, R295). -/
def accept (unusedZero : Bool) (i : Instr) : Decoded Instr :=
  if unusedZero && i.wellFormed then .ok i else .error .reservedField

/-- Control instructions of one slice (11 Tables 3 to 5). The error illegalOpcode covers an opcode or function code
that is not assigned and one that is not permitted this length. -/
def decodeControl1 (w : BitVec 32) : Decoded Instr :=
  let op := (w.extractLsb' 26 6).toNat
  let g := guardOf w
  let d : Spec := w.extractLsb' 12 6
  let a : Spec := w.extractLsb' 6 6
  let b : Spec := w.extractLsb' 0 6
  let f := (w.extractLsb' 0 6).toNat
  let c : BitVec 4 := w.extractLsb' 2 4
  let q : BitVec 2 := w.extractLsb' 0 2
  let n8 : BitVec 8 := w.extractLsb' 0 8
  let regO : Spec := w.extractLsb' 12 6
  let sub := (w.extractLsb' 8 2).toNat
  let z := w.extractLsb' 10 2 == 0
  match op with
  | 0x01 => accept (w.extractLsb' 0 18 == 0) (.nop g)
  | 0x02 => accept true (.add g d a b)
  | 0x03 => accept true (.sub g d a b)
  | 0x04 => accept true (.mul g d a b)
  | 0x05 => accept true (.and g d a b)
  | 0x06 => accept true (.or g d a b)
  | 0x07 => accept true (.xor g d a b)
  | 0x08 => accept true (.shl g d a b)
  | 0x09 => accept true (.shrN g d a b)
  | 0x0A => accept true (.shrS g d a b)
  | 0x0B => match f with
    | 0 => accept true (.mulhS g d a)
    | 1 => accept true (.mulhN g d a)
    | 2 => accept true (.divS g d a)
    | 3 => accept true (.divN g d a)
    | 4 => accept true (.remS g d a)
    | 5 => accept true (.remN g d a)
    | 6 => accept true (.minS g d a)
    | 7 => accept true (.minN g d a)
    | 8 => accept true (.maxS g d a)
    | 9 => accept true (.maxN g d a)
    | 10 => accept true (.andn g d a)
    | 11 => accept true (.not g d a)
    | 12 => accept true (.neg g d a)
    | _ => .error .illegalOpcode
  | 0x0C => match (w.extractLsb' 0 4).toNat with
    | 0 => accept true (.padd g d a (w.extractLsb' 4 2))
    | 1 => accept true (.psub g d a (w.extractLsb' 4 2))
    | 2 => accept true (.padds g d a (w.extractLsb' 4 2))
    | 3 => accept true (.psubs g d a (w.extractLsb' 4 2))
    | 4 => accept true (.pmin g d a (w.extractLsb' 4 2))
    | 5 => accept true (.pmax g d a (w.extractLsb' 4 2))
    | 6 => accept true (.pshl g d a (w.extractLsb' 4 2))
    | 7 => accept true (.pshr g d a (w.extractLsb' 4 2))
    | _ => .error .illegalOpcode
  | 0x0D => match f with
    | 0 => accept true (.clz g d a)
    | 1 => accept true (.ctz g d a)
    | 2 => accept true (.popc g d a)
    | 3 => accept true (.brev g d a)
    | 4 => accept true (.bswap g d a)
    | _ => .error .illegalOpcode
  | 0x0F => match f with
    | 0 => accept true (.mov g d a)
    | _ => .error .illegalOpcode
  | 0x10 => accept true (.cmpEq g d a b)
  | 0x11 => accept true (.cmpNe g d a b)
  | 0x12 => accept true (.cmpLtS g d a b)
  | 0x13 => accept true (.cmpGeS g d a b)
  | 0x14 => accept true (.cmpLtN g d a b)
  | 0x15 => accept true (.cmpGeN g d a b)
  | 0x16 => accept true (.cmpAny g d a b)
  | 0x17 => accept true (.cmpNone g d a b)
  | 0x19 => accept true (.pand g d a b)
  | 0x1A => accept true (.por g d a b)
  | 0x1B => accept true (.pxor g d a b)
  | 0x1C => accept true (.pandn g d a b)
  | 0x1D => match f with
    | 0 => accept (a == 0) (.pset g d)
    | 1 => accept (a == 0) (.pclr g d)
    | 2 => accept true (.pnot g d a)
    | 3 => accept true (.pmov g d a)
    | 4 => accept (a == 0) (.rdp g d)
    | 5 => accept (d == 0) (.wrp g a)
    | _ => .error .illegalOpcode
  | 0x20 => accept true (.br g (w.extractLsb' 0 18))
  | 0x21 => accept true (.call g (w.extractLsb' 0 18))
  | 0x22 => match f with
    | 0 => accept (d == 0) (.jr g a)
    | 1 => accept (d == 0) (.callr g a)
    | 2 => accept (d == 0 && a == 0) (.ret g)
    | _ => .error .illegalOpcode
  | 0x23 => accept (d == 0 && a == 0 && w.extractLsb' 3 3 == 0) (.rotw g (w.extractLsb' 0 3))
  | 0x24 => accept true (.loop g d (w.extractLsb' 0 12))
  | 0x28 => accept true (.ldS g d a c q)
  | 0x29 => accept true (.ldN g d a c q)
  | 0x2A => accept true (.st g d a c q)
  | 0x2B => accept true (.ldSSpaceS g d a c q)
  | 0x2C => accept true (.ldNSpaceS g d a c q)
  | 0x2D => accept true (.stSpaceS g d a c q)
  | 0x2E => accept (q == 0) (.ldSec g d a c)
  | 0x2F => accept (q == 0) (.stSec g d a c)
  | 0x30 => accept true (.ldq g d a c q)
  | 0x31 => accept true (.stf g d a c q)
  | 0x33 => accept (q == 0) (.casSec g d a c)
  | 0x35 => accept (d == 0 && a == 0 && w.extractLsb' 3 3 == 0) (.iflush g (w.extractLsb' 0 3))
  | 0x36 => accept (w.extractLsb' 0 18 == 0) (.isync g)
  | 0x37 => match sub with
    | 0 => accept z (.ownT g regO n8)
    | 1 => accept z (.ownE g regO n8)
    | _ => .error .illegalOpcode
  | 0x38 => accept (w.extractLsb' 0 18 == 0) (.tkwait g)
  | 0x39 => match sub with
    | 0 => accept z (.foldSet g regO n8)
    | 1 => accept z (.foldArr g regO n8)
    | 2 => accept z (.foldWait g regO n8)
    | 3 => accept (z && regO == 0) (.foldAw g n8)
    | _ => .error .illegalOpcode
  | 0x3A => match f with
    | 0 => accept (d == 0) (.spawn g a)
    | 1 => accept (d == 0 && a == 0) (.exit g)
    | 2 => accept (d == 0) (.exitSucc g a)
    | 3 => accept (d == 0 && a == 0) (.commit g)
    | 4 => accept (d == 0 && a == 0) (.wloan g)
    | 5 => accept (d == 0 && a == 0) (.yield g)
    | _ => .error .illegalOpcode
  | 0x3B => accept true (.sysrd g d (w.extractLsb' 0 12))
  | 0x3C => accept true (.syswr g (w.extractLsb' 6 12) b)
  | 0x3D => match f with
    | 0 => accept (d == 0 && a == 0) (.brk g)
    | 1 => accept (d == 0 && a == 0) (.rti g)
    | 2 => accept (d == 0) (.trap g a)
    | _ => .error .illegalOpcode
  | _ => .error .illegalOpcode

/-- Control instructions of two slices (11 Tables 3 to 5). -/
def decodeControl2 (w x : BitVec 32) : Decoded Instr :=
  let op := (w.extractLsb' 26 6).toNat
  let g := guardOf w
  let d : Spec := w.extractLsb' 12 6
  let a : Spec := w.extractLsb' 6 6
  let b : Spec := w.extractLsb' 0 6
  let f := (w.extractLsb' 0 6).toNat
  let c : BitVec 4 := w.extractLsb' 2 4
  let q : BitVec 2 := w.extractLsb' 0 2
  let pos : BitVec 6 := x.extractLsb' 0 6
  let wm1 : BitVec 6 := x.extractLsb' 8 6
  let zx := x.extractLsb' 6 2 == 0 && x.extractLsb' 14 18 == 0
  let sz := x.getLsbD 8
  let lg := x.getLsbD 7
  let cx : BitVec 4 := x.extractLsb' 0 4
  let za := x.extractLsb' 9 23 == 0
  match op with
  | 0x0D => match f with
    | 5 => accept zx (.extS g d a pos wm1)
    | 6 => accept zx (.extN g d a pos wm1)
    | 7 => accept zx (.ins g d a pos wm1)
    | _ => .error .illegalOpcode
  | 0x0E => match f with
    | 0 => accept true (.addImmediate g d a x)
    | 1 => accept true (.subImmediate g d a x)
    | 2 => accept true (.mulImmediate g d a x)
    | 3 => accept true (.andImmediate g d a x)
    | 4 => accept true (.orImmediate g d a x)
    | 5 => accept true (.xorImmediate g d a x)
    | 6 => accept true (.shlImmediate g d a x)
    | 7 => accept true (.shrNImmediate g d a x)
    | 8 => accept true (.shrSImmediate g d a x)
    | _ => .error .illegalOpcode
  | 0x0F => match f with
    | 1 => accept (a == 0) (.li g d x)
    | 2 => accept (a == 0) (.lih g d x)
    | _ => .error .illegalOpcode
  | 0x18 => accept (w.extractLsb' 3 3 == 0) (.cmpi g d a (w.extractLsb' 0 3) x)
  | 0x1E => accept true (.lea g d a b (x.extractLsb' 0 4) (x.extractLsb' 4 28))
  | 0x20 => accept (w.extractLsb' 0 18 == 0) (.brLong g x)
  | 0x21 => accept (w.extractLsb' 0 18 == 0) (.callLong g x)
  | 0x24 => accept (w.extractLsb' 0 12 == 0) (.loopLong g d x)
  | 0x28 => accept true (.ldSDisp g d a c q x)
  | 0x29 => accept true (.ldNDisp g d a c q x)
  | 0x2A => accept true (.stDisp g d a c q x)
  | 0x2B => accept true (.ldSSpaceSDisp g d a c q x)
  | 0x2C => accept true (.ldNSpaceSDisp g d a c q x)
  | 0x2D => accept true (.stSpaceSDisp g d a c q x)
  | 0x2E => accept (q == 0) (.ldSecDisp g d a c x)
  | 0x2F => accept (q == 0) (.stSecDisp g d a c x)
  | 0x30 => accept true (.ldqDisp g d a c q x)
  | 0x31 => accept true (.stfDisp g d a c q x)
  | 0x32 => match (x.extractLsb' 4 3).toNat with
    | 0 => accept za (.atomAdd g d a b sz lg cx)
    | 1 => accept za (.atomAnd g d a b sz lg cx)
    | 2 => accept za (.atomOr g d a b sz lg cx)
    | 3 => accept za (.atomXor g d a b sz lg cx)
    | 4 => accept za (.atomSwap g d a b sz lg cx)
    | 5 => accept za (.atomMinS g d a b sz lg cx)
    | 6 => accept za (.atomMaxS g d a b sz lg cx)
    | 7 => accept za (.atomCas g d a b sz lg cx)
    | _ => .error .illegalOpcode
  | 0x33 => accept (q == 0) (.casSecDisp g d a c x)
  | 0x34 => accept (d == 0 && a == 0 && w.extractLsb' 3 3 == 0 && x.extractLsb' 16 16 == 0) (.fence g (w.extractLsb' 0 3) (x.extractLsb' 0 16))
  | _ => .error .illegalOpcode

/-- A control instruction of one or two slices (11 R281, R282). -/
def decodeControl : List (BitVec 32) → Decoded Instr
  | [w] => decodeControl1 w
  | [w, x] => decodeControl2 w x
  | _ => .error .illegalOpcode

/-- The fields of format V3 (13 Table 7). -/
def v3Of (c : BitVec 96) : V3Args :=
  ⟨c.extractLsb' 77 19, c.extractLsb' 58 19, c.extractLsb' 39 19, c.extractLsb' 36 3, c.extractLsb' 33 3,
    c.extractLsb' 20 6, c.extractLsb' 4 16, c.extractLsb' 1 3, c.getLsbD 0⟩

/-- The fields of format V2 (13 Table 7). -/
def v2Of (c : BitVec 96) : V2Args :=
  ⟨c.extractLsb' 45 19, c.extractLsb' 32 13, c.extractLsb' 20 6, c.extractLsb' 4 16, c.extractLsb' 1 3, c.getLsbD 0⟩

/-- The fields of format MM (13 Table 3). -/
def mmOf (c : BitVec 96) : MmArgs :=
  ⟨c.extractLsb' 88 8, c.extractLsb' 64 16, c.extractLsb' 40 8, c.extractLsb' 32 8, c.extractLsb' 20 6,
    c.extractLsb' 17 3, c.extractLsb' 14 3⟩

/-- The fields of format EP (13 Table 5). -/
def epOf (c : BitVec 96) : EpArgs :=
  ⟨c.extractLsb' 77 19, c.extractLsb' 58 19, c.extractLsb' 39 19, c.extractLsb' 20 6, c.extractLsb' 14 6, c.getLsbD 13,
    c.extractLsb' 10 3, c.getLsbD 9, c.getLsbD 8, c.extractLsb' 0 8⟩

/-- The fields of format XO (14 Table 1). -/
def xoOf (c : BitVec 96) : XoArgs :=
  ⟨c.extractLsb' 80 16, c.extractLsb' 61 19, c.extractLsb' 47 14, c.extractLsb' 41 6, c.getLsbD 40, c.extractLsb' 37 3,
    c.getLsbD 36, c.extractLsb' 20 6, c.extractLsb' 16 4, c.extractLsb' 0 16⟩

/-- The fields of format LC (14 Table 7). -/
def lcOf (c : BitVec 96) : LcArgs :=
  ⟨c.extractLsb' 88 8, c.extractLsb' 82 6, c.extractLsb' 76 6, c.extractLsb' 62 14, c.extractLsb' 43 19,
    c.extractLsb' 7 19⟩

/-- A matrix command (11 Table 7; 13 Tables 3 to 5, R347, R348, R353). n is its length in slices. -/
def decodeMatrix (c : BitVec 96) (n : Nat) : Decoded Instr :=
  let acc : BitVec 6 := c.extractLsb' 20 6
  let zmm := c.extractLsb' 80 8 == 0 && c.extractLsb' 48 16 == 0 && c.extractLsb' 0 14 == 0
  match (c.extractLsb' 26 6).toNat, n with
  | 0x01, 3 => accept zmm (.mMma (mmOf c))
  | 0x02, 3 => accept zmm (.mMmaz (mmOf c))
  | 0x03, 3 => accept zmm (.mMmv (mmOf c))
  | 0x04, 3 => accept zmm (.mMmvz (mmOf c))
  | 0x05, 3 =>
    accept (c.extractLsb' 32 10 == 0 && c.extractLsb' 0 26 == 0)
      (.mPerm ⟨c.extractLsb' 77 19, c.extractLsb' 58 19, c.extractLsb' 50 8, c.extractLsb' 42 8⟩)
  | 0x06, 2 => accept (c.extractLsb' 0 14 == 0) (.mAzero acc (c.extractLsb' 14 6) (c.extractLsb' 32 32))
  | 0x07, 2 =>
    accept (c.extractLsb' 32 32 == 0 && c.extractLsb' 0 8 == 0) (.mAcopy acc (c.extractLsb' 14 6) (c.extractLsb' 8 6))
  | 0x08, 2 =>
    accept (c.extractLsb' 32 5 == 0 && c.extractLsb' 0 20 == 0) (.mAload (c.extractLsb' 45 19) (c.extractLsb' 37 8) acc)
  | 0x09, 2 =>
    accept (c.extractLsb' 32 5 == 0 && c.extractLsb' 0 20 == 0) (.mAstore (c.extractLsb' 45 19) (c.extractLsb' 37 8) acc)
  | 0x0A, 3 => accept (c.extractLsb' 32 7 == 0) (.mEpi (epOf c))
  | 0x0B, 3 => accept (c.extractLsb' 32 7 == 0) (.mEpiSend (epOf c))
  | 0x0C, 2 =>
    accept (c.extractLsb' 32 13 == 0 && c.extractLsb' 0 23 == 0) (.mBind (c.extractLsb' 45 19) (c.extractLsb' 23 3))
  | _, _ => .error .illegalOpcode

/-- A vector command (11 Table 8; 13 Table 7). -/
def decodeVector (c : BitVec 96) (n : Nat) : Decoded Instr :=
  let v := v3Of c
  let z := !c.getLsbD 32
  match (c.extractLsb' 26 6).toNat, n with
  | 0x01, 3 => accept z (.vAdd v)
  | 0x02, 3 => accept z (.vSub v)
  | 0x03, 3 => accept z (.vMul v)
  | 0x04, 3 => accept z (.vFma v)
  | 0x05, 3 => accept z (.vMin v)
  | 0x06, 3 => accept z (.vMax v)
  | 0x07, 3 => accept z (.vAbs v)
  | 0x08, 3 => accept z (.vNeg v)
  | 0x09, 3 => accept z (.vAnd v)
  | 0x0A, 3 => accept z (.vOr v)
  | 0x0B, 3 => accept z (.vXor v)
  | 0x0C, 3 => accept z (.vShl v)
  | 0x0D, 3 => accept z (.vShr v)
  | 0x0E, 3 => accept z (.vCmp v)
  | 0x0F, 3 => accept z (.vSel v)
  | 0x10, 3 => accept z (.vCvt v)
  | 0x11, 3 => accept z (.vQmx v)
  | 0x12, 3 => accept z (.vDqmx v)
  | 0x13, 3 => accept z (.vExp2 v)
  | 0x14, 3 => accept z (.vExp v)
  | 0x15, 3 => accept z (.vLog2 v)
  | 0x16, 3 => accept z (.vRcp v)
  | 0x17, 3 => accept z (.vRsqrt v)
  | 0x18, 3 => accept z (.vSqrt v)
  | 0x19, 3 => accept z (.vTanh v)
  | 0x1A, 3 => accept z (.vRsum v)
  | 0x1B, 3 => accept z (.vRmax v)
  | 0x1C, 3 => accept z (.vRmin v)
  | 0x1D, 3 => accept z (.vArgmax v)
  | 0x1E, 3 => accept z (.vScan v)
  | 0x1F, 3 => accept z (.vTopk v)
  | 0x20, 2 => accept true (.vIota (v2Of c))
  | 0x21, 2 => accept true (.vFill (v2Of c))
  | 0x22, 3 => accept z (.vRand v)
  | 0x23, 3 => accept z (.vGather v)
  | 0x24, 3 => accept z (.vScatter v)
  | 0x25, 3 => accept z (.vMov v)
  | 0x26, 3 => accept z (.vSample v)
  | 0x27, 3 => accept z (.vVerify v)
  | 0x28, 2 => accept true (.vKvroll (v2Of c))
  | 0x29, 2 => accept true (.gkvApp (v2Of c))
  | _, _ => .error .illegalOpcode

/-- A copy command (11 Table 9; 14 Tables 1, 2). -/
def decodeCopy (c : BitVec 96) (n : Nat) : Decoded Instr :=
  let x := xoOf c
  let z := c.extractLsb' 32 4 == 0
  match (c.extractLsb' 26 6).toNat, n with
  | 0x01, 3 => accept z (.xLd x)
  | 0x02, 3 => accept z (.xSt x)
  | 0x03, 3 => accept z (.xFeed x)
  | 0x04, 3 => accept z (.xKvg x)
  | 0x05, 3 => accept z (.xScat x)
  | 0x06, 3 => accept z (.xFill x)
  | 0x07, 3 => accept z (.xMcpy x)
  | 0x08, 2 => accept (c.extractLsb' 32 18 == 0 && c.extractLsb' 0 26 == 0) (.xPref (c.extractLsb' 50 14))
  | 0x09, 3 => accept z (.xRsw x)
  | _, _ => .error .illegalOpcode

/-- A collective-queue command (11 Table 9; 14 Tables 7, 8). SUB = 3 of l.ctr is an illegal opcode (14 R400). -/
def decodeCollective (c : BitVec 96) (n : Nat) : Decoded Instr :=
  let f20 : BitVec 6 := c.extractLsb' 20 6
  let dreg : BitVec 6 := c.extractLsb' 12 6
  let val : BitVec 32 := c.extractLsb' 32 32
  let zlc := c.extractLsb' 32 11 == 0 && c.extractLsb' 0 7 == 0
  let z12 := c.extractLsb' 0 12 == 0
  match (c.extractLsb' 26 6).toNat, n with
  | 0x01, 3 => accept zlc (.lRun (lcOf c))
  | 0x02, 3 => accept zlc (.lCav (lcOf c))
  | 0x03, 2 => accept (c.extractLsb' 0 6 == 0) (.lArm f20 val (c.extractLsb' 14 6) (c.extractLsb' 6 8))
  | 0x04, 2 => match (c.extractLsb' 18 2).toNat with
    | 0 => accept (z12 && dreg == 0) (.lCtrSet f20 val)
    | 1 => accept (z12 && dreg == 0) (.lCtrAdd f20 val)
    | 2 => accept (z12 && val == 0) (.lCtrRd dreg f20)
    | _ => .error .illegalOpcode
  | 0x05, 2 =>
    if c.getLsbD 11 then
      accept (c.extractLsb' 0 11 == 0 && c.extractLsb' 12 8 == 0 && val == 0) (.lFenceAll f20)
    else accept (c.extractLsb' 0 11 == 0 && val == 0) (.lFence f20 (c.extractLsb' 12 8))
  | _, _ => .error .illegalOpcode

/-- The engine queues by queue code (11 Table 2): 1 matrix, 2 vector, 3 copy, 4 collective. -/
def decodeEngine (queue : Nat) (c : BitVec 96) (n : Nat) : Decoded Instr :=
  match queue with
  | 1 => decodeMatrix c n
  | 2 => decodeVector c n
  | 3 => decodeCopy c n
  | 4 => decodeCollective c n
  | _ => .error .illegalLine

/-- The 96-bit command of its slices (11 R282); a command of two slices has <95:64> zero. -/
def commandBits (ws : List (BitVec 32)) : BitVec 96 :=
  ws.getD 2 0 ++ ws.getD 1 0 ++ ws.getD 0 0

/-- The length in slices that a queued command's opcode has (11 Tables 7 to 9), for a command given as 96 bits. -/
def commandSlices (queue : Nat) (c : BitVec 96) : Nat :=
  let op := (c.extractLsb' 26 6).toNat
  match queue with
  | 1 => if op == 6 || op == 7 || op == 8 || op == 9 || op == 12 then 2 else 3
  | 2 => if op == 0x20 || op == 0x21 || op == 0x28 || op == 0x29 then 2 else 3
  | 3 => if op == 8 then 2 else 3
  | _ => if op == 3 || op == 4 || op == 5 then 2 else 3

/-- A command given as CMD<95:0> for a queue, 0 matrix to 3 collective: a two-slice command has <95:64> zero (06 R142). -/
def decodeCommand (queue : Nat) (c : BitVec 96) : Decoded Instr :=
  let n := commandSlices (queue + 1) c
  if n == 2 && c.extractLsb' 64 32 != 0 then .error .reservedField else decodeEngine (queue + 1) c n

/-- A collective step (14 Table 9); a reserved KIND or W, or a loop field that must be zero, is rejected (14 R402). -/
def decodeStep (w : BitVec 128) : Decoded Instr :=
  let t : StepArgs :=
    ⟨w.getLsbD 123, w.getLsbD 122, w.getLsbD 121, w.extractLsb' 118 3, w.getLsbD 117, w.extractLsb' 115 2,
      w.extractLsb' 103 12, w.extractLsb' 91 12, w.extractLsb' 79 12, w.getLsbD 78, w.extractLsb' 76 2, w.getLsbD 75,
      w.extractLsb' 73 2, w.getLsbD 72, w.extractLsb' 66 6, w.extractLsb' 48 18, w.getLsbD 47, w.getLsbD 46,
      w.extractLsb' 40 6, w.extractLsb' 32 8, w.extractLsb' 0 32⟩
  match (w.extractLsb' 124 4).toNat with
  | 0 => accept true (.stepSend t)
  | 1 => accept true (.stepRecv t)
  | 2 => accept true (.stepRecvReduceSend t)
  | 3 => accept true (.stepCopy t)
  | 4 => accept true (.stepWait t)
  | 5 => accept true (.stepLoop t)
  | _ => .error .reservedField

/-- A stream entry (06 Table 6): KIND <127:124>, OPND <123:96>, CMD <95:0>; KIND 7 to 15 reserved. -/
def decodeStreamEntry (w : BitVec 128) : Option Instr :=
  let o : BitVec 28 := w.extractLsb' 96 28
  let c : BitVec 96 := w.extractLsb' 0 96
  match (w.extractLsb' 124 4).toNat with
  | 0 => some (.streamCmd o c)
  | 1 => some (.streamSet o c)
  | 2 => some (.streamWait o c)
  | 3 => some (.streamFlip o c)
  | 4 => some (.streamMark o c)
  | 5 => some (.streamEnd o c)
  | 6 => some (.streamRoute o c)
  | _ => none

/-- A side-core instruction in custom-0 (11 Table 10, 14 R404); every other encoding is a standard instruction. -/
def decodeCustom (w : BitVec 32) : Decoded Instr :=
  let f7 := (w.extractLsb' 25 7).toNat
  let rs2 : BitVec 5 := w.extractLsb' 20 5
  let rs1 : BitVec 5 := w.extractLsb' 15 5
  let rd : BitVec 5 := w.extractLsb' 7 5
  if w.extractLsb' 0 7 != 0x0B then .error .illegalOpcode else
  match (w.extractLsb' 12 3).toNat with
  | 0 => if f7 == 0 && rd == 0 then .ok (.rpush rs1 rs2) else .error .illegalOpcode
  | 1 => match f7 with
    | 0 => .ok (.rwaitTiles rd rs1 rs2)
    | 1 => .ok (.rwaitFree rd rs1 rs2)
    | 2 => .ok (.rwaitCounter rd rs1 rs2)
    | 3 => .ok (.rwaitPop rd rs1 rs2)
    | _ => .error .illegalOpcode
  | 2 => if f7 == 0 && rd == 0 then .ok (.xiss rs1 rs2) else .error .illegalOpcode
  | 3 => if f7 == 0 && rs2 == 0 then .ok (.tkrd rd rs1) else .error .illegalOpcode
  | _ => .error .illegalOpcode

/-- What a side core executes for a fetched 32-bit word: a custom-0 instruction, or a standard one (09 R239), whose
own legality its meaning checks. -/
def decodeSide (w : BitVec 32) : Decoded Instr :=
  if w.extractLsb' 0 7 == 0x0B then decodeCustom w else .ok (.rv64imcInstruction w)

/-! ### Lines (11 R276 to R279) -/

/-- Slice k of a line (11 R276). -/
def sliceOf (line : BitVec 256) (k : Nat) : BitVec 32 := line.extractLsb' (32 * k) 32

/-- The queue nibble of slice k, 1 to 7, in the header (11 Table 1). -/
def queueNibble (line : BitVec 256) (k : Nat) : Nat := (line.extractLsb' (4 * k) 4).toNat

/-- The header is legal (11 R278). -/
def headerOk (line : BitVec 256) : Bool :=
  line.extractLsb' 1 3 == 0 && queueNibble line 1 != 0xE &&
    (List.range 7).all (fun j =>
      let k := j + 1
      let c := queueNibble line k
      (c ≤ 4 || c == 0xE || c == 0xF) && !(c == 0xE && k > 1 && queueNibble line (k - 1) == 0xF))

/-- TGT (11 R280). -/
def lineTgt (line : BitVec 256) : Bool := line.getLsbD 0

/-- How many continuation slices (code 0xE) follow slice k, looking at no more than `fuel` slices. -/
def contCount (line : BitVec 256) (k : Nat) : Nat → Nat
  | 0 => 0
  | fuel + 1 => if k + 1 ≤ 7 && queueNibble line (k + 1) == 0xE then 1 + contCount line (k + 1) fuel else 0

/-- The slices of the instruction that begins in slice k (11 R281). -/
def slicesAt (line : BitVec 256) (k : Nat) : List (BitVec 32) :=
  (List.range (contCount line k 7 + 1)).map (fun j => sliceOf line (k + j))

/-- The instruction that begins in slice k of a line, and its length in slices. -/
def decodeSlice (line : BitVec 256) (k : Nat) : Decoded (Instr × Nat) :=
  let ws := slicesAt line k
  let r := match queueNibble line k with
    | 0 => decodeControl ws
    | n => if ws.length > 3 then .error .illegalOpcode else decodeEngine n (commandBits ws) ws.length
  match r with
  | .ok i => .ok (i, ws.length)
  | .error e => .error e

/-! ### The encoder -/

/-- The guard bits. -/
def Guard.bits (g : Guard) : BitVec 8 := BitVec.ofBool g.en ++ BitVec.ofBool g.neg ++ g.pred

/-- One bit. -/
abbrev bit (b : Bool) : BitVec 1 := BitVec.ofBool b

/-- Formats A, F and I, first slice (11 Table 3): OP, G, D, A, and B or F. -/
def encA (op : BitVec 6) (g : Guard) (d a b : BitVec 6) : BitVec 32 := op ++ g.bits ++ d ++ a ++ b

/-- Format M, first slice. -/
def encM (op : BitVec 6) (g : Guard) (d a : BitVec 6) (c : BitVec 4) (q : BitVec 2) : BitVec 32 :=
  op ++ g.bits ++ d ++ a ++ c ++ q

/-- Format X (11 Table 3). -/
def encX (g : Guard) (d a b : BitVec 6) (sz lg : Bool) (aop : BitVec 3) (c : BitVec 4) : List (BitVec 32) :=
  [encA 0x32 g d a b, (0 : BitVec 23) ++ bit sz ++ bit lg ++ aop ++ c]

/-- Format O (11 Table 3). -/
def encO (op : BitVec 6) (g : Guard) (a : BitVec 6) (sub : BitVec 2) (n : BitVec 8) : BitVec 32 :=
  op ++ g.bits ++ a ++ (0 : BitVec 2) ++ sub ++ n

/-- The two-slice bit-field forms. -/
def encField (g : Guard) (d a f pos wm1 : BitVec 6) : List (BitVec 32) :=
  [encA 0x0D g d a f, (0 : BitVec 18) ++ wm1 ++ (0 : BitVec 2) ++ pos]

/-- The slices of a command of n slices. -/
def slices (c : BitVec 96) (n : Nat) : List (BitVec 32) :=
  (List.range n).map (fun k => c.extractLsb' (32 * k) 32)

def encV3 (op : BitVec 6) (v : V3Args) : List (BitVec 32) :=
  slices (v.b ++ v.a ++ v.d ++ v.sb ++ v.sa ++ (0 : BitVec 1) ++ op ++ v.f ++ v.n ++ v.sd ++ bit v.x) 3

def encV2 (op : BitVec 6) (v : V2Args) : List (BitVec 32) :=
  slices ((0 : BitVec 32) ++ v.d ++ v.imm ++ op ++ v.f ++ v.n ++ v.sd ++ bit v.x) 2

def encMM (op : BitVec 6) (m : MmArgs) : List (BitVec 32) :=
  slices (m.ls ++ (0 : BitVec 8) ++ m.kc ++ (0 : BitVec 16) ++ m.rows ++ m.cols ++ op ++ m.acc ++ m.ra ++ m.rb ++
    (0 : BitVec 14)) 3

def encEP (op : BitVec 6) (m : EpArgs) : List (BitVec 32) :=
  slices (m.bias ++ m.scale ++ m.d ++ (0 : BitVec 7) ++ op ++ m.acc ++ m.f ++ bit m.mx ++ m.act ++ bit m.ben ++
    bit m.sen ++ m.rows) 3

def encXO (op : BitVec 6) (x : XoArgs) : List (BitVec 32) :=
  slices (x.obj ++ x.s ++ x.pb ++ x.tctr ++ bit x.ten ++ x.ring ++ bit x.rem ++ (0 : BitVec 4) ++ op ++ x.tok ++ x.c ++
    x.tthr) 3

def encLC (op : BitVec 6) (l : LcArgs) : List (BitVec 32) :=
  slices (l.fold ++ l.drank ++ l.dcount ++ l.ds ++ l.dst ++ (0 : BitVec 11) ++ op ++ l.src ++ (0 : BitVec 7)) 3

/-- Two-slice engine commands: <63:32> and the fields below OP. -/
def enc2 (hi : BitVec 32) (op : BitVec 6) (lo : BitVec 26) : List (BitVec 32) :=
  slices ((0 : BitVec 32) ++ hi ++ op ++ lo) 2

/-- A step as four words, the word at +0 first (14 Table 9). -/
def encStep (kind : BitVec 4) (t : StepArgs) : List (BitVec 32) :=
  let w : BitVec 128 := kind ++ bit t.ord ++ bit t.arrival ++ bit t.conv ++ t.w ++ bit t.len ++ t.lsel ++ t.mul ++
    t.offin ++ t.offout ++ bit t.sl ++ t.sb ++ bit t.dl ++ t.db ++ bit t.ten ++ t.tctr ++ t.tthr ++ bit t.nosend ++
    bit t.nodst ++ t.ictr ++ t.inc ++ t.t
  (List.range 4).map (fun k => w.extractLsb' (32 * k) 32)

/-- A stream entry as four words (06 R142). -/
def encStream (kind : BitVec 4) (o : BitVec 28) (c : BitVec 96) : List (BitVec 32) :=
  let w : BitVec 128 := kind ++ o ++ c
  (List.range 4).map (fun k => w.extractLsb' (32 * k) 32)

/-- A side-core custom instruction (14 R404). -/
def encCustom (f7 : BitVec 7) (rs2 rs1 : BitVec 5) (f3 : BitVec 3) (rd : BitVec 5) : List (BitVec 32) :=
  [f7 ++ rs2 ++ rs1 ++ f3 ++ rd ++ (0x0B : BitVec 7)]

/-- The words of an instruction, first word first; none for a step that has no encoding. -/
def encode : Instr → List (BitVec 32)
  | .pmCmdRun _ => []
  | .pmCmdIdle _ => []
  | .pmCmdHold _ => []
  | .pmCmdOff _ => []
  | .powerTransitionComplete => []
  | .tripEntry _ => []
  | .supplyLoss => []
  | .powerFail _ => []
  | .finalisationWindowEnd _ => []
  | .syHupDone g a => [(0x3C : BitVec 6) ++ g.bits ++ (9 : BitVec 12) ++ a]
  | .quiesceEnd => []
  | .holdUpSave => []
  | .holdUpSequenceEnd => []
  | .supplyRecovery => []
  | .fundamentalReset => []
  | .hotReset => []
  | .functionLevelReset => []
  | .cfgCmdGo _ => []
  | .configurationCheckComplete _ => []
  | .gangLinkTrainingComplete _ _ _ => []
  | .hostApertureRead _ _ => []
  | .hostApertureWrite _ _ => []
  | .doorbell _ => []
  | .ctxCmdCreate _ => []
  | .ctxCmdRemove _ => []
  | .ctxCmdReloadGrants _ => []
  | .ctxCmdComplete => []
  | .poolDecoderEnable _ _ => []
  | .poolDecoderDisable _ _ => []
  | .poolDecoderDrained _ => []
  | .thresholdArm _ _ => []
  | .thresholdSample _ => []
  | .monCfgWrite _ _ => []
  | .monitorSample _ _ => []
  | .registerWrite _ _ _ _ => []
  | .launchRead _ => []
  | .launchComplete _ => []
  | .terminatingTrap _ => []
  | .placement _ => []
  | .stealRequest _ _ => []
  | .preEmptionVictim _ => []
  | .preempt _ => []
  | .collectiveStart _ => []
  | .signaturePost _ => []
  | .collectiveBlockArrival _ => []
  | .stagingResend _ => []
  | .scheduleTickIssue _ => []
  | .triggerRelease _ _ => []
  | .counterChainFire _ _ => []
  | .collectiveComplete _ => []
  | .collectiveFault _ => []
  | .epiSendArrival _ => []
  | .rswArrival _ => []
  | .heldArrivalRelease _ _ => []
  | .checkpointEngineRun _ => []
  | .granuleCopyAhead _ _ => []
  | .checkpointComplete _ => []
  | .restoreComplete _ => []
  | .translation _ => []
  | .faultDescriptorWrite _ _ => []
  | .pageWalk _ _ _ => []
  | .remoteRequest _ => []
  | .remoteResponse _ => []
  | .remoteResend _ => []
  | .replayNotice _ => []
  | .ticketReplay _ _ => []
  | .stfHeldPerform _ _ => []
  | .xinvComplete _ => []
  | .copyTokenWrite _ _ => []
  | .engineTrapDelivery _ => []
  | .sideCoreException _ => []
  | .trapEntry _ => []
  | .guardShape _ => []
  | .guardHealth _ => []
  | .guardBranch _ => []
  | .streamCmd opnd cmd => encStream 0 opnd cmd
  | .streamSet opnd cmd => encStream 1 opnd cmd
  | .streamWait opnd cmd => encStream 2 opnd cmd
  | .streamFlip opnd cmd => encStream 3 opnd cmd
  | .streamMark opnd cmd => encStream 4 opnd cmd
  | .streamEnd opnd cmd => encStream 5 opnd cmd
  | .streamRoute opnd cmd => encStream 6 opnd cmd
  | .syElogRead g d => [(0x3B : BitVec 6) ++ g.bits ++ d ++ (6 : BitVec 12)]
  | .syCkptCheckpoint g a => [(0x3C : BitVec 6) ++ g.bits ++ (10 : BitVec 12) ++ a]
  | .syCkptRestore g a => [(0x3C : BitVec 6) ++ g.bits ++ (10 : BitVec 12) ++ a]
  | .syKeeper g a => [(0x3C : BitVec 6) ++ g.bits ++ (32 : BitVec 12) ++ a]
  | .syKnoteResolve g a => [(0x3C : BitVec 6) ++ g.bits ++ (33 : BitVec 12) ++ a]
  | .syKnoteRefuse g a => [(0x3C : BitVec 6) ++ g.bits ++ (33 : BitVec 12) ++ a]
  | .syXinvPage g a => [(0x3C : BitVec 6) ++ g.bits ++ (34 : BitVec 12) ++ a]
  | .syXinvContext g a => [(0x3C : BitVec 6) ++ g.bits ++ (34 : BitVec 12) ++ a]
  | .syXinvHeap g a => [(0x3C : BitVec 6) ++ g.bits ++ (34 : BitVec 12) ++ a]
  | .syXinvAll g a => [(0x3C : BitVec 6) ++ g.bits ++ (34 : BitVec 12) ++ a]
  | .sySwarea g a => [(0x3C : BitVec 6) ++ g.bits ++ (35 : BitVec 12) ++ a]
  | .sySwload g a => [(0x3C : BitVec 6) ++ g.bits ++ (36 : BitVec 12) ++ a]
  | .syPeelLoadRun g a rack => [(0x3C : BitVec 6) ++ g.bits ++ (if rack then 8 else 7 : BitVec 12) ++ a]
  | .syPeelRun g a rack => [(0x3C : BitVec 6) ++ g.bits ++ (if rack then 8 else 7 : BitVec 12) ++ a]
  | .syPeelStop g a rack => [(0x3C : BitVec 6) ++ g.bits ++ (if rack then 8 else 7 : BitVec 12) ++ a]
  | .nop g => [encA 1 g 0 0 0]
  | .add g d a b => [encA 2 g d a b]
  | .sub g d a b => [encA 3 g d a b]
  | .mul g d a b => [encA 4 g d a b]
  | .and g d a b => [encA 5 g d a b]
  | .or g d a b => [encA 6 g d a b]
  | .xor g d a b => [encA 7 g d a b]
  | .shl g d a b => [encA 8 g d a b]
  | .shrN g d a b => [encA 9 g d a b]
  | .shrS g d a b => [encA 10 g d a b]
  | .addImmediate g d a imm => [encA 0x0E g d a 0, imm]
  | .subImmediate g d a imm => [encA 0x0E g d a 1, imm]
  | .mulImmediate g d a imm => [encA 0x0E g d a 2, imm]
  | .andImmediate g d a imm => [encA 0x0E g d a 3, imm]
  | .orImmediate g d a imm => [encA 0x0E g d a 4, imm]
  | .xorImmediate g d a imm => [encA 0x0E g d a 5, imm]
  | .shlImmediate g d a imm => [encA 0x0E g d a 6, imm]
  | .shrNImmediate g d a imm => [encA 0x0E g d a 7, imm]
  | .shrSImmediate g d a imm => [encA 0x0E g d a 8, imm]
  | .mulhS g d a => [encA 0x0B g d a 0]
  | .mulhN g d a => [encA 0x0B g d a 1]
  | .divS g d a => [encA 0x0B g d a 2]
  | .divN g d a => [encA 0x0B g d a 3]
  | .remS g d a => [encA 0x0B g d a 4]
  | .remN g d a => [encA 0x0B g d a 5]
  | .minS g d a => [encA 0x0B g d a 6]
  | .minN g d a => [encA 0x0B g d a 7]
  | .maxS g d a => [encA 0x0B g d a 8]
  | .maxN g d a => [encA 0x0B g d a 9]
  | .andn g d a => [encA 0x0B g d a 10]
  | .not g d a => [encA 0x0B g d a 11]
  | .neg g d a => [encA 0x0B g d a 12]
  | .padd g d a lane => [encA 0x0C g d a (lane ++ (0 : BitVec 4))]
  | .psub g d a lane => [encA 0x0C g d a (lane ++ (1 : BitVec 4))]
  | .padds g d a lane => [encA 0x0C g d a (lane ++ (2 : BitVec 4))]
  | .psubs g d a lane => [encA 0x0C g d a (lane ++ (3 : BitVec 4))]
  | .pmin g d a lane => [encA 0x0C g d a (lane ++ (4 : BitVec 4))]
  | .pmax g d a lane => [encA 0x0C g d a (lane ++ (5 : BitVec 4))]
  | .pshl g d a lane => [encA 0x0C g d a (lane ++ (6 : BitVec 4))]
  | .pshr g d a lane => [encA 0x0C g d a (lane ++ (7 : BitVec 4))]
  | .clz g d a => [encA 0x0D g d a 0]
  | .ctz g d a => [encA 0x0D g d a 1]
  | .popc g d a => [encA 0x0D g d a 2]
  | .brev g d a => [encA 0x0D g d a 3]
  | .bswap g d a => [encA 0x0D g d a 4]
  | .extS g d a pos wm1 => encField g d a 5 pos wm1
  | .extN g d a pos wm1 => encField g d a 6 pos wm1
  | .ins g d a pos wm1 => encField g d a 7 pos wm1
  | .mov g d a => [encA 0x0F g d a 0]
  | .li g d imm => [encA 0x0F g d 0 1, imm]
  | .lih g d imm => [encA 0x0F g d 0 2, imm]
  | .cmpEq g d a b => [encA 16 g d a b]
  | .cmpNe g d a b => [encA 17 g d a b]
  | .cmpLtS g d a b => [encA 18 g d a b]
  | .cmpGeS g d a b => [encA 19 g d a b]
  | .cmpLtN g d a b => [encA 20 g d a b]
  | .cmpGeN g d a b => [encA 21 g d a b]
  | .cmpAny g d a b => [encA 22 g d a b]
  | .cmpNone g d a b => [encA 23 g d a b]
  | .cmpi g d a cond imm => [encA 0x18 g d a ((0 : BitVec 3) ++ cond), imm]
  | .pand g d a b => [encA 25 g d a b]
  | .por g d a b => [encA 26 g d a b]
  | .pxor g d a b => [encA 27 g d a b]
  | .pandn g d a b => [encA 28 g d a b]
  | .pset g d => [encA 0x1D g d 0 0]
  | .pclr g d => [encA 0x1D g d 0 1]
  | .pnot g d a => [encA 0x1D g d a 2]
  | .pmov g d a => [encA 0x1D g d a 3]
  | .rdp g d => [encA 0x1D g d 0 4]
  | .wrp g a => [encA 0x1D g 0 a 5]
  | .lea g d a b sh disp => [encA 0x1E g d a b, disp ++ sh]
  | .br g off => [(32 : BitVec 6) ++ g.bits ++ off]
  | .brLong g off => [encA 32 g 0 0 0, off]
  | .call g off => [(33 : BitVec 6) ++ g.bits ++ off]
  | .callLong g off => [encA 33 g 0 0 0, off]
  | .jr g a => [encA 0x22 g 0 a 0]
  | .callr g a => [encA 0x22 g 0 a 1]
  | .ret g => [encA 0x22 g 0 0 2]
  | .rotw g rb => [encA 0x23 g 0 0 ((0 : BitVec 3) ++ rb)]
  | .loop g cnt off => [(0x24 : BitVec 6) ++ g.bits ++ cnt ++ off]
  | .loopLong g cnt off => [encA 0x24 g cnt 0 0, off]
  | .ldS g d a c q => [encM 0x28 g d a c q]
  | .ldSDisp g d a c q disp => [encM 0x28 g d a c q, disp]
  | .ldN g d a c q => [encM 0x29 g d a c q]
  | .ldNDisp g d a c q disp => [encM 0x29 g d a c q, disp]
  | .st g d a c q => [encM 0x2A g d a c q]
  | .stDisp g d a c q disp => [encM 0x2A g d a c q, disp]
  | .ldSSpaceS g d a c q => [encM 0x2B g d a c q]
  | .ldSSpaceSDisp g d a c q disp => [encM 0x2B g d a c q, disp]
  | .ldNSpaceS g d a c q => [encM 0x2C g d a c q]
  | .ldNSpaceSDisp g d a c q disp => [encM 0x2C g d a c q, disp]
  | .stSpaceS g d a c q => [encM 0x2D g d a c q]
  | .stSpaceSDisp g d a c q disp => [encM 0x2D g d a c q, disp]
  | .ldSec g d a c => [encM 0x2E g d a c 0]
  | .ldSecDisp g d a c disp => [encM 0x2E g d a c 0, disp]
  | .stSec g d a c => [encM 0x2F g d a c 0]
  | .stSecDisp g d a c disp => [encM 0x2F g d a c 0, disp]
  | .ldq g d a c q => [encM 0x30 g d a c q]
  | .ldqDisp g d a c q disp => [encM 0x30 g d a c q, disp]
  | .stf g d a c q => [encM 0x31 g d a c q]
  | .stfDisp g d a c q disp => [encM 0x31 g d a c q, disp]
  | .atomAdd g d a b sz log c => encX g d a b sz log 0 c
  | .atomAnd g d a b sz log c => encX g d a b sz log 1 c
  | .atomOr g d a b sz log c => encX g d a b sz log 2 c
  | .atomXor g d a b sz log c => encX g d a b sz log 3 c
  | .atomSwap g d a b sz log c => encX g d a b sz log 4 c
  | .atomMinS g d a b sz log c => encX g d a b sz log 5 c
  | .atomMaxS g d a b sz log c => encX g d a b sz log 6 c
  | .atomCas g d a b sz log c => encX g d a b sz log 7 c
  | .casSec g d a c => [encM 0x33 g d a c 0]
  | .casSecDisp g d a c disp => [encM 0x33 g d a c 0, disp]
  | .fence g scope mask => [encA 0x34 g 0 0 ((0 : BitVec 3) ++ scope), (0 : BitVec 16) ++ mask]
  | .iflush g scope => [encA 0x35 g 0 0 ((0 : BitVec 3) ++ scope)]
  | .isync g => [encA 0x36 g 0 0 0]
  | .ownT g a n => [encO 0x37 g a 0 n]
  | .ownE g a n => [encO 0x37 g a 1 n]
  | .tkwait g => [encA 0x38 g 0 0 0]
  | .foldSet g a n => [encO 0x39 g a 0 n]
  | .foldArr g d n => [encO 0x39 g d 1 n]
  | .foldWait g a n => [encO 0x39 g a 2 n]
  | .foldAw g n => [encO 0x39 g 0 3 n]
  | .spawn g a => [encA 0x3A g 0 a 0]
  | .exit g => [encA 0x3A g 0 0 1]
  | .exitSucc g a => [encA 0x3A g 0 a 2]
  | .commit g => [encA 0x3A g 0 0 3]
  | .wloan g => [encA 0x3A g 0 0 4]
  | .yield g => [encA 0x3A g 0 0 5]
  | .sysrd g d n => [(0x3B : BitVec 6) ++ g.bits ++ d ++ n]
  | .syswr g n a => [(0x3C : BitVec 6) ++ g.bits ++ n ++ a]
  | .brk g => [encA 0x3D g 0 0 0]
  | .rti g => [encA 0x3D g 0 0 1]
  | .trap g a => [encA 0x3D g 0 a 2]
  | .mMma m => encMM 1 m
  | .mMmaz m => encMM 2 m
  | .mMmv m => encMM 3 m
  | .mMmvz m => encMM 4 m
  | .mPerm m => slices (m.d ++ m.a ++ m.qs ++ m.rows ++ (0 : BitVec 10) ++ (5 : BitVec 6) ++ (0 : BitVec 26)) 3
  | .mAzero acc cnt value => enc2 value 6 (acc ++ cnt ++ (0 : BitVec 14))
  | .mAcopy acc cnt src => enc2 0 7 (acc ++ cnt ++ src ++ (0 : BitVec 8))
  | .mAload off rows acc => enc2 (off ++ rows ++ (0 : BitVec 5)) 8 (acc ++ (0 : BitVec 20))
  | .mAstore off rows acc => enc2 (off ++ rows ++ (0 : BitVec 5)) 9 (acc ++ (0 : BitVec 20))
  | .mEpi m => encEP 0x0A m
  | .mEpiSend m => encEP 0x0B m
  | .mBind off ring => enc2 (off ++ (0 : BitVec 13)) 0x0C (ring ++ (0 : BitVec 23))
  | .vAdd v => encV3 1 v
  | .vSub v => encV3 2 v
  | .vMul v => encV3 3 v
  | .vFma v => encV3 4 v
  | .vMin v => encV3 5 v
  | .vMax v => encV3 6 v
  | .vAbs v => encV3 7 v
  | .vNeg v => encV3 8 v
  | .vAnd v => encV3 9 v
  | .vOr v => encV3 10 v
  | .vXor v => encV3 11 v
  | .vShl v => encV3 12 v
  | .vShr v => encV3 13 v
  | .vCmp v => encV3 14 v
  | .vSel v => encV3 15 v
  | .vCvt v => encV3 16 v
  | .vQmx v => encV3 17 v
  | .vDqmx v => encV3 18 v
  | .vExp2 v => encV3 19 v
  | .vExp v => encV3 20 v
  | .vLog2 v => encV3 21 v
  | .vRcp v => encV3 22 v
  | .vRsqrt v => encV3 23 v
  | .vSqrt v => encV3 24 v
  | .vTanh v => encV3 25 v
  | .vRsum v => encV3 26 v
  | .vRmax v => encV3 27 v
  | .vRmin v => encV3 28 v
  | .vArgmax v => encV3 29 v
  | .vScan v => encV3 30 v
  | .vTopk v => encV3 31 v
  | .vIota v => encV2 0x20 v
  | .vFill v => encV2 0x21 v
  | .vRand v => encV3 34 v
  | .vGather v => encV3 35 v
  | .vScatter v => encV3 36 v
  | .vMov v => encV3 37 v
  | .vSample v => encV3 38 v
  | .vVerify v => encV3 39 v
  | .vKvroll v => encV2 0x28 v
  | .gkvApp v => encV2 0x29 v
  | .xLd x => encXO 1 x
  | .xSt x => encXO 2 x
  | .xFeed x => encXO 3 x
  | .xKvg x => encXO 4 x
  | .xScat x => encXO 5 x
  | .xFill x => encXO 6 x
  | .xMcpy x => encXO 7 x
  | .xPref pb => enc2 (pb ++ (0 : BitVec 18)) 8 0
  | .xRsw x => encXO 9 x
  | .lRun l => encLC 1 l
  | .lCav l => encLC 2 l
  | .lArm ca thr cb inc => enc2 thr 3 (ca ++ cb ++ inc ++ (0 : BitVec 6))
  | .lCtrSet ctr value => enc2 value 4 (ctr ++ (0 : BitVec 20))
  | .lCtrAdd ctr value => enc2 value 4 (ctr ++ (1 : BitVec 2) ++ (0 : BitVec 18))
  | .lCtrRd dreg ctr => enc2 0 4 (ctr ++ (2 : BitVec 2) ++ dreg ++ (0 : BitVec 12))
  | .lFence dreg fold => enc2 0 5 (dreg ++ fold ++ (0 : BitVec 12))
  | .lFenceAll dreg => enc2 0 5 (dreg ++ (0 : BitVec 8) ++ (1 : BitVec 1) ++ (0 : BitVec 11))
  | .stepSend t => encStep 0 t
  | .stepRecv t => encStep 1 t
  | .stepRecvReduceSend t => encStep 2 t
  | .stepCopy t => encStep 3 t
  | .stepWait t => encStep 4 t
  | .stepLoop t => encStep 5 t
  | .rpush rs1 rs2 => encCustom 0 rs2 rs1 0 0
  | .rwaitTiles rd rs1 rs2 => encCustom 0 rs2 rs1 1 rd
  | .rwaitFree rd rs1 rs2 => encCustom 1 rs2 rs1 1 rd
  | .rwaitCounter rd rs1 rs2 => encCustom 2 rs2 rs1 1 rd
  | .rwaitPop rd rs1 rs2 => encCustom 3 rs2 rs1 1 rd
  | .xiss rs1 rs2 => encCustom 0 rs2 rs1 2 0
  | .tkrd rd rs1 => encCustom 0 0 rs1 3 rd
  | .tripCauseCleared => []
  | .rv64imcInstruction w => [w]
  | .loadDataArrival _ _ => []
  | .storePerformedAtHome _ _ => []
  | .collectiveBlockAcknowledged _ => []
  | .gangTimeBaseTick => []

/-! ### The opcode table's words -/

/-- The line whose slice 1 holds w, whose other slices are empty, and whose TGT is 1 (11 R276 to R280). -/
def lineOfWord (w : BitVec 32) : BitVec 256 := (0 : BitVec 192) ++ w ++ (0xFFFFFF01 : BitVec 32)

/-- The instruction the decoder reads from a table word: a control instruction in slice 1 of a line, or a custom-0
instruction of a side core. No word is both, since control opcodes 0 and 1 accept no word whose low bits are custom-0. -/
def decodeTableWord (nbits w : Nat) : Option Instr :=
  if nbits > 32 then none else
  let x := BitVec.ofNat 32 w
  match decodeSlice (lineOfWord x) 1 with
  | .ok (i, _) => some i
  | .error _ =>
    match decodeCustom x with
    | .ok i => some i
    | .error _ => none

end Sys2Proof
end

