-- ==== Sys2Proof/Config.lean ====
section
/-!
DEFINITION. The free values: what the manual leaves open and the device fills in with a value of its own. None
has a body, so no proof can rest on one. Each is named in a row of notes/assumptions.
-/

namespace Sys2Proof.Config

/-- A value the manual leaves open, fresh for each number it is applied to (log 5). -/
opaque freeValue : Nat → Word

/-- A choice between two outcomes the manual both allows: an old or a new translation (07 R176), an old or a new
code line (08 R216), an old or a written staging byte (02 R39, 16 R415), an aliased copy byte (14 R388) (log 5). -/
opaque freeBool : Nat → Bool

/-- A choice among several agents, or a count the manual leaves open, as an index that the user reduces to the range at hand (01 R12:
how many packets of a port's queues have left) (log 1, log 5). -/
opaque freeIndex : Nat → Nat

/-- Which step of the device or the host comes next where none is named, as a row of the opcode table with its
arguments (log 1, log 5). -/
opaque freeEvent : Nat → Instr

/-- Bytes that a loss of state changes, by address (03 R56: a second-tier byte holds its value or any other) (log 5). -/
opaque freeCells : Nat → List (Nat × BitVec 8)

/-- DEV_ID, which the manual says is the vendor part number and stepping and gives no value for (03 R53) (log 5). -/
opaque deviceId : Word

end Sys2Proof.Config
end

