-- ==== Sys2Proof/Machine/State.lean ====
section
/-!
DEFINITION. The state of the XA-9 as plain data, its stops, and the state after reset. Every field is listed in
INVENTORY.md under '## State' with the rule that names it and its reset value. Tables with many keys are sparse
lists (Sparse); what an unlisted key reads as is said at the field.
-/

namespace Sys2Proof.Machine

/-- Trap codes (00 R5, Table 1). -/
inductive Trap where
  | illegalLine | illegalOpcode | reservedField | privilege | objectBounds | objectRights | alignment
  | translation | protection | formatMismatch | ownerViolation | race | collectiveMismatch | ticketOverflow
  | foldMembership | preempt | break_ | divide | powerFail | dataError | weightExhausted | spawnLimit | restoreStep
deriving DecidableEq, Repr

/-- Why the machine stops with a fault. -/
inductive Fault where
  /-- Raised by `step` and the steps outside reset while the device is in OFF (01 R15, Table 3: no execution).
  Safe: nothing happens in OFF but a reset. -/
  | off
deriving DecidableEq, Repr

/-- Why a step is refused. -/
inductive Refusal where
  /-- An instruction that has no meaning yet. Safe. -/
  | notModelled (mnemonic : String)
  /-- Raised by a step of the device that the agenda names in a state where the spec gives it no cause (a
  completion with nothing in progress, the arrival of a packet that is not there). Safe: such a step never
  happens on the device, so no run of the device is lost (log 1). -/
  | notEnabled (why : String)
deriving DecidableEq, Repr

/-- An uncorrectable ECC error (02 R45; 09 R238; 14 R394): where it strikes, or in whose control state. -/
inductive Flaw where
  /-- in a byte of a core's S, a word of its C (keyed as Core.cWords), or a byte of memory: the next engine that reads the
  element finds it -/
  | s (core n : Nat)
  | c (core key : Nat)
  | mem (n : Nat)
  /-- in the control state of an engine of a core, for its k-th command -/
  | control (core e k : Nat)
  /-- in the engine's state of a collective program -/
  | program (p : Nat)
  /-- in element `i` of the k-th block in a program's staging, or of a sweep value it holds -/
  | staged (p k i : Nat)
  | sweep (p key i : Nat)
deriving DecidableEq, Repr

/-- Which agent moves in a step. The manual fixes no interleaving of its agents; State.agenda says which moves next,
and with an empty agenda the next is free (log 1). -/
inductive Actor where
  /-- the control core of a core -/
  | control (core : Nat)
  /-- an engine of a core (0 matrix, 1 vector, 2 copy, 3 collective queue) runs a micro-step of its k-th command -/
  | engine (core e k : Nat)
  /-- the peel (false) or rack (true) core of a core -/
  | side (core : Nat) (rack : Bool)
  /-- a collective program, numbered 32 x die + slot -/
  | program (p : Nat)
  /-- one of the six replay streams of the task on a core -/
  | stream (core k : Nat)
  /-- a step of the device or the host, given as its row of the opcode table -/
  | event (i : Instr)
  /-- an uncorrectable ECC error strikes (log 74) -/
  | flaw (f : Flaw)
  /-- the host writes MSI-X Enable and the function mask in configuration space (03 R55) -/
  | msixControl (enable mask : Bool)
  /-- no agent moves -/
  | idle
deriving DecidableEq, Repr

/-! ### Registers and what is in progress for one task -/

/-- The recorder's mark on a value (06 R144, R145). -/
inductive Mark where
  | clean
  /-- written by one load of `size` bytes at `addr`, an S offset when `inS` -/
  | load (size : Nat) (signed inS : Bool) (addr : Word)
  | derived
deriving DecidableEq, Repr

/-- The recorder's mark on a predicate (06 R145). -/
inductive PMark where
  | clean
  /-- set by one compare of a loaded value with a value that is not data-derived -/
  | guard (cond : BitVec 3) (size : Nat) (signed inS : Bool) (addr : Word) (other : Word) (second : Bool)
  | derived
deriving DecidableEq, Repr

/-- An age-queue entry (09 R220): its value, the access it still waits for (0: none), its recorder's mark. -/
structure HEntry where
  v : Word
  wait : Nat
  mark : Mark
deriving DecidableEq, Repr

/-- An operand-queue entry (09 R222): reserved by an ldq, filled when its load returns. -/
structure QEntry where
  v : Word
  wait : Nat
  va : Word
  size : Nat
  cls : BitVec 4
deriving DecidableEq, Repr

/-- The registers of the restart state (05 R115, 12 R332). -/
structure Regs where
  /-- control-core PC, a slice address (11 R276) -/
  pc : Word
  /-- physical g0 to g31, unlisted 0 (09 R219, R221) -/
  g : Sparse Word
  /-- physical g registers that wait for a load or a token: the access or token number, unlisted 0 (09 R236) -/
  gWait : Sparse Nat
  /-- recorder's marks of physical g, unlisted clean -/
  gMark : Sparse Mark
  /-- h1 to h16, newest first; a missing entry reads 0 (09 R220) -/
  h : List HEntry
  /-- operand queues q0 to q3, head first, unlisted empty (09 R222) -/
  q : Sparse (List QEntry)
  /-- predicates, bit n = pn (09 R223) -/
  p : BitVec 64
  /-- recorder's marks of predicates, unlisted clean -/
  pMark : Sparse PMark
  /-- rotation base (09 R221) -/
  rb : BitVec 3
  /-- SY_RM (10 R262) -/
  rm : Word
  /-- SY_ROUTE (02 R33) -/
  route : Word
  /-- SY_EVEC (09 R244) -/
  evec : Word
  /-- SY_ESTAT.DEPTH, CAUSE0, CAUSE1 and the trap stack (09 R244, Table 8) -/
  depth : BitVec 2
  cause0 : BitVec 8
  cause1 : BitVec 8
  epc0 : Word
  epc1 : Word
deriving DecidableEq, Repr

/-- Where an access is served (07 R162, Table 1). -/
inductive Target where
  | die (d : Nat) | host | pool | holdUp
deriving DecidableEq, Repr

/-- What an access does when it performs. -/
inductive AccKind where
  | load | store | stf | atomic | casSec
  /-- a sector that a copy reads or writes on a page that another die walks (07 R183, R193); the digits of T5 elements
  are written one by one -/
  | copyRead
  | copyWrite (ternary : Bool)
  /-- a core-scope fence that has completed while stores to die-local memory still wait: accesses after it of the
  classes in its mask follow the earlier ones of those classes (08 R203, R204) -/
  | barrier (mask : BitVec 16)
deriving DecidableEq, Repr

/-- A sector piece of an access that has been issued or released and has not performed (07 R195, 08 R203). -/
structure Access where
  id : Nat
  kind : AccKind
  cls : BitVec 4
  ctx : Nat
  va : Nat
  pa : Nat
  len : Nat
  /-- place of the piece in the whole access, and the bytes of the whole -/
  off : Nat
  size : Nat
  /-- bytes to store; for a compare-and-swap of a sector, the 32 expected bytes then the 32 new bytes -/
  data : List Byte
  /-- bytes the store buffer held at issue (08 R201), by place in the piece; of a copy's write the bytes, or T5 digits,
  that it writes -/
  fwd : List (Option Byte)
  target : Target
  /-- die-local under 08 R198 -/
  dieLocal : Bool
  /-- remote for translation (07 R177): it performs by request and response -/
  remote : Bool
  /-- notification vector plus one, 0 for none (03 R75) -/
  notify : Nat
  /-- atomic operation AOP, SZ as bytes in `len`, operands B and D (12 R322) -/
  aop : BitVec 3
  opB : Word
  opD : Word
  /-- logged atomic (06 R158) -/
  log : Bool
deriving DecidableEq, Repr

/-- Where a load's value goes. -/
inductive Dest where
  /-- the registers that wait for the load: a g register, the age queue, an operand queue -/
  | regs
  /-- S bytes at a partition-relative offset (12 R319, R323) -/
  | sBytes (off : Nat)
  /-- nothing: a discarded result (07 R192) -/
  | none
deriving DecidableEq, Repr

/-- A load, ldq, ld.sec or atomic whose value has not been written (12 R316). -/
structure Load where
  id : Nat
  size : Nat
  signed : Bool
  dest : Dest
  /-- destination operand specifier, 0 for none (07 R185, 12 R316) -/
  spec : Nat
  got : List (Option Byte)
deriving DecidableEq, Repr

/-- A store-buffer entry: the bytes of one store in one sector (12 R318). -/
structure BufEntry where
  va : Nat
  bytes : List Byte
  cls : BitVec 4
  /-- stf (12 R321) -/
  ordered : Bool
  /-- place of the sector's bytes in the whole store, and the bytes of the whole -/
  off : Nat
  size : Nat
  /-- S offset of an st.sec (12 R319) -/
  fromS : Option Nat
deriving DecidableEq, Repr

/-- A ticket-table entry (07 R185, Table 9) with the request it stands for. -/
structure Ticket where
  ticket : BitVec 16
  owner : BitVec 2
  /-- 0 free, 1 in flight, 2 parked, 3 noticed -/
  state : BitVec 2
  disc : Bool
  seq : BitVec 16
  /-- request KIND (07 Table 8) -/
  kind : BitVec 4
  acc : Access
  /-- route of the first transmission and the counts carried (08 R207, R421) -/
  orte : BitVec 2
  cnt : List (BitVec 16)
  /-- a replay is in flight (07 R188) -/
  replaying : Bool
  /-- 256-cycle wait after STATUS 2 (07 R190) -/
  busy : Bool
deriving DecidableEq, Repr

/-- The requester's side of a window (07 R188): key (context, owner, class), whether its notice has come and whether the
FINAL request has left. -/
structure Hold where
  ctx : Nat
  owner : Nat
  cls : BitVec 4
  ticket : BitVec 16
  noticed : Bool
  finalSent : Bool
deriving DecidableEq, Repr

/-- A page a command's translation captured (14 R380): 64 KiB virtual page number, physical base, attributes. -/
structure PageMap where
  vpn : Nat
  pa : Nat
  fmt : BitVec 6
  geo : BitVec 4
  home : Nat
  /-- captured for a write, or for a read -/
  write : Bool
  /-- another die walks it (07 R177): its sectors go as requests -/
  remote : Bool
  /-- its rights, and with `fmtd` its FMT and GEO, are still to be checked when a ticket's replay returns (14 R380);
  `va` is the address that asks for it -/
  waiting : Bool
  fmtd : Bool
  va : Nat
deriving DecidableEq, Repr

/-- A covering interval of the range checker (09 R234): C space or S space, first byte, byte after the last, written. -/
structure Interval where
  inC : Bool
  lo : Nat
  hi : Nat
  write : Bool
  /-- what the command accesses of it, as dispatch tells: elements, their bytes, and the distance from one to the next (06 R161) -/
  count : Nat
  size : Nat
  step : Nat
deriving DecidableEq, Repr

/-- A queued engine command and what its dispatch captured (09 R218, 13 R336, 14 R380, R395). -/
structure Cmd where
  id : Nat
  bits : BitVec 96
  instr : Instr
  mode : BitVec 3
  pc : Word
  /-- 0 control core, 1 peel core, 2 rack core (14 R407) -/
  issuer : BitVec 2
  /-- issued from a starter (13 R337) -/
  starter : Bool
  /-- the stream entry it comes from, 0 for a command of the control program or a side core -/
  entry : Nat
  ranges : List Interval
  started : Bool
  upc : Nat
  /-- running value of v.scan (13 R338) -/
  cont : Word
  /-- the trigger has fired (14 R392): number of the release, 0 while it is held -/
  released : Nat
  /-- captured SY_ROUTE (13 R352) -/
  route : Word
  /-- captured parameter block (14 R380) or collective descriptor (14 R395) -/
  block : List Byte
  /-- captured object entry, twelve words (03 R72) -/
  obj : List Word
  pages : List PageMap
  /-- physical g register of the token or counter read, resolved at dispatch (09 R236) -/
  tok : Nat
  /-- snapshot of x.kvg: LEN, VERSION, page-list elements (14 R386) -/
  kvLen : Nat
  kvVer : Nat
  kvPages : List Nat
  /-- effective membership captured by a collective (02 R24) -/
  mask : BitVec 256
  /-- it has raised a trap that waits for delivery (13 R337) -/
  halted : Bool
  /-- tags of the slots it has touched, as they stood at the first touch; slots it has stamped (13 R339) -/
  tags : List (Nat × (BitVec 6 × BitVec 4))
  stamped : List Nat
  /-- a copy's micro-step in progress (14 R393): 0 not begun, 1 reading, 2 writing; its pieces still to perform; its
  read buffer -/
  phase : Nat
  todo : List Nat
  buf : List Byte
  /-- sectors of the micro-step that have left as requests and are not answered; sectors answered, with their bytes -/
  asked : List Nat
  got : List (Nat × List Byte)
  /-- its sectors on pages of other dies that have still to leave: owner, sector, sequence number; none while they are not numbered
  (07 R183) -/
  seqs : Option (List (Nat × Nat × BitVec 16))
  /-- of a loaded block: its dispatch, with its checks and captures, still waits (09 R237, 14 R386) -/
  raw : Bool
deriving DecidableEq, Repr

/-- A token whose copy has retired and is still to be written (14 R381). -/
structure TokenDue where
  id : Nat
  /-- physical g register, or token word of a side core -/
  reg : Nat
  issuer : BitVec 2
  value : Word
deriving DecidableEq, Repr

/-- A side core's registers and control (09 R239 to R243). -/
structure Side where
  /-- x1 to x31, unlisted 0 -/
  x : Sparse Word
  pc : Word
  run : Bool
  halt : Bool
  len : BitVec 6
  img : BitVec 44
  instret : Word
deriving DecidableEq, Repr

/-- The source of a trap that waits for an instruction boundary (09 R245). -/
inductive TrapSource where
  | powerFail | engine | remote | sideCore | collective
deriving DecidableEq, Repr

/-- A local translation miss of the task that has been raised and whose region abort is not complete (07 R178, 09 R235):
the die whose keeper serves it, address, descriptor KIND, missing level; of an engine's the queue code and the PC of its fault record,
0 and none for the control core (13 R337). -/
structure Miss where
  die : Nat
  va : Nat
  kind : BitVec 4
  level : BitVec 4
  queue : Nat := 0
  pc : Option Word := none
deriving DecidableEq, Repr

/-- A trap that waits for an instruction boundary. -/
structure PendTrap where
  src : TrapSource
  code : Trap
  /-- none where the spec states no INFO -/
  info : Option Word
  /-- PC of an engine trap's fault record (13 R337) -/
  pc : Word
  /-- an engine's restartable TRANSLATION -/
  miss : Option Miss
deriving DecidableEq, Repr

/-- A partition (06 R141, PART). -/
structure Part where
  s0 : Nat
  sn : Nat
  c0 : Nat
  cn : Nat
deriving DecidableEq, Repr

/-- The starter cursor (06 R150, Table 8) and the replay state of the task that goes with it. -/
structure Cursor where
  body : Word
  task : Nat
  iter : Nat
  version : BitVec 16
  pos : List Nat
  markPos : List Nat
  /-- place after the furthest SET performed in the iteration, 0 for none -/
  setPos : List Nat
  /-- commands of each stream not retired: handled by the queues; streams that have ended -/
  ended : List Bool
  /-- the task's control program runs: a live task, or one whose branch guard failed (06 R147, R149) -/
  live : Bool
  /-- guards passed: shape, health -/
  shapeOk : Bool
  healthOk : Bool
  branchOk : Bool
  /-- SY_ROUTE supplied by the last ROUTE entry -/
  route : Word
deriving DecidableEq, Repr

/-- Slot state (09 R229, Table 2). -/
structure Slot where
  owner : Bool
  fmt : BitVec 6
  geo : BitVec 4
deriving DecidableEq, Repr

/-- A register bank (09 R226, R248): the registers it keeps and the task it holds. -/
structure Bank where
  domain : Nat
  regs : Regs
  restart : Regs
  /-- number from which on commands belong to the region in progress (09 R235) -/
  region : Nat
  storeBuf : List BufEntry
  inflight : List Access
  loads : List Load
  /-- ring descriptors, unlisted 0 (09 R231, Table 3) -/
  rings : Sparse Word
  /-- command queues 0 matrix, 1 vector, 2 copy, 3 collective (09 R218) -/
  queues : Sparse (List Cmd)
  tokens : List TokenDue
  /-- ticket table, entries 0 to 31, a free entry unlisted (07 R185) -/
  tickets : List (Nat × Ticket)
  cursor : Option Cursor
  peel : Side
  rack : Side
  /-- finalisation window open (04 R84) -/
  window : Bool
  /-- state frozen for the save (04 R84) -/
  frozen : Bool
  pend : List PendTrap
  part : Part
  task : Option Nat
  /-- descriptor (die, ID) a shadow waits on (07 R178) -/
  waitDesc : Option (Nat × Nat)
  /-- fold and generation a fold.aw that has arrived waits on (05 R132) -/
  awaiting : Option (Nat × BitVec 16)
  /-- this and the next of the instructions that handlers interrupted, innermost first -/
  awaitOuter : List (Option (Nat × BitVec 16) × Bool)
  /-- a checkpoint of the task's SY_CKPT write waits for its marks (04 R101) -/
  ckptWait : Bool
  miss : Option Miss
  /-- the line at the PC must carry TGT when execution enters it: a task start, a handler, a FAILPC (11 R280) -/
  mustTgt : Bool
  /-- the same of the restart state: its region began at a task start or a FAILPC whose line has not been entered yet; once it has, a restart
  needs no TGT (11 R280) -/
  restartTgt : Bool
  /-- the instruction at its boundary has been checked and raises no trap: a PREEMPT requested may be taken (09 R245) -/
  checked : Bool
  /-- its registers are a restart state: its region was aborted with stores in its buffer (09 R247) -/
  rstart : Bool
  /-- number of its pre-emption (05 R120) -/
  left : Nat
  /-- it leaves its core: its region has been aborted, and the restart state follows when the started commands have
  retired (09 R235, R247) -/
  leaving : Bool
  /-- slots and tiles of its partition, and its race-check shadow slots, that a newer context holds, as they stood: state, domain
  and bytes, words and domain (05 R124, 09 R248; 06 R160) -/
  overS : List (Nat × (Slot × Nat × List Byte))
  overC : List (Nat × (Nat × Sparse (BitVec 32)))
  /-- instruction and data stores of its side cores that a newer context uses, as they stood (09 R243) -/
  peelSave : Option (Sparse Byte × Sparse Byte)
  rackSave : Option (Sparse Byte × Sparse Byte)
deriving DecidableEq, Repr

/-- A cached translation (07 R175). -/
structure TlbEntry where
  ctx : Nat
  /-- 64 KiB page number of the virtual address -/
  vpn : Nat
  /-- the leaf entry, and its level -/
  pte : Word
  level : Nat
deriving DecidableEq, Repr

/-- A streamed-out context (09 R249): its position in the switch area and its task. -/
structure Streamed where
  pos : Nat
  task : Nat
  /-- fold and generation that its fold.aw waits on, descriptor its task waits on, traps that wait -/
  awaiting : Option (Nat × BitVec 16)
  awaitOuter : List (Option (Nat × BitVec 16) × Bool)
  waitDesc : Option (Nat × Nat)
  pend : List PendTrap
  /-- the line at its PC must carry TGT -/
  mustTgt : Bool
  /-- what its bank held that the block does not show: captures of queued commands, data of parked accesses; none for
  a block loaded by SY_SWLOAD -/
  saved : Option Bank
deriving DecidableEq, Repr

/-- A core (09). -/
structure Core where
  sBytes : Sparse Byte
  slots : Sparse Slot
  slotDom : Sparse Nat
  /-- C words keyed 16,384 x tile + 128 x row + column, unlisted 0 (09 R228) -/
  cWords : Sparse (BitVec 32)
  tileDom : Sparse Nat
  derr : BitVec 6
  /-- data-error log entries, oldest first (09 R238, Table 5) -/
  elog : List Word
  /-- domain of the tasks those errors are of (09 R226, R238) -/
  errDom : Nat
  /-- keeper's failed marks (06 R148) -/
  failed : BitVec 3
  /-- fetched lines by physical line number (09 R217) -/
  icache : Sparse (BitVec 256)
  tlb : List TlbEntry
  /-- cached heap attribute entries: context, heap page, entry (07 R168) -/
  hatCache : List (Nat × Nat × BitVec 32)
  peelI : Sparse Byte
  rackI : Sparse Byte
  peelD : Sparse Byte
  rackD : Sparse Byte
  peelDom : Nat
  rackDom : Nat
  /-- banks whose tasks last started the side cores (09 R243) -/
  peelHold : Option Nat
  rackHold : Option Nat
  /-- route counts N by key (08 R206), unlisted 0 -/
  routeN : Sparse (BitVec 16)
  /-- request sequence numbers by key (07 R183), unlisted 0 -/
  seqN : Sparse (BitVec 16)
  /-- open tickets of the core's contexts, as the requester knows them (07 R188) -/
  holds : List Hold
  /-- collective sequence number by fold (02 R26), unlisted 0 -/
  collSeq : Sparse (BitVec 16)
  /-- fold phase (06 R160) -/
  phase : BitVec 6
  active : Option Nat
  /-- banks of the resident shadows, oldest first (09 R248) -/
  shadows : List Nat
  banks : Sparse Bank
  streamed : List Streamed
  /-- pre-emption requested: incoming task and its partition (05 R123, R124) -/
  preReq : Option (Nat × Part)
  /-- the task that a yield on the core has lost to, until it runs there (05 R125) -/
  chosen : Option Nat
deriving DecidableEq, Repr

/-! ### The host interface, contexts, launches and tasks -/

/-- A background checkpoint or restore (04 R98 to R105). -/
structure Ckpt where
  /-- DESC, address bits <55:6>; the descriptor of the operation that runs -/
  desc : BitVec 50
  opDesc : BitVec 50
  res : BitVec 3
  busy : Bool
  restore : Bool
  step : Word
  /-- shards: source, destination, length -/
  shards : List (Nat × Nat × Nat)
  /-- source granules still to be copied: shard, granule, physical address of the granule -/
  pending : List (Nat × Nat × Nat)
  /-- 0 waiting to start, 1 headers written or checked, 2 shards copied, 3 completes written, 4 a restore's checks failed -/
  phase : Nat
  /-- shards whose COMPLETE word has been written; of a restore, shards that fail their check -/
  complete : List Nat
  /-- the core and task that issued it -/
  core : Nat
  task : Nat
  /-- number below which accesses and commands are earlier than the syswr (04 R101) -/
  since : Nat
deriving DecidableEq, Repr

/-- A must-save declaration entry (04 R88, Table 2). -/
structure SaveEntry where
  kind : BitVec 3
  prio : BitVec 3
  ntask : Nat
  first : Nat
  count : Nat
  va : Nat
  length : Nat
deriving DecidableEq, Repr

/-- A context (03 R58, Table 2). -/
structure Context where
  domain : BitVec 4
  ceiling : BitVec 3
  keeper : Bool
  ptRoot : Word
  heapBase : Word
  heapLimit : Word
  heapOff : Word
  hat : Word
  objBase : Word
  objCnt : Nat
  sqBase : Word
  sqLog : Nat
  fqBase : Word
  fqLog : Nat
  npage : Word
  vecMask : BitVec 32
  foldMask : BitVec 256
  ctrMask : BitVec 256
  monMask : BitVec 64
  seqTab : Word
  sstore : Word
  arena : Word
  maxS : Nat
  maxC : Nat
  save : List SaveEntry
  lastTail : BitVec 32
  launchSeq : Nat
  /-- submission-queue entries freed, free-running (03 R63) -/
  freed : Nat
  /-- launch indices queued and not yet read -/
  queued : List Nat
  ckpt : Ckpt
deriving DecidableEq, Repr

/-- A task record as read from memory (05 R106, Table 1). -/
structure Record where
  wid : Word
  entry : Word
  dlist : Word
  depcnt : Nat
  nsucc : Nat
  sdem : BitVec 16
  cdem : BitVec 8
  prio : BitVec 8
  hint : Word
  flags : BitVec 32
  arg : Word
deriving DecidableEq, Repr

/-- Where a task is (05 R116, R112). -/
inductive Place where
  | pool | overflow | state1 | keeperEntry | running | shadow | streamedOut | replayWait
deriving DecidableEq, Repr

/-- A task instance (05). -/
structure Task where
  ctx : Nat
  /-- launch number; none for a threshold release, a keeper copy and their children (16 R420) -/
  launch : Option Nat
  /-- static index plus one, 0 for a spawned or successor task -/
  index : Nat
  recAddr : Word
  record : Record
  weight : Word
  prio : Nat
  sdem : Nat
  cdem : Nat
  place : Place
  die : Nat
  cluster : Nat
  /-- ready time: order in which tasks became ready (05 R118) -/
  ready : Nat
  /-- pool entry (05 R120 step 2), free-running index of its overflow-ring entry (05 R117) -/
  entry : Nat
  ring : Nat
  core : Nat
  bank : Nat
  /-- start order, for 05 Table 8 order 4 -/
  start : Nat
  /-- instance id and spawn count (06 R157) -/
  iid : Word
  spawns : Nat
  /-- keeper copy of the die, threshold registration plus one (07 R180, 03 R78) -/
  keeperOf : Option Nat
  thr : Nat
  /-- replay task entry plus one (06 R147) and recorder's task entry plus one (06 R143), 0 for none -/
  repEntry : Nat
  recEntry : Nat
  /-- iteration of its predecessor by a replayed exit.succ (06 R142) -/
  repIter : Nat
  /-- tasks that spawned it, nearest first; kept for tasks of no launch (16 R420) -/
  ancestors : List Nat
  /-- task-level semaphores the recorder gave it: semaphore, multiplicity (15 R411) -/
  waits : List (Nat × Nat)
  /-- recorded entry plus one whose exit.succ started it (06 R146); that whose spawn or retirement made it ready (17 R416) -/
  recPred : Nat
  recBy : Nat
  /-- the recorder records nothing for it (17 R416) -/
  noRec : Bool
  /-- recorded partition (05 R119) -/
  fixed : Option Part
deriving DecidableEq, Repr

/-- A stream the recorder writes, its entries oldest first (06 R142). -/
structure RecTask where
  wid : Word
  core : Nat
  live : Bool
  part : Part
  recAddr : Word
  weight : Word
  streams : List (List (BitVec 128))
  /-- for each stream entry the number of the command it stands for, 0 for other entries -/
  ids : List (List Nat)
  /-- pairs of commands whose ordering by the range checker has its semaphore -/
  pairs : List (Nat × Nat)
  /-- semaphores of those pairs, in order; in an instance that an exit.succ started they are numbered only at its end
  (06 R146) and `own` is then empty until it ends -/
  own : List Nat
  prov : Nat
  uses : BitVec 3
  /-- hash of its shape guard, computed at its end; none without one (06 R148) -/
  shape : Option Word
  branch : Option (BitVec 8 × BitVec 3 × Word × Word × Word)
  branched : Bool
  /-- predecessors' semaphores to wait for: semaphore, multiplicity -/
  waits : List (Nat × Nat)
  ended : Bool
  /-- entry that its exit.succ names, plus one (06 R142); it has ended by exit.succ -/
  succ : Nat
  bySucc : Bool
  /-- entry whose exit.succ started it, and entry that made it ready, plus one -/
  pred : Nat
  by_ : Nat
  /-- semaphores that its streams SET at their end (15 R411) -/
  after : List Nat
  /-- replaced by a back-edge, or records nothing (06 R146, 17 R416) -/
  dropped : Bool
  /-- a forked variant's first entry (06 R141) -/
  tail : Bool
  /-- folds it used -/
  folds : List Nat
deriving DecidableEq, Repr

/-- A recording in progress (06 R139, R143). -/
structure Recording where
  base : Word
  recmax : Nat
  tasks : List RecTask
  nsem : Nat
  /-- predecessors of a static task that is not ready yet: recorded entries by static index (15 R411) -/
  preds : List (Nat × List Nat)
  /-- the recording has been abandoned (06 R139, 17 R416) -/
  abandoned : Bool
  /-- semaphores, with M, of the groups of a fold generation: 65,536 x fold + generation (06 R143) -/
  foldSems : List (Nat × List (Nat × Nat))
  /-- variant fields of the entry to publish: FORKED, PARENT, FORKG (06 R149) -/
  forked : Bool
  parent : BitVec 3
  forkg : BitVec 16
deriving DecidableEq, Repr

/-- A replay in progress (06 R147). -/
structure Replay where
  body : Word
  version : BitVec 16
  variant : BitVec 3
  /-- semaphore counts, by 65,536 x body address + semaphore, unlisted 0 -/
  sems : Sparse (BitVec 32)
  /-- task entries made ready and retired -/
  started : List Nat
  retired : List Nat
  /-- remainder handed to the shepherd (06 R149 step 4) -/
  passed : Bool
  /-- bodies that replay has left for a forked variant, each with the entries made ready there (06 R149 step 3) -/
  earlier : List (Word × List Nat)
deriving DecidableEq, Repr

/-- A launch (03 R65, 05 R110, R126). -/
structure Launch where
  ctx : Nat
  seq : Nat
  shape : Word
  seed : Word
  root : Word
  caddr : Word
  prio : BitVec 3
  policy : BitVec 8
  determ : Bool
  race : Bool
  notify : Bool
  vec : BitVec 5
  spart : Nat
  cpart : Nat
  widths : List (BitVec 8)
  tag : BitVec 32
  ntask : Nat
  ovfq : Word
  ovflog : Nat
  stateArr : Word
  extp : Word
  next : Nat
  olog : Word
  ologn : Nat
  recmax : Nat
  hash : Word
  loans : BitVec 32
  returned : Nat
  /-- it ends: fault records to write, STATUS and CODE of its completion record; its running tasks end at their boundaries
  first (03 R69) -/
  ending : Option (List (List Byte) × Nat × BitVec 8)
  /-- overflow ring: free-running index after the latest entry written -/
  ovfTail : Nat
  /-- order log: choices logged or forced so far; count to force; occurrences by site -/
  logCount : Nat
  forceCount : Nat
  /-- COUNT was 0 at launch: choices are logged (06 R158) -/
  logs : Bool
  /-- address of the entries to force (06 R147, R158) -/
  forceAt : Word
  occ : Sparse Nat
  recording : Option Recording
  replay : Option Replay
  /-- bodies that blocks loaded for the launch by SY_SWLOAD use (06 R147) -/
  loaded : List Word
  /-- static task records and successor lists, read once before any task runs (05 R111) -/
  statics : List Record
  succs : List (List Nat)
deriving DecidableEq, Repr

/-- A threshold registration (03 R77, R78). -/
structure Threshold where
  lo : Word
  hi : Word
  /-- fired and not yet re-armed -/
  fired : Bool
  last : BitVec 32
  /-- a value has been sampled since arming -/
  seen : Bool
  /-- the released task while pending or running -/
  task : Option Nat
deriving DecidableEq, Repr

/-- A monitor unit (03 R79). -/
structure Monitor where
  cfg : Word
  mn : BitVec 32
  mx : BitVec 32
  count : Word
  bins : Sparse (BitVec 32)
deriving DecidableEq, Repr

/-- An MSI-X message sent to the host (03 R55, R75). -/
structure Msg where
  vec : Nat
  addr : Word
  data : BitVec 32
deriving DecidableEq, Repr

/-- Host-side registers and windows (03). -/
structure HostIf where
  cfgBuf : Sparse Byte
  aptBase : Word
  cfgRes : BitVec 4
  cfgd : Bool
  cfgBusy : Bool
  cfgLen : BitVec 27
  dbErr : Word
  ctxRes : BitVec 3
  ctxBusy : Bool
  /-- the context command in progress: its write, the result it will report -/
  ctxPending : Option (Word × BitVec 3)
  poolDec : Sparse (BitVec 128)
  /-- decoders whose EN has been cleared and reads 1 still: number at the clearing write, its word at +8 (07 R164) -/
  poolDrain : List (Nat × (Nat × Word))
  thr : Sparse Threshold
  thrDrop : Sparse Word
  mon : Sparse Monitor
  /-- MSI-X table by vector; an unlisted entry has its mask bit set (log 7) -/
  msixTable : Sparse (BitVec 128)
  msixPba : BitVec 32
  msixEnable : Bool
  msixMask : Bool
  msgs : List Msg
  lastRead : List Byte
deriving DecidableEq, Repr

/-- Power state (01 R19). -/
inductive PState where
  | run | idle | hold | off | trip | holdUp | spent
deriving DecidableEq, Repr

/-- Power management (01 R15 to R22). -/
structure Power where
  st : PState
  clk : BitVec 8
  tcause : BitVec 8
  ltag : BitVec 16
  res : BitVec 3
  busy : Bool
  hup : Bool
  /-- transition in progress: target, clock code, tag -/
  pend : Option (PState × BitVec 8 × BitVec 16)
  /-- state at supply loss -/
  lossState : PState
  supply : Bool
  quiesced : Bool
  saved : Bool
deriving DecidableEq, Repr

/-- The gang time base and index (01 R14, 06 R156). -/
structure Gang where
  tick : Word
  gidx : BitVec 6
  gsize : BitVec 7
  linksUp : Bool
deriving DecidableEq, Repr

/-! ### Dies, folds, collectives and packets -/

/-- An access that waits for a fault descriptor (07 R180, R181). -/
inductive Joined where
  /-- a local access of a task, which waits on its core as a shadow; INFO of the trap that a refusal raises, and its record's PC for an
  engine's -/
  | localTask (task info : Nat) (pc : Option Word)
  /-- an open window: requester, context, class -/
  | window (req ctx : Nat) (cls : BitVec 4)
  /-- a parked staging arrival: block number -/
  | staging (block : Nat)
  /-- the checkpoint engine of a context (04 R99) -/
  | ckpt (ctx : Nat)
deriving DecidableEq, Repr

/-- An outstanding fault descriptor (07 R180). -/
structure Desc where
  id : BitVec 32
  ctx : Nat
  /-- virtual address, KIND, LEVEL, core, REMOTE, ticket -/
  va : Nat
  kind : BitVec 4
  level : BitVec 4
  core : Nat
  remote : Bool
  ticket : BitVec 16
  written : Bool
  joined : List Joined
deriving DecidableEq, Repr

/-- An open ticket window at an owner (07 R186). -/
structure Window where
  req : Nat
  ctx : Nat
  cls : BitVec 4
  ticket : BitVec 16
  s0 : BitVec 16
  /-- descriptors of pages missed under the ticket that are not resolved -/
  pages : List (BitVec 32)
  refused : Option Trap
deriving DecidableEq, Repr

/-- A remote request (07 R184, 08 R207). -/
structure Request where
  kind : BitVec 4
  req : Nat
  bank : Nat
  owner : Nat
  entry : Nat
  seq : BitVec 16
  acc : Access
  replay : Bool
  final : Bool
  /-- route of this packet (01 R12), and of the first transmission (08 R207) -/
  route : BitVec 2
  orte : BitVec 2
  cnt : List (BitVec 16)
deriving DecidableEq, Repr

/-- A response (07 R184). -/
structure Response where
  req : Nat
  bank : Nat
  ctx : Nat
  owner : Nat
  entry : Nat
  cls : BitVec 4
  seq : BitVec 16
  status : BitVec 2
  ticket : BitVec 16
  code : Option Trap
  data : List Byte
  final : Bool
  route : BitVec 2
deriving DecidableEq, Repr

/-- A replay notice (07 R184). -/
structure Notice where
  req : Nat
  ctx : Nat
  cls : BitVec 4
  owner : Nat
  ticket : BitVec 16
  /-- none: resident (RESULT 0); the code of a refusal otherwise (RESULT 1; 07 R182) -/
  refused : Option Trap
  route : BitVec 2
deriving DecidableEq, Repr

/-- An epi.send or x.rsw image on its way (02 R34, 14 R391). -/
structure Arrival where
  /-- x.rsw (true) or epi.send (false) -/
  rsw : Bool
  fromCore : Nat
  fromBank : Nat
  /-- destination core, first byte of S, image, tag of each slot image -/
  core : Nat
  off : Nat
  bytes : List Byte
  tags : List (BitVec 6 × BitVec 4)
  /-- FP32 add (02 R34 MODE 1) -/
  add : Bool
  ctr : Nat
  cen : Bool
  /-- sending core's fold phase (06 R160) -/
  phase : BitVec 6
  cmd : Nat
  route : BitVec 2
deriving DecidableEq, Repr

/-- A block a collective sends (14 R403; 02 R49). -/
structure CBlock where
  /-- command number of the sending program, its core and the receiving core, fold, sequence number, signature -/
  src : Nat
  fromCore : Nat
  dstCore : Nat
  fold : Nat
  seq : BitVec 16
  sig : Word
  /-- a value of a cavity sweep: 2 x level for a prefix, 2 x level + 1 for a suffix; none for a step's block -/
  sweep : Option Nat
  fmt : BitVec 6
  /-- FP8 with scales, laid out as MX-blocked units (02 R36) -/
  mx : Bool
  bytes : List Byte
  /-- 0 in flight, 1 held at the sender for room, 2 ticketed and parked, 3 in staging, 4 taken or discarded with its
  acknowledgement on the way, 5 notice posted, 6 in staging and acknowledged, 7 ticketed without parking -/
  st : Nat
  /-- number of its arrival, which its ticket carries -/
  order : Nat
  refused : Option Trap
  route : BitVec 2
deriving DecidableEq, Repr

/-- A signature or abort on a fold's signature channel, with the membership its member captured (02 R38, R40, R41). -/
structure Post where
  fold : Nat
  core : Nat
  seq : BitVec 16
  sig : Option Word
  mask : BitVec 256
  /-- of a collective over several devices (02 R25); a post of the other devices has core 256 -/
  gang : Bool
  arrived : Bool
  /-- the dies it has gone to, with its route to each (01 R12) -/
  routes : List (Nat × BitVec 2)
deriving DecidableEq, Repr

/-- Verdict of a collective (02 R39). -/
inductive Verdict where
  | open_ | matched | mismatch
deriving DecidableEq, Repr

/-- A collective program that runs on a die's collective engine (02 R23 to R40). -/
structure Program where
  core : Nat
  ctx : Nat
  task : Option Nat
  launch : Option Nat
  cav : Bool
  fold : Nat
  seq : BitVec 16
  fmt : BitVec 6
  op : BitVec 4
  count : Nat
  locked : Bool
  btick : Word
  stage : Word
  slen : Word
  prog : Word
  nstep : Nat
  bases : List Word
  crec : Word
  cdone : Word
  drank : Nat
  dcount : Nat
  mask : BitVec 256
  rm : BitVec 3
  src : Nat
  dst : Nat
  /-- command number, and the intervals held until the collective ends (14 R397) -/
  cmd : Nat
  ranges : List Interval
  loops : Sparse Nat
  idx : Nat
  /-- the step that the engine has reached, as it read it -/
  cur : Option Instr
  late : BitVec 32
  verdict : Verdict
  /-- number of the step's turn among those reached (02 R31); its trigger has fired (number of the release, 0 while held); it
  may issue at this tick; it has issued and waits for acknowledgements -/
  reached : Nat
  released : Nat
  ticked : Bool
  issued : Bool
  /-- the step has been counted late -/
  wasLate : Bool
  /-- the program has completed its last step -/
  done : Bool
  code : Option Trap
  /-- a cavity's own block; the sweep values it holds, by CBlock.sweep, the empty marker as no bytes; the values sent, with
  the receiving core -/
  raw : List Byte
  got : List (Nat × List Byte)
  sent : List (Nat × Nat)
  /-- bytes that blocks wrote in staging: physical address, the byte before, the byte written (16 R415) -/
  laid : List (Nat × Byte × Byte)
deriving DecidableEq, Repr

/-- A trigger chain (14 R399). -/
structure Chain where
  ca : Nat
  thr : BitVec 32
  cb : Nat
  inc : BitVec 8
  ctx : Nat
deriving DecidableEq, Repr

/-- A compute die (05, 07, 02). -/
structure Die where
  ctr : Sparse (BitVec 32)
  chains : List Chain
  /-- SY_KEEPER (07 R179) and the context that wrote it -/
  keeper : Word
  keeperCtx : Nat
  descId : BitVec 32
  descs : List Desc
  /-- the keeper copy pending or running -/
  keeperTask : Option Nat
  xinv : Option Word
  swarea : Word
  /-- non-leaf walk-cache entries: context, level, index bits, entry (07 R175) -/
  walkCache : List (Nat × Nat × Nat × Word)
  windows : List Window
  nextTicket : BitVec 16
  /-- arrival counts A by key (08 R206), unlisted 0 -/
  arr : Sparse (BitVec 16)
  heldStf : List Request
  /-- packets queued at the die's fabric port by route, unlisted 0 (01 R12) -/
  portQ : Sparse Nat
  /-- last cluster granted by victim cluster (05 R122) -/
  stealLast : Sparse Nat
  held : List Arrival
  /-- data-error flag and log of the collective engine: block offsets, oldest first (02 R45) -/
  collErr : Bool
  collLog : List Word
deriving DecidableEq, Repr

/-- A fold (05 R131). -/
structure Fold where
  eff : BitVec 256
  pend : BitVec 256
  pflag : Bool
  arr : BitVec 256
  gen : BitVec 16
deriving DecidableEq, Repr

/-- Packets and posts in flight. -/
structure Net where
  reqs : List Request
  resps : List Response
  notices : List Notice
  arrivals : List Arrival
  blocks : List CBlock
  posts : List Post
deriving DecidableEq, Repr

/-- The whole device. -/
structure State where
  /-- bytes by physical address (07 R162, Table 1); an unlisted byte reads 0 (log 2) -/
  mem : List Host.Cell
  host : HostIf
  pm : Power
  gang : Gang
  /-- contexts 0 to 63; an unlisted context is not live -/
  ctxs : List (Nat × Context)
  launches : List (Nat × Launch)
  tasks : List (Nat × Task)
  /-- numbers for the next launch, task, access, command, event order -/
  nextId : Nat
  dies : Sparse Die
  folds : Sparse Fold
  cores : Sparse Core
  programs : List (Nat × Program)
  net : Net
  /-- which agent moves next, and which is moving (log 1) -/
  agenda : List Actor
  actor : Actor
  /-- errors that no engine has read yet (log 74) -/
  flaws : List Flaw
  /-- counter of free values drawn (log 5) -/
  fresh : Nat
  /-- the instruction in progress has raised a precise trap (09 R245) -/
  raised : Bool
deriving DecidableEq, Repr

/-! ### What unlisted keys read as, and the state after reset -/

/-- Registers of a bank after reset: all 0, queues empty (09 R220 to R223, R244; log 4). -/
def Regs.reset : Regs :=
  { pc := 0, g := [], gWait := [], gMark := [], h := [], q := [], p := 0, pMark := [], rb := 0, rm := 0, route := 0,
    evec := 0, depth := 0, cause0 := 0, cause1 := 0, epc0 := 0, epc1 := 0 }

def Side.reset : Side := { x := [], pc := 0, run := false, halt := false, len := 0, img := 0, instret := 0 }

def Part.empty : Part := { s0 := 0, sn := 0, c0 := 0, cn := 0 }

def Bank.reset : Bank :=
  { domain := 0, regs := Regs.reset, restart := Regs.reset, region := 0, storeBuf := [], inflight := [], loads := [], rings := [],
    queues := [], tokens := [], tickets := [], cursor := none, peel := Side.reset, rack := Side.reset,
    window := false, frozen := false, pend := [], part := Part.empty, task := none, waitDesc := none,
    awaiting := none, awaitOuter := [], ckptWait := false, miss := none, mustTgt := false, restartTgt := false, checked := false, rstart := false, left := 0,
    leaving := false, overS := [], overC := [],
    peelSave := none, rackSave := none }

def Slot.reset : Slot := { owner := false, fmt := 0, geo := 0 }

def Core.reset : Core :=
  { sBytes := [], slots := [], slotDom := [], cWords := [], tileDom := [], derr := 0, elog := [], errDom := 0, failed := 0,
    icache := [], tlb := [], hatCache := [], peelI := [], rackI := [], peelD := [], rackD := [], peelDom := 0,
    rackDom := 0, peelHold := none, rackHold := none, routeN := [], seqN := [], holds := [], collSeq := [], phase := 0, active := none,
    shadows := [], banks := [], streamed := [], preReq := none, chosen := none }

def Die.reset : Die :=
  { ctr := [], chains := [], keeper := 0, keeperCtx := 0, descId := 0, descs := [], keeperTask := none, xinv := none,
    swarea := 0, walkCache := [], windows := [], nextTicket := 1, arr := [], heldStf := [], portQ := [],
    stealLast := [], held := [], collErr := false, collLog := [] }

def Fold.reset : Fold := { eff := 0, pend := 0, pflag := false, arr := 0, gen := 0 }

def Monitor.reset : Monitor := { cfg := 0, mn := 0, mx := 0, count := 0, bins := [] }

def Threshold.reset : Threshold := { lo := 0, hi := 0, fired := false, last := 0, seen := false, task := none }

def Ckpt.reset : Ckpt :=
  { desc := 0, opDesc := 0, res := 0, busy := false, restore := false, step := 0, shards := [], pending := [], phase := 0,
    complete := [], core := 0, task := 0, since := 0 }

/-- Host-side registers after reset (03 Tables 1a to 1c, 4, 8, 9; R56: CTX_STAT reads result 0x1). -/
def HostIf.reset : HostIf :=
  { cfgBuf := [], aptBase := 0, cfgRes := 0, cfgd := false, cfgBusy := false, cfgLen := 0, dbErr := 0, ctxRes := 1,
    ctxBusy := false, ctxPending := none, poolDec := [], poolDrain := [], thr := [], thrDrop := [], mon := [],
    msixTable := [], msixPba := 0, msixEnable := true, msixMask := false, msgs := [], lastRead := [] }

/-- Power after reset (01 Table 6: STATE 1, CLK 0x11, the rest 0). -/
def Power.reset : Power :=
  { st := .idle, clk := 0x11, tcause := 0, ltag := 0, res := 0, busy := false, hup := false, pend := none,
    lossState := .idle, supply := true, quiesced := false, saved := false }

/-- The gang time base after reset: a device that is not in a gang counts from 0 (01 R14), index 0 of 1 (06 R156). -/
def Gang.reset : Gang := { tick := 0, gidx := 0, gsize := 1, linksUp := false }

def Net.reset : Net := { reqs := [], resps := [], notices := [], arrivals := [], blocks := [], posts := [] }

/-- The device right after reset (03 R56): before configuration, no context, no launch, memory with nothing listed. -/
def State.reset : State :=
  { mem := [], host := HostIf.reset, pm := Power.reset, gang := Gang.reset, ctxs := [], launches := [], tasks := [],
    nextId := 1, dies := [], folds := [], cores := [], programs := [], net := Net.reset, agenda := [],
    actor := .idle, flaws := [], fresh := 0, raised := false }

end Sys2Proof.Machine
end

