-- ==== Sys2Proof/Machine/Sparse.lean ====
section
/-!
DEFINITION. Reading and writing the sparse tables of the state (Word.lean) and the keyed lists. Tables keep their keys
strictly rising and list no entry equal to what an unlisted key reads as, so equal tables are equal data.
-/

namespace Sys2Proof.Machine

/-- The value at a key; `d` where the key is unlisted. -/
def sget {α : Type} (d : α) : Sparse α → Nat → α
  | [], _ => d
  | (k', v) :: r, k => if k = k' then v else sget d r k

/-- The table without `k`. -/
def sdel {α : Type} (m : Sparse α) (k : Nat) : Sparse α := m.filter (fun e => e.1 != k)

/-- The table, which does not list `k`, with `v` there, keys kept rising. -/
def sins {α : Type} : Sparse α → Nat → α → Sparse α
  | [], k, v => [(k, v)]
  | (k', v') :: r, k, v => if k < k' then (k, v) :: (k', v') :: r else (k', v') :: sins r k v

/-- The table with `v` at `k`. -/
def sset {α : Type} [DecidableEq α] (d : α) (m : Sparse α) (k : Nat) (v : α) : Sparse α :=
  if v = d then sdel m k else sins (sdel m k) k v

/-- The table with the value at `k` changed by `f`. -/
def supd {α : Type} [DecidableEq α] (d : α) (m : Sparse α) (k : Nat) (f : α → α) : Sparse α :=
  sset d m k (f (sget d m k))

/-- Write several entries in order. -/
def ssetAll {α : Type} [DecidableEq α] (d : α) (m : Sparse α) (k : Nat) : List α → Sparse α
  | [] => m
  | v :: r => ssetAll d (sset d m k v) (k + 1) r

/-- The `n` values from key `k`. -/
def sgetAll {α : Type} (d : α) (m : Sparse α) (k n : Nat) : List α :=
  (List.range n).map (fun i => sget d m (k + i))

/-- The canonical form of a table. -/
def swf {α : Type} (d : α) : Sparse α → Prop
  | [] => True
  | [(_, v)] => v ≠ d
  | (k, v) :: (k', v') :: r => v ≠ d ∧ k < k' ∧ swf d ((k', v') :: r)

/-- The value at a key of a keyed list. -/
def aget {α : Type} : List (Nat × α) → Nat → Option α
  | [], _ => none
  | (k', v) :: r, k => if k = k' then some v else aget r k

/-- The keyed list with `v` at `k`, keys kept rising. -/
def aset {α : Type} : List (Nat × α) → Nat → α → List (Nat × α)
  | [], k, v => [(k, v)]
  | (k', v') :: r, k, v =>
    if k < k' then (k, v) :: (k', v') :: r
    else if k = k' then (k, v) :: r
    else (k', v') :: aset r k v

/-- The keyed list without `k`. -/
def adel {α : Type} (m : List (Nat × α)) (k : Nat) : List (Nat × α) := m.filter (fun e => e.1 != k)

/-- The keyed list with the value at `k` changed, if there is one. -/
def aupd {α : Type} (m : List (Nat × α)) (k : Nat) (f : α → α) : List (Nat × α) :=
  m.map (fun e => if e.1 = k then (k, f e.2) else e)

/-- The list with element `k` removed. -/
def removeAt {α : Type} : List α → Nat → List α
  | [], _ => []
  | _ :: r, 0 => r
  | x :: r, k + 1 => x :: removeAt r k

/-- The list with element `k` changed. -/
def changeAt {α : Type} (f : α → α) : List α → Nat → List α
  | [], _ => []
  | x :: r, 0 => f x :: r
  | x :: r, k + 1 => x :: changeAt f r k

/-! ### Bytes and words -/

/-- The number a list of bytes stands for, little-endian (00 R1). -/
def leNat : List Byte → Nat
  | [] => 0
  | b :: r => b.toNat + 256 * leNat r

/-- The first `n` bytes of a number, little-endian. -/
def leBytes : Nat → Nat → List Byte
  | 0, _ => []
  | n + 1, v => BitVec.ofNat 8 v :: leBytes n (v / 256)

/-- A 64-bit word of little-endian bytes. -/
def leWord (bs : List Byte) : Word := BitVec.ofNat 64 (leNat bs)

/-- The 8 bytes of a word. -/
def wordBytes (w : Word) : List Byte := leBytes 8 w.toNat

/-- Bits <lo + n - 1 : lo> of a word, as a number. -/
def fld (w : Word) (lo n : Nat) : Nat := w.toNat / 2 ^ lo % 2 ^ n

/-- One bit of a word as a word: bit `n` set. -/
def bitAt (n : Nat) (b : Bool) : Nat := if b then 2 ^ n else 0

/-- 64-bit sign extension of the low `n` bits of a number. -/
def sext (n : Nat) (v : Nat) : Word := (BitVec.ofNat n v).signExtend 64

/-- 32-bit sign extension to 64 bits. -/
def sext32 (x : BitVec 32) : Word := x.signExtend 64

/-- Is a 256-bit mask bit set? -/
def maskHas (m : BitVec 256) (k : Nat) : Bool := m.getLsbD k

/-- The members of a mask, ascending. -/
def maskMembers (m : BitVec 256) : List Nat := (List.range 256).filter (maskHas m)

/-- A trap's code (00 R5, Table 1). -/
def Trap.code : Trap → BitVec 8
  | .illegalLine => 0x01
  | .illegalOpcode => 0x02
  | .reservedField => 0x03
  | .privilege => 0x04
  | .objectBounds => 0x05
  | .objectRights => 0x06
  | .alignment => 0x07
  | .translation => 0x08
  | .protection => 0x09
  | .formatMismatch => 0x0A
  | .ownerViolation => 0x0B
  | .race => 0x0C
  | .collectiveMismatch => 0x0D
  | .ticketOverflow => 0x0E
  | .foldMembership => 0x0F
  | .preempt => 0x10
  | .break_ => 0x11
  | .divide => 0x12
  | .powerFail => 0x13
  | .dataError => 0x14
  | .weightExhausted => 0x15
  | .spawnLimit => 0x16
  | .restoreStep => 0x17

end Sys2Proof.Machine
end

