-- ==== Sys2Proof/Machine/Acting.lean ====
section
/-!
DEFINITION. How a meaning is written: an action on the state that may stop (a trap, a wait at its boundary, a step that
cannot happen), and the accessors of cores, banks, dies, contexts, tasks and launches.
-/

namespace Sys2Proof.Machine

/-- Why an action stops before its end. -/
inductive Stop where
  /-- a trap with its INFO; none where the spec states none, and INFO is then a free value (log 5) -/
  | trap (t : Trap) (info : Option Word)
  /-- a local translation miss (07 R178) -/
  | miss (m : Miss)
  /-- the agent stays at its boundary; the step runs again later (12 R302) -/
  | wait
  /-- the spec gives the step no cause in this state -/
  | cannot (why : String)
deriving DecidableEq, Repr

/-- An action: it answers a value or stops, with the state it leaves. -/
abbrev Act (α : Type) := ExceptT Stop (StateM State) α

def trap {α : Type} (t : Trap) (info : Word) : Act α := throw (.trap t (some info))
/-- A trap for which the spec states no INFO. -/
def trapOpen {α : Type} (t : Trap) : Act α := throw (.trap t none)
def waitHere {α : Type} : Act α := throw .wait
def cannot {α : Type} (why : String) : Act α := throw (.cannot why)

/-- Stop with a trap when a check fails. -/
def require (ok : Bool) (t : Trap) (info : Word) : Act Unit := if ok then pure () else trap t info

def requireOpen (ok : Bool) (t : Trap) : Act Unit := if ok then pure () else trapOpen t

/-- Stay at the boundary until a condition holds. -/
def waitUntil (ok : Bool) : Act Unit := if ok then pure () else waitHere

/-- The step has no cause unless a condition holds. -/
def needs (ok : Bool) (why : String) : Act Unit := if ok then pure () else cannot why

/-- The value of an option, or no cause. -/
def need {α : Type} (o : Option α) (why : String) : Act α :=
  match o with
  | some x => pure x
  | none => cannot why

/-- The state, and a change of it. -/
def state : Act State := get
def change (f : State → State) : Act Unit := modify f

/-- What an action answers and the state it leaves. -/
def Act.go {α : Type} (m : Act α) (s : State) : Except Stop α × State := m.run.run s

/-- An action as a step of the device: a wait leaves the state the action reached; a trap has no task to strike, and
the step that raises one has no cause. -/
def asStep (m : Act Unit) (s : State) : Host.Outcome State Fault Refusal :=
  match m.go s with
  | (.ok _, s') => .next s'
  | (.error .wait, s') => .next s'
  | (.error (.miss _), _) => .refused (.notEnabled "no task to take the trap")
  | (.error (.trap _ _), _) => .refused (.notEnabled "no task to take the trap")
  | (.error (.cannot why), _) => .refused (.notEnabled why)

/-! ### Free values (log 5) -/

/-- A number not used before: the next free value's index. -/
def draw : Act Nat := do
  let s ← get
  set { s with fresh := s.fresh + 1 }
  pure s.fresh

def drawWord : Act Word := do
  let n ← draw
  pure (Config.freeValue n)

def drawBool : Act Bool := do
  let n ← draw
  pure (Config.freeBool n)

/-- A free index below `n` (0 when `n` is 0). -/
def drawIndex (n : Nat) : Act Nat := do
  let k ← draw
  pure (Config.freeIndex k % n)

/-- Free bytes. -/
def drawBytes (n : Nat) : Act (List Byte) :=
  (List.range n).mapM (fun _ => do pure ((← drawWord).setWidth 8))

/-- A number for a new access, command, task or launch. -/
def newId : Act Nat := do
  let s ← get
  set { s with nextId := s.nextId + 1 }
  pure s.nextId

/-! ### Cores, banks, dies -/

def coreOf (s : State) (c : Nat) : Core := sget Core.reset s.cores c
def setCore (s : State) (c : Nat) (x : Core) : State := { s with cores := sset Core.reset s.cores c x }
def updCore (s : State) (c : Nat) (f : Core → Core) : State := setCore s c (f (coreOf s c))

def bankOf (s : State) (c b : Nat) : Bank := sget Bank.reset (coreOf s c).banks b
def setBank (s : State) (c b : Nat) (x : Bank) : State :=
  updCore s c (fun k => { k with banks := sset Bank.reset k.banks b x })
def updBank (s : State) (c b : Nat) (f : Bank → Bank) : State := setBank s c b (f (bankOf s c b))

def regsOf (s : State) (c b : Nat) : Regs := (bankOf s c b).regs
def setRegs (s : State) (c b : Nat) (r : Regs) : State := updBank s c b (fun k => { k with regs := r })
def updRegs (s : State) (c b : Nat) (f : Regs → Regs) : State := setRegs s c b (f (regsOf s c b))

def dieOf (s : State) (d : Nat) : Die := sget Die.reset s.dies d
def setDie (s : State) (d : Nat) (x : Die) : State := { s with dies := sset Die.reset s.dies d x }
def updDie (s : State) (d : Nat) (f : Die → Die) : State := setDie s d (f (dieOf s d))

def foldOf (s : State) (f : Nat) : Fold := sget Fold.reset s.folds f
def setFold (s : State) (f : Nat) (x : Fold) : State := { s with folds := sset Fold.reset s.folds f x }

/-- The die of a core, its index on the die, its cluster on the die (09: 64 cores a die, eight clusters of eight). -/
def coreDie (c : Nat) : Nat := c / 64
def coreLocal (c : Nat) : Nat := c % 64
def coreCluster (c : Nat) : Nat := c % 64 / 8

def ctxOf (s : State) (x : Nat) : Option Context := aget s.ctxs x
def updCtx (s : State) (x : Nat) (f : Context → Context) : State := { s with ctxs := aupd s.ctxs x f }

def launchOf (s : State) (l : Nat) : Option Launch := aget s.launches l
def updLaunch (s : State) (l : Nat) (f : Launch → Launch) : State := { s with launches := aupd s.launches l f }

def taskOf (s : State) (t : Nat) : Option Task := aget s.tasks t
def updTask (s : State) (t : Nat) (f : Task → Task) : State := { s with tasks := aupd s.tasks t f }

/-- The banks of a core: three (09 R226). -/
def bankCount : Nat := 3

/-- The bank of a core that holds a task. -/
def bankHolding (s : State) (c t : Nat) : Option Nat :=
  (List.range bankCount).find? (fun b => (bankOf s c b).task == some t)

/-- A command queue of a bank (0 matrix, 1 vector, 2 copy, 3 collective). -/
def queueOf (s : State) (c b e : Nat) : List Cmd := sget [] (bankOf s c b).queues e
def setQueue (s : State) (c b e : Nat) (q : List Cmd) : State :=
  updBank s c b (fun k => { k with queues := sset [] k.queues e q })

/-! ### Packets between the dies (01 R12) -/

/-- What is left in a die's queue of a route, one for all the dies it sends to (log 84): any number of its packets have gone since
the last one came. -/
def portLeft (s : State) (d r : Nat) : Nat :=
  let n := sget 0 (dieOf s d).portQ r
  n - Config.freeIndex (s.fresh + r) % (n + 1)

/-- The route with the fewest packets queued, the lowest number among equals. -/
def leastRoute (q : Nat → Nat) : Nat := (List.range 4).foldl (fun m r => if q r < q m then r else m) 0

/-- A packet from die `a` to die `b` takes its route at the port of `a`; none within a die, or to or from another device (numbers
from 4 on). -/
def pickRoute (s : State) (a b : Nat) : State × BitVec 2 :=
  if a = b || 4 ≤ a || 4 ≤ b then (s, 0)
  else
    let best := leastRoute (portLeft s a)
    let queues := (List.range 4).foldl (fun m r => sset 0 m r (portLeft s a r + (if r = best then 1 else 0))) (dieOf s a).portQ
    ({ updDie s a (fun d => { d with portQ := queues }) with fresh := s.fresh + 4 }, BitVec.ofNat 2 best)

/-- A request leaves its core; the first transmission's route is the one it is counted on (08 R206, R207). -/
def postRequest (s : State) (first : Bool) (x : Request) : State :=
  let p := pickRoute s (coreDie x.req) x.owner
  let x := { x with route := p.2, orte := if first then p.2 else x.orte }
  { p.1 with net := { p.1.net with reqs := p.1.net.reqs ++ [x] } }

def postResponse (s : State) (x : Response) : State :=
  let p := pickRoute s x.owner (coreDie x.req)
  { p.1 with net := { p.1.net with resps := p.1.net.resps ++ [{ x with route := p.2 }] } }

def postNotice (s : State) (x : Notice) : State :=
  let p := pickRoute s x.owner (coreDie x.req)
  { p.1 with net := { p.1.net with notices := p.1.net.notices ++ [{ x with route := p.2 }] } }

def postArrival (s : State) (x : Arrival) : State :=
  let p := pickRoute s (coreDie x.fromCore) (coreDie x.core)
  { p.1 with net := { p.1.net with arrivals := p.1.net.arrivals ++ [{ x with route := p.2 }] } }

def postBlock (s : State) (x : CBlock) : State :=
  let p := pickRoute s (coreDie x.fromCore) (coreDie x.dstCore)
  { p.1 with net := { p.1.net with blocks := p.1.net.blocks ++ [{ x with route := p.2 }] } }

/-- The k-th block is answered: its acknowledgement, ticket or notice leaves for its sender (02 R43). -/
def answerBlock (s : State) (k : Nat) (f : CBlock → CBlock) : State :=
  match s.net.blocks[k]? with
  | none => s
  | some x =>
    let p := pickRoute s (coreDie x.dstCore) (coreDie x.fromCore)
    { p.1 with net := { p.1.net with blocks := changeAt (fun b => { f b with route := p.2 }) p.1.net.blocks k } }

/-- The k-th block, which its sender has kept, is sent again (02 R43). -/
def resendBlock (s : State) (k : Nat) : State :=
  match s.net.blocks[k]? with
  | none => s
  | some x =>
    let p := pickRoute s (coreDie x.fromCore) (coreDie x.dstCore)
    { p.1 with net := { p.1.net with blocks := changeAt (fun b => { b with st := 0, route := p.2 }) p.1.net.blocks k } }

/-- The acknowledgement of an x.rsw image, or its refusal, leaves for the sender (14 R391). -/
def answerImage (s : State) (x : Arrival) : State :=
  if x.rsw then (pickRoute s (coreDie x.core) (coreDie x.fromCore)).1 else s

/-- The dies of a membership other than `d`. -/
def otherDies (d : Nat) (mask : BitVec 256) : List Nat :=
  (List.range 4).filter (fun e => e != d && mask.extractLsb' (64 * e) 64 != 0)

/-- A post goes to every member of its collective: a packet to each other die that has one. -/
def postSignal (s : State) (x : Post) : State :=
  let d := coreDie x.core
  let p := (otherDies d x.mask).foldl (fun (p : State × List (Nat × BitVec 2)) e =>
    let q := pickRoute p.1 d e
    (q.1, p.2 ++ [(e, q.2)])) (s, [])
  { p.1 with net := { p.1.net with posts := p.1.net.posts ++ [{ x with routes := p.2 }] } }

/-- The agent of an instruction: its core, bank, task, context, and the launch's deterministic and race-check flags. -/
structure Who where
  core : Nat
  bank : Nat
  task : Nat
  ctx : Nat
  launch : Option Nat
deriving DecidableEq, Repr

/-- The task that runs on a core, as the agent of an instruction. -/
def whoRuns (s : State) (c : Nat) : Option Who :=
  match (coreOf s c).active with
  | none => none
  | some b =>
    match (bankOf s c b).task with
    | none => none
    | some t =>
      match taskOf s t with
      | none => none
      | some k => some { core := c, bank := b, task := t, ctx := k.ctx, launch := k.launch }

/-- A launch flag of an agent's task; false for a task of no launch (16 R420). -/
def launchFlag (s : State) (w : Who) (f : Launch → Bool) : Bool :=
  match w.launch with
  | some l => (match launchOf s l with
    | some x => f x
    | none => false)
  | none => false

/-- Cores and engines run: RUN, or the quiesce of the hold-up sequence (01 Table 3, R22; 04 R84, R86). -/
def enginesRun (s : State) : Bool :=
  s.pm.st == .run || (s.pm.st == .holdUp && s.pm.lossState == .run && !s.pm.quiesced)

/-- The control core of a bank issues: RUN, or its finalisation window (04 R84). -/
def controlRuns (s : State) (c b : Nat) : Bool :=
  let k := bankOf s c b
  (s.pm.st == .run || (s.pm.st == .holdUp && k.window)) && !k.frozen

/-! ### Monitor units (03 R79, R80) -/

def setMon (s : State) (n : Nat) (m : Monitor) : State :=
  { s with host := { s.host with mon := sset Monitor.reset s.host.mon n m } }

/-- The bin of a sample (03 R80). -/
def monBin (cfg : Word) (v : BitVec 32) : Nat :=
  let shift := fld cfg 32 5
  let base := fld cfg 0 32
  if cfg.getLsbD 39 then if v.toNat < base then 0 else Nat.min 31 ((v.toNat - base) / 2 ^ shift)
  else
    let x := v.toNat / 2 ^ shift
    if x = 0 then 0 else Nat.min 31 (Nat.log2 x + 1)

/-- A sample is captured. -/
def Monitor.take (m : Monitor) (v : BitVec 32) : Monitor :=
  { m with mn := if v.toNat < m.mn.toNat then v else m.mn, mx := if m.mx.toNat < v.toNat then v else m.mx, count := m.count + 1,
           bins := supd 0 m.bins (monBin m.cfg v) (fun b => if b = 0xFFFFFFFF then b else b + 1) }

/-- A unit captures a source, which for a core's source names the core in SEL (03 R79, Table 9). -/
def Monitor.captures (m : Monitor) (src : Nat) (core : Option Nat) : Bool :=
  m.cfg.getLsbD 63 && fld m.cfg 48 8 == src && core.all (fun n => fld m.cfg 40 8 == n)

/-- The units of a die that capture a source. -/
def capturing (s : State) (die src : Nat) (core : Option Nat) : List Nat :=
  ((List.range 16).map (16 * die + ·)).filter (fun n => (sget Monitor.reset s.host.mon n).captures src core)

/-- They take a value. -/
def monTake (s : State) (die src : Nat) (core : Option Nat) (v : BitVec 32) : State :=
  (capturing s die src core).foldl (fun s n => setMon s n ((sget Monitor.reset s.host.mon n).take v)) s

/-- An event of a source that measures a time: its value is free, since the model counts no cycle (log 19). -/
def monFree (s : State) (die src : Nat) (core : Option Nat) : State :=
  if (capturing s die src core).isEmpty then s
  else monTake { s with fresh := s.fresh + 1 } die src core ((Config.freeValue s.fresh).setWidth 32)

end Sys2Proof.Machine
end

