-- ==== Sys2Proof/Machine/Memory.lean ====
section
/-!
DEFINITION. Physical memory: the address map (07 R162, Table 1), the pool decoders (07 R164), bytes and words at physical
addresses, and the canonical form of memory.
-/

namespace Sys2Proof.Machine

/-- A row of the physical address map (07 Table 1). -/
inductive Row where
  | near (die : Nat)
  | second | pool | host | holdUp
deriving DecidableEq, Repr

/-- The row an address lies in, by range. -/
def rowOf (pa : Nat) : Option Row :=
  if pa < 0x800000000 then some (.near (pa / 0x200000000))
  else if 0x100000000000 ≤ pa ∧ pa < 0x140000000000 then some .second
  else if 0x2000000000000 ≤ pa ∧ pa < 0x4000000000000 then some .pool
  else if 0x8000000000000 ≤ pa ∧ pa < 0xC000000000000 then some .host
  else if 0xF000000000000 ≤ pa ∧ pa < 0xF000100000000 then some .holdUp
  else none

def Row.isNear : Row → Bool
  | .near _ => true
  | _ => false

/-- A pool decoder's fields (07 Table 1a). -/
def decEn (d : BitVec 128) : Bool := d.getLsbD 127
def decBase (d : BitVec 128) : Nat := (d.extractLsb' 92 24).toNat
def decIw (d : BitVec 128) : Nat := (d.extractLsb' 90 2).toNat
def decPort (d : BitVec 128) : Nat := (d.extractLsb' 88 2).toNat
def decSize (d : BitVec 128) : Nat := (d.extractLsb' 64 24).toNat
def decDpa (d : BitVec 128) : Nat := (d.extractLsb' 0 36).toNat

/-- A decoder covers a pool address (07 R164). -/
def decCovers (d : BitVec 128) (pa : Nat) : Bool :=
  decEn d && decBase d * 2 ^ 28 ≤ pa && pa < (decBase d + decSize d) * 2 ^ 28

def poolDecOf (s : State) (n : Nat) : BitVec 128 := sget 0 s.host.poolDec n

/-- The decoder that decodes a pool address: the lowest-numbered enabled one (07 R164). With `issue`, a decoder that
is draining no longer accepts the access. -/
def poolDecoder (s : State) (issue : Bool) (pa : Nat) : Option Nat :=
  (List.range 8).find? (fun n => decCovers (poolDecOf s n) pa && !(issue && (aget s.host.poolDrain n).isSome))

/-- The port and pool address a decoder gives (07 R164), as one key above every physical address. -/
def poolKey (d : BitVec 128) (pa : Nat) : Nat :=
  let w := 2 ^ decIw d
  let i := (pa - decBase d * 2 ^ 28) / 2 ^ 12
  let port := decPort d + i % w
  let addr := decDpa d * 2 ^ 28 + i / w * 2 ^ 12 + pa % 4096
  2 ^ 68 * (1 + port) + addr

/-- The key under which memory holds the byte of a physical address: the address itself, or the pool's port and pool
address. -/
def memKey (s : State) (pa : Nat) : Nat :=
  if rowOf pa = some .pool then
    match poolDecoder s false pa with
    | some n => poolKey (poolDecOf s n) pa
    | none => pa
  else pa

/-- An access to the address can be issued: it lies in a row of the map and, in the pool row, an enabled decoder covers it (07 R162). -/
def reachable (s : State) (pa : Nat) : Bool :=
  match rowOf pa with
  | none => false
  | some .pool => (poolDecoder s true pa).isSome
  | some _ => true

/-- What an unlisted byte of memory reads as (log 2). -/
def unlistedByte : Byte := 0

/-- Memory is in its canonical form: addresses strictly rising, no listed byte equal to what an unlisted one reads as. -/
def memoryWf : List Host.Cell → Bool
  | [] => true
  | [(_, v)] => v != unlistedByte
  | (k, v) :: (k', v') :: r => v != unlistedByte && k < k' && memoryWf ((k', v') :: r)

/-- The byte under a key. -/
def byteAt (m : List Host.Cell) (key : Nat) : Byte := sget unlistedByte m key

/-- One byte at a physical address. -/
def readByte (s : State) (pa : Nat) : Byte := byteAt s.mem (memKey s pa)

/-- The state with one byte stored at a physical address. -/
def writeByte (s : State) (pa : Nat) (v : Byte) : State :=
  { s with mem := sset unlistedByte s.mem (memKey s pa) v }

/-- `n` bytes from a physical address. -/
def readBytes (s : State) (pa n : Nat) : List Byte := (List.range n).map (fun i => readByte s (pa + i))

/-- Bytes stored from a physical address on. -/
def writeBytes (s : State) (pa : Nat) : List Byte → State
  | [] => s
  | v :: r => writeBytes (writeByte s pa v) (pa + 1) r

/-- Bytes stored where a mask lists one: `none` leaves the byte. -/
def writeMasked (s : State) (pa : Nat) : List (Option Byte) → State
  | [] => s
  | none :: r => writeMasked s (pa + 1) r
  | some v :: r => writeMasked (writeByte s pa v) (pa + 1) r

/-- Bytes of a buffer replaced from a place on. -/
def layAt (buf : List Byte) (at_ : Nat) (bs : List Byte) : List Byte := buf.take at_ ++ bs ++ buf.drop (at_ + bs.length)

/-- The digits of a T5 byte; a byte of 243 and more is five zero digits (10 R255). -/
def t5Digits (b : Byte) : List Nat := (List.range 5).map (fun d => if 243 ≤ b.toNat then 0 else b.toNat / 3 ^ d % 3)

def t5Byte (ds : List Nat) : Byte := BitVec.ofNat 8 (ds.foldr (fun d n => d + 3 * n) 0)

/-- One digit of a T5 byte replaced. -/
def putDigit (b : Byte) (d v : Nat) : Byte := t5Byte ((t5Digits b).set d v)

/-- T5 digits stored where a mask lists one, five to a byte (14 R384). -/
def writeDigits (s : State) (pa : Nat) (ds : List (Option Byte)) : State :=
  (ds.zipIdx).foldl (fun s e =>
    match e.1 with
    | some v => writeByte s (pa + e.2 / 5) (putDigit (readByte s (pa + e.2 / 5)) (e.2 % 5) v.toNat)
    | none => s) s

/-- An 8-byte little-endian word at a physical address. -/
def readWord (s : State) (pa : Nat) : Word := leWord (readBytes s pa 8)
def writeWord (s : State) (pa : Nat) (w : Word) : State := writeBytes s pa (wordBytes w)

/-- Where an access is served. -/
def targetOf (home : Nat) : Row → Target
  | .near d => .die d
  | .second => .die home
  | .pool => .pool
  | .host => .host
  | .holdUp => .holdUp

/-- A granule that some context's checkpoint has still to copy covers the address (04 R102). -/
def ckptPending (s : State) (pa : Nat) : Bool :=
  s.ctxs.any (fun e => !e.2.ckpt.restore && e.2.ckpt.pending.any (fun g => g.2.2 ≤ pa && pa < g.2.2 + 0x10000))

/-- A write of `n` bytes would touch a granule pending for a checkpoint. -/
def writeStalls (s : State) (pa n : Nat) : Bool := ckptPending s pa || ckptPending s (pa + (n - 1))

/-- The notification page: the top 4 KiB page of the 56-bit space (03 R75). -/
def nva : Nat := 0x00FFFFFFFFFFF000
def isNva (va : Nat) : Bool := nva ≤ va && va < nva + 4096

/-- An MSI-X table entry after reset: its vector is masked, as the PCIe specification has it (log 7). -/
def msixReset : BitVec 128 := BitVec.ofNat 128 (2 ^ 96)

/-- MSI-X: the message of a vector is sent, or its pending bit set while it is masked (03 R55). -/
def sendVector (s : State) (v : Nat) : State :=
  let e := sget msixReset s.host.msixTable v
  if s.host.msixMask || e.getLsbD 96 then
    { s with host := { s.host with msixPba := s.host.msixPba ||| BitVec.ofNat 32 (2 ^ v) } }
  else if s.host.msixEnable then
    { s with host := { s.host with msgs :=
      s.host.msgs ++ [{ vec := v, addr := e.extractLsb' 0 64, data := e.extractLsb' 64 32 }] } }
  else s

end Sys2Proof.Machine
end

