-- ==== Sys2Proof/Machine/Translate.lean ====
section
/-!
DEFINITION. Translation (07 R165 to R178): the heap window and its attribute table, the four-level walk, the cached
entries an access may use in place of changed ones (R176), the rights, and the split of an access into sector pieces
(R195).
-/

namespace Sys2Proof.Machine

/-- What a translated byte's page says (07 R167, R170). -/
structure Leaf where
  /-- physical address of the byte -/
  pa : Nat
  fmt : BitVec 6
  geo : BitVec 4
  home : Nat
  x : Bool
  ew : Bool
  er : Bool
  w : Bool
  rd : Bool
  heap : Bool
deriving DecidableEq, Repr

/-- The right an access needs (07 R172). -/
inductive Right where
  | rd | w | rdw | x | er | ew
deriving DecidableEq, Repr

def Leaf.allows (l : Leaf) : Right → Bool
  | .rd => l.rd
  | .w => l.w
  | .rdw => l.rd && l.w
  | .x => l.x
  | .er => l.er
  | .ew => l.ew

def Right.writes : Right → Bool
  | .w | .rdw | .ew => true
  | _ => false

/-- What a translation answers. -/
inductive Xlat where
  | leaf (l : Leaf)
  /-- levels 3 and 4 lie with another die, which the entry at level 2 names (07 R177) -/
  | remote (home : Nat)
  /-- a miss at a level (07 R171) -/
  | miss (level : Nat)
  | bad (t : Trap)
deriving DecidableEq, Repr

/-- The row's tier bit (07 R167): 0 for the near tier. -/
def tierOf (pa : Nat) : Option Bool := (rowOf pa).map (fun r => !r.isNear)

/-- The die of a near-tier address. -/
def nearDie (pa : Nat) : Option Nat :=
  match rowOf pa with
  | some (.near d) => some d
  | _ => none

/-- The rule for mapping the hold-up store (04 R91). -/
def holdUpOk (k : Context) (l : Leaf) : Bool :=
  match rowOf l.pa with
  | some .holdUp => k.keeper && !l.w && !l.ew && !l.x
  | _ => true

/-- A leaf is usable: its byte is reachable and the hold-up rule holds; otherwise PROTECTION (07 R162, 04 R91). -/
def finishLeaf (s : State) (k : Context) (l : Leaf) : Xlat :=
  if reachable s l.pa && holdUpOk k l then .leaf l else .bad .protection

/-! ### The heap window -/

/-- The address lies in the heap window (07 R165). -/
def inHeap (k : Context) (va : Nat) : Bool :=
  k.heapLimit != 0 && k.heapBase.toNat ≤ va && va < k.heapBase.toNat + k.heapLimit.toNat

/-- A heap attribute entry in memory (07 R166). -/
def heapEntry (s : State) (k : Context) (page : Nat) : BitVec 32 :=
  BitVec.ofNat 32 (leNat (readBytes s (k.hat.toNat + 4 * page) 4))

/-- What a heap attribute entry makes of an address (07 R165 to R168). -/
def heapLeaf (s : State) (k : Context) (e : BitVec 32) (va : Nat) : Xlat :=
  let pa := (va + k.heapOff.toNat) % 2 ^ 64
  let home := (e.extractLsb' 20 2).toNat
  if !e.getLsbD 0 then .bad .protection
  else if e.extractLsb' 1 13 != 0 then .bad .reservedField
  else if (tierOf pa).isSome && tierOf pa != some (e.getLsbD 19) then .bad .reservedField
  else if (nearDie pa).isSome && nearDie pa != some home then .bad .reservedField
  else
    finishLeaf s k
      { pa := pa, fmt := e.extractLsb' 26 6, geo := e.extractLsb' 22 4, home := home, x := e.getLsbD 18,
        ew := e.getLsbD 17, er := e.getLsbD 16, w := e.getLsbD 15, rd := e.getLsbD 14, heap := true }

/-- A core caches a heap attribute entry; older ones of the page stay until they are invalidated (07 R168, R176). -/
def hatAdd (s : State) (c x page : Nat) (e : BitVec 32) : State :=
  updCore s c (fun q => if q.hatCache.contains (x, page, e) then q else { q with hatCache := (x, page, e) :: q.hatCache })

/-- One of some cached entries, or none of them for the one in memory: each access chooses for itself (07 R176). -/
def chooseOld {α : Type} (old : List α) : Act (Option α) := do
  if old.isEmpty then pure none
  else
    let i ← drawIndex (old.length + 1)
    pure old[i]?

/-- The heap attribute entry an access uses: the one in memory, or an older one its core has cached (07 R168, R176). -/
def heapEntryUsed (core : Option Nat) (x : Nat) (k : Context) (page : Nat) : Act (BitVec 32) := do
  let s ← state
  let now := heapEntry s k page
  match core with
  | none => pure now
  | some c => do
    match ← chooseOld ((coreOf s c).hatCache.filter (fun e => e.1 == x && e.2.1 == page && e.2.2 != now)) with
    | some e => pure e.2.2
    | none => do
      change (fun s => hatAdd s c x page now)
      pure now

/-! ### The paged tables -/

/-- The index bits of a level start here (07 Table 3): the log2 of the span of one entry. -/
def levelShift : Nat → Nat
  | 1 => 46
  | 2 => 36
  | 3 => 26
  | _ => 16

def levelIndex (level va : Nat) : Nat := va / 2 ^ levelShift level % 1024

def pteAddr (table : Word) (level va : Nat) : Nat := table.toNat + 8 * levelIndex level va

def pteValid (e : Word) : Bool := e.getLsbD 0
def pteLeaf (e : Word) : Bool := e.getLsbD 1
def pteHome (e : Word) : Nat := fld e 52 2
def pteNext (e : Word) : Word := BitVec.ofNat 64 (fld e 12 40 * 4096)

/-- A non-leaf entry's reserved bits are zero at its level (07 R170). -/
def nonLeafOk (level : Nat) (e : Word) : Bool :=
  fld e 2 10 == 0 && fld e 54 10 == 0 && (level == 2 || fld e 52 2 == 0)

/-- A leaf entry is legal at its level under a level-2 HOME (07 R171); otherwise RESERVED_FIELD. -/
def leafOk (level : Nat) (above : Option Nat) (e : Word) : Bool :=
  let pa := fld e 16 36 * 0x10000
  fld e 12 4 == 0 && fld e 2 2 == 0 && level != 1 && pa % 2 ^ levelShift level == 0 &&
    ((tierOf pa).isNone || tierOf pa == some (e.getLsbD 9)) &&
    (above.isNone || above == some (pteHome e)) &&
    ((nearDie pa).isNone || nearDie pa == some (pteHome e))

/-- The leaf an entry makes of an address (07 Table 4). -/
def leafOf (level : Nat) (e : Word) (va : Nat) : Leaf :=
  { pa := fld e 16 36 * 0x10000 + va % 2 ^ levelShift level, fmt := BitVec.ofNat 6 (fld e 58 6),
    geo := BitVec.ofNat 4 (fld e 54 4), home := pteHome e, x := e.getLsbD 8, ew := e.getLsbD 7, er := e.getLsbD 6,
    w := e.getLsbD 5, rd := e.getLsbD 4, heap := false }

/-- The walker sets A, and D on a write, with a sector atomic on the entry (07 R174). -/
def setAccessed (s : State) (addr : Nat) (write : Bool) : State :=
  let e := readWord s addr
  let e' := e ||| BitVec.ofNat 64 (2 ^ 10 + bitAt 11 write)
  if e' = e then s else writeWord s addr e'

/-- The entry a walker reads at a level: the one in memory, or an older non-leaf one its die's walk cache holds (07 R175, R176). -/
def readEntry (die x level va : Nat) (table : Word) : Act Word := do
  let s ← state
  let now := readWord s (pteAddr table level va)
  let key := va / 2 ^ levelShift level
  let isOld := fun (e : Nat × Nat × Nat × Word) => e.1 == x && e.2.1 == level && e.2.2.1 == key && e.2.2.2 != now
  let keep := fun (s : State) => updDie s die (fun d =>
    if d.walkCache.contains (x, level, key, now) then d else { d with walkCache := (x, level, key, now) :: d.walkCache })
  match ← chooseOld ((dieOf s die).walkCache.filter isOld) with
  | some e => pure e.2.2.2
  | none => do
    if pteValid now && !pteLeaf now && level ≤ 3 then change keep
    pure now

/-- What a walk answers: a leaf entry with its level and the address it was read from. -/
inductive Walked where
  | leaf (level : Nat) (e : Word) (addr : Nat)
  | remote (home : Nat)
  | miss (level : Nat)
  | bad (t : Trap)
deriving DecidableEq, Repr

/-- Levels 3 and 4 under a level-2 entry (07 R169 to R171). -/
def walkLow (die x va : Nat) (e2 : Word) : Act Walked := do
  let t3 := pteNext e2
  let e3 ← readEntry die x 3 va t3
  if !pteValid e3 then pure (.miss 3)
  else if pteLeaf e3 then
    pure (if leafOk 3 (some (pteHome e2)) e3 then .leaf 3 e3 (pteAddr t3 3 va) else .bad .reservedField)
  else if !nonLeafOk 3 e3 then pure (.bad .reservedField)
  else do
    let t4 := pteNext e3
    let e4 ← readEntry die x 4 va t4
    if !pteValid e4 then pure (.miss 4)
    else
      pure (if pteLeaf e4 && leafOk 4 (some (pteHome e2)) e4 then .leaf 4 e4 (pteAddr t4 4 va)
        else .bad .reservedField)

/-- The whole walk as one die sees it. `issuer` names the die whose remote pages it does not walk below level 2 (07 R177);
none walks everything (the owner die, and the device's own accesses). -/
def walk (die : Nat) (issuer : Option Nat) (x : Nat) (k : Context) (va : Nat) : Act Walked := do
  let e1 ← readEntry die x 1 va k.ptRoot
  if !pteValid e1 then pure (.miss 1)
  else if pteLeaf e1 || !nonLeafOk 1 e1 then pure (.bad .reservedField)
  else do
    let t2 := pteNext e1
    let e2 ← readEntry die x 2 va t2
    if !pteValid e2 then pure (.miss 2)
    else if pteLeaf e2 then
      if !leafOk 2 none e2 then pure (.bad .reservedField)
      else
        pure (if issuer.isSome && issuer != some (pteHome e2) then .remote (pteHome e2)
          else .leaf 2 e2 (pteAddr t2 2 va))
    else if !nonLeafOk 2 e2 then pure (.bad .reservedField)
    else if issuer.isSome && issuer != some (pteHome e2) then pure (.remote (pteHome e2))
    else walkLow die x va e2

/-- The answer of a walk for an access that needs `right`. A, and D for a write, are set in the leaf entry before the access performs (07 R174);
an access without its right does not perform, and sets neither (log 68). -/
def walkedLeaf (k : Context) (va : Nat) (right : Right) : Walked → Act Xlat
  | .remote h => pure (.remote h)
  | .miss n => pure (.miss n)
  | .bad t => pure (.bad t)
  | .leaf level e addr => do
    let s ← state
    match finishLeaf s k (leafOf level e va) with
    | .leaf l => do
      change (fun s => if l.allows right then setAccessed s addr right.writes else s)
      pure (.leaf l)
    | r => pure r

/-- A cached translation covers an address of a context. -/
def TlbEntry.covers (e : TlbEntry) (x va : Nat) : Bool :=
  e.ctx == x && e.vpn * 0x10000 / 2 ^ levelShift e.level == va / 2 ^ levelShift e.level

/-- The translations that a core caches of an address. -/
def tlbOf (s : State) (core : Option Nat) (x va : Nat) : List TlbEntry :=
  match core with
  | none => []
  | some c => (coreOf s c).tlb.filter (fun e => e.covers x va)

/-- A core caches a translation; older ones of its page stay until they are invalidated (07 R175, R176; log 59). -/
def tlbAdd (s : State) (core : Option Nat) (e : TlbEntry) : State :=
  match core with
  | none => s
  | some c => updCore s c (fun q => if q.tlb.contains e then q else { q with tlb := e :: q.tlb })

/-- A cached translation differs from what a walk answers. -/
def TlbEntry.differs (t : TlbEntry) : Walked → Bool
  | .leaf level e _ => !(level == t.level && (e &&& ~~~0xC00) == (t.pte &&& ~~~0xC00))
  | _ => true

/-- A walk that answers a leaf leaves its entry, as memory now holds it, in the core's cache. -/
def cacheLeaf (s : State) (core : Option Nat) (x va : Nat) (r : Walked) : State :=
  match r with
  | .leaf level e addr => tlbAdd s core ⟨x, va / 0x10000, e ||| (readWord s addr &&& 0xC00), level⟩
  | _ => s

/-- Translation of an address by a core (or, without one, by the device) on a die. -/
def translate (core : Option Nat) (die : Nat) (issuer : Option Nat) (x : Nat) (k : Context) (va : Nat) (right : Right) :
    Act Xlat := do
  if isNva va then pure (.bad .protection)
  else if inHeap k va then do
    let e ← heapEntryUsed core x k ((va - k.heapBase.toNat) / 0x200000)
    pure (heapLeaf (← state) k e va)
  else do
    let s ← state
    let r ← walk die issuer x k va
    match ← chooseOld ((tlbOf s core x va).filter (fun t => t.differs r && (!right.writes || t.pte.getLsbD 11))) with
    | some t => pure (finishLeaf (← state) k (leafOf t.level t.pte va))
    | none => do
      let a ← walkedLeaf k va right r
      change (fun s => cacheLeaf s core x va r)
      pure a

/-! ### Where an address lies now -/

/-- The leaf entry that the tables in memory hold for an address, every level walked and nothing changed. -/
def peekFrom (s : State) (va : Nat) : Nat → Nat → Word → Option (Nat × Word)
  | 0, _, _ => none
  | fuel + 1, level, table =>
    let e := readWord s (pteAddr table level va)
    if !pteValid e then none else if pteLeaf e then some (level, e) else peekFrom s va fuel (level + 1) (pteNext e)

/-- The leaf of an address as memory stands; none where it has no page. -/
def peekLeaf (s : State) (k : Context) (va : Nat) : Option Leaf :=
  if isNva va then none
  else if inHeap k va then
    match heapLeaf s k (heapEntry s k ((va - k.heapBase.toNat) / 0x200000)) va with
    | .leaf l => some l
    | _ => none
  else (peekFrom s va 4 1 k.ptRoot).map (fun e => leafOf e.1 e.2 va)

/-- The physical address of a context's byte as memory stands. -/
def peekPa (s : State) (x va : Nat) : Option Nat :=
  match ctxOf s x with
  | some k => (peekLeaf s k va).map (fun l => l.pa)
  | none => none

/-! ### Sector pieces -/

/-- A sector piece of an access: its place in the access, its virtual address, its length (07 R195). -/
structure Piece where
  off : Nat
  va : Nat
  len : Nat
deriving DecidableEq, Repr

/-- The pieces of the `n` bytes from `va`; fuel bounds the number of pieces. -/
def piecesFrom (fuel off va n : Nat) : List Piece :=
  match fuel with
  | 0 => []
  | fuel + 1 =>
    if n = 0 then []
    else
      let len := Nat.min n (32 - va % 32)
      { off := off, va := va, len := len } :: piecesFrom fuel (off + len) (va + len) (n - len)

/-- The sector pieces of an access. -/
def pieces (va n : Nat) : List Piece := piecesFrom (n / 32 + 2) 0 va n

/-- An address of a memory access is legal: bits <63:56> zero (07 R162); otherwise PROTECTION with the address. -/
def checkVa (va : Word) : Act Unit := require (va.toNat < 2 ^ 56) .protection va

/-- Where a page's bytes are served and whether they are die-local to a core (08 R198). -/
def leafLocal (die : Nat) (l : Leaf) : Bool :=
  l.home == die && (match rowOf l.pa with
    | some (.near _) => true
    | some .second => true
    | _ => false)

def leafTarget (l : Leaf) : Target :=
  match rowOf l.pa with
  | some r => targetOf l.home r
  | none => .die l.home

/-- An access as the device finds it now: a remote one, whose owner translates it, at the physical address and target that the
tables in memory give its bytes; one without a page at a place of its own. -/
def seen (s : State) (a : Access) : Access :=
  if !a.remote then a
  else
    match (ctxOf s a.ctx).bind (fun k => peekLeaf s k a.va) with
    | some l => { a with pa := l.pa, target := leafTarget l }
    | none => { a with pa := 2 ^ 70 + a.va }

end Sys2Proof.Machine
end

