-- ==== Sys2Proof/Machine/Records.lean ====
section
/-!
DEFINITION. The structures a context hands to the device, read and written through the context's own translation (03 R422):
fault records (R70, R71), completion records (R67), task records (05 R106, R107), state arrays (R112).
-/

namespace Sys2Proof.Machine

/-- Why a device access to a context structure fails: the code of its fault record and the address that failed (03 R422). -/
structure DevFail where
  code : Trap
  va : Nat
deriving DecidableEq, Repr

/-- One byte range of a device access, translated: physical addresses of its pieces. A malformed entry counts as an invalid translation,
and a heap entry with V = 0 as a refused page (03 R422; log 83). -/
def devPieces (x : Nat) (k : Context) (right : Right) : List Piece → Act (Except DevFail (List (Nat × Piece)))
  | [] => pure (.ok [])
  | p :: r => do
    if p.va + p.len > 2 ^ 56 then pure (.error ⟨.protection, p.va⟩)
    else
      match ← translate none 0 none x k p.va right with
      | .miss _ => pure (.error ⟨.translation, p.va⟩)
      | .bad .reservedField => pure (.error ⟨.translation, p.va⟩)
      | .bad _ => pure (.error ⟨.protection, p.va⟩)
      | .remote _ => pure (.error ⟨.translation, p.va⟩)
      | .leaf l =>
        if !l.allows right then pure (.error ⟨.protection, p.va⟩)
        else
          match ← devPieces x k right r with
          | .error e => pure (.error e)
          | .ok ps => pure (.ok ((l.pa, p) :: ps))

/-- The device reads `n` bytes of a context structure. -/
def devRead (x va n : Nat) : Act (Except DevFail (List Byte)) := do
  match ctxOf (← state) x with
  | none => pure (.error ⟨.translation, va⟩)
  | some k =>
    match ← devPieces x k .rd (pieces va n) with
    | .error e => pure (.error e)
    | .ok ps =>
      let s ← state
      pure (.ok (ps.flatMap (fun q => readBytes s q.1 q.2.len)))

/-- The device writes bytes of a context structure: all of it translates before any byte is written. -/
def devWrite (x va : Nat) (bs : List Byte) : Act (Except DevFail Unit) := do
  match ctxOf (← state) x with
  | none => pure (.error ⟨.translation, va⟩)
  | some k =>
    match ← devPieces x k .w (pieces va bs.length) with
    | .error e => pure (.error e)
    | .ok ps =>
      change (fun s => ps.foldl (fun s q => writeBytes s q.1 ((bs.drop q.2.off).take q.2.len)) s)
      pure (.ok ())

/-- Does every page of a range translate with RD and W (05 R111)? -/
def devBoth (x va n : Nat) : Act Bool := do
  match ctxOf (← state) x with
  | none => pure false
  | some k =>
    match ← devPieces x k .rdw (pieces va n) with
    | .error _ => pure false
    | .ok _ => pure true

def devReadWord (x va : Nat) : Act (Except DevFail Word) := do
  match ← devRead x va 8 with
  | .error e => pure (.error e)
  | .ok bs => pure (.ok (leWord bs))

def devWriteWord (x va : Nat) (w : Word) : Act (Except DevFail Unit) := devWrite x va (wordBytes w)

/-! ### Fault records -/

/-- The 32 bytes of a fault record (03 R70). -/
def faultBytes (code : BitVec 8) (core : Nat) (tag : BitVec 32) (wid pc info : Word) : List Byte :=
  code :: BitVec.ofNat 8 core :: 0 :: 0 :: (leBytes 4 tag.toNat ++ wordBytes wid ++ wordBytes pc ++ wordBytes info)

/-- The free space of a fault queue of 2^k records (03 R71). -/
def faultFree (k : Nat) (prod cons : Nat) : Nat :=
  let used := (prod + 2 ^ 32 - cons % 2 ^ 32) % 2 ^ 32
  if used > 2 ^ k then 0 else 2 ^ k - used

/-- The device writes a fault record, or raises DROP when the queue is full; a queue it cannot reach takes nothing (03 R71, R422). -/
def faultRecord (x : Nat) (record : List Byte) : Act Unit := do
  match ctxOf (← state) x with
  | none => pure ()
  | some k =>
    let q := k.fqBase.toNat
    match ← devReadWord x q, ← devReadWord x (q + 8) with
    | .ok prod, .ok cons =>
      let p := prod.toNat % 2 ^ 32
      if faultFree k.fqLog p cons.toNat = 0 then
        match ← devReadWord x (q + 16) with
        | .ok drop =>
          let d := drop.toNat % 2 ^ 32
          let _ ← devWriteWord x (q + 16) (BitVec.ofNat 64 (Nat.min (d + 1) 0xFFFFFFFF))
        | .error _ => pure ()
      else
        match ← devWrite x (q + 32 + 32 * (p % 2 ^ k.fqLog)) record with
        | .ok _ =>
          let _ ← devWriteWord x q (BitVec.ofNat 64 ((p + 1) % 2 ^ 32))
        | .error _ => pure ()
    | _, _ => pure ()

/-- The fault record of a device access that failed (03 R422). -/
def devFaultRecord (x : Nat) (tag : BitVec 32) (e : DevFail) : Act Unit :=
  faultRecord x (faultBytes e.code.code 0xFF tag 0 0 (BitVec.ofNat 64 e.va))

/-! ### Notification and completion -/

/-- The value of vector `v` is written to the context's notification page, then its message is sent (03 R75). -/
def notifyVector (s : State) (x v : Nat) (value : Word) : State :=
  match ctxOf s x with
  | none => s
  | some k => sendVector (writeWord s (k.npage.toNat + 8 * v) value) v

/-- A completion record with a status and a code, then the notification the launch asked for; its submission-queue entry
becomes free (03 R63, R67, R422). -/
def completionRecord (l : Launch) (status : Nat) (code : BitVec 8) : Act Unit := do
  let first : Word := BitVec.ofNat 64 (l.tag.toNat + status * 2 ^ 32 + code.toNat * 2 ^ 40)
  let done : Word := BitVec.ofNat 64 (l.seq + 1)
  match ← devWriteWord l.ctx l.caddr.toNat first with
  | .error e => devFaultRecord l.ctx l.tag { e with va := l.caddr.toNat }
  | .ok _ =>
    match ← devWriteWord l.ctx (l.caddr.toNat + 8) done with
    | .error e => devFaultRecord l.ctx l.tag { e with va := l.caddr.toNat }
    | .ok _ =>
      if l.notify then change (fun s => notifyVector s l.ctx l.vec.toNat done)
  change (fun s => updCtx s l.ctx (fun k => { k with freed := k.freed + 1 }))

/-! ### Task records -/

/-- A task record from its 64 bytes (05 R106, Table 1). -/
def recordOf (bs : List Byte) : Record :=
  let at8 := fun o => leWord ((bs.drop o).take 8)
  let at2 := fun o => leNat ((bs.drop o).take 2)
  { wid := at8 0x00, entry := at8 0x08, dlist := at8 0x18, depcnt := at2 0x20, nsucc := at2 0x22,
    sdem := BitVec.ofNat 16 (at2 0x24), cdem := bs.getD 0x26 0, prio := bs.getD 0x27 0, hint := at8 0x28,
    flags := BitVec.ofNat 32 (leNat ((bs.drop 0x30).take 4)), arg := at8 0x38 }

/-- The 64 bytes of a task record with a weight (05 R117). -/
def recordBytes (r : Record) (weight : Word) : List Byte :=
  wordBytes r.wid ++ wordBytes r.entry ++ wordBytes weight ++ wordBytes r.dlist ++ leBytes 2 r.depcnt ++
    leBytes 2 r.nsucc ++ leBytes 2 r.sdem.toNat ++ [r.cdem, r.prio] ++ wordBytes r.hint ++ leBytes 4 r.flags.toNat ++
    [0, 0, 0, 0] ++ wordBytes r.arg

/-- The fields of FLAGS (05 R107, Table 2). -/
def Record.die (r : Record) : Nat := (r.flags.extractLsb' 18 2).toNat
def Record.diePin (r : Record) : Bool := r.flags.getLsbD 17
def Record.core (r : Record) : Nat := (r.flags.extractLsb' 8 8).toNat
def Record.pin (r : Record) : Bool := r.flags.getLsbD 2
def Record.affin (r : Record) : Bool := r.flags.getLsbD 1
def Record.noSteal (r : Record) : Bool := r.flags.getLsbD 0

/-- A record's bytes are legal: no reserved bit set, no value out of range, aligned (05 R106, R107, R111). WEIGHT is zero
in records that software builds. -/
def recordOk (bs : List Byte) : Bool :=
  let r := recordOf bs
  (bs.drop 0x34).take 4 == [0, 0, 0, 0] && leNat ((bs.drop 0x10).take 8) == 0 &&
    r.entry.toNat % 32 == 0 && r.dlist.toNat % 2 == 0 && (r.nsucc != 0 || r.dlist == 0) &&
    r.sdem.toNat ≤ 256 && (r.cdem.extractLsb' 0 7).toNat ≤ 64 &&
    (!r.cdem.getLsbD 7 || r.cdem.extractLsb' 0 7 == 0) && r.prio.extractLsb' 4 4 == 0 &&
    r.flags.extractLsb' 20 12 == 0 && !r.flags.getLsbD 16 && r.flags.extractLsb' 3 5 == 0 && r.core < 64

/-- The priority of a record: its own or the given one, lowered to the ceiling (05 R108). -/
def recordPrio (r : Record) (given ceiling : Nat) : Nat :=
  Nat.min (if r.prio.getLsbD 3 then given else (r.prio.extractLsb' 0 3).toNat) ceiling

/-- The demand of a record against the launch's SPART and CPART (05 R106, R108). -/
def recordS (r : Record) (spart : Nat) : Nat := if r.sdem = 0 then spart else r.sdem.toNat
def recordC (r : Record) (cpart : Nat) : Nat :=
  if r.cdem.getLsbD 7 then cpart else (r.cdem.extractLsb' 0 7).toNat

/-! ### The state array (05 R112) -/

/-- A state-array entry: remaining count <15:0>, state <17:16>. -/
def stateWord (count state : Nat) : List Byte := leBytes 4 (count % 0x10000 + state * 0x10000)

def readStateEntry (l : Launch) (i : Nat) : Act (Except DevFail (Nat × Nat)) := do
  match ← devRead l.ctx (l.stateArr.toNat + 4 * i) 4 with
  | .error e => pure (.error e)
  | .ok bs => pure (.ok (leNat bs % 0x10000, leNat bs / 0x10000 % 4))

def writeStateEntry (l : Launch) (i count state : Nat) : Act (Except DevFail Unit) :=
  devWrite l.ctx (l.stateArr.toNat + 4 * i) (stateWord count state)

end Sys2Proof.Machine
end

