-- ==== Sys2Proof/Machine/Tasks.lean ====
section
/-!
DEFINITION. The shepherd's tables (05): intake of ready tasks (R116, R117), successor lists (R113), the order log (06 R157 to
R159), what the end of a task or a launch removes (03 R69, 16 R420).
-/

namespace Sys2Proof.Machine

/-! ### Sieve (10 R274) and the order log -/

/-- Sieve (10 R274). -/
def sieve (k c : Word) : Word :=
  let z := k + (c + 1) * 0x9E3779B97F4A7C15
  let z := (z ^^^ (z >>> 30)) * 0xBF58476D1CE4E5B9
  let z := (z ^^^ (z >>> 27)) * 0x94D049BB133111EB
  z ^^^ (z >>> 31)

/-! ### Pools -/

/-- Tasks that hold an entry of a die's pool (05 R116). -/
def poolTasks (s : State) (d : Nat) : List (Nat × Task) :=
  s.tasks.filter (fun e => e.2.place == .pool && e.2.die == d)

/-- Tasks in a launch's overflow queue (05 R117). -/
def overflowTasks (s : State) (l : Nat) : List (Nat × Task) :=
  s.tasks.filter (fun e => e.2.place == .overflow && e.2.launch == some l)

/-- The lowest free pool entry of a die. -/
def freeEntry (s : State) (d : Nat) : Nat :=
  let used := (poolTasks s d).map (fun e => e.2.entry)
  ((List.range (used.length + 1)).find? (fun n => !used.contains n)).getD 0

/-- Where a task that becomes ready comes from (05 Table 4). -/
inductive Source where
  | spawned | static | threshold | keeper
deriving DecidableEq, Repr

/-- The intake decision (05 R116, Table 4). -/
inductive Intake where
  | pool | overflow | state1 | spawnLimit | dropped | keeperEntry
deriving DecidableEq, Repr

/-- The overflow queue of a launch has room (05 R110, R117). -/
def overflowRoom (s : State) (l : Option Nat) : Bool :=
  match l with
  | none => false
  | some n =>
    match launchOf s n with
    | none => false
    | some k => k.ovfq != 0 && (overflowTasks s n).length < 2 ^ k.ovflog

/-- 05 R116, Table 4: a pool of 4,096 entries, 256 of them the low-water reserve. -/
def intake (s : State) (d : Nat) (l : Option Nat) (src : Source) : Intake :=
  let used := (poolTasks s d).length
  let free := used < 3840
  let reserve := used < 4096
  match src with
  | .spawned => if reserve then .pool else if overflowRoom s l then .overflow else .spawnLimit
  | .static => if free then .pool else if overflowRoom s l then .overflow else .state1
  | .threshold => if free then .pool else .dropped
  | .keeper => if reserve then .pool else .keeperEntry

/-! ### The end of tasks and launches -/

/-- A released store, an issued atomic of local memory, or a fence that some have passed: what a task's end leaves in the core's
port (03 R69 step 1; 08 R203). -/
def Access.outlives (a : Access) : Bool :=
  match a.kind with
  | .store | .stf | .barrier _ => true
  | .atomic => !a.remote
  | _ => false

/-- A bank that no longer holds a task: what the next task does not find (09 R226 keeps registers and rings). Released
stores and issued atomics stay until they perform. -/
def Bank.freed (k : Bank) : Bank :=
  { k with storeBuf := [], loads := [],
           inflight := k.inflight.filter Access.outlives, queues := [], tokens := [], tickets := [], cursor := none,
           peel := { k.peel with run := false }, rack := { k.rack with run := false }, window := false, frozen := false,
           pend := [], part := Part.empty, task := none, waitDesc := none, awaiting := none, awaitOuter := [], ckptWait := false,
           miss := none, mustTgt := false, restartTgt := false, checked := false, rstart := false, left := 0,
           leaving := false, overS := [], overC := [], peelSave := none, rackSave := none }

/-- A core without the bank of a task that has ended. -/
def freeBank (s : State) (c b : Nat) : State :=
  let s := updBank s c b Bank.freed
  updCore s c (fun k =>
    { k with active := if k.active = some b then none else k.active, shadows := k.shadows.filter (fun x => x != b),
             peelHold := k.peelHold.filter (· != b), rackHold := k.rackHold.filter (· != b) })

/-- The ticket entries of a core: those in its banks, and those saved with its streamed-out contexts. -/
def coreTickets (s : State) (c : Nat) : List Ticket :=
  (List.range bankCount).flatMap (fun b => (bankOf s c b).tickets.map (fun e => e.2)) ++
    (coreOf s c).streamed.flatMap (fun e => ((e.saved.map (fun k => k.tickets)).getD []).map (fun e => e.2))

/-- An entry of a context's key, owner and class, is left on a core. -/
def keyUsed (s : State) (c x : Nat) (key : Nat × BitVec 4) : Bool :=
  (coreTickets s c).any (fun t => t.acc.ctx == x && t.owner.toNat == key.1 && t.acc.cls == key.2)

/-- The owners close the windows of keys of a context on a core; its notices and close requests for them are discarded, and the core
knows of no open ticket (07 R191). -/
def closeKeys (s : State) (c x : Nat) (keys : List (Nat × BitVec 4)) : State :=
  let s := (List.range 4).foldl (fun s d => updDie s d (fun k =>
    { k with windows := k.windows.filter (fun w => !(w.req == c && w.ctx == x && keys.contains (d, w.cls))) })) s
  let s := updCore s c (fun k => { k with holds := k.holds.filter (fun h => !(h.ctx == x && keys.contains (h.owner, h.cls))) })
  let net := { s.net with
    reqs := s.net.reqs.filter (fun r => !(r.kind == 7 && r.req == c && r.acc.ctx == x && keys.contains (r.owner, r.acc.cls)))
    notices := s.net.notices.filter (fun n => !(n.req == c && n.ctx == x && keys.contains (n.owner, n.cls))) }
  { s with net := net }

/-- Ticket entries `gone` of a context have left a core: their replays in flight and held stf requests are discarded (08 R208), and the
windows of keys that no other entry uses close (07 R191, 03 R69 step 4). -/
def cancelTickets (s : State) (c x : Nat) (gone : List (Nat × Ticket)) : State :=
  let mine := fun (r : Request) =>
    r.req == c && r.acc.ctx == x && gone.any (fun e => e.2.owner.toNat == r.owner && e.2.acc.cls == r.acc.cls && e.2.seq == r.seq)
  let s := (List.range 4).foldl (fun s d => updDie s d (fun k => { k with heldStf := k.heldStf.filter (fun r => !mine r) })) s
  let s := { s with net := { s.net with reqs := s.net.reqs.filter (fun r => !(r.replay && mine r)) } }
  closeKeys s c x ((gone.map (fun e => (e.2.owner.toNat, e.2.acc.cls))).filter (fun key => !keyUsed s c x key))

/-- The windows of a context's keys on a core that no entry uses any more, whose close is due, close at once (07 R191). -/
def closeDue (s : State) (c x : Nat) : State :=
  let keys := ((coreOf s c).holds.filter (fun h => h.ctx == x)).map (fun h => (h.owner, h.cls))
  closeKeys s c x (keys.filter (fun key => !keyUsed s c x key))

/-- A collective has ended: each byte of its staging holds what a block wrote there or what stood there before (02 R39; 16 R415). -/
def freeStaging (s : State) (laid : List (Nat × Byte × Byte)) : State :=
  laid.reverse.foldl (fun s x =>
    let t := { s with fresh := s.fresh + 1 }
    if Config.freeBool s.fresh && readByte s x.1 == x.2.2 then writeByte t x.1 x.2.1 else t) s

/-- A block is for a program. -/
def Program.takes (g : Program) (b : CBlock) : Bool := b.dstCore == g.core && b.fold == g.fold && b.seq == g.seq

/-- A program has ended: what its engine has received or ticketed is acknowledged, and what still comes for it is discarded when it
arrives (log 75); room in its staging is free (14 R403). -/
def removeProgram (s : State) (p : Nat) : State :=
  match aget s.programs p with
  | none => s
  | some g =>
    let ticketed := (List.range s.net.blocks.length).filter (fun k =>
      s.net.blocks[k]?.any (fun b => g.takes b && b.src != g.cmd && (b.st == 2 || b.st == 5 || b.st == 7)))
    let s := ticketed.foldl (fun s k => answerBlock s k (fun b => { b with st := 4 })) s
    let keep := s.net.blocks.filterMap (fun b =>
      if g.takes b then
        (if b.st = 6 || b.src = g.cmd then none else if b.st = 0 || b.st = 1 then some b else some { b with st := 4 })
      else if b.src = g.cmd && b.st = 4 then none else some b)
    freeStaging { s with programs := adel s.programs p, net := { s.net with blocks := keep } } g.laid

/-- A collective program ends early: an abort is posted on the fold's signature channel (02 R40). -/
def abortProgram (s : State) (p : Nat) : State :=
  match aget s.programs p with
  | none => s
  | some g =>
    let post : Post := { fold := g.fold, core := g.core, seq := g.seq, sig := none, mask := g.mask, gang := 1 < g.dcount, arrived := false, routes := [] }
    removeProgram (postSignal s post) p

/-- The programs that a task started. -/
def programsOf (s : State) (t : Nat) : List Nat :=
  (s.programs.filter (fun e => e.2.task == some t)).map (fun e => e.1)

/-- A task ends without retiring: its bank, its queued commands, its collectives (03 R69 steps 1 and 4; 02 R40). -/
def dropTask (s : State) (t : Nat) : State :=
  match taskOf s t with
  | none => s
  | some k =>
    let s := (programsOf s t).foldl abortProgram s
    let s :=
      if k.place = .running || k.place = .shadow then
        cancelTickets (freeBank s k.core k.bank) k.core k.ctx (bankOf s k.core k.bank).tickets
      else if k.place = .streamedOut then
        let gone := ((coreOf s k.core).streamed.filter (fun e => e.task == t)).flatMap (fun e => (e.saved.map (fun q => q.tickets)).getD [])
        cancelTickets (updCore s k.core (fun q => { q with streamed := q.streamed.filter (fun e => e.task != t) })) k.core k.ctx gone
      else s
    let s := match k.keeperOf with
      | some d => updDie s d (fun q => { q with keeperTask := none })
      | none => s
    let s :=
      if k.thr = 0 then s
      else
        let thr := supd Threshold.reset s.host.thr (k.thr - 1) (fun q => { q with task := none })
        { s with host := { s.host with thr := thr } }
    { s with tasks := adel s.tasks t }

/-- A task that a fault of its launch ends: windows of its context on its core whose close is due close too (07 R191). -/
def endFaulted (s : State) (t : Nat) : State :=
  match taskOf s t with
  | none => s
  | some k =>
    if k.place = .running || k.place = .shadow || k.place = .streamedOut then closeDue (dropTask s t) k.core k.ctx else dropTask s t

/-- The tasks of a launch. -/
def launchTasks (s : State) (l : Nat) : List Nat :=
  (s.tasks.filter (fun e => e.2.launch == some l)).map (fun e => e.1)

/-- USERS of a body changes by an atomic add; an update that fails is not made (06 R147, 03 Table 5a). -/
def addUsers (x : Nat) (body : Word) (delta : Word) : Act Unit := do
  let a := body.toNat + 0x20
  match ← devReadWord x a with
  | .error _ => pure ()
  | .ok n =>
    let _ ← devWriteWord x a (n + delta)

/-- The launch stops using the bodies it replays (06 R147). -/
def leaveBody (l : Nat) : Act Unit := do
  match launchOf (← state) l with
  | none => pure ()
  | some k =>
    for a in k.loaded do addUsers k.ctx a (-1)
    change (fun s => updLaunch s l (fun k => { k with loaded := [] }))
    match k.replay with
    | none => pure ()
    | some r =>
      if !r.passed then addUsers k.ctx r.body (-1)
      change (fun s => updLaunch s l (fun k => { k with replay := none }))

/-- A launch that ends is over when it has no task left: its fault records, then its completion record (03 R69 step 5, R67). -/
def finishEnding (l : Nat) : Act Unit := do
  let s ← state
  match (launchOf s l).bind (fun k => k.ending.map (fun e => (k, e))) with
  | none => pure ()
  | some (k, records, status, code) =>
    if (launchTasks s l).isEmpty then do
      leaveBody l
      for r in records do faultRecord k.ctx r
      completionRecord k status code
      change (fun s => { s with launches := adel s.launches l })

/-- The task runs on a core. -/
def taskRuns (s : State) (t : Nat) : Bool :=
  match taskOf s t with
  | some k => k.place == .running
  | none => false

/-- A launch ends, or goes on ending: the fault records given are due, and the tasks that `stays` does not hold end now. What the
first end says of STATUS and CODE stands. -/
def endLaunch (l : Nat) (stays : State → Nat → Bool) (records : List (List Byte)) (status : Nat) (code : BitVec 8) : Act Unit := do
  match launchOf (← state) l with
  | none => pure ()
  | some k =>
    let e := match k.ending with
      | none => (records, status, code)
      | some (rs, st, co) => (rs ++ records, st, co)
    change (fun s => updLaunch s l (fun k => { k with ending := some e }))
    change (fun s => ((launchTasks s l).filter (fun t => !stays s t)).foldl endFaulted s)
    finishEnding l

/-- The launch of a task ends, and the task with it at its next instruction boundary (03 R69 step 3). -/
def taskEnds (s : State) (t : Nat) : Bool :=
  match (taskOf s t).bind (fun k => k.launch.bind (launchOf s)) with
  | some q => q.ending.isSome
  | none => false

/-- A running task of a launch that ends does so. -/
def endTask (t : Nat) : Act Unit := do
  match (taskOf (← state) t).bind (fun k => k.launch) with
  | some l => endLaunch l (fun s u => u != t && taskRuns s u) [] 1 0
  | none => pure ()

/-- A structure of a running launch that the device cannot reach ends it (03 Table 5a): steps 2 to 5 of R69 with one
fault record that carries the launch's TAG. -/
def deviceFailEnds (l : Nat) (e : DevFail) : Act Unit := do
  match launchOf (← state) l with
  | none => pure ()
  | some k =>
    endLaunch l taskRuns [faultBytes e.code.code 0xFF k.tag 0 0 (BitVec.ofNat 64 e.va)] 1 e.code.code

/-- The work identifier and launch TAG of a task. -/
def taskTag (s : State) (k : Task) : BitVec 32 :=
  match k.launch with
  | some l => (match launchOf s l with
    | some q => q.tag
    | none => 0)
  | none => 0

/-- A task takes a terminating trap (03 R69; 16 R420 for a task of no launch). -/
def endByTrap (t : Nat) (core : Nat) (code : Trap) (pc info : Word) : Act Unit := do
  let s ← state
  match taskOf s t with
  | none => pure ()
  | some k =>
    let record := faultBytes code.code core (taskTag s k) k.record.wid pc info
    match k.launch with
    | some l => endLaunch l (fun s u => u != t && taskRuns s u) [record] 1 code.code
    | none =>
      let family := s.tasks.filter (fun e => e.2.launch.isNone && e.2.ancestors.contains t)
      change (fun s => (family.map (fun e => e.1)).foldl endFaulted (endFaulted s t))
      faultRecord k.ctx record

/-! ### The order log (06 R157 to R159) -/

/-- An order-log entry (06 Table 9). -/
def logEntry (kind die site seq winner : Nat) : Word :=
  BitVec.ofNat 64 (kind * 2 ^ 60 + die % 4 * 2 ^ 58 + site % 2 ^ 26 * 2 ^ 32 + seq % 2 ^ 16 * 2 ^ 16 + winner % 2 ^ 16)

/-- The key of a site's occurrence count. -/
def siteKey (kind die site : Nat) : Nat := kind * 2 ^ 28 + die % 4 * 2 ^ 26 + site % 2 ^ 26

/-- A winner that no contender is. -/
def nobody : Nat := 2 ^ 16

/-- The winner a forced log gives the next choice at a site; none when the choice is free (06 R159). SEQ counts modulo 2^16: the
choice takes as many entries of its SEQ into account as the count has gone round. An entry of the order-log region that cannot be read
ends the launch, and the choice with it (03 R422, Table 5a); one of a body forces nothing (log 22). -/
def forcedWinner (l : Nat) (kind die site : Nat) : Act (Option Nat) := do
  match launchOf (← state) l with
  | none => pure none
  | some k =>
    let seq := sget 0 k.occ (siteKey kind die site)
    let want := (logEntry kind die site seq 0).toNat / 2 ^ 16
    let mut same : List Nat := []
    for i in List.range k.forceCount do
      match ← devReadWord k.ctx (k.forceAt.toNat + 8 * i) with
      | .ok w => if w.toNat / 2 ^ 16 = want then same := same ++ [w.toNat % 2 ^ 16]
      | .error e =>
        if k.forceAt = k.olog + 8 && (launchOf (← state) l).any (fun q => q.ending.isNone) then deviceFailEnds l e
    if (launchOf (← state) l).any (fun q => q.ending.isNone) then pure same[seq / 2 ^ 16]? else pure (some nobody)

/-- A choice is made at a site: counted, and logged when the launch logs (06 R158). -/
def logChoice (l : Nat) (kind die site winner : Nat) : Act Unit := do
  match launchOf (← state) l with
  | none => pure ()
  | some k =>
    if k.determ then
      let key := siteKey kind die site
      let seq := sget 0 k.occ key
      change (fun s => updLaunch s l (fun k => { k with occ := supd 0 k.occ key (· + 1) }))
      if k.logs then
        let n := k.logCount
        if n < 2 ^ k.ologn then
          match ← devWriteWord k.ctx (k.olog.toNat + 8 + 8 * n) (logEntry kind die site seq winner) with
          | .error e => deviceFailEnds l e
          | .ok _ => pure ()
        match ← devWriteWord k.ctx k.olog.toNat (BitVec.ofNat 64 (n + 1)) with
        | .error e => deviceFailEnds l e
        | .ok _ => change (fun s => updLaunch s l (fun k => { k with logCount := n + 1 }))

/-! ### Making tasks ready -/

/-- What admission answers: admitted, or the reasons it is not (05 Table 4). -/
inductive Admitted where
  | yes (t : Nat)
  | spawnLimit | dropped
deriving DecidableEq, Repr

/-- The address of a launch's overflow-ring entry by its free-running index (05 R117). -/
def ringEntry (q : Launch) (n : Nat) : Nat := q.ovfq.toNat + 64 * (n % 2 ^ q.ovflog)

/-- The freed non-reserve entries of a die are filled (05 R117): the oldest overflow entry, which is read back from its ring, else the
lowest static task in state 1. Of tasks of one index in two launches the manual does not say which comes first (log 22). An entry that
cannot be read ends its launch (03 R422, Table 5a). -/
def refillOnce (d : Nat) : Act Unit := do
  let s ← state
  if (poolTasks s d).length < 3840 then
    let queued := s.tasks.filter (fun e => e.2.place == .overflow && e.2.die == d)
    let ones := s.tasks.filter (fun e => e.2.place == .state1 && e.2.die == d)
    let oldest := queued.foldl (fun b e =>
      match b with
      | none => some e
      | some f => if e.2.ready < f.2.ready then some e else some f) (none : Option (Nat × Task))
    let lowest := ones.foldl (fun b e =>
      match b with
      | none => some e
      | some f => if e.2.index < f.2.index then some e else some f) (none : Option (Nat × Task))
    match oldest, lowest with
    | some e, _ =>
      match e.2.launch.bind (launchOf s), e.2.launch with
      | some q, some l =>
        match ← devRead q.ctx (ringEntry q e.2.ring) 64 with
        | .ok _ => change (fun s => updTask s e.1 (fun k => { k with place := .pool, entry := freeEntry s d }))
        | .error f => deviceFailEnds l f
      | _, _ => pure ()
    | none, some e => do
      change (fun s => updTask s e.1 (fun k => { k with place := .pool, entry := freeEntry s d }))
      match e.2.launch with
      | none => pure ()
      | some l =>
        match launchOf s l with
        | none => pure ()
        | some q =>
          if e.2.index != 0 then
            match ← writeStateEntry q (e.2.index - 1) 0 2 with
            | .ok _ => pure ()
            | .error f => deviceFailEnds l f
    | none, none => pure ()

/-- Refill until no freed entry can be filled. -/
def refill (d : Nat) : Act Unit := do
  let n := (← state).tasks.length
  for _ in List.range n do refillOnce d

/-- The free-running index of a new overflow entry: the next one whose place in the ring no entry holds; entries leave out of ring order,
since each die takes its own oldest (log 22). -/
def nextRing (s : State) (l : Nat) (q : Launch) : Nat :=
  let held := (overflowTasks s l).map (fun e => e.2.ring % 2 ^ q.ovflog)
  ((List.range (held.length + 1)).map (q.ovfTail + ·)).find? (fun n => !held.contains (n % 2 ^ q.ovflog)) |>.getD q.ovfTail

/-- A ready task takes its place, once the entries that have freed are filled (05 R116, R117). Overflow entries are written as copies of
the record with WEIGHT (05 R117). A task of a launch that has ended meanwhile takes none. -/
def enrol (src : Source) (k : Task) : Act Admitted := do
  refill k.die
  let s ← state
  let put := fun (k : Task) => do
    let t ← newId
    change (fun s => { s with tasks := aset s.tasks t { k with ready := t } })
    pure (Admitted.yes t)
  if k.launch.any (fun l => (launchOf s l).isNone) then pure .dropped
  else
  match intake s k.die k.launch src with
  | .pool => put { k with place := .pool, entry := freeEntry s k.die }
  | .keeperEntry => put { k with place := .keeperEntry }
  | .state1 => put { k with place := .state1 }
  | .spawnLimit => pure .spawnLimit
  | .dropped => pure .dropped
  | .overflow =>
    match k.launch with
    | none => pure .spawnLimit
    | some l =>
      match launchOf s l with
      | none => pure .spawnLimit
      | some q =>
        let n := nextRing s l q
        let r ← put { k with place := .overflow, ring := n }
        change (fun s => updLaunch s l (fun q => { q with ovfTail := n + 1 }))
        match ← devWrite q.ctx (ringEntry q n) (recordBytes k.record k.weight) with
        | .ok _ => pure r
        | .error e => do
          deviceFailEnds l e
          pure r

/-- The cluster a pinned task goes to, else the given one (05 R114). -/
def readyCluster (r : Record) (given : Nat) : Nat := if r.pin then r.core / 8 else given
def readyDie (r : Record) (given : Nat) : Nat := if r.diePin then r.die else given

/-- The weight of static task `i` (05 R126). -/
def staticWeight (ntask i : Nat) : Word :=
  if i = 0 then BitVec.ofNat 64 (2 ^ 63 - (ntask - 1) * 2 ^ 32) else BitVec.ofNat 64 (2 ^ 32)

/-- A task instance of a record in a launch. -/
def launchTask (s : State) (l : Nat) (q : Launch) (r : Record) (addr weight iid : Word) (index die cluster : Nat) : Task :=
  let ceiling := match ctxOf s q.ctx with
    | some k => k.ceiling.toNat
    | none => 7
  { ctx := q.ctx, launch := some l, index := index, recAddr := addr, record := r, weight := weight,
    prio := recordPrio r q.prio.toNat ceiling, sdem := recordS r q.spart, cdem := recordC r q.cpart, place := .pool,
    die := readyDie r die, cluster := readyCluster r cluster, ready := 0, entry := 0, ring := 0, core := 0, bank := 0, start := 0,
    iid := iid, spawns := 0, keeperOf := none, thr := 0, repEntry := 0, recEntry := 0, ancestors := [],
    waits := [], recPred := 0, recBy := 0, repIter := 0, noRec := false, fixed := none }

/-- The state-array value of a ready static task: 1 while it waits in state 1, 2 once it is queued (05 R112). -/
def standing (s : State) (t : Nat) : Nat := if (taskOf s t).any (fun k => k.place == .state1) then 1 else 2

/-- Static task `i` of a launch becomes ready; a default die and cluster are given (05 R112, R114, R116). It answers the
task. -/
def readyStatic (l i die cluster : Nat) : Act (Option Nat) := do
  let s ← state
  match launchOf s l with
  | none => pure none
  | some q =>
    match q.statics[i]? with
    | none => pure none
    | some r =>
      let addr := q.root + BitVec.ofNat 64 (64 * i)
      let k := launchTask s l q r addr (staticWeight q.ntask i) (BitVec.ofNat 64 i) (i + 1) die cluster
      match ← enrol .static k with
      | .yes t => do
        match ← writeStateEntry q i 0 (standing (← state) t) with
        | .ok _ => pure ()
        | .error e => deviceFailEnds l e
        pure (some t)
      | _ => pure none

/-- The successor list of a task: the one read at launch for a static task, read now for any other (05 R111, R113). -/
def successorsOf (l : Nat) (k : Task) : Act (Except DevFail (List Nat)) := do
  match launchOf (← state) l with
  | none => pure (.ok [])
  | some q =>
    if k.index != 0 then pure (.ok (q.succs.getD (k.index - 1) []))
    else if k.record.nsucc = 0 then pure (.ok [])
    else
      match ← devRead k.ctx k.record.dlist.toNat (2 * k.record.nsucc) with
      | .error e => pure (.error e)
      | .ok bs => pure (.ok ((List.range k.record.nsucc).map (fun i => leNat ((bs.drop (2 * i)).take 2))))

/-! ### Folds (05 R131 to R133) -/

/-- A membership takes effect: the collective sequence numbers of the fold reset (02 R26, 05 R133), and posts of its ended
collectives are gone. -/
def resetCollSeq (s : State) (f : Nat) : State :=
  let busy := s.programs.any (fun e => e.2.fold == f)
  let s := { s with net := { s.net with posts := s.net.posts.filter (fun q => q.fold != f || busy) } }
  s.cores.foldl (fun s e => updCore s e.1 (fun k => { k with collSeq := sset 0 k.collSeq f 0 })) s

/-- A generation completes when the arrival mask equals a non-zero effective mask (05 R133). -/
def completeGeneration (s : State) (f : Nat) : State :=
  let k := foldOf s f
  if k.eff != 0 && k.arr == k.eff then
    let k' := { k with gen := k.gen + 1, arr := 0 }
    if k.pflag then resetCollSeq (setFold s f { k' with eff := k.pend, pflag := false }) f else setFold s f k'
  else s

end Sys2Proof.Machine
end

