-- ==== Sys2Proof/Machine/Recorder.lean ====
section
/-!
DEFINITION. What the recorder captures while a recording launch runs (06 R143 to R146; 15 R411, R412; 17 R416): stream
entries, semaphores, live tasks.
-/

namespace Sys2Proof.Machine

/-- A stream entry (06 R142). -/
def streamWord (kind : BitVec 4) (opnd : BitVec 28) (cmd : BitVec 96) : BitVec 128 := kind ++ opnd ++ cmd

/-- The fields of a stream entry. -/
def entryKind (w : BitVec 128) : Nat := (w.extractLsb' 124 4).toNat
def entryOpnd (w : BitVec 128) : BitVec 28 := w.extractLsb' 96 28
def entryCmd (w : BitVec 128) : BitVec 96 := w.extractLsb' 0 96

def setWord (sem : Nat) : BitVec 128 := streamWord 1 (BitVec.ofNat 28 (sem % 65536)) 0
def waitWord (sem m : Nat) : BitVec 128 := streamWord 2 (BitVec.ofNat 28 (sem % 65536 + 65536 * (m % 256))) 0

/-- The recording a task belongs to, and its task entry. -/
def recordingOf (s : State) (t : Nat) : Option (Nat × Recording × Nat) :=
  match taskOf s t with
  | none => none
  | some k =>
    match k.launch with
    | none => none
    | some l =>
      match launchOf s l with
      | none => none
      | some q =>
        match q.recording with
        | none => none
        | some r => if k.recEntry = 0 || r.abandoned then none else some (l, r, k.recEntry - 1)

/-- A task's entry in the recording changes. -/
def recUpd (s : State) (t : Nat) (f : RecTask → RecTask) : State :=
  match recordingOf s t with
  | none => s
  | some (l, r, e) => updLaunch s l (fun q => { q with recording := some { r with tasks := changeAt f r.tasks e } })

/-- An entry is appended to one stream (0 matrix, 1 vector, 2 copy, 3 collective, 4 peel, 5 rack). -/
def RecTask.push (k : RecTask) (stream : Nat) (w : BitVec 128) (id : Nat) : RecTask :=
  { k with streams := changeAt (· ++ [w]) k.streams stream, ids := changeAt (· ++ [id]) k.ids stream }

/-- An entry is appended to all six streams. -/
def RecTask.pushAll (k : RecTask) (w : BitVec 128) : RecTask :=
  (List.range 6).foldl (fun k n => k.push n w 0) k

/-- The task is recorded as live (06 R144). -/
def recLive (s : State) (t : Nat) : State := recUpd s t (fun k => { k with live := true })

/-- A commit, explicit or implicit, is a MARK in each stream (06 R142, R143). -/
def recMark (s : State) (t : Nat) : State := recUpd s t (fun k => k.pushAll (streamWord 4 0 0))

/-- An owner flip is a FLIP in each stream. -/
def recFlip (s : State) (t slot : Nat) (toEngines : Bool) : State :=
  recUpd s t (fun k => k.pushAll (streamWord 3 (BitVec.ofNat 28 (slot % 256 + bitAt 8 toEngines)) 0))

/-- Which engine a stream uses, as a health-guard bit (15 R412). -/
def streamUse (stream : Nat) : BitVec 3 := if stream < 3 then BitVec.ofNat 3 (2 ^ stream) else if stream < 4 then 0 else 4

/-- The recorder's stream of a command: its queue, or the stream of the side core that issued it (06 R142). -/
def recStream (queue : Nat) (issuer : BitVec 2) : Nat :=
  if issuer = 1 then 4 else if issuer = 2 then 5 else queue

/-- A dispatched command is a CMD entry with its captured mode; an epi.send has its ROUTE before it (06 R142). A command
issued after a branch ends the branch's claim to be a guard (06 R145). -/
def recCmd (s : State) (t stream : Nat) (c : Cmd) (route : Bool) : State :=
  recUpd s t (fun k =>
    let k := if route then k.push stream (streamWord 6 0 (c.route.setWidth 96)) 0 else k
    let k := k.push stream (streamWord 0 (c.mode.setWidth 28) c.bits) c.id
    { k with uses := k.uses ||| streamUse stream, live := k.live || k.branch.isSome })

/-- A region aborts: its commands, numbered from `first` on, are recorded when they are dispatched again (09 R235). -/
def recRewind (s : State) (t first : Nat) : State :=
  recUpd s t (fun k =>
    let keep := (List.range 6).map (fun n =>
      ((k.streams.getD n []).zip (k.ids.getD n [])).filter (fun e => e.2 < first || entryKind e.1 != 0))
    { k with streams := keep.map (fun q => q.map (fun e => e.1)), ids := keep.map (fun q => q.map (fun e => e.2)) })

/-- A new semaphore of a recording; beyond 65,535 the recording is abandoned. -/
def recNewSem (s : State) (l : Nat) : State × Nat :=
  match launchOf s l with
  | none => (s, 0)
  | some q =>
    match q.recording with
    | none => (s, 0)
    | some r =>
      let r' := if r.nsem < 65535 then { r with nsem := r.nsem + 1 } else { r with abandoned := true }
      (updLaunch s l (fun q => { q with recording := some r' }), r.nsem)

/-- Insert an entry after or before a command's own entry in a stream. -/
def RecTask.insertAt (k : RecTask) (id : Nat) (after : Bool) (w : BitVec 128) : RecTask :=
  (List.range 6).foldl (fun k n =>
    match (k.ids.getD n []).findIdx? (fun i => i == id) with
    | none => k
    | some p =>
      let p := if after then p + 1 else p
      { k with streams := changeAt (fun q => q.take p ++ [w] ++ q.drop p) k.streams n,
               ids := changeAt (fun q => q.take p ++ [0] ++ q.drop p) k.ids n }) k

/-- SET and WAIT of a semaphore that is numbered only at the instance's end (06 R146). -/
def provSet (n : Nat) : BitVec 128 := streamWord 8 (BitVec.ofNat 28 n) 0
def provWait (n : Nat) : BitVec 128 := streamWord 9 (BitVec.ofNat 28 n) 0

/-- The range checker holds command `b` behind command `a` of another queue: one semaphore, a SET after `a`, a WAIT with
M = 1 before `b` (06 R143). -/
def recOrder (s : State) (t a b : Nat) : State :=
  match recordingOf s t with
  | none => s
  | some (l, r, e) =>
    match r.tasks[e]? with
    | none => s
    | some k =>
      if a = 0 || b = 0 || k.pairs.contains (a, b) then s
      else if k.pred != 0 then
        recUpd s t (fun k =>
          let k := (k.insertAt a true (provSet k.prov)).insertAt b false (provWait k.prov)
          { k with pairs := k.pairs ++ [(a, b)], prov := k.prov + 1 })
      else
        let (s, n) := recNewSem s l
        recUpd s t (fun k =>
          let k := (k.insertAt a true (setWord n)).insertAt b false (waitWord n 1)
          { k with pairs := k.pairs ++ [(a, b)], own := k.own ++ [n] })

/-- Groups of at most 42 (06 R143, 15 R411); fuel bounds their number. -/
def groups42 : Nat → List Nat → List (List Nat)
  | 0, _ => []
  | _ + 1, [] => []
  | n + 1, x => x.take 42 :: groups42 n (x.drop 42)

/-- The task-level semaphores of a task made ready by recorded entries `es`: each entry's streams gain the SET of its
group, at their end when it has retired, and the task waits for 6 x the group's size (15 R411). -/
def recReady (s : State) (l t : Nat) (es : List Nat) : State :=
  (groups42 (es.length + 1) es).foldl (fun s g =>
    match launchOf s l with
    | none => s
    | some q =>
      match q.recording with
      | none => s
      | some r =>
        if r.abandoned then s
        else
          let (s, n) := recNewSem s l
          let put := fun (k : RecTask) =>
            if k.ended then { k with after := k.after ++ [n] } else k.pushAll (setWord n)
          let add := fun (r : Recording) => { r with tasks := g.foldl (fun ts e => changeAt put ts e) r.tasks }
          let s := updLaunch s l (fun q => { q with recording := q.recording.map add })
          updTask s t (fun k => { k with waits := k.waits ++ [(n, 6 * g.length)] })) s

/-- A recorded task that retires is a predecessor of a static task; an entry counts once (15 R411). -/
def recPred (s : State) (l i t : Nat) : State :=
  match recordingOf s t with
  | none => s
  | some (_, r, e) =>
    let old := (aget r.preds i).getD []
    if old.contains e then s
    else updLaunch s l (fun q => { q with recording := some { r with preds := aset r.preds i (old ++ [e]) } })

/-- A static task of a recording launch has become ready as task `t`, by the retirement of a task with recorded entry `by_` less one; a
predecessor of which the recorder records nothing makes it a task of which it records nothing (17 R416). -/
def recStaticReady (s : State) (l i t by_ : Nat) (quiet : Bool) : State :=
  if quiet then updTask s t (fun k => { k with noRec := true })
  else
  let s := updTask s t (fun k => { k with recBy := by_ })
  match launchOf s l with
  | none => s
  | some q =>
    match q.recording with
    | none => s
    | some r => recReady s l t ((aget r.preds i).getD [])

/-- The successor list of task `t` of launch `l` is processed in list order (05 R113). -/
def processSuccessors (t l die cluster : Nat) : List Nat → Act Unit
  | [] => pure ()
  | i :: r => do
    match launchOf (← state) l with
    | none => pure ()
    | some q =>
      if i < q.ntask then
        match ← readStateEntry q i with
        | .error e => deviceFailEnds l e
        | .ok (count, st) =>
          if count = 0 then pure ()
          else
            match ← writeStateEntry q i (count - 1) st with
            | .error e => deviceFailEnds l e
            | .ok _ =>
              change (fun s => recPred s l i t)
              if count = 1 then
                match ← readyStatic l i die cluster with
                | some n => do
                  let (quiet, by_) := match taskOf (← state) t with
                    | some k => (k.noRec, k.recEntry)
                    | none => (false, 0)
                  change (fun s => recStaticReady s l i n by_ quiet)
                | none => pure ()
      processSuccessors t l die cluster r

/-- The semaphores of a fold generation's groups, made when the generation is first met: semaphore, M. -/
def recFoldSems (s : State) (l f : Nat) (gen : BitVec 16) (groups : List (List Nat)) : State × List (Nat × Nat) :=
  match launchOf s l with
  | none => (s, [])
  | some q =>
    match q.recording with
    | none => (s, [])
    | some r =>
      let key := 65536 * f + gen.toNat
      match aget r.foldSems key with
      | some ns => (s, ns)
      | none =>
        let (s, ns) := groups.foldl (fun (s, ns) g =>
          let (s, n) := recNewSem s l
          (s, ns ++ [(n, 6 * g.length)])) (s, [])
        let add := fun (r : Recording) => { r with foldSems := aset r.foldSems key ns }
        (updLaunch s l (fun q => { q with recording := q.recording.map add }), ns)

/-- A fold arrival of core `c`, or the return of a wait, of a recorded task (06 R143). A fold of more than 255 members
makes the task live. -/
def recFold (s : State) (t c f : Nat) (members : BitVec 256) (gen : BitVec 16) (arrival : Bool) : State :=
  match recordingOf s t with
  | none => s
  | some (l, _, _) =>
    let ms := maskMembers members
    let s := recUpd s t (fun k => { k with folds := f :: k.folds.filter (fun x => x != f) })
    if ms.length > 255 then recLive s t
    else
      let gs := groups42 (ms.length + 1) ms
      let (s, ns) := recFoldSems s l f gen gs
      if arrival then
        (gs.zip ns).foldl (fun s gn =>
          if gn.1.contains c then recUpd s t (fun k => k.pushAll (setWord gn.2.1)) else s) s
      else ns.foldl (fun s n => recUpd s t (fun k => k.pushAll (waitWord n.1 n.2))) s

/-- The recorder opens a task's entry when the task starts (06 R143). -/
def recStart (s : State) (t : Nat) (core : Nat) (part : Part) (tail : Bool) : State :=
  match taskOf s t with
  | none => s
  | some k =>
    match k.launch with
    | none => s
    | some l =>
      match launchOf s l with
      | none => s
      | some q =>
        match q.recording with
        | none => s
        | some r =>
          if r.abandoned || k.noRec then s
          else
            let e : RecTask :=
              { wid := k.record.wid, core := core, live := false, part := part, recAddr := k.recAddr, weight := k.weight,
                streams := [[], [], [], [], [], []], ids := [[], [], [], [], [], []], pairs := [], own := [], prov := 0,
                uses := 0, shape := none, branch := none, branched := false, waits := k.waits, ended := false, succ := 0,
                pred := k.recPred, by_ := if k.recPred = 0 then k.recBy else k.recPred, after := [], dropped := false, tail := tail, folds := [],
                bySucc := false }
            let s := updLaunch s l (fun q => { q with recording := some { r with tasks := r.tasks ++ [e] } })
            updTask s t (fun k => { k with recEntry := r.tasks.length + 1 })

/-! ### The end of a recorded task (06 R144 to R146, R148; 15 R412; 17 R416) -/

/-- The queue a stream's commands go to: peel and rack streams hold copy commands (06 R142). -/
def streamQueue (stream : Nat) : Nat := if stream < 4 then stream else 2

/-- The object a command names (14 Table 4). -/
def cmdObject : Instr → Option (BitVec 16)
  | .xLd x | .xSt x | .xFeed x | .xKvg x | .xScat x | .xFill x => some x.obj
  | _ => none

/-- The object a CMD entry of a stream names. -/
def entryObject (stream : Nat) (w : BitVec 128) : Option (BitVec 16) :=
  if entryKind w = 0 then
    match decodeCommand (streamQueue stream) (entryCmd w) with
    | .ok i => cmdObject i
    | .error _ => none
  else none

/-- The distinct objects of a task's streams, in order of first naming, stream by stream (06 R148). -/
def objectsOf (streams : List (List (BitVec 128))) : List (BitVec 16) :=
  (streams.zipIdx.flatMap (fun e => e.1.filterMap (entryObject e.2))).foldl
    (fun os o => if os.contains o then os else os ++ [o]) []

/-- The object-table entry of an index (03 R72). -/
def objectAddr (k : Context) (o : Nat) : Nat := k.objBase.toNat + 96 * o

/-- The hash of a shape guard over words 1 to 9 of each object; none where a word cannot be read (06 R148). -/
def shapeHash (x : Nat) (objs : List (BitVec 16)) : Act (Option Word) := do
  let mut h : Option Word := some (sieve 0 (BitVec.ofNat 64 objs.length))
  for o in objs do
    match h, ctxOf (← state) x with
    | some v, some k =>
      match ← devRead x (objectAddr k o.toNat + 8) 72 with
      | .error _ => h := none
      | .ok bs => h := some ((List.range 9).foldl (fun v i => sieve v (leWord ((bs.drop (8 * i)).take 8))) v)
    | _, _ => h := none
  pure h

/-- What a task's streams hold in the body: a live task's only SET and WAIT of task-level and fold semaphores (06 R141). -/
def RecTask.published (k : RecTask) : List (List (BitVec 128)) :=
  if k.live then
    k.streams.map (fun q => q.filter (fun w =>
      (entryKind w == 1 || entryKind w == 2) && !k.own.contains (entryOpnd w).toNat && !k.own.contains ((entryOpnd w).toNat % 65536)))
  else k.streams

/-- A stream entry with the task's own semaphores numbered from 0 in the order they were met (06 R146). -/
def RecTask.normal (k : RecTask) (w : BitVec 128) : BitVec 128 :=
  let sem := (entryOpnd w).toNat % 65536
  match k.own.findIdx? (fun n => n == sem) with
  | none => w
  | some i => if entryKind w = 1 then provSet i else if entryKind w = 2 then provWait i else w

/-- What the guards of a task entry say: its shape, its engines and its branch; a live entry has no guard (06 R148, 15 R412). -/
def RecTask.guards (k : RecTask) : Option (Option Word × BitVec 3 × Option (BitVec 8 × BitVec 3 × Word × Word × Word)) :=
  if k.live then none else some (k.shape, k.uses, k.branch)

/-- Streams, with their END, and guards of two instances are bit-identical; their own semaphores correspond in order (06 R146). Task-level
entries at the beginning and the end stand apart. -/
def sameRecord (a b : RecTask) : Bool :=
  a.core == b.core && a.live == b.live && a.guards == b.guards && a.bySucc == b.bySucc &&
    a.published.map (fun q => q.map a.normal) == b.published.map (fun q => q.map b.normal)

/-- The instance took the path of the entry's branch guard that the recording of the entry did not take (17 R416); a live entry has no
branch guard. -/
def otherPath (c e : RecTask) : Bool :=
  match c.branch, e.branch with
  | some (gw, _), some (gw', _) => !c.live && gw.getLsbD 4 != gw'.getLsbD 4
  | _, _ => false

/-- Static tasks that an entry is a predecessor of: at its end it SETs a semaphore of each. -/
def Recording.makesReady (r : Recording) (e : Nat) : List Nat := (r.preds.filter (fun p => p.2.contains e)).map (fun p => p.1)

/-- An entry and those that it made ready, directly or through others. -/
def Recording.family (r : Recording) (e : Nat) : List Nat :=
  r.tasks.zipIdx.foldl (fun l x => if x.1.by_ != 0 && l.contains (x.1.by_ - 1) then l ++ [x.2] else l) [e]

/-- Nothing is recorded for an instance, nor for the tasks that it made ready (17 R416). -/
def recForget (s : State) (l e : Nat) (r : Recording) : State :=
  let gone := r.family e
  let s := updLaunch s l (fun q => { q with recording := q.recording.map (fun r =>
    { r with tasks := gone.foldl (fun ts i => changeAt (fun k => { k with dropped := true }) ts i) r.tasks }) })
  let f := fun (k : Task) =>
    if k.launch == some l && ((k.recEntry != 0 && gone.contains (k.recEntry - 1)) || (k.recBy != 0 && gone.contains (k.recBy - 1))) then
      { k with recEntry := 0, noRec := true }
    else k
  { s with tasks := s.tasks.map (fun x => (x.1, f x.2)) }

/-- Semaphores allocated one by one. -/
def recNewSems (s : State) (l : Nat) : Nat → State × List Nat
  | 0 => (s, [])
  | n + 1 =>
    let (s, a) := recNewSem s l
    let (s, r) := recNewSems s l n
    (s, a :: r)

/-- Provisional semaphores take their numbers. -/
def RecTask.resolve (k : RecTask) (ns : List Nat) : RecTask :=
  let f := fun (w : BitVec 128) =>
    let i := (entryOpnd w).toNat
    if entryKind w = 8 then setWord (ns.getD i 0) else if entryKind w = 9 then waitWord (ns.getD i 0) 1 else w
  { k with streams := k.streams.map (fun q => q.map f), own := ns, prov := 0 }

/-- Two tasks use a common fold, one of them live: the other becomes live (06 R144). -/
def spreadLive (ts : List RecTask) : List RecTask :=
  let once := fun (ts : List RecTask) =>
    ts.map (fun k => { k with live := k.live || ts.any (fun o => o.live && o.folds.any (fun f => k.folds.contains f)) })
  ts.foldl (fun r _ => once r) ts

/-- An entry of the recording of launch `l` changes. -/
def recEntryUpd (s : State) (l e : Nat) (f : RecTask → RecTask) : State :=
  updLaunch s l (fun q => { q with recording := q.recording.map (fun r => { r with tasks := changeAt f r.tasks e }) })

/-- A task that an exit.succ started becomes a back-edge, records nothing, or keeps its entry and gets the semaphore of its exit.succ (06
R146, 17 R416). `gives` are the static tasks it is a predecessor of. An earlier entry is the same without the semaphore of this
exit.succ only: one that waits for another semaphore, or SETs that of another static task, is not. -/
def recSettle (s : State) (t l e : Nat) (r : Recording) (k : RecTask) (gives : List Nat) : State :=
  let p := k.pred - 1
  match r.tasks[p]? with
  | none => s
  | some pk =>
    let drop := fun (s : State) => recEntryUpd s l e (fun k => { k with dropped := true })
    let looped := pk.succ != 0
    let first := if looped then pk.succ - 1 else 0
    let last := if looped then pk.succ else e
    let found := r.tasks.zipIdx.findSome? (fun c =>
      let readies := r.makesReady c.2
      if first ≤ c.2 && c.2 < last && !c.1.dropped && c.1.ended && (looped || c.1.waits.isEmpty) && sameRecord c.1 k &&
        readies.all gives.contains && gives.all readies.contains then some c.2 else none)
    match found with
    | some c =>
      let s := recEntryUpd (drop s) l p (fun k => { k with succ := c + 1 })
      updTask s t (fun k => { k with recEntry := c + 1 })
    | none =>
      if looped then
        if (r.tasks[pk.succ - 1]?).any (fun c => otherPath c k) then recForget s l e r
        else updLaunch s l (fun q => { q with recording := some { r with abandoned := true } })
      else
        let (s, n) := recNewSem s l
        let s := recEntryUpd s l p (fun k => { k with succ := e + 1, after := k.after ++ [n] })
        let (s, ns) := recNewSems s l k.prov
        recEntryUpd s l e (fun k => { k.resolve ns with waits := k.waits ++ [(n, 6)] })

/-- The static tasks whose count the retirement of a task of launch `l` will lower. -/
def readiedBy (l : Nat) (k : Task) : Act (List Nat) := do
  match launchOf (← state) l, ← successorsOf l k with
  | some q, .ok is => do
    let mut r : List Nat := []
    for i in is do
      if i < q.ntask && !r.contains i then
        match ← readStateEntry q i with
        | .ok (n, _) => if n != 0 then r := r ++ [i]
        | .error _ => pure ()
    pure r
  | _, _ => pure []

/-- A recorded task retires, by exit or exit.succ: its shape guard is computed, and its entry is settled. -/
def recEnd (t : Nat) (bySucc : Bool) : Act Unit := do
  match recordingOf (← state) t with
  | none => pure ()
  | some (l, r, e) =>
    match r.tasks[e]? with
    | none => pure ()
    | some k =>
      let x := match taskOf (← state) t with
        | some q => q.ctx
        | none => 0
      let objs := objectsOf k.streams
      let hash ← if k.live || objs.isEmpty then pure none else shapeHash x objs
      let unread := !k.live && !objs.isEmpty && hash.isNone
      change (fun s => recUpd s t (fun k => { k with shape := hash, live := k.live || unread, bySucc := bySucc }))
      let gives ← match taskOf (← state) t with
        | some q => readiedBy l q
        | none => pure []
      match recordingOf (← state) t with
      | some (_, r, _) =>
        match r.tasks[e]? with
        | some k =>
          if k.pred != 0 && !k.ended then change (fun s => recSettle s t l e r k gives)
        | none => pure ()
      | none => pure ()
      change (fun s => recEntryUpd s l e (fun k => { k with ended := true }))

end Sys2Proof.Machine
end

