-- ==== Sys2Proof/Machine/Ops.lean ====
section
/-!
DEFINITION. The named operations: S space, program order of accesses (08), the ticket table's sending side (07 R183 to R189),
commit and region abort (05 R115, 07 R192, 09 R235), taking a trap and returning from one (09 R244, R245; 03 R69; 07 R178),
and the issue of a control instruction (11 R283, 12 R302).
-/

namespace Sys2Proof.Machine

/-! ### S space (09 R227) -/

/-- Byte of S at an absolute byte number of the core. -/
def sByte (s : State) (c n : Nat) : Byte := sget 0 (coreOf s c).sBytes n

/-- `n` bytes of S from a partition-relative offset. -/
def readS (s : State) (c : Nat) (p : Part) (off n : Nat) : List Byte :=
  sgetAll 0 (coreOf s c).sBytes (2048 * p.s0 + off) n

/-- Bytes stored in S from a partition-relative offset. -/
def writeS (s : State) (c : Nat) (p : Part) (off : Nat) (bs : List Byte) : State :=
  updCore s c (fun k => { k with sBytes := ssetAll 0 k.sBytes (2048 * p.s0 + off) bs })

/-- Slot state by absolute slot number. -/
def slotOf (s : State) (c n : Nat) : Slot := sget Slot.reset (coreOf s c).slots n
def setSlot (s : State) (c n : Nat) (x : Slot) : State :=
  updCore s c (fun k => { k with slots := sset Slot.reset k.slots n x })

/-- A word of a C tile by absolute tile, row, column (09 R228). -/
def cKey (tile row col : Nat) : Nat := 16384 * tile + 128 * row + col
def readC (s : State) (c tile row col : Nat) : BitVec 32 := sget 0 (coreOf s c).cWords (cKey tile row col)
def writeC (s : State) (c tile row col : Nat) (v : BitVec 32) : State :=
  updCore s c (fun k => { k with cWords := sset 0 k.cWords (cKey tile row col) v })

/-! ### Race-check shadow words (06 R160) -/

/-- The empty shadow word: no writer, no reader (06 Table 10). -/
def shadowNone : BitVec 32 := 0xFFC0FFC0

/-- A bank's task belongs to a race-check launch. -/
def bankRaced (s : State) (c b : Nat) : Bool :=
  match (bankOf s c b).task.bind (fun t => (taskOf s t).bind (fun k => k.launch.bind (launchOf s))) with
  | some q => q.race
  | none => false

/-- Where the shadow word of absolute word `i` of S stands: in the slot 128 above its own (06 R160). -/
def shadowAt (i : Nat) : Nat := 0x40000 + 4 * i

/-- The shadow word of word `i` of a core's S (06 R160). -/
def shadowWord (s : State) (c i : Nat) : BitVec 32 :=
  BitVec.ofNat 32 (leNat (sgetAll 0 (coreOf s c).sBytes (shadowAt i) 4))

def setShadow (m : Sparse Byte) (i : Nat) (v : BitVec 32) : Sparse Byte := ssetAll 0 m (shadowAt i) (leBytes 4 v.toNat)

/-- The shadow words of a slot are cleared to none (06 R160). -/
def clearShadow (s : State) (c slot : Nat) : State :=
  let none := (List.replicate 512 (leBytes 4 shadowNone.toNat)).flatten
  updCore s c (fun k => { k with sBytes := ssetAll 0 k.sBytes (shadowAt (512 * slot)) none })

/-! ### The PC (11 R276) -/

/-- The line of a slice address and the slice's number. -/
def lineAddr (pc : Word) : Word := pc &&& ~~~31
def sliceNum (pc : Word) : Nat := pc.toNat / 4 % 8

/-- A slice address, with a header's address read as its slice 1 (11 R276, R217). -/
def enterAt (pc : Word) : Word :=
  let p := pc &&& ~~~3
  if sliceNum p = 0 then p + 4 else p

/-- The address after `n` slices; execution passes to slice 1 of the next line at a line's end. -/
def nextPc (pc : Word) (n : Nat) : Word := enterAt (pc + BitVec.ofNat 64 (4 * n))

/-! ### Order of accesses in flight (08 R200, R201, R209) -/

def overlap (a b : Access) : Bool :=
  (a.pa < b.pa + b.len && b.pa < a.pa + a.len) || (a.ctx == b.ctx && a.va < b.va + b.len && b.va < a.va + a.len)

/-- The classes of a barrier cover an access. -/
def AccKind.covers (k : AccKind) (cls : BitVec 4) : Bool :=
  match k with
  | .barrier m => m.getLsbD cls.toNat
  | _ => false

/-- A mark of the model's own that a fence has left among the accesses. -/
def AccKind.isBarrier : AccKind → Bool
  | .barrier _ => true
  | _ => false

/-- Stores for the purposes of 08 R206, R209. -/
def AccKind.isWrite : AccKind → Bool
  | .store | .stf | .atomic | .casSec => true
  | _ => false

/-- The control core's accesses, which take their places in program order; a copy's sectors do not (08 R204). -/
def AccKind.ordered : AccKind → Bool
  | .load | .store | .stf | .atomic | .casSec => true
  | _ => false

def Target.isDie : Target → Bool
  | .die _ => true
  | _ => false

/-- The page of a remote access, as the device sees it, is not there yet: it may turn out to be memory of any target (08 R209). -/
def noPage (a : Access) : Bool := a.remote && 2 ^ 70 ≤ a.pa

/-- An stf waits for the earlier writes of its class to its target, but for those that the route counts order (08 R206, R209,
R210). -/
def stfWaits (e p : Access) : Bool :=
  p.kind == .stf && e.kind.isWrite && e.cls == p.cls && (e.target == p.target || (noPage e && !p.target.isDie)) &&
    !(e.remote && p.remote && p.target.isDie)

/-- Same 32-byte sector, as the device sees both. -/
def sameSector (a b : Access) : Bool :=
  (a.va / 32 == b.va / 32 || a.pa / 32 == b.pa / 32) && a.len != 0 && b.len != 0

/-- An earlier access holds a later one of its context back (07 R189; 08 R200, R201, R209, R210); both as the device sees them. An
access that is not die-local (08 R198) waits for those to its sector, but a load only for writes. The pieces of one access are not
ordered (07 R195). -/
def holdsBack (e p : Access) : Bool :=
  e.kind.ordered && e.id != p.id &&
    (overlap e p || (e.cls == p.cls && e.dieLocal && p.dieLocal) || stfWaits e p ||
      (!p.dieLocal && sameSector e p && (p.kind != .load || e.kind.isWrite)))

/-- An access may perform after the ones before it in its bank's list. -/
def clear : List Access → Access → Bool
  | [], _ => true
  | e :: r, p =>
    !holdsBack e p &&
      !(e.kind.isWrite && r.any (fun b => b.kind.covers p.cls && b.kind.covers e.cls)) && clear r p

/-- A store to die-local memory that a completed core-scope fence has let pass the core's memory port, and that has still to
perform: later accesses of the core's agents follow it through the port (08 R203). `id` is the number of the later one. -/
def passedPort (id : Nat) : List Access → List Access
  | [] => []
  | a :: r =>
    let rest := passedPort id r
    if a.kind.isWrite && a.dieLocal && r.any (fun b => b.kind.covers a.cls && b.id < id) then a :: rest else rest

/-- `n` bytes of memory follow the stores that have passed a core's port before number `id`, whatever bank they come from. -/
def portClear (s : State) (c id pa n : Nat) : Bool :=
  (List.range bankCount).all (fun b => (passedPort id (bankOf s c b).inflight).all (fun a =>
    !(a.pa < pa + n && pa < a.pa + a.len)))

/-- Element `k` of the accesses in flight of a bank may perform: after those before it, those that have left as requests, and
those that have passed the core's port. -/
def mayPerform (s : State) (c b k : Nat) : Bool :=
  let q := bankOf s c b
  match q.inflight[k]? with
  | some p =>
    let p := seen s p
    clear ((q.inflight.take k).map (seen s)) p &&
      q.tickets.all (fun e => !(e.2.acc.id < p.id && holdsBack (seen s e.2.acc) p)) &&
      (p.remote || ((List.range bankCount).filter (· != b)).all (fun o =>
        (passedPort p.id (bankOf s c o).inflight).all (fun a => !(a.pa < p.pa + p.len && p.pa < a.pa + a.len))))
  | none => false

/-- Barriers with nothing before them are spent. -/
def dropBarriers : List Access → List Access
  | a :: r =>
    match a.kind with
    | .barrier _ => dropBarriers r
    | _ => a :: r
  | [] => []

/-! ### Remote requests (07 R183 to R189, 08 R206) -/

/-- The request KIND (07 Table 8). -/
def requestKind : AccKind → BitVec 4
  | .load => 0
  | .store => 1
  | .stf => 2
  | .atomic => 3
  | .casSec => 4
  | .copyRead => 5
  | .copyWrite _ => 6
  | .barrier _ => 15

/-- Key of a core's counters by context, class and owner. -/
def remoteKey (ctx : Nat) (cls : BitVec 4) (owner : Nat) : Nat := ctx * 64 + cls.toNat * 4 + owner

/-- Key of an owner's arrival counts by core, context, class; the route comes last. -/
def arrivalKey (core ctx : Nat) (cls : BitVec 4) (route : Nat) : Nat := ((core * 64 + ctx) * 16 + cls.toNat) * 4 + route

/-- The lowest free entry of a bank's ticket table. -/
def freeTicket (k : Bank) : Option Nat := (List.range 32).find? (fun n => (aget k.tickets n).isNone)

def targetDie : Target → Nat
  | .die d => d
  | _ => 0

/-- Two remote accesses share owner and class (07 R183). -/
def sameKey (a b : Access) : Bool := a.remote && targetDie a.target == targetDie b.target && a.cls == b.cls

/-- The open tickets of a context on a core, as its requester knows them. -/
def holdsOf (s : State) (c x : Nat) : List Hold := (coreOf s c).holds.filter (fun h => h.ctx == x)

/-- The owner a remote access goes to: its page's HOME. -/
def ownerOf (a : Access) : Nat := targetDie a.target

/-- A remote access may leave now: no open ticket of its key (07 R188 step 1), no older access in its way, none of its key that has
still to leave (R183). -/
def canSend (s : State) (holds : List Hold) (k : Bank) (older : List Access) (p : Access) : Bool :=
  let v := seen s p
  !holds.any (fun h => h.owner == ownerOf p && h.cls == p.cls) &&
    !older.any (fun e => holdsBack (seen s e) v || (sameKey e p && e.id != p.id)) &&
    !k.tickets.any (fun e => e.2.acc.id < p.id && holdsBack (seen s e.2.acc) v)

/-- Every entry of the table is parked or noticed (07 R185). -/
def tableParked (k : Bank) : Bool :=
  k.tickets.length == 32 && k.tickets.all (fun e => e.2.state == 2 || e.2.state == 3)

/-- The next request of a context's key on a core takes its number, and `n - 1` more after it (07 R183). -/
def takeSeqs (c x owner : Nat) (cls : BitVec 4) (n : Nat) : Act (BitVec 16) := do
  let key := remoteKey x cls owner
  let seq := sget 0 (coreOf (← state) c).seqN key
  change (fun s => updCore s c (fun k => { k with seqN := sset 0 k.seqN key (seq + BitVec.ofNat 16 n) }))
  pure seq

/-- A remote access leaves as a request with number `seq` that holds entry `n`, or none from 32 on (07 R183, R185; 08 R206): counted on
its route when it is a store, stf, atomic or compare-and-swap; an stf to a die carries the counts (08 R209). -/
def sendRequest (c b n : Nat) (a : Access) (seq : BitVec 16) : Act Unit := do
  let s ← state
  let owner := ownerOf a
  let key := remoteKey a.ctx a.cls owner
  let counts := (List.range 4).map (fun r => sget 0 (coreOf s c).routeN (4 * key + r))
  let x : Request :=
    { kind := requestKind a.kind, req := c, bank := b, owner := owner, entry := n, seq := seq, acc := a, replay := false,
      final := false, route := 0, orte := 0, cnt := if a.kind == .stf && (seen s a).target.isDie then counts else [] }
  change (fun s => postRequest s true x)
  let orte := match (← state).net.reqs.getLast? with
    | some r => r.orte
    | none => 0
  let t : Ticket :=
    { ticket := 0, owner := BitVec.ofNat 2 owner, state := 1, disc := false, seq := seq, kind := x.kind, acc := a, orte := orte,
      cnt := x.cnt, replaying := false, busy := false }
  change (fun s => updCore s c (fun k =>
    { k with routeN := if a.kind.isWrite then supd 0 k.routeN (4 * key + orte.toNat) (· + 1) else k.routeN }))
  if n < 32 then change (fun s => updBank s c b (fun k => { k with tickets := aset k.tickets n t }))

/-- A released store finds the table full of parked and noticed entries: it is not performed, and TICKET_OVERFLOW waits for the
next instruction boundary (07 R185; log 34). -/
def overflowTicket (k : Bank) (a : Access) : Bank :=
  { k with pend := k.pend ++ [{ src := .remote, code := .ticketOverflow, info := some (BitVec.ofNat 64 (a.va - a.off)),
                                pc := k.regs.pc, miss := none }] }

/-- An access of a bank that a task which has ended left there: the launch's tickets are cancelled, and it takes no entry (03 R69;
log 34). -/
def isOrphan (s : State) (k : Bank) (a : Access) : Bool :=
  match k.task.bind (taskOf s) with
  | some t => a.id < t.start
  | none => true

/-- Every remote access in flight that may leave does, in order; `older` are those before the rest. -/
def pumpFrom (c b : Nat) (older : List Access) : List Access → Act (List Access)
  | [] => pure older
  | a :: r => do
    let s ← state
    let k := bankOf s c b
    let orphan := isOrphan s k a
    let entry := if orphan then some 32 else freeTicket k
    if a.remote && canSend s (holdsOf s c a.ctx) k older a && entry.isSome then do
      let seq ← takeSeqs c a.ctx (ownerOf a) a.cls 1
      sendRequest c b (entry.getD 32) a seq
      pumpFrom c b older r
    else if a.remote && (a.kind == .store || a.kind == .stf) && tableParked k && !orphan then do
      change (fun s => updBank s c b (fun k => overflowTicket k a))
      pumpFrom c b older r
    else pumpFrom c b (older ++ [a]) r

def pump (c b : Nat) : Act Unit := do
  let rest ← pumpFrom c b [] (bankOf (← state) c b).inflight
  change (fun s => updBank s c b (fun k => { k with inflight := dropBarriers rest }))

/-! ### Commit (05 R115, 12 R318, R331) -/

/-- The access a local byte range makes, given its leaf. -/
def placeLocal (id : Nat) (kind : AccKind) (cls : BitVec 4) (x c : Nat) (p : Piece) (l : Leaf) : Access :=
  { id := id, kind := kind, cls := cls, ctx := x, va := p.va, pa := l.pa, len := p.len, off := p.off, size := p.len, data := [],
    fwd := [],
    target := leafTarget l, dieLocal := leafLocal (coreDie c) l, remote := false, notify := 0, aop := 0, opB := 0,
    opD := 0, log := false }

/-- The access a remote byte range makes. -/
def placeRemote (id : Nat) (kind : AccKind) (cls : BitVec 4) (x : Nat) (p : Piece) (home : Nat) : Access :=
  { id := id, kind := kind, cls := cls, ctx := x, va := p.va, pa := 0, len := p.len, off := p.off, size := p.len, data := [], fwd := [],
    target := .die home, dieLocal := false, remote := true, notify := 0, aop := 0, opB := 0, opD := 0, log := false }

/-- One piece of a control-core access is translated and its right checked (07 R172); a local miss is raised with its
descriptor KIND (07 R178, R180). `info` is the INFO of its traps. -/
def placePiece (w : Who) (id : Nat) (kind : AccKind) (dkind : BitVec 4) (right : Right) (cls : BitVec 4) (info : Word)
    (p : Piece) : Act Access := do
  let s ← state
  match ctxOf s w.ctx with
  | none => trap .translation info
  | some k =>
    let die := coreDie w.core
    match ← translate (some w.core) die (some die) w.ctx k p.va right with
    | .bad t => trap t info
    | .miss n => throw (.miss { die := die, va := p.va, kind := dkind, level := BitVec.ofNat 4 n })
    | .remote h => pure (placeRemote id kind cls w.ctx p h)
    | .leaf l => do
      require (l.allows right) .protection info
      pure (placeLocal id kind cls w.ctx w.core p l)

/-- A buffered store to the notification page (03 R75), with the store's address in INFO (12 R318). -/
def placeNotify (w : Who) (id : Nat) (e : BufEntry) : Act Access := do
  let s ← state
  let info := BitVec.ofNat 64 (e.va - e.off)
  let v := (e.va - nva) / 8
  match ctxOf s w.ctx with
  | none => trap .translation info
  | some k =>
    require (e.bytes.length == 8 && e.va % 8 == 0 && v < 32 && k.vecMask.getLsbD v) .protection info
    let pa := k.npage.toNat + 8 * v
    let home := (nearDie pa).getD 4
    let target := match rowOf pa with
      | some r => targetOf home r
      | none => Target.host
    pure { id := id, kind := if e.ordered then .stf else .store, cls := e.cls, ctx := w.ctx, va := e.va, pa := pa, len := 8, off := 0, size := 8, data := e.bytes,
           fwd := [], target := target, dieLocal := home == coreDie w.core, remote := false, notify := v + 1, aop := 0,
           opB := 0, opD := 0, log := false }

/-- The slot that a partition-relative S offset lies in is thread-owned (09 R229). -/
def threadOwned (s : State) (w : Who) (o : Nat) : Bool :=
  !(slotOf s w.core ((bankOf s w.core w.bank).part.s0 + o / 2048)).owner

/-- A buffered store takes steps 3 and 4 of 12 R315, with the store's address in INFO (12 R318). `id` is the store's number. -/
def placeStore (w : Who) (id : Nat) (e : BufEntry) : Act Access := do
  if isNva e.va then placeNotify w id e
  else do
    let info := BitVec.ofNat 64 (e.va - e.off)
    let a ← placePiece w id (if e.ordered then .stf else .store) 1 .w e.cls info ⟨e.off, e.va, e.bytes.length⟩
    match e.fromS with
    | some o => do
      let s ← state
      require (threadOwned s w o) .ownerViolation info
    | none => pure ()
    pure { a with data := e.bytes, size := e.size }

/-- The buffered stores in order; the sectors of one store carry one number. -/
def placeStores (w : Who) (last : Nat) : List BufEntry → Act (List Access)
  | [] => pure []
  | e :: r => do
    let id ← if e.off = 0 then newId else pure last
    let a ← placeStore w id e
    pure (a :: (← placeStores w id r))

/-- Commit: wait for tickets, translate and check every buffered store before any leaves, release them, and make the
current state the restart state (12 R331). A write to a granule pending for a checkpoint stalls (04 R102). -/
def commitRegion (w : Who) (mark : Bool) : Act Unit := do
  let k := bankOf (← state) w.core w.bank
  waitUntil k.tickets.isEmpty
  let placed ← placeStores w 0 k.storeBuf
  let s ← state
  waitUntil (!placed.any (fun a => !a.remote && writeStalls s a.pa a.len))
  change (fun s => updBank s w.core w.bank (fun k =>
    { k with storeBuf := [], inflight := k.inflight ++ placed, restart := k.regs, restartTgt := k.mustTgt,
             region := s.nextId }))
  pump w.core w.bank
  if mark then change (fun s => recMark s w.task)

/-! ### Descriptors and misses (07 R178 to R182) -/

/-- The descriptor of a context and page that is outstanding on a die. -/
def findDesc (s : State) (d x va : Nat) : Option Desc :=
  (dieOf s d).descs.find? (fun k => k.ctx == x && k.va / 0x10000 == va / 0x10000)

/-- A miss joins the outstanding descriptor of its page, or a new one is made (07 R180). -/
def joinDesc (s : State) (d x va : Nat) (kind level : BitVec 4) (core : Nat) (remote : Bool) (ticket : BitVec 16)
    (j : Joined) : State × BitVec 32 :=
  match findDesc s d x va with
  | some k =>
    let add := fun (e : Desc) => if e.id = k.id then { e with joined := e.joined ++ [j] } else e
    (updDie s d (fun q => { q with descs := q.descs.map add }), k.id)
  | none =>
    let id := (dieOf s d).descId
    let e : Desc :=
      { id := id, ctx := x, va := va, kind := kind, level := level, core := core, remote := remote, ticket := ticket,
        written := false, joined := [j] }
    (updDie s d (fun q => { q with descId := q.descId + 1, descs := q.descs ++ [e] }), id)

/-- SY_KEEPER.EN of a die (07 Table 6). -/
def keeperOn (s : State) (d : Nat) : Bool := (dieOf s d).keeper.getLsbD 63

/-- The registers of a bank that wait on an access, in its restart state. -/
def restartWaits (k : Bank) (id : Nat) : Bool :=
  k.restart.gWait.any (fun e => e.2 == id) || k.restart.h.any (fun e => e.wait == id) ||
    k.restart.q.any (fun e => e.2.any (fun x => x.wait == id))

/-- The loads of a region that aborts are discarded: local ones vanish, remote ones are replayed for nothing (07 R192). Those of
regions that have committed go on, an ld.sec among them (18 R417). A compare-and-swap of a sector still writes the old bytes to S (12 R323). -/
def discardLoads (k : Bank) : Bank :=
  let swaps := fun (id : Nat) =>
    k.inflight.any (fun a => a.id == id && a.kind == .casSec) || k.tickets.any (fun e => e.2.acc.id == id && e.2.kind == 4)
  let dead := k.loads.filter (fun l => k.region ≤ l.id && !restartWaits k l.id && !swaps l.id)
  let isDead := fun (id : Nat) => dead.any (fun l => l.id == id)
  { k with loads := k.loads.map (fun l => if isDead l.id then { l with dest := .none } else l),
           inflight := k.inflight.filter (fun a => !(a.kind == .load && isDead a.id)),
           tickets := k.tickets.map (fun e => if isDead e.2.acc.id then (e.1, { e.2 with disc := true }) else e) }

/-- A command belongs to the region in progress: dispatched since the last commit, in replay since its stream's last MARK. -/
def inRegion (k : Bank) (queue : Nat) (m : Cmd) : Bool :=
  if m.starter then
    match k.cursor with
    | some q => q.markPos.getD (recStream queue m.issuer) 0 ≤ m.entry
    | none => true
  else k.region ≤ m.id

/-- The commands of a region that have not started are discarded with their tokens (09 R235 step 1). -/
def discardCommands (k : Bank) : Bank :=
  let keep := k.queues.map (fun e => (e.1, e.2.filter (fun m => m.started || !inRegion k e.1 m)))
  { k with queues := keep.filter (fun e => e.2 != []) }

/-- A started command, or a token still to be written (09 R235 step 2). -/
def commandsRun (k : Bank) : Bool := k.queues.any (fun e => e.2.any (fun m => m.started)) || k.tokens != []

/-- The region aborts: buffered stores, commands not started and the region's loads go (05 R115, 09 R235, 07 R192). -/
def abortRegion (s : State) (c b : Nat) : State :=
  updBank s c b (fun k => { discardLoads (discardCommands k) with storeBuf := [] })

/-- In replay a TRANSLATION fault sets each stream back to its last MARK (06 R151). The streams of a task whose control program runs
hold no command, and stay. -/
def rewindCursor (k : Bank) : Bank :=
  { k with cursor := k.cursor.map (fun q =>
    if q.live then q else { q with pos := q.markPos, ended := [false, false, false, false, false, false] }) }

/-- The ordering class of a command's memory accesses (14 R379). -/
def Cmd.cls (c : Cmd) : Option (BitVec 4) :=
  match c.instr with
  | .xLd x | .xSt x | .xFeed x | .xKvg x | .xScat x | .xFill x | .xMcpy x => some x.c
  | _ => none

/-- A sector of a copy command, or of one before it, has drawn a ticket (07 R193). -/
def copyParked (k : Bank) (id : Nat) : Bool :=
  k.tickets.any (fun e => (e.2.kind == 5 || e.2.kind == 6) && e.2.acc.id != 0 && e.2.acc.id ≤ id &&
    (e.2.state == 2 || e.2.state == 3))

/-- A sector that a copy in its write phase cannot write now: its granule is pending for a checkpoint (04 R102), or it is a sector
of another die's page that a ticket, an open window or a full table holds (07 R193). -/
def writeHeld (s : State) (c : Nat) (k : Bank) (m : Cmd) (sector : Nat) : Bool :=
  copyParked k m.id ||
    (match m.pages.find? (fun p => p.vpn == 32 * sector / 0x10000 && p.write) with
    | none => false
    | some p =>
      let pa := p.pa + 32 * sector % 0x10000
      writeStalls s pa 32 ||
        (p.remote && !m.asked.contains sector && !m.got.any (fun g => g.1 == sector) &&
          (tableParked k || (coreOf s c).holds.any (fun h => h.owner == p.home && some h.cls == m.cls))))

/-- A copy stands where a stop is met (14 R393): it is not in its write phase, or that phase stalls, or a fault has ended it. -/
def copyStopped (s : State) (c : Nat) (k : Bank) (m : Cmd) : Bool :=
  m.halted || m.phase != 2 || (m.todo != [] && m.todo.all (writeHeld s c k m))

/-- A micro-step that has not begun to write is abandoned; it reads its sources again on resume (14 R393, R409). What an x.rsw has
read and a stalled write phase stay. -/
def Cmd.abandonRead (m : Cmd) : Cmd :=
  if m.phase = 1 then { m with phase := 0, todo := [], buf := [], asked := [], got := [] } else m

/-- Reads of abandoned micro-steps come back for nothing. -/
def dropReads (k : Bank) : Bank :=
  let dead := fun (t : Ticket) => t.kind == 5 && t.acc.len != 0 &&
    (sget [] k.queues 2).any (fun m => m.id == t.acc.id && m.phase == 1)
  { k with tickets := k.tickets.map (fun e => if dead e.2 then (e.1, { e.2 with disc := true }) else e) }

/-- A tile on its way that has not been handed over is converted again from its first row (13 R378). -/
def Cmd.restartSend (m : Cmd) : Cmd :=
  match m.instr with
  | .mEpiSend _ => { m with phase := 0, buf := [] }
  | _ => m

/-- The copies of a bank stop at their micro-step boundaries (09 R237; 14 R393). -/
def stopCopies (c b : Nat) : Act Unit := do
  let s ← state
  waitUntil ((queueOf s c b 2).all (copyStopped s c (bankOf s c b)))
  change (fun s => updBank s c b (fun k =>
    let k := dropReads k
    { k with queues := supd [] (supd [] k.queues 2 (fun l => l.map Cmd.abandonRead)) 0 (fun l => l.map Cmd.restartSend) }))

/-- A command that a miss stopped counts as not started and runs again once its page is there (13 R376). -/
def Cmd.again (m : Cmd) : Cmd := { m with halted := m.halted && m.started }

/-- The restart state comes back, and what it needs of the line it enters (05 R115, 11 R280). -/
def Bank.restore (k : Bank) : Bank := rewindCursor { k with regs := k.restart, mustTgt := k.restartTgt }

/-- A frozen bank: with stores in its buffer its block restarts its region, so what the region had issued is gone (04 R87). The
buffered stores stay where the block's header shows that there were some. A region abort in progress ends (04 R86). -/
def Bank.freeze (k : Bank) : Bank :=
  let k :=
    if !k.storeBuf.isEmpty then rewindCursor { discardLoads (discardCommands k) with storeBuf := k.storeBuf }
    else if k.miss.isSome || k.leaving then { k.restore with miss := none, leaving := false, rstart := true }
    else k
  { k with window := false, frozen := true }

/-- The finalisation window of a bank ends and its state is frozen for the save (04 R84). -/
def closeWindow (s : State) (c b : Nat) : State := updBank s c b Bank.freeze

/-- The resident shadows of a core with one more, by the order of their pre-emption (05 R120). -/
def addShadow (s : State) (c b : Nat) : State :=
  let n := (bankOf s c b).left
  let rest := (coreOf s c).shadows.filter (· != b)
  let older := rest.filter (fun o => (bankOf s c o).left ≤ n)
  updCore s c (fun k => { k with shadows := older ++ b :: rest.filter (fun o => !older.contains o) })

/-- The task of a bank becomes a resident shadow (05 R124, 09 R248). -/
def makeShadow (s : State) (c b : Nat) : State :=
  let s := updCore s c (fun k => { k with active := if k.active = some b then none else k.active })
  let s := updBank s c b (fun k => { k with left := s.nextId, checked := false })
  let s := addShadow { s with nextId := s.nextId + 1 } c b
  match (bankOf s c b).task with
  | some t => updTask s t (fun q => { q with place := .shadow })
  | none => s

/-- The started commands of a bank have retired. In the hold-up sequence, where no ticket is served, they may stop at their micro-step
boundaries instead, at a moment that is free, and stay queued (04 R83, R84; log 12). -/
def commandsDone (c b : Nat) : Act Bool := do
  let s ← state
  if !commandsRun (bankOf s c b) then pure true
  else if s.pm.hup && (← drawBool) then do
    stopCopies c b
    pure true
  else pure false

/-- A task leaves its core as a shadow. With stores in its buffer its region is aborted: unstarted commands go at once, and
the restart state is restored once the started ones are done (09 R235, R247). -/
def leaveCore (c b : Nat) : Act Unit := do
  let k := bankOf (← state) c b
  if !k.leaving && k.storeBuf.isEmpty then change (fun s => makeShadow s c b)
  else do
    if !k.leaving then
      match k.task with
      | some t => change (fun s => recRewind s t k.region)
      | none => pure ()
      change (fun s => updBank (abortRegion s c b) c b (fun k => { k with leaving := true }))
    if (← commandsDone c b) then
      change (fun s => updBank s c b (fun k => { k.restore with leaving := false, rstart := true }))
      change (fun s => makeShadow s c b)

/-- Once the started commands are done, the restart state is restored and the task becomes a shadow that waits on the
page; a die without a keeper ends the launch (07 R178, R182; 04 R86 in a finalisation window). -/
def finishMiss (c b : Nat) : Act Unit := do
  let s ← state
  let k := bankOf s c b
  match k.miss, k.task with
  | some m, some t =>
    if taskEnds s t then endTask t
    else do
      waitUntil (← commandsDone c b)
      change (fun s => updBank s c b (fun k =>
        { k.restore with miss := none, queues := k.restore.queues.map (fun e => (e.1, e.2.map Cmd.again)) }))
      if k.window then change (fun s => closeWindow s c b)
      else if !keeperOn s m.die then endByTrap t c .translation (m.pc.getD k.regs.pc) (BitVec.ofNat 64 (m.va + m.queue * 2 ^ 60))
      else do
        let x := match taskOf s t with
          | some q => q.ctx
          | none => 0
        let r := joinDesc (← state) m.die x m.va m.kind m.level c false 0 (.localTask t (m.va + m.queue * 2 ^ 60) m.pc)
        set r.1
        change (fun s => updBank s c b (fun k => { k with waitDesc := some (m.die, r.2.toNat) }))
        change (fun s => makeShadow s c b)
  | _, _ => cannot "no local miss has been raised"

/-- A local miss is raised (07 R178): the region's buffered stores and unstarted commands are discarded at once; the rest
follows when the started commands have retired. -/
def raiseMiss (c b : Nat) (m : Miss) : Act Unit := do
  let k := bankOf (← state) c b
  match k.task with
  | some t => change (fun s => recRewind s t k.region)
  | none => pure ()
  change (fun s => updBank (abortRegion s c b) c b (fun k => { k with miss := some m }))
  if !commandsRun (bankOf (← state) c b) then finishMiss c b

/-! ### Taking a trap and returning from one -/

/-- Entry to the handler at SY_EVEC (09 R244). -/
def enterHandler (r : Regs) (code : Trap) (resume : Word) : Regs :=
  if r.depth = 0 then { r with epc0 := resume, cause0 := code.code, depth := 1, pc := enterAt r.evec }
  else { r with epc1 := resume, cause1 := code.code, depth := 2, pc := enterAt r.evec }

/-- What a bank keeps of the instruction that a handler interrupts: a fold.aw that has arrived, or a syswr of SY_CKPT that has started
its operation, waits on when it is resumed (05 R134; 04 R101). The handler's line must carry TGT. -/
def Bank.toHandler (k : Bank) : Bank :=
  { k with awaiting := none, ckptWait := false, awaitOuter := (k.awaiting, k.ckptWait) :: k.awaitOuter, mustTgt := true }

/-- The wait that a handler interrupted goes on. -/
def Bank.fromHandler (k : Bank) : Bank :=
  let e := k.awaitOuter.headD (none, false)
  { k with awaiting := e.1, ckptWait := e.2, awaitOuter := k.awaitOuter.drop 1 }

/-- A trap is taken at an instruction boundary (09 R244, R245): `at_` is the PC of its fault record, `next` the
instruction after it, which BREAK resumes at. INFO that the spec does not state is a free value. -/
def takeTrap (c b : Nat) (code : Trap) (info : Option Word) (at_ next : Word) : Act Unit := do
  let s ← state
  let k := bankOf s c b
  let given ← match info with
    | some i => pure i
    | none => drawWord
  match k.task with
  | none => pure ()
  | some t =>
    match code with
    | .break_ =>
      if k.regs.depth != 0 then change (fun s => updRegs s c b (fun r => { r with pc := next }))
      else if k.regs.evec != 0 then
        change (fun s => updBank s c b (fun k => { k.toHandler with regs := enterHandler k.regs .break_ next }))
      else do
        match taskOf s t with
        | none => pure ()
        | some q =>
          faultRecord q.ctx (faultBytes Trap.break_.code c (taskTag s q) q.record.wid at_ given)
        change (fun s => updRegs s c b (fun r => { r with pc := next }))
    | .powerFail =>
      if k.regs.evec != 0 then
        change (fun s => updBank s c b (fun k =>
          { k.toHandler with regs := enterHandler k.regs .powerFail k.regs.pc, window := true }))
      else change (fun s => closeWindow s c b)
    | .preempt => pure ()
    | _ => endByTrap t c code at_ given

/-- Return from a handler (09 R244): none at depth 0. -/
def returnFrom (r : Regs) : Option Regs :=
  if r.depth = 0 then none
  else if r.depth = 1 then some { r with depth := 0, pc := enterAt r.epc0 }
  else some { r with depth := 1, pc := enterAt r.epc1 }

/-- The order in which traps due at one boundary are taken, after the instruction's own (09 R245). -/
def trapRank : TrapSource → Nat
  | .powerFail => 0
  | .engine => 1
  | .remote => 1
  | .sideCore => 2
  | .collective => 3

/-- The pending trap taken first, and the others. -/
def firstPend (l : List PendTrap) : Option (PendTrap × List PendTrap) :=
  let best := (List.range 4).findSome? (fun r => l.findIdx? (fun p => trapRank p.src == r))
  match best with
  | none => none
  | some i =>
    match l[i]? with
    | some p => some (p, removeAt l i)
    | none => none

/-- A pending trap is delivered at the control core's boundary (09 R245; 13 R337). -/
def deliver (c b : Nat) (p : PendTrap) (rest : List PendTrap) : Act Unit := do
  change (fun s => updBank s c b (fun k => { k with pend := rest }))
  let pc := (bankOf (← state) c b).regs.pc
  match p.miss with
  | some m => raiseMiss c b m
  | none => takeTrap c b p.code p.info (if p.src = .engine then p.pc else pc) pc

/-- A trap is left for the task's next instruction boundary (09 R242, R245; 02 R42). -/
def postTrap (s : State) (c b : Nat) (src : TrapSource) (code : Trap) (info : Option Word) : State :=
  updBank s c b (fun k => { k with pend := k.pend ++ [{ src := src, code := code, info := info, pc := k.regs.pc, miss := none }] })

/-! ### Issue of a control instruction (11 R283; 12 R302) -/

/-- Where a control instruction leaves its task. -/
inductive Flow where
  /-- the next instruction -/
  | next
  /-- the next instruction, which begins a new region (05 R115) -/
  | region
  /-- a slice address -/
  | goto (pc : Word)
  /-- the task has left the core, or its PC has been set -/
  | gone
deriving DecidableEq, Repr

/-- The guard passes: EN = 0, or predicate XOR NEG (11 R283). -/
def guardPasses (g : Guard) (p : BitVec 64) : Bool := !g.en || (p.getLsbD g.pred.toNat != g.neg)

/-- The registers stand as they did before an instruction that waits or traps: it pops and writes none (12 R302). -/
def keepRegs (w : Who) (r : Regs) (s : State) : State :=
  if (bankOf s w.core w.bank).task = some w.task then setRegs s w.core w.bank r else s

/-- The PC after an instruction of `n` slices. -/
def advance (w : Who) (n : Nat) (f : Flow) (s : State) : State :=
  if (bankOf s w.core w.bank).task = some w.task then
    match f with
    | .next => updRegs s w.core w.bank (fun r => { r with pc := nextPc r.pc n })
    | .goto pc => updRegs s w.core w.bank (fun r => { r with pc := pc })
    | .region => updBank s w.core w.bank (fun k =>
        let r := { k.regs with pc := nextPc k.regs.pc n }
        { k with regs := r, restart := r, restartTgt := false, region := s.nextId })
    | .gone => s
  else s

/-- A trap is taken and marked as raised by this step (09 R245). -/
def raiseNow (w : Who) (n : Nat) (t : Trap) (info : Option Word) (s : State) : State :=
  let pc := (regsOf s w.core w.bank).pc
  let r := (takeTrap w.core w.bank t info pc (nextPc pc n)).go s
  { r.2 with raised := true }

/-- One control instruction of `n` slices by the task that runs on the acting core. It is squashed when its guard fails,
waits with its registers unchanged, traps precisely, or has its effect (11 R283, 12 R302, 09 R245). `squash` is what the
recorder notes of a squashed branch (06 R145). -/
def issueWith (g : Guard) (n : Nat) (squash : Who → State → State) (body : Who → Act Flow) (s : State) :
    Host.Outcome State Fault Refusal :=
  match s.actor with
  | .control c =>
    match whoRuns s c with
    | none => .refused (.notEnabled "no task runs on the core")
    | some w =>
      if !controlRuns s c w.bank then .next s
      else if (bankOf s c w.bank).miss.isSome then asStep (finishMiss c w.bank) s
      else if (bankOf s c w.bank).leaving then .next s
      else if !guardPasses g (regsOf s c w.bank).p then .next (advance w n .next (squash w s))
      else
        match (body w).go s with
        | (.ok f, s') => .next (advance w n f s')
        | (.error .wait, s') => .next (keepRegs w (regsOf s c w.bank) s')
        | (.error (.trap t info), s') => .next (raiseNow w n t info (keepRegs w (regsOf s c w.bank) s'))
        | (.error (.miss m), s') =>
          .next { ((raiseMiss c w.bank m).go (keepRegs w (regsOf s c w.bank) s')).2 with raised := true }
        | (.error (.cannot why), _) => .refused (.notEnabled why)
  | _ => .refused (.notEnabled "a control instruction needs a control core to act")

/-- A control instruction of which the recorder notes nothing when it is squashed. -/
def issue (g : Guard) (n : Nat) (body : Who → Act Flow) (s : State) : Host.Outcome State Fault Refusal :=
  issueWith g n (fun _ s => s) body s

end Sys2Proof.Machine
end

