-- ==== Sys2Proof/Machine/Replay.lean ====
section
/-!
DEFINITION. Starters (06): the starter store (R137, R138), the layout of a body (R140 to R142), the recording's
reservation and publication (R138, R139; 15 R412), a replay's semaphores, ready entries, retirements and failed guards
(R142, R147, R149).
-/

namespace Sys2Proof.Machine

/-! ### The layout of a body -/

/-- Header fields of a body (06 Table 4). -/
structure BodyHead where
  nt : Nat
  ns : Nat
  ng : Nat
  nl : Nat
  nrs : Nat
  nsem : Nat
  ridx : Nat
  determ : Bool
deriving DecidableEq, Repr

def up64 (n : Nat) : Nat := (n + 63) / 64 * 64

/-- Offsets of the six sections (06 R140). -/
def taskOff : Nat := 64
def streamOff (h : BodyHead) : Nat := up64 (taskOff + 64 * h.nt)
def guardOff (h : BodyHead) : Nat := up64 (streamOff h + 16 * h.ns)
def rankOff (h : BodyHead) : Nat := up64 (guardOff h + 32 * h.ng)
def logOff (h : BodyHead) : Nat := up64 (rankOff h + 4 * h.nrs)
def stallOff (h : BodyHead) : Nat := up64 (logOff h + 8 * h.nl)
def bodyLen (h : BodyHead) : Nat := stallOff h + 4 * h.ns

/-- A little-endian field of a byte list. -/
def fieldAt (bs : List Byte) (off n : Nat) : Nat := leNat ((bs.drop off).take n)

/-- Bytes of a body; none where they cannot be read (06 R148). -/
def bodyBytes (x : Nat) (body : Word) (off n : Nat) : Act (Option (List Byte)) := do
  match ← devRead x (body.toNat + off) n with
  | .ok bs => pure (some bs)
  | .error _ => pure none

def bodyHead (x : Nat) (body : Word) : Act (Option BodyHead) := do
  match ← bodyBytes x body 0 64 with
  | none => pure none
  | some bs =>
    pure (some { nt := fieldAt bs 8 4, ns := fieldAt bs 12 4, ng := fieldAt bs 16 4, nl := fieldAt bs 20 4,
                 nrs := fieldAt bs 24 2, nsem := fieldAt bs 26 2, ridx := fieldAt bs 28 1 % 64,
                 determ := fieldAt bs 29 1 % 2 == 1 })

/-- A partition in the PART format (06 Table 5). -/
def partBits (p : Part) : Nat := p.s0 % 256 + p.sn % 512 * 2 ^ 8 + p.c0 % 64 * 2 ^ 24 + p.cn % 128 * 2 ^ 32
def partOfBits (n : Nat) : Part :=
  { s0 := n % 256, sn := n / 2 ^ 8 % 512, c0 := n / 2 ^ 24 % 64, cn := n / 2 ^ 32 % 128 }

/-- A task entry (06 Table 5). -/
structure BodyTask where
  wid : Word
  core : Nat
  live : Bool
  tail : Bool
  gcnt : Nat
  gfirst : Nat
  strm : List Nat
  part : Part
  recAddr : Word
  weight : Word
deriving DecidableEq, Repr

def bodyTask (x : Nat) (body : Word) (h : BodyHead) (e : Nat) : Act (Option BodyTask) := do
  if e < h.nt then
    match ← bodyBytes x body (taskOff + 64 * e) 64 with
    | none => pure none
    | some bs =>
      pure (some { wid := BitVec.ofNat 64 (fieldAt bs 0 8), core := fieldAt bs 8 1, live := fieldAt bs 9 1 % 2 == 1,
                   tail := fieldAt bs 9 1 / 2 % 2 == 1, gcnt := fieldAt bs 10 2, gfirst := fieldAt bs 12 4,
                   strm := (List.range 6).map (fun k => fieldAt bs (16 + 4 * k) 4), part := partOfBits (fieldAt bs 40 8),
                   recAddr := BitVec.ofNat 64 (fieldAt bs 48 8), weight := BitVec.ofNat 64 (fieldAt bs 56 8) })
  else pure none

/-- Stream entry `i`; none beyond NS or where it cannot be read. -/
def streamEntry (x : Nat) (body : Word) (h : BodyHead) (i : Nat) : Act (Option (BitVec 128)) := do
  if i < h.ns then
    match ← bodyBytes x body (streamOff h + 16 * i) 16 with
    | none => pure none
    | some bs => pure (some (BitVec.ofNat 128 (leNat bs)))
  else pure none

/-- A guard slot (06 Table 7). -/
structure BodyGuard where
  kind : Nat
  gw : BitVec 8
  cond : Nat
  gval : Word
  addr : Word
  failPc : Word
deriving DecidableEq, Repr

def bodyGuard (x : Nat) (body : Word) (h : BodyHead) (i : Nat) : Act (Option BodyGuard) := do
  if i < h.ng then
    match ← bodyBytes x body (guardOff h + 32 * i) 32 with
    | none => pure none
    | some bs =>
      pure (some { kind := fieldAt bs 0 1, gw := BitVec.ofNat 8 (fieldAt bs 1 1), cond := fieldAt bs 2 1,
                   gval := BitVec.ofNat 64 (fieldAt bs 8 8), addr := BitVec.ofNat 64 (fieldAt bs 16 8),
                   failPc := BitVec.ofNat 64 (fieldAt bs 24 8) })
  else pure none

/-- The entries of a stream from `i` to its END. -/
def streamFrom (x : Nat) (body : Word) (h : BodyHead) : Nat → Nat → Act (Option (List (BitVec 128)))
  | 0, _ => pure none
  | n + 1, i => do
    match ← streamEntry x body h i with
    | none => pure none
    | some w =>
      if entryKind w = 5 then pure (some [w])
      else
        match ← streamFrom x body h n (i + 1) with
        | none => pure none
        | some r => pure (some (w :: r))

/-! ### The starter store -/

/-- A starter-store entry (06 Table 2). -/
structure StarterEntry where
  hash : Word
  body : Word
  version : BitVec 16
  var : BitVec 8
  forkg : BitVec 16
deriving DecidableEq, Repr

def StarterEntry.valid (e : StarterEntry) : Bool := e.body.getLsbD 0
def StarterEntry.forked (e : StarterEntry) : Bool := e.var.getLsbD 6
def StarterEntry.bodyAddr (e : StarterEntry) : Word := BitVec.ofNat 64 (fld e.body 6 50 * 64)

def starterOf (bs : List Byte) : StarterEntry :=
  { hash := BitVec.ofNat 64 (fieldAt bs 0 8), body := BitVec.ofNat 64 (fieldAt bs 8 8),
    version := BitVec.ofNat 16 (fieldAt bs 16 2), var := BitVec.ofNat 8 (fieldAt bs 18 1),
    forkg := BitVec.ofNat 16 (fieldAt bs 20 2) }

/-- The address of an entry of a hash's set. -/
def starterAddr (k : Context) (hash : Word) (e : Nat) : Nat := k.sstore.toNat + 256 * (hash.toNat % 128) + 32 * e

/-- The eight entries of a hash's set; none where one cannot be read. -/
def starterSet (x : Nat) (hash : Word) : Act (Option (List StarterEntry)) := do
  match ctxOf (← state) x with
  | none => pure none
  | some k =>
    match ← devRead x (starterAddr k hash 0) 256 with
    | .error _ => pure none
    | .ok bs => pure (some ((List.range 8).map (fun e => starterOf ((bs.drop (32 * e)).take 32))))

/-! ### Recording: reservation and publication -/

/-- An empty recording in a reservation. -/
def newRecording (base : Word) (recmax : Nat) (forked : Bool) (parent : BitVec 3) (forkg : BitVec 16) : Recording :=
  { base := base, recmax := recmax, tasks := [], nsem := 0, preds := [], abandoned := false, foldSems := [],
    forked := forked, parent := parent, forkg := forkg }

/-- A recording starts when the set and the arena head can be read and written, the set holds a free entry and the arena has room;
otherwise the launch runs without one (06 R138, R139). -/
def startRecording (l : Nat) (forked : Bool) (parent : BitVec 3) (forkg : BitVec 16) : Act Unit := do
  match launchOf (← state) l with
  | none => pure ()
  | some q =>
    match ← starterSet q.ctx q.hash, ctxOf (← state) q.ctx with
    | some es, some k =>
      let open_ ← devBoth q.ctx (starterAddr k q.hash 0) 256
      if open_ && es.any (fun e => !e.valid) then
        let size := if q.recmax = 0 then 262144 else q.recmax
        match ← devReadWord q.ctx k.arena.toNat, ← devReadWord q.ctx (k.arena.toNat + 8) with
        | .ok next, .ok limit =>
          if next.toNat + size ≤ limit.toNat then
            match ← devWriteWord q.ctx k.arena.toNat (next + BitVec.ofNat 64 size) with
            | .ok _ =>
              change (fun s => updLaunch s l (fun q =>
                { q with recording := some (newRecording (k.arena + next) size forked parent forkg) }))
            | .error _ => pure ()
        | _, _ => pure ()
    | _, _ => pure ()

/-- The index of an entry among those the body keeps. -/
def keptIndex (ts : List RecTask) (e : Nat) : Nat := ((ts.take e).filter (fun k => !k.dropped)).length

/-- An entry SETs a task-level semaphore, at its end or at a spawn. -/
def RecTask.sets (k : RecTask) (sem : Nat) : Bool := k.after.contains sem || (k.streams.headD []).contains (setWord sem)

/-- The task-level WAITs of an entry: 6 for each recorded entry that SETs the semaphore (15 R411; 17 R416). -/
def entryWaits (ts : List RecTask) (k : RecTask) : List (BitVec 128) :=
  k.waits.filterMap (fun w =>
    let p := (ts.filter (fun o => !o.dropped && o.sets w.1)).length
    if p = 0 then none else some (waitWord w.1 (6 * p)))

/-- The six streams of a task entry as the body holds them (06 R143; 15 R411). -/
def bodyStreams (ts : List RecTask) (k : RecTask) : List (List (BitVec 128)) :=
  let waits := entryWaits ts k
  let sets := k.after.map setWord
  let last : BitVec 28 := if k.succ = 0 then 0 else BitVec.ofNat 28 (2 ^ 27 + keptIndex ts (k.succ - 1) % 2 ^ 20)
  k.published.map (fun q => waits ++ q ++ sets ++ [streamWord 5 last 0])

/-- Bytes of a guard slot. -/
def guardBytes (kind : Nat) (gw : BitVec 8) (cond : Nat) (gval addr failPc : Word) : List Byte :=
  leBytes 1 kind ++ leBytes 1 gw.toNat ++ leBytes 6 cond ++ wordBytes gval ++ wordBytes addr ++ wordBytes failPc

/-- The guard slots of a task entry, in the order of 15 R412: every task that is not live has a health guard. -/
def guardsOf (k : RecTask) : List (List Byte) :=
  (match k.shape with
    | some h => if k.live then [] else [guardBytes 1 0 0 h 0 0]
    | none => []) ++
  (if k.live then [] else [guardBytes 3 0 0 (k.uses.setWidth 64) 0 0]) ++
  (match k.branch with
    | some (gw, c, v, a, f) => if k.live then [] else [guardBytes 2 gw c.toNat v a f]
    | none => [])

/-- A rank substitution: stream entry in <31:8>, low bit of the field in <7:0> (06 R156): DRANK of l.run and l.cav, DEV of
ROUTE. -/
def rankSubst (ws : List (Nat × BitVec 128)) : List Nat :=
  ws.zipIdx.filterMap (fun e =>
    let w := e.1.2
    if entryKind w = 6 then some (256 * e.2 + 50)
    else if entryKind w = 0 && e.1.1 == 3 then
      match decodeCommand 3 (entryCmd w) with
      | .ok (.lRun _) => some (256 * e.2 + 82)
      | .ok (.lCav _) => some (256 * e.2 + 82)
      | _ => none
    else none)

/-- Zero bytes up to the next multiple of 64. -/
def pad64 (bs : List Byte) : List Byte := bs ++ List.replicate (up64 bs.length - bs.length) 0

/-- Where the lists of a list begin. -/
def starts : Nat → List Nat → List Nat
  | _, [] => []
  | n, k :: r => n :: starts (n + k) r

/-- Semaphores that the entries kept in a body use, ascending; those of instances of which nothing is recorded fall away (17 R416). -/
def usedSems (ts : List RecTask) (nsem : Nat) : List Nat :=
  let of_ := fun (k : RecTask) => k.after ++ k.waits.map (fun w => w.1) ++
    (k.streams.flatten.filter (fun w => entryKind w == 1 || entryKind w == 2)).map (fun w => (entryOpnd w).toNat % 65536)
  let used := (ts.filter (fun k => !k.dropped)).flatMap of_
  (List.range nsem).filter used.contains

/-- An entry with its semaphores renumbered in the order of those used. -/
def RecTask.renumber (used : List Nat) (k : RecTask) : RecTask :=
  let f := fun (n : Nat) => (used.findIdx? (fun m => m == n)).getD n
  let g := fun (w : BitVec 128) =>
    let o := (entryOpnd w).toNat
    if entryKind w = 1 then setWord (f (o % 65536)) else if entryKind w = 2 then waitWord (f (o % 65536)) (o / 65536 % 256) else w
  { k with streams := k.streams.map (fun q => q.map g), own := k.own.map f, after := k.after.map f,
           waits := k.waits.map (fun w => (f w.1, w.2)) }

/-- The bytes of a body (06 R140 to R142; 15 Tables 4 to 6). -/
def bodyOf (q : Launch) (r : Recording) (gidx : BitVec 6) (log : List Word) : BodyHead × List Byte :=
  let used := usedSems r.tasks r.nsem
  let all := (spreadLive r.tasks).map (fun k => k.renumber used)
  let ts := all.filter (fun k => !k.dropped)
  let streams := ts.map (bodyStreams all)
  let flat := streams.flatMap (fun ss => ss.zipIdx.flatMap (fun e => e.1.map (fun w => (e.2, w))))
  let first := starts 0 (streams.flatMap (fun ss => ss.map List.length))
  let guards := ts.map guardsOf
  let gfirst := starts 0 (guards.map List.length)
  let rank := rankSubst flat
  let h : BodyHead :=
    { nt := ts.length, ns := flat.length, ng := (guards.map List.length).sum, nl := log.length, nrs := rank.length,
      nsem := used.length, ridx := gidx.toNat, determ := q.determ }
  let head := wordBytes q.hash ++ leBytes 4 h.nt ++ leBytes 4 h.ns ++ leBytes 4 h.ng ++ leBytes 4 h.nl ++ leBytes 2 h.nrs ++
    leBytes 2 h.nsem ++ leBytes 1 h.ridx ++ leBytes 1 (bitAt 0 q.determ) ++ leBytes 34 0
  let task := fun (e : RecTask × Nat) =>
    wordBytes e.1.wid ++ leBytes 1 e.1.core ++ leBytes 1 (bitAt 0 e.1.live + bitAt 1 e.1.tail) ++
      leBytes 2 (guards.getD e.2 []).length ++ leBytes 4 (gfirst.getD e.2 0) ++
      ((List.range 6).flatMap (fun k => leBytes 4 (first.getD (6 * e.2 + k) 0))) ++ leBytes 8 (partBits e.1.part) ++
      wordBytes e.1.recAddr ++ wordBytes e.1.weight
  let body := pad64 head ++ pad64 (ts.zipIdx.flatMap task) ++ pad64 (flat.flatMap (fun e => leBytes 16 e.2.toNat)) ++
    pad64 guards.flatten.flatten ++ pad64 (rank.flatMap (leBytes 4)) ++ pad64 (log.flatMap wordBytes) ++
    leBytes (4 * h.ns) 0
  (h, body)

/-- The launch's order log as it stands in memory (06 R158). -/
def orderLog (q : Launch) : Act (Option (List Word)) := do
  if q.determ && q.olog != 0 then
    match ← devReadWord q.ctx q.olog.toNat with
    | .error _ => pure none
    | .ok n =>
      match ← devRead q.ctx (q.olog.toNat + 8) (8 * Nat.min n.toNat (2 ^ q.ologn)) with
      | .error _ => pure none
      | .ok bs => pure (some ((List.range (bs.length / 8)).map (fun i => leWord ((bs.drop (8 * i)).take 8))))
  else pure (some [])

/-- The variant number of a new entry: 0 for a root, else the lowest not in use by the hash (06 Table 2). -/
def newVariant (hash : Word) (es : List StarterEntry) : Nat :=
  let used := (es.filter (fun e => e.valid && e.hash == hash)).map (fun e => e.var.toNat % 8)
  ((List.range 8).find? (fun n => n != 0 && !used.contains n)).getD 7

/-- The counts of a body lie in the ranges of its header (06 Table 4). -/
def BodyHead.fits (h : BodyHead) : Bool := 0 < h.nt && h.nt ≤ 2 ^ 20 && h.ng ≤ 65535 && h.nrs ≤ 65535 && h.nsem ≤ 65535

/-- A launch that completes with STATUS 0 publishes its recording: the body, then the lowest free entry (06 R138). One that does not fit
RECMAX or its header's fields is abandoned (06 R139; log 67). -/
def publish (l : Nat) : Act Unit := do
  match launchOf (← state) l with
  | none => pure ()
  | some q =>
    match q.recording with
    | none => pure ()
    | some r =>
      if r.abandoned then pure ()
      else
        match ← starterSet q.ctx q.hash, ctxOf (← state) q.ctx, ← orderLog q with
        | some es, some k, some log =>
          match es.findIdx? (fun e => !e.valid) with
          | none => pure ()
          | some e =>
            let (h, bs) := bodyOf q r (← state).gang.gidx log
            if !h.fits || bs.length > r.recmax then pure ()
            else
              match ← devWrite q.ctx r.base.toNat bs with
              | .error _ => pure ()
              | .ok _ =>
                let var := if r.forked then newVariant q.hash es + 8 * r.parent.toNat + 64 else 0
                let entry := wordBytes q.hash ++ wordBytes (r.base ||| 1) ++ leBytes 2 1 ++ leBytes 2 var ++
                  leBytes 2 (if r.forked then r.forkg.toNat else 0) ++ leBytes 10 0
                let _ ← devWrite q.ctx (starterAddr k q.hash e) entry
        | _, _, _ => pure ()

/-! ### Replay: semaphores and ready entries -/

/-- The key of a semaphore of a body. -/
def semKey (body : Word) (n : Nat) : Nat := 65536 * body.toNat + n

def semOf (r : Replay) (body : Word) (n : Nat) : BitVec 32 := sget 0 r.sems (semKey body n)

/-- A WAIT passes: count(s) ≥ M x (ITER + 1) (06 R142). -/
def waitPasses (r : Replay) (body : Word) (w : BitVec 128) (iter : Nat) : Bool :=
  let o := (entryOpnd w).toNat
  (o / 65536 % 256) * (iter + 1) ≤ (semOf r body (o % 65536)).toNat

/-- The WAITs a stream begins with. -/
def leadingWaits (q : List (BitVec 128)) : List (BitVec 128) := q.takeWhile (fun w => entryKind w == 2)

/-- What two streams begin with alike. -/
def sharedStart : List (BitVec 128) → List (BitVec 128) → List (BitVec 128)
  | a :: p, b :: q => if a = b then a :: sharedStart p q else []
  | _, _ => []

/-- The task-level WAITs of a task entry: those that its six streams begin with alike (06 R143, 15 R411). A WAIT that only some
streams begin with orders commands of the task itself (log 70). -/
def taskWaits (qs : List (List (BitVec 128))) : List (BitVec 128) :=
  (qs.map leadingWaits).tail.foldl sharedStart (leadingWaits (qs.headD []))

/-- The streams of a task entry. -/
def entryStreams (x : Nat) (body : Word) (h : BodyHead) (k : BodyTask) : Act (Option (List (List (BitVec 128)))) := do
  let mut r : Option (List (List (BitVec 128))) := some []
  for i in k.strm do
    match r with
    | none => pure ()
    | some qs =>
      match ← streamFrom x body h (h.ns + 1) i with
      | none => r := none
      | some q => r := some (qs ++ [q])
  pure r

/-- The semaphore indices of a stream are below NSEM (06 R148). -/
def semsOk (h : BodyHead) (q : List (BitVec 128)) : Bool :=
  q.all (fun w => !(entryKind w == 1 || entryKind w == 2) || (entryOpnd w).toNat % 65536 < h.nsem)

/-- The entry an END names by exit.succ (06 Table 6). -/
def endSucc (q : List (BitVec 128)) : Option Nat :=
  match q.getLast? with
  | some w => if entryKind w = 5 && (entryOpnd w).getLsbD 27 then some ((entryOpnd w).toNat % 2 ^ 20) else none
  | none => none

/-- A record of a launch lies among its static records. -/
def staticIndex (q : Launch) (addr : Word) : Option Nat :=
  let d := addr.toNat - q.root.toNat
  if q.root.toNat ≤ addr.toNat && d % 64 == 0 && d / 64 < q.ntask then some (d / 64) else none

/-- The task of a ready entry: it waits for CORE and the recorded partition, at the launch's priority (06 R147). -/
def replayTask (s : State) (l : Nat) (q : Launch) (e : Nat) (k : BodyTask) (r : Record) : Task :=
  let index := match staticIndex q k.recAddr with
    | some i => i + 1
    | none => 0
  let t := launchTask s l q r k.recAddr k.weight (BitVec.ofNat 64 (index - 1)) index (k.core / 64) (k.core % 64 / 8)
  { t with prio := q.prio.toNat, die := k.core / 64, cluster := k.core % 64 / 8, core := k.core, place := .replayWait,
           sdem := k.part.sn, cdem := k.part.cn, repEntry := e + 1, repIter := 0, fixed := some k.part }

/-- The record an entry's task starts from (06 R141, R147); none where it cannot be read. -/
def entryRecord (x : Nat) (addr : Word) : Act (Option Record) := do
  match ← devRead x addr.toNat 64 with
  | .ok bs => pure (some (recordOf bs))
  | .error _ => pure none

/-- The parent's weight after a recorded spawn of a child of weight `c`: the loans it took since, as the weights tell (05
R127; 06 R142). It answers the weight that remains and the loans. -/
def splitWeight (w c : Word) : Word × Word :=
  let two := 2 * c
  let whole := if (two - w).toNat % 2 ^ 32 = 0 then two else two + 1
  (whole - c, (whole - w) >>> 32)

/-- Weight leaves a replayed task to a child or successor it starts, with the loans this shows. -/
def takeWeight (s : State) (l t : Nat) (left loans : Word) : State :=
  let s := updTask s t (fun k => { k with weight := left })
  updLaunch s l (fun q => { q with loans := q.loans + loans.setWidth 32 })

/-- A task passes to the shepherd as a dynamic task (06 R149 step 4). One that was spawned and finds the pool and the overflow queue full
waits as a static task does, in state 1 (log 22). -/
def passTask (s : State) (l : Nat) (k : Task) : Act Unit := do
  let base := { k with repEntry := 0, fixed := none }
  match launchOf s l with
  | none => pure ()
  | some q =>
    let again := launchTask s l q k.record k.recAddr k.weight k.iid k.index k.die k.cluster
    let fresh := { again with recPred := base.recPred, noRec := base.noRec }
    match ← enrol (if k.index = 0 then .spawned else .static) fresh with
    | .yes t =>
      if k.index != 0 then
        match ← writeStateEntry q (k.index - 1) 0 (standing (← state) t) with
        | .ok _ => pure ()
        | .error f => deviceFailEnds l f
    | .spawnLimit => do
      let t ← newId
      change (fun s => { s with tasks := aset s.tasks t { fresh with place := .state1, ready := t } })
    | .dropped => pure ()

/-- The launch stops using a body that a block loaded by SY_SWLOAD uses, once its guard has failed (06 R147). -/
def leaveLoaded (l : Nat) (body : Word) : Act Unit := do
  match launchOf (← state) l with
  | none => pure ()
  | some q =>
    if q.loaded.contains body then do
      addUsers q.ctx body (-1)
      change (fun s => updLaunch s l (fun q => { q with loaded := q.loaded.erase body }))

/-- Every task entry not yet started passes to the shepherd; under POLICY 3 the remainder is recorded (06 R149 step 4). -/
def passRemainder (l : Nat) (slot : Nat) : Act Unit := do
  match launchOf (← state) l with
  | none => pure ()
  | some q =>
    match q.replay with
    | none => pure ()
    | some r =>
      if r.passed then pure ()
      else
        addUsers q.ctx r.body (-1)
        change (fun s => updLaunch s l (fun q => { q with replay := some { r with passed := true } }))
        if q.policy = 3 then startRecording l true r.variant (BitVec.ofNat 16 slot)
        let s ← state
        let waiting := s.tasks.filter (fun e => e.2.launch == some l && e.2.place == .replayWait)
        for e in waiting do
          change (fun s => { s with tasks := adel s.tasks e.1 })
          passTask (← state) l e.2

/-- Entries of a body for static tasks of the launch that have started, but for task `t`. -/
def takenEntries (l t : Nat) (body : Word) : Act (List Nat) := do
  match launchOf (← state) l with
  | none => pure []
  | some q =>
    match ← bodyHead q.ctx body with
    | none => pure []
    | some h => do
      let mut r : List Nat := []
      for e in List.range h.nt do
        match ← bodyTask q.ctx body h e with
        | none => pure ()
        | some k =>
          match staticIndex q k.recAddr with
          | none => pure ()
          | some i => do
            let s ← state
            let runs := s.tasks.any (fun x =>
              x.1 != t && x.2.launch == some l && x.2.index == i + 1 && x.2.place != .replayWait)
            match ← readStateEntry q i with
            | .ok (_, st) => if runs || st = 3 then r := r ++ [e]
            | .error _ => pure ()
      pure r

/-- The variant that follows a failed guard slot, if the store holds one (06 R149 step 3). -/
def variantFor (l slot : Nat) : Act (Option StarterEntry) := do
  match launchOf (← state) l with
  | none => pure none
  | some q =>
    match q.replay, ← starterSet q.ctx q.hash with
    | some r, some es =>
      pure (es.find? (fun e => e.valid && e.hash == q.hash && e.forked && (e.var >>> 3).setWidth 3 == r.variant &&
        e.forkg == BitVec.ofNat 16 slot))
    | _, _ => pure none

/-- The record is that of a static task without predecessors: launch start makes it ready (05 R112, 06 R147). -/
def atLaunchStart (q : Launch) (recAddr : Word) : Bool :=
  match staticIndex q recAddr with
  | some i => (q.statics[i]?).any (fun r => r.depcnt == 0)
  | none => false

/-- The semaphores that all streams of an entry SET at their end (06 R143). -/
def lastSems (qs : List (List (BitVec 128))) : List Nat :=
  let of_ := fun (q : List (BitVec 128)) =>
    (q.dropLast.reverse.takeWhile (fun w => entryKind w == 1)).map (fun w => (entryOpnd w).toNat % 65536)
  (of_ (qs.headD [])).filter (fun n => qs.all (fun q => (of_ q).contains n))

/-- An entry of a body with its streams; none for one that cannot be read. -/
abbrev WholeEntry := Option (BodyTask × List (List (BitVec 128)))

def wholeEntries (x : Nat) (body : Word) (h : BodyHead) : Act (List WholeEntry) := do
  let mut r : List WholeEntry := []
  for e in List.range h.nt do
    match ← bodyTask x body h e with
    | none => r := r ++ [none]
    | some k => r := r ++ [(← entryStreams x body h k).map (fun qs => (k, qs))]
  pure r

/-- An exit.succ of an earlier entry leads to entry `e` (06 Table 6). -/
def isSuccessor (all : List WholeEntry) (e : Nat) : Bool :=
  (all.take e).any (fun w => w.any (fun x => endSucc (x.2.headD []) == some e))

/-- The recorded predecessors of an entry, those that SET one of its task-level semaphores at their end, have retired (06 R147). -/
def predsRetired (all : List WholeEntry) (r : Replay) (qs : List (List (BitVec 128))) : Bool :=
  let waits := (taskWaits qs).map (fun w => (entryOpnd w).toNat % 65536)
  all.zipIdx.all (fun w => r.retired.contains w.2 || w.1.all (fun x => !(lastSems x.2).any waits.contains))

/-- An entry of the launch's body has been made ready. -/
def noteStarted (l e : Nat) : Act Unit :=
  change (fun s => updLaunch s l (fun q => { q with replay := q.replay.map (fun r => { r with started := r.started ++ [e] }) }))

/-- The entry's task waits for its place. -/
def placeReplayed (k : Task) : Act Unit := do
  let id ← newId
  change (fun s => { s with tasks := aset s.tasks id { k with ready := id } })

/-- Entry `e` of the launch's body is made ready: its task, of the weight the entry holds and of instance id `iid` where the event gives one,
waits for its place; once the remainder has passed to the shepherd it goes there (06 R147, R149, R157). An entry whose record cannot be
read counts as one with a failed shape guard (06 R148). -/
def startEntry (l x e : Nat) (k : BodyTask) (iid : Option Word) : Act Unit := do
  match launchOf (← state) l with
  | none => pure ()
  | some q =>
    noteStarted l e
    match ← entryRecord x k.recAddr with
    | none => passRemainder l 0xFFFF
    | some rc => do
      let t0 := replayTask (← state) l q e k rc
      let t0 := { t0 with iid := iid.getD t0.iid }
      if q.replay.any (fun r => r.passed) then passTask (← state) l t0
      else do
        placeReplayed t0
        match staticIndex q k.recAddr with
        | none => pure ()
        | some i =>
          match ← writeStateEntry q i 0 2 with
          | .ok _ => pure ()
          | .error f => deviceFailEnds l f

/-- A spawned entry of weight `weight` comes from task `by_`: that gives up the weight and counts the spawn. It answers the child's instance
id (05 R127; 06 R142, R157). -/
def childId (l : Nat) (by_ : Option Nat) (weight : Word) : Act (Option Word) := do
  match by_, by_.bind (taskOf (← state)) with
  | some t, some p => do
    let (left, loans) := splitWeight p.weight weight
    change (fun s => takeWeight s l t left loans)
    change (fun s => updTask s t (fun k => { k with spawns := k.spawns + 1 }))
    pure (some (sieve p.iid (BitVec.ofNat 64 p.spawns)))
  | _, _ => pure none

/-- A spawned or successor entry of a forked variant whose spawner, or predecessor, the variant does not hold: that runs from a body that
replay has left, and the entry becomes ready by what happens there (06 R147, R149). -/
def isForeign (q : Launch) (all : List WholeEntry) (e : Nat) : Bool :=
  match all.getD e none with
  | some (k, qs) => (staticIndex q k.recAddr).isNone && (taskWaits qs).isEmpty && !isSuccessor all e && !k.tail
  | none => false

/-- An entry becomes ready when its task-level WAITs pass and the event that made it ready in the recording has happened (06 R147): launch
start, or the retirement of its last predecessor, for a static task; for a spawned one its spawner's SETs, which the WAITs tell. That the
last predecessor of a static task has retired is read from the state array as well, because after a move to a variant it may have run from
the body left, where the variant has no WAIT for it. `by_` is the task that performed the SET. The retirement of an exit.succ
predecessor is no case of this, nor is an entry whose event happens in a body left. After the remainder has passed to the shepherd, only
spawned entries still come from the body, as dynamic tasks. An entry that cannot be read counts as one with a failed shape guard (06 R148):
the remainder passes on. -/
def readyEntry (l : Nat) (by_ : Option Nat) (x : Nat) (body : Word) (h : BodyHead) (all : List WholeEntry) (e : Nat) :
    Act Unit := do
  match launchOf (← state) l with
  | none => pure ()
  | some q =>
    match q.replay with
    | none => pure ()
    | some r =>
      if r.started.contains e || r.body != body || isSuccessor all e then pure ()
      else
        let fail := fun (_ : Unit) => do
          noteStarted l e
          passRemainder l 0xFFFF
        match all.getD e none with
        | none => fail ()
        | some (k, qs) =>
          let pass := (taskWaits qs).all (fun w => waitPasses r body w 0)
          if !(qs.all (semsOk h)) then fail ()
          else
            match staticIndex q k.recAddr with
            | none =>
              if pass && !(isForeign q all e && !r.earlier.isEmpty) then
                let iid ← childId l by_ k.weight
                startEntry l x e k iid
            | some i =>
              if r.passed then pure ()
              else if atLaunchStart q k.recAddr then startEntry l x e k none
              else if pass && predsRetired all r qs then
                match ← readStateEntry q i with
                | .error f => deviceFailEnds l f
                | .ok (n, _) => if n = 0 then startEntry l x e k none

/-- Every entry that has become ready (06 R147). -/
def readyEntries (l : Nat) (by_ : Option Nat) : Act Unit := do
  match launchOf (← state) l with
  | none => pure ()
  | some q =>
    match q.replay with
    | none => pure ()
    | some r =>
      match ← bodyHead q.ctx r.body with
      | none => passRemainder l 0xFFFF
      | some h =>
        let all ← wholeEntries q.ctx r.body h
        for e in List.range h.nt do readyEntry l by_ q.ctx r.body h all e

/-- A SET adds 1 to its semaphore (06 R142). -/
def addSem (l : Nat) (body : Word) (n : Nat) (s : State) : State :=
  updLaunch s l (fun q => { q with replay := q.replay.map (fun r => { r with sems := supd 0 r.sems (semKey body n) (· + 1) }) })

/-- The entries of a body; none where its header cannot be read. -/
def entriesOf (x : Nat) (body : Word) : Act (List WholeEntry) := do
  match ← bodyHead x body with
  | none => pure []
  | some h => wholeEntries x body h

/-- The record and work identifier by which entries of two bodies, or an entry and a task, stand for the same task. -/
def BodyTask.same (k : BodyTask) (recAddr wid : Word) : Bool := k.recAddr == recAddr && k.wid == wid

/-- The first entry of a variant, not yet started, that stands for a task. -/
def entryFor (r : Replay) (all : List WholeEntry) (recAddr wid : Word) : Option (Nat × BodyTask) :=
  all.zipIdx.findSome? (fun w =>
    match w.1 with
    | some (k, _) => if !k.tail && k.same recAddr wid && !r.started.contains w.2 then some (w.2, k) else none
    | none => none)

/-- A ready task of a body that replay has left goes on from its entry of the variant, with its own weight and instance id (06 R149 step 3,
R157). For one without an entry there, and for all that follows, the remainder passes to the shepherd (log 87). -/
def adoptEntry (l x : Nat) (k : Task) : Act Unit := do
  match (launchOf (← state) l).bind (fun q => q.replay) with
  | none => pure ()
  | some r =>
    if r.passed then passTask (← state) l k
    else
      match entryFor r (← entriesOf x r.body) k.recAddr k.record.wid with
      | some (e, b) => startEntry l x e { b with weight := k.weight } (some k.iid)
      | none => do
        passRemainder l 0xFFFF
        passTask (← state) l k

/-- The events of a variant's entries that happen in a body left, as far as they have happened when replay leaves it: of the entries that stand
for the same record, the last ones of both bodies answer to each other, and one whose task has started from the body left has no task in the
variant. One that no entry of the body left stands for starts at once (log 87). `ready` are the tasks that go on in the variant. -/
def settleForeign (l x : Nat) (old all : List WholeEntry) (started : List Nat) (ready : List Task) : Act Unit := do
  for w in all.zipIdx do
    match w.1, launchOf (← state) l with
    | some (k, _), some q =>
      match q.replay with
      | none => pure ()
      | some r =>
        if isForeign q all w.2 && !r.started.contains w.2 then
          let stands := fun (n : Nat) (es : List WholeEntry) =>
            (es.getD n none).any (fun e => (staticIndex q e.1.recAddr).isNone && e.1.same k.recAddr k.wid)
          let olds := (List.range old.length).filter (fun n => stands n old)
          let mine := (List.range all.length).filter (fun n => isForeign q all n && stands n all)
          let gone := (olds.filter started.contains).length - (ready.filter (fun t => k.same t.recAddr t.record.wid)).length
          if olds.isEmpty then startEntry l x w.2 k none
          else if (mine.findIdx? (fun n => n == w.2)).any (fun p => p + olds.length < gone + mine.length) then
            change (fun s => updLaunch s l (fun q => { q with replay := q.replay.map (fun r =>
              { r with started := r.started ++ [w.2], retired := r.retired ++ [w.2] }) }))
    | _, _ => pure ()

/-- Replay moves to a forked variant, with fresh semaphores, at the boundary of task `t` (06 R149 step 3, R147). The tasks that wait for their
place, and `back` before them, go on from their entries of the variant. -/
def moveVariant (l t : Nat) (e : StarterEntry) (back : List Task) : Act Unit := do
  match launchOf (← state) l with
  | none => pure ()
  | some q =>
    match q.replay with
    | none => pure ()
    | some r =>
      let old ← entriesOf q.ctx r.body
      addUsers q.ctx r.body (-1)
      addUsers q.ctx e.bodyAddr 1
      let keep := r.sems.filter (fun x => x.1 / 65536 != e.bodyAddr.toNat)
      let taken ← takenEntries l t e.bodyAddr
      change (fun s => updLaunch s l (fun q =>
        { q with replay := some { body := e.bodyAddr, version := e.version, variant := e.var.setWidth 3, sems := keep,
                                  started := taken, retired := taken, passed := false,
                                  earlier := (r.body, r.started) :: r.earlier } }))
      let waiting := (← state).tasks.filter (fun e => e.2.launch == some l && e.2.place == .replayWait)
      change (fun s => { s with tasks := s.tasks.filter (fun e => !waiting.any (fun w => w.1 == e.1)) })
      let ready := back ++ waiting.map (fun e => e.2)
      let all ← entriesOf q.ctx e.bodyAddr
      for k in ready do adoptEntry l q.ctx k
      settleForeign l q.ctx old all r.started ready

/-- An entry of a body that replay has left has been made ready. -/
def noteEarlier (l : Nat) (body : Word) (e : Nat) : Act Unit :=
  change (fun s => updLaunch s l (fun q => { q with replay := q.replay.map (fun r =>
    { r with earlier := r.earlier.map (fun x => if x.1 = body then (x.1, x.2 ++ [e]) else x) }) }))

/-- A SET of task `by_`, whose body replay has left: the spawned tasks that it makes ready go on from their entries of the variant (06 R147,
R149). -/
def readyEarlier (l by_ x : Nat) (body : Word) : Act Unit := do
  let all ← entriesOf x body
  for w in all.zipIdx do
    match w.1, launchOf (← state) l with
    | some (k, qs), some q =>
      match q.replay with
      | none => pure ()
      | some r =>
        if r.earlier.any (fun p => p.1 == body && !p.2.contains w.2) && (staticIndex q k.recAddr).isNone && !isSuccessor all w.2 &&
            !(taskWaits qs).isEmpty && (taskWaits qs).all (fun w => waitPasses r body w 0) then
          noteEarlier l body w.2
          let iid ← childId l (some by_) k.weight
          match ← entryRecord x k.recAddr with
          | none => passRemainder l 0xFFFF
          | some rc =>
            let t0 := replayTask (← state) l q w.2 k rc
            adoptEntry l x { t0 with iid := iid.getD t0.iid }
    | _, _ => pure ()

/-- The SET of a task, which may be the last of a spawn point. -/
def setSem (l : Nat) (by_ : Nat) (body : Word) (n : Nat) : Act Unit := do
  change (addSem l body n)
  match launchOf (← state) l with
  | none => pure ()
  | some q => if q.replay.any (fun r => r.body != body) then readyEarlier l by_ q.ctx body else readyEntries l (some by_)

/-- The successor list of a replayed task: the state array is updated as in the dynamic run; tasks come from the body (06
R142). -/
def countSuccessors (l : Nat) : List Nat → Act Unit
  | [] => pure ()
  | i :: r => do
    match launchOf (← state) l with
    | none => pure ()
    | some q =>
      if i < q.ntask then
        match ← readStateEntry q i with
        | .error e => deviceFailEnds l e
        | .ok (count, st) =>
          if count != 0 then
            match ← writeStateEntry q i (count - 1) st with
            | .error e => deviceFailEnds l e
            | .ok _ => pure ()
      countSuccessors l r

/-- The retirement of a task as the launch counts it: its successor list, its state-array entry, its weight (05 R112, R113,
R127). `weight` is what is added to the returned total. In a replay the entries that it makes ready follow (06 R147). -/
def retireCounts (l t : Nat) (k : Task) (weight : Word) : Act Unit := do
  match launchOf (← state) l with
  | none => pure ()
  | some q =>
    let replaying := match q.replay with
      | some r => !r.passed
      | none => false
    match ← successorsOf l k with
    | .error e => deviceFailEnds l e
    | .ok ss =>
      if k.index != 0 then
        match ← writeStateEntry q (k.index - 1) 0 3 with
        | .error e => deviceFailEnds l e
        | .ok _ => pure ()
      if replaying && k.repEntry != 0 then countSuccessors l ss
      else processSuccessors t l (coreDie k.core) (coreCluster k.core) ss
      change (fun s => updLaunch s l (fun q => { q with returned := q.returned + weight.toNat }))
      if replaying then readyEntries l none

/-! ### Guards (06 R148, R149) -/

/-- A guard of a task that has not run fails: the task does not start from the starter. Replay goes on in the variant
forked at the slot, or the remainder passes to the shepherd, beginning with the task itself (06 R149 steps 2 to 4). -/
def guardFailsEarly (l t slot : Nat) : Act Unit := do
  match taskOf (← state) t with
  | none => pure ()
  | some k =>
    match (bankOf (← state) k.core k.bank).cursor with
    | some c => leaveLoaded l c.body
    | none => pure ()
    match ← variantFor l slot with
    | some e => do
      moveVariant l t e [k]
      change (fun s => dropTask s t)
      readyEntries l none
    | none => do
      passRemainder l slot
      change (fun s => dropTask s t)
      passTask (← state) l k

/-! ### Starting and retiring the task of an entry -/

/-- The starter cursor of an entry at an iteration (06 R150, Table 8), its guards still to pass. -/
def cursorAt (x : Nat) (body : Word) (version : BitVec 16) (h : BodyHead) (k : BodyTask) (e iter : Nat) : Act Cursor := do
  let mut kinds : List Nat := []
  for i in List.range k.gcnt do
    match ← bodyGuard x body h (k.gfirst + i) with
    | none => kinds := kinds ++ [0]
    | some g => kinds := kinds ++ [g.kind]
  pure { body := body, task := e, iter := iter, version := version, pos := k.strm, markPos := k.strm,
         setPos := [0, 0, 0, 0, 0, 0], ended := [false, false, false, false, false, false], live := k.live,
         shapeOk := kinds.all (fun n => n == 2 || n == 3), healthOk := !kinds.contains 3, branchOk := !kinds.contains 2,
         route := 0 }

/-- A task that starts: g1 ARG, g2 WID, g3 the record's address, PC at ENTRY, rotation base 0, predicates cleared, queues and
trap stack empty; the other named registers keep what they held (05 R109). -/
def startRegs (r : Regs) (k : Record) (addr : Word) : Regs :=
  let g := sset 0 (sset 0 (sset 0 r.g 1 k.arg) 2 k.wid) 3 addr
  let live := [1, 2, 3]
  { r with pc := enterAt k.entry, g := g, gWait := [], gMark := live.foldl (fun m n => sset Mark.clean m n .clean) r.gMark,
           h := [], q := [], p := 0, pMark := [], rb := 0, depth := 0, cause0 := 0, cause1 := 0, epc0 := 0, epc1 := 0 }

/-- Registers of an exit.succ successor: all kept but the trap stack, PC at ENTRY (05 R109, R127). -/
def succRegs (r : Regs) (k : Record) : Regs :=
  { r with pc := enterAt k.entry, depth := 0, cause0 := 0, cause1 := 0, epc0 := 0, epc1 := 0 }

/-- A bank's task begins a region with given registers, at a line that must carry TGT (11 R280), also when it restarts there (log 95). -/
def beginRegs (s : State) (c b : Nat) (r : Regs) : State :=
  updBank s c b (fun k => { k with regs := r, restart := r, region := s.nextId, storeBuf := [], mustTgt := true, restartTgt := true })

/-- The race-check shadow of a task's partition is cleared at its start (06 R160). -/
def clearPartShadow (s : State) (c b : Nat) : State :=
  let p := (bankOf s c b).part
  if bankRaced s c b then (List.range p.sn).foldl (fun s i => clearShadow s c (p.s0 + i)) s else s

/-- The successor of an exit.succ takes the place of its task on the core: same partition, weight and core (05 R127). It
answers the new task. -/
def succTask (s : State) (k : Task) (r : Record) (addr : Word) : Task :=
  let ceiling := match ctxOf s k.ctx with
    | some x => x.ceiling.toNat
    | none => 7
  let given := match k.launch.bind (launchOf s) with
    | some q => q.prio.toNat
    | none => k.prio
  let prio := match k.launch with
    | some _ => recordPrio r given ceiling
    | none => k.prio
  { k with index := 0, recAddr := addr, record := r, prio := prio, place := .running,
           iid := sieve k.iid 0xFFFFFFFF, spawns := 0, keeperOf := none, thr := 0, repEntry := 0, recEntry := 0,
           waits := [], recPred := k.recEntry, recBy := 0, repIter := 0, fixed := none }

/-- The new task stands in the bank of the old one. -/
def replaceTask (c b t : Nat) (k : Task) : Act Nat := do
  let id ← newId
  let part := (bankOf (← state) c b).part
  change (fun s => { s with tasks := aset s.tasks id { k with start := id, ready := id, core := c, bank := b } })
  change (fun s => updBank s c b (fun q =>
    { q with task := some id, storeBuf := [], tokens := [], cursor := none, awaiting := none, miss := none }))
  change (fun s => dropTask (updTask s t (fun q => { q with place := .state1 })) t)
  change (fun s => clearPartShadow s c b)
  change (fun s => recStart s id c part false)
  pure id

/-- The streams of a live task in replay stand at their last SETs (06 R141, R143). -/
def atLastSets (q : List (BitVec 128)) : Bool := q.all (fun w => entryKind w == 1 || entryKind w == 5)

/-- What is left of each stream of a cursor. -/
def restOf (x : Nat) (c : Cursor) : Act (Option (List (List (BitVec 128)))) := do
  match ← bodyHead x c.body with
  | none => pure none
  | some h =>
    let mut r : Option (List (List (BitVec 128))) := some []
    for i in c.pos do
      match r with
      | none => pure ()
      | some qs =>
        match ← streamFrom x c.body h (h.ns + 1) i with
        | none => r := none
        | some q => r := some (qs ++ [q])
    pure r

/-- The last SETs of a live task take effect at its retirement. -/
def lastSets (l : Nat) (body : Word) (rest : List (List (BitVec 128))) : Act Unit := do
  for q in rest do
    for w in q do
      if entryKind w = 1 then change (addSem l body ((entryOpnd w).toNat % 65536))

/-- A spawn of a live task of a body: each of its streams performs the SET recorded at the spawn point, once in an iteration (06 R143,
R147, R151). -/
def spawnSets (l t c b : Nat) (cur : Cursor) : Act Unit := do
  let x := match taskOf (← state) t with
    | some k => k.ctx
    | none => 0
  match ← bodyHead x cur.body with
  | none => pure ()
  | some h =>
    for n in List.range 6 do
      match ← streamEntry x cur.body h (cur.pos.getD n 0) with
      | none => pure ()
      | some w =>
        if entryKind w = 1 then
          let i := cur.pos.getD n 0
          change (fun s => updBank s c b (fun k => { k with cursor := k.cursor.map (fun q =>
            { q with pos := changeAt (· + 1) q.pos n, setPos := changeAt (Nat.max (i + 1)) q.setPos n }) }))
          if cur.setPos.getD n 0 ≤ i then setSem l t cur.body ((entryOpnd w).toNat % 65536)

/-- The cursor of a task that replays an entry whose child or successor the body holds (06 R147). -/
def bodyTaskOf (s : State) (w : Who) : Option Cursor :=
  match (bankOf s w.core w.bank).cursor, w.launch.bind (launchOf s) with
  | some c, some q =>
    match q.replay with
    | some r => if r.passed then none else some c
    | none => none
  | _, _ => none

/-- Semaphores that order commands of one entry: those its streams wait for once (06 R143). -/
def ownSems (qs : List (List (BitVec 128))) : List Nat :=
  qs.flatMap (fun q => q.filterMap (fun w =>
    let o := (entryOpnd w).toNat
    if entryKind w = 2 && o / 65536 % 256 = 1 then some (o % 65536) else none))

/-- An entry that a task whose control program runs passes over: its program does the work (06 R141, R149). -/
def passedLive (own : List Nat) (w : BitVec 128) : Bool :=
  let o := (entryOpnd w).toNat
  match entryKind w with
  | 1 => own.contains (o % 65536)
  | 2 => o / 65536 % 256 == 1
  | 5 => false
  | _ => true

/-- The streams of the task entry of a cursor, from their beginnings. -/
def wholeOf (x : Nat) (c : Cursor) : Act (List (List (BitVec 128))) := do
  match ← bodyHead x c.body with
  | none => pure []
  | some h =>
    match ← bodyTask x c.body h c.task with
    | none => pure []
    | some k => pure ((← entryStreams x c.body h k).getD [])

/-- Where the streams of the task entry of a cursor begin in the body. -/
def startsOf (x : Nat) (c : Cursor) : Act (List Nat) := do
  match ← bodyHead x c.body with
  | none => pure []
  | some h => pure (((← bodyTask x c.body h c.task).map (fun k => k.strm)).getD [])

/-- A live task of a body reaches a recorded SET point, a spawn or a fold arrival: once its streams stand there, each
performs its SET (06 R143, R147). -/
def liveSets (w : Who) (cur : Cursor) : Act Unit := do
  let own := ownSems (← wholeOf w.ctx cur)
  let rest ← restOf w.ctx cur
  waitUntil ((rest.getD []).all (fun q =>
    match q.head? with
    | some e => entryKind e == 5 || (entryKind e == 1 && !passedLive own e)
    | none => true))
  spawnSets (w.launch.getD 0) w.task w.core w.bank cur

/-- An entry of a body has retired. -/
def noteRetired (l : Nat) (cur : Cursor) (s : State) : State :=
  updLaunch s l (fun q => { q with replay := q.replay.map (fun r =>
    if r.body = cur.body then { r with retired := r.retired ++ [cur.task] } else r) })

/-- The task that a back-edge goes on with, as an instance of entry `n`: a successor of the one that has retired (06 R142, R157). Its
record is its entry's; where that is a static record, the list of successors belongs to the first instance (log 81). -/
def againTask (s : State) (l n : Nat) (k : Task) (e : BodyTask) (r : Record) : Task :=
  let static := ((launchOf s l).bind (fun q => staticIndex q e.recAddr)).isSome
  let r := if static then { r with nsucc := 0 } else r
  { succTask s k r e.recAddr with repEntry := n + 1, recPred := 0, fixed := k.fixed }

/-- A back-edge: the next iteration of the entry begins in place. -/
def goAgain (l t c b : Nat) (x : Nat) (cur : Cursor) (h : BodyHead) (n : Nat) (e : BodyTask) : Act Unit := do
  match ← entryRecord x e.recAddr, taskOf (← state) t with
  | some r, some k => do
    let next ← cursorAt x cur.body cur.version h e n (cur.iter + 1)
    change (fun s => updTask s t (fun _ => againTask s l n k e r))
    change (fun s => updBank s c b (fun k => { k with cursor := some next }))
    change (fun s => clearPartShadow s c b)
    if e.live then change (fun s => beginRegs s c b (startRegs (regsOf s c b) r e.recAddr))
  | _, _ => passRemainder l 0xFFFF

/-- The successor entry `n` of an exit.succ becomes ready as its predecessor retires, with the predecessor's weight and, in the same body, its
iteration (05 R127; 06 R142, R147, R157). -/
def readySuccessor (l t x : Nat) (q : Launch) (k : Task) (iter n : Nat) (e : BodyTask) : Act Unit := do
  change (fun s => takeWeight s l t 0 ((e.weight - k.weight) >>> 32))
  noteStarted l n
  match ← entryRecord x e.recAddr with
  | none => passRemainder l 0xFFFF
  | some r =>
    let k' := replayTask (← state) l q n e r
    placeReplayed { k' with iid := sieve k.iid 0xFFFFFFFF, repIter := iter }

/-- The entry of the launch's body that stands for the successor `n` of a task of body `cur`: that entry itself, with its iteration, or one of
the variant that replay has moved to, where its semaphores start anew; none once the remainder has passed on (06 R149; log 87). -/
def successorEntry (l x : Nat) (cur : Cursor) (n : Nat) (e : BodyTask) : Act (Option (Nat × Nat × BodyTask)) := do
  match (launchOf (← state) l).bind (fun q => q.replay) with
  | none => pure none
  | some r =>
    if r.passed then pure none
    else if r.body = cur.body then pure (some (cur.iter, n, e))
    else do
      noteEarlier l cur.body n
      match entryFor r (← entriesOf x r.body) e.recAddr e.wid with
      | some (v, b) => pure (some (0, v, { b with weight := e.weight }))
      | none => do
        passRemainder l 0xFFFF
        pure none

/-- The entry that the END of a cursor's task names, with its number. -/
def cursorSuccessor (x : Nat) (cur : Cursor) (h : BodyHead) : Act (Option (Nat × BodyTask)) := do
  match ← bodyTask x cur.body h cur.task with
  | none => pure none
  | some e =>
    match ← streamFrom x cur.body h (h.ns + 1) (e.strm.getD 0 0) with
    | none => pure none
    | some q =>
      match endSucc q with
      | none => pure none
      | some n => pure ((← bodyTask x cur.body h n).map (fun e => (n, e)))

/-- A task of a body retires: the counts of the launch change as in the dynamic run; a back-edge starts the next iteration in place; a
successor entry becomes ready, or starts live in place once the remainder has passed to the shepherd (06 R142, R147, R149). -/
def replayRetire (l t c b : Nat) (cur : Cursor) : Act Unit := do
  match taskOf (← state) t, launchOf (← state) l with
  | some k, some q => do
    change (noteRetired l cur)
    let succ ← match ← bodyHead q.ctx cur.body with
      | none => pure none
      | some h => pure ((← cursorSuccessor q.ctx cur h).map (fun x => (h, x)))
    match succ with
    | none => do
      retireCounts l t k k.weight
      change (fun s => dropTask s t)
    | some (h, n, e) =>
      if n ≤ cur.task then do
        retireCounts l t k 0
        goAgain l t c b q.ctx cur h n e
      else
        match ← successorEntry l q.ctx cur n e with
        | some (iter, m, e) => do
          retireCounts l t k 0
          readySuccessor l t q.ctx q k iter m e
          change (fun s => dropTask s t)
        | none =>
          match ← entryRecord q.ctx e.recAddr with
          | none => do
            retireCounts l t k k.weight
            change (fun s => dropTask s t)
          | some r => do
            retireCounts l t k 0
            let k' := succTask (← state) k r e.recAddr
            let _ ← replaceTask c b t k'
            change (fun s => beginRegs s c b (startRegs (regsOf s c b) r e.recAddr))
  | _, _ => pure ()

/-- The task's commands, tokens, collectives and writes are done (05 R128). -/
def retireReady (s : State) (c b t : Nat) : Bool :=
  let k := bankOf s c b
  k.queues.isEmpty && k.tokens.isEmpty && k.tickets.isEmpty && (programsOf s t).isEmpty &&
    k.inflight.all (fun a => !a.kind.isWrite)

end Sys2Proof.Machine
end

