-- ==== Sys2Proof/Machine/Fetch.lean ====
section
/-!
DEFINITION. Fetch of instruction lines (09 R217; 11 R276 to R281, R295): the line at an address, the next instruction of a
task, and transfers of control.
-/

namespace Sys2Proof.Machine

/-- The 256 bits of a line of 32 bytes (11 R276). -/
def lineBits (bs : List Byte) : BitVec 256 := BitVec.ofNat 256 (leNat bs)

/-- The line at a physical address as a core's fetch sees it: the memory's, or an older one it has fetched (08 R216). -/
def fetchedLine (c pa : Nat) : Act (BitVec 256) := do
  let s ← state
  let now := lineBits (readBytes s pa 32)
  let key := pa / 32
  let keep := change (fun s => updCore s c (fun k => { k with icache := sset 0 k.icache key now }))
  match aget (coreOf s c).icache key with
  | none => do
    keep
    pure now
  | some old =>
    if old = now then pure now
    else if (← drawBool) then pure old
    else do
      keep
      pure now

/-- The leaf of an address that the task's core reads itself: a line, a task record, a parameter of a command. A page of
another die is walked by that die, and a miss there is served by its keeper (log 6). -/
def reachLeaf (w : Who) (k : Context) (va : Nat) (dkind : BitVec 4) (right : Right) : Act Leaf := do
  let die := coreDie w.core
  let info := BitVec.ofNat 64 va
  let missAt := fun (d n : Nat) =>
    throw (m := Act) (α := Leaf) (Stop.miss { die := d, va := va, kind := dkind, level := BitVec.ofNat 4 n })
  match ← translate (some w.core) die (some die) w.ctx k va right with
  | .leaf l => pure l
  | .bad t => trap t info
  | .miss n => missAt die n
  | .remote h =>
    match ← translate none h none w.ctx k va right with
    | .leaf l => pure l
    | .bad t => trap t info
    | .miss n => missAt h n
    | .remote _ => missAt h 4

/-- Bytes that a task's instruction reads itself (a task record, an image, an object entry): every page must allow `right`;
released stores of the task to them perform first (08 R201). -/
def reachBytes (w : Who) (va : Word) (n : Nat) (dkind : BitVec 4) (right : Right) : Act (List Byte) := do
  checkVa va
  match ctxOf (← state) w.ctx with
  | none => trap .translation va
  | some k => do
    let b := bankOf (← state) w.core w.bank
    let meets := fun (a : Access) => a.kind.isWrite && a.va < va.toNat + n && va.toNat < a.va + a.len
    waitUntil (!b.inflight.any meets && !b.tickets.any (fun e => meets e.2.acc))
    let mut r : List Byte := []
    for p in pieces va.toNat n do
      let l ← reachLeaf w k p.va dkind right
      require (l.allows right) .protection (BitVec.ofNat 64 p.va)
      waitUntil (portClear (← state) w.core (← state).nextId l.pa p.len)
      r := r ++ readBytes (← state) l.pa p.len
    pure r

/-- The line at a virtual line address (07 R162, R172). -/
def fetchLine (w : Who) (va : Word) : Act (BitVec 256) := do
  checkVa va
  let s ← state
  match ctxOf s w.ctx with
  | none => trap .translation va
  | some k => do
    let l ← reachLeaf w k va.toNat 3 .x
    require l.x .protection va
    waitUntil (portClear (← state) w.core (← state).nextId l.pa 32)
    fetchedLine w.core l.pa

/-- Control goes to a line, which must carry TGT (11 R280, R286; 12 R311). -/
def transfer (w : Who) (target : Word) : Act Flow := do
  let line ← fetchLine w target
  requireOpen (lineTgt line) .illegalLine
  pure (.goto (target + 4))

/-- What the fetch finds for the control core to do. -/
inductive Fetched where
  | instr (i : Instr)
  /-- nothing but empty slices: execution goes on at a slice address (11 R279) -/
  | pass (pc : Word)
deriving DecidableEq, Repr

/-- The first slice from `k` that is not empty (11 R279). -/
def nextFull (line : BitVec 256) (k : Nat) : Option Nat :=
  (List.range 8).find? (fun j => k ≤ j && 1 ≤ j && queueNibble line j != 0xF)

def decodeTrap : DecodeFault → Trap
  | .illegalLine => .illegalLine
  | .illegalOpcode => .illegalOpcode
  | .reservedField => .reservedField

/-- The next instruction of a task: TGT where entry needs it, the whole header, then the slice (11 R278 to R281, R295). -/
def fetchNext (w : Who) : Act Fetched := do
  let s ← state
  let k := bankOf s w.core w.bank
  let pc := enterAt k.regs.pc
  let line ← fetchLine w (lineAddr pc)
  if k.mustTgt && !lineTgt line then
    change (fun s => updRegs s w.core w.bank (fun r => { r with pc := lineAddr pc }))
    trapOpen .illegalLine
  else do
    requireOpen (headerOk line) .illegalLine
    change (fun s => updBank s w.core w.bank (fun k => 
      { k with mustTgt := false, restartTgt := k.restartTgt && enterAt k.restart.pc != pc, regs := { k.regs with pc := pc } }))
    match nextFull line (sliceNum pc) with
    | none => pure (.pass (lineAddr pc + 36))
    | some j =>
      if j = sliceNum pc then
        requireOpen (queueNibble line j != 0xE) .illegalLine
        match decodeSlice line j with
        | .ok (i, _) => pure (.instr i)
        | .error e => trapOpen (decodeTrap e)
      else pure (.pass (lineAddr pc + BitVec.ofNat 64 (4 * j)))

end Sys2Proof.Machine
end

