-- ==== Sys2Proof/Machine/Operands.lean ====
section
/-!
DEFINITION. Operand forms of the control core (09 R219 to R224): reading a source specifier, writing a destination, the age
queue, the operand queues, the rotating names; addresses of memory instructions (11 R285, 12 R315).
-/

namespace Sys2Proof.Machine

/-- The physical register a name denotes under a rotation base (09 R221). -/
def physOf (rb : BitVec 3) (n : Nat) : Nat :=
  if 16 ≤ n ∧ n ≤ 23 then 16 + (n - 16 + rb.toNat) % 8 else n

/-- A physical g register; g0 reads 0 (09 R219). -/
def gRead (r : Regs) (p : Nat) : Word := if p = 0 then 0 else sget 0 r.g p

/-- The constants of specifiers 52 to 62 (09 Table 1). -/
def constantOf : Nat → Word
  | 52 => 1
  | 53 => 2
  | 54 => 3
  | 55 => 4
  | 56 => 8
  | 57 => 16
  | 58 => 32
  | 59 => 64
  | 60 => 128
  | 61 => 256
  | _ => -1

/-- A mark is data-derived (06 R144). -/
def Mark.isDerived : Mark → Bool
  | .clean => false
  | _ => true

/-- The mark of a result computed from operands (06 R144). -/
def markOf (ms : List Mark) : Mark := if ms.any Mark.isDerived then .derived else .clean

/-- A value read from a register, with the recorder's mark. -/
structure Val where
  v : Word
  mark : Mark
deriving DecidableEq, Repr

def regsAct (w : Who) : Act Regs := do
  let s ← state
  pure (regsOf s w.core w.bank)

def setRegsAct (w : Who) (f : Regs → Regs) : Act Unit := change (fun s => updRegs s w.core w.bank f)

/-- The value of a g register; a pending one makes the instruction wait (09 R236). -/
def readG (w : Who) (n : Nat) : Act Val := do
  let r ← regsAct w
  let p := physOf r.rb n
  waitUntil (sget 0 r.gWait p == 0)
  pure ⟨gRead r p, sget .clean r.gMark p⟩

/-- The head of an operand queue is popped; an empty queue traps, an unfilled head waits (09 R222). -/
def popQ (w : Who) (n : Nat) : Act Val := do
  let r ← regsAct w
  match sget [] r.q n with
  | [] => trapOpen .reservedField
  | e :: rest => do
    waitUntil (e.wait == 0)
    setRegsAct w (fun r => { r with q := sset [] r.q n rest })
    pure ⟨e.v, .derived⟩

/-- A source operand (09 R219, Table 1). -/
def readSrc (w : Who) (a : Spec) : Act Val := do
  let n := a.toNat
  if n < 32 then readG w n
  else if n < 48 then do
    let r ← regsAct w
    match r.h[n - 32]? with
    | none => pure ⟨0, .clean⟩
    | some e => do
      waitUntil (e.wait == 0)
      pure ⟨e.v, e.mark⟩
  else if n < 52 then popQ w (n - 48)
  else if n < 63 then pure ⟨constantOf n, .clean⟩
  else trapOpen .reservedField

/-- A destination field names a g register and it is not pending (09 R219, R236). -/
def destReady (w : Who) (d : Spec) : Act Nat := do
  requireOpen (d.toNat < 32) .reservedField
  let r ← regsAct w
  let p := physOf r.rb d.toNat
  waitUntil (sget 0 r.gWait p == 0)
  pure p

/-- A physical g register written; a write to g0 is discarded (09 R219). -/
def gWrite (r : Regs) (p : Nat) (v : Val) : Regs :=
  if p = 0 then r else { r with g := sset 0 r.g p v.v, gMark := sset .clean r.gMark p v.mark }

/-- A result enters the age queue; h16 is lost (09 R220). -/
def push (r : Regs) (v : Val) : Regs := { r with h := ({ v := v.v, wait := 0, mark := v.mark } :: r.h).take 16 }

/-- D := v (12 R301): the register and the age queue. -/
def writeD (w : Who) (d : Spec) (v : Val) : Act Unit := do
  let p ← destReady w d
  setRegsAct w (fun r => push (gWrite r p v) v)

/-- A g register written without a push (12 R311, R314). -/
def writeNoPush (w : Who) (n : Nat) (v : Val) : Act Unit := do
  let p ← destReady w (BitVec.ofNat 6 n)
  setRegsAct w (fun r => gWrite r p v)

/-- D becomes pending on an access, with its place in the age queue (09 R220, 12 R316). -/
def pendD (r : Regs) (p id : Nat) : Regs :=
  let r := if p = 0 then r else { r with gWait := sset 0 r.gWait p id, gMark := sset .clean r.gMark p .derived }
  { r with h := ({ v := 0, wait := id, mark := .derived } :: r.h).take 16 }

/-- Every register of a set that waits on an access takes its value (12 R316). -/
def Regs.fill (r : Regs) (id : Nat) (v : Val) : Regs :=
  let ps := (r.gWait.filter (fun e => e.2 == id)).map (fun e => e.1)
  let r := ps.foldl (fun r p =>
    { r with g := sset 0 r.g p v.v, gMark := sset .clean r.gMark p v.mark, gWait := sset 0 r.gWait p 0 }) r
  { r with h := r.h.map (fun e => if e.wait = id then { v := v.v, wait := 0, mark := v.mark } else e),
           q := r.q.map (fun e => (e.1, e.2.map (fun x => if x.wait = id then { x with v := v.v, wait := 0 } else x))) }

/-- A memory or S address (11 R285). -/
def addressOf (a : Word) (disp : BitVec 32) : Word := a + sext32 disp

/-- The partition of a task's bank. -/
def partOf (s : State) (w : Who) : Part := (bankOf s w.core w.bank).part

/-- The recorder sees an instruction that makes its task live (06 R144). -/
def noteLive (w : Who) : Act Unit := change (fun s => recLive s w.task)

/-- An address that is data-derived makes the task live (06 R144). -/
def noteAddress (w : Who) (v : Val) : Act Unit := if v.mark.isDerived then noteLive w else pure ()

/-! ### Thread accesses to S (09 R227, R229; 12 R315, R317; 06 R160, R161) -/

/-- A thread access to `n` bytes of S: bounds, alignment, owner (12 R315). `align` is 1 where none is asked. -/
def checkS (w : Who) (off : Word) (n align : Nat) : Act Nat := do
  let s ← state
  let p := partOf s w
  let o := off.toNat
  requireOpen (o + n ≤ 2048 * p.sn) .protection
  requireOpen (o % align == 0) .alignment
  requireOpen (!(slotOf s w.core (p.s0 + o / 2048)).owner && !(slotOf s w.core (p.s0 + (o + n - 1) / 2048)).owner)
    .ownerViolation
  pure o

/-- S bytes that an ld.sec is still to write make the access wait (12 R319). -/
def sWaits (s : State) (w : Who) (o n : Nat) : Bool :=
  (bankOf s w.core w.bank).loads.any (fun l =>
    match l.dest with
    | .sBytes a => a < o + n && o < a + 32
    | _ => false)

/-- Is the slot bound to an enabled ring of the bank? Such words are not race-checked (06 R161). -/
def ringHolds (k : Bank) (slot : Nat) : Bool :=
  k.rings.any (fun e => e.2.getLsbD 63 && fld e.2 46 8 ≤ slot && slot < fld e.2 46 8 + fld e.2 54 9)

/-- An access by agent `x` to a checked word races (06 R161). -/
def races (sh : BitVec 32) (x : Nat) (phase : BitVec 6) (write : Bool) : Bool :=
  let writer := (sh.extractLsb' 22 10).toNat
  let reader := (sh.extractLsb' 6 10).toNat
  (writer != x && writer != 0x3FF && sh.extractLsb' 16 6 == phase) ||
    (write && reader != x && reader != 0x3FF && sh.extractLsb' 0 6 == phase)

/-- The shadow word after an access (06 Table 10). -/
def shadowAfter (sh : BitVec 32) (x : Nat) (phase : BitVec 6) (write : Bool) : BitVec 32 :=
  if write then BitVec.ofNat 10 x ++ phase ++ sh.extractLsb' 0 16
  else sh.extractLsb' 16 16 ++ BitVec.ofNat 10 x ++ phase

/-- The words of `n` bytes of S from a partition-relative offset that race checking covers. -/
def checkedWords (k : Bank) (o n : Nat) : List Nat :=
  (List.range (n / 4 + 2)).filterMap (fun i =>
    let wd := o / 4 + i
    if wd * 4 < o + n && !ringHolds k (wd / 512) then some (512 * k.part.s0 + wd) else none)

/-- The launch of a task asks for race checks. -/
def raceLaunch (s : State) (w : Who) : Bool := launchFlag s w (fun l => l.race)

/-- An access to S: its offset in the partition, its bytes, and whether it writes. -/
abbrev Touch := Nat × Nat × Bool

/-- Race check of accesses to S in a launch that asks for it: a race of any of them traps before all of them; otherwise the shadow words
take them (06 R160, R161). -/
def raceTouches (w : Who) (agent : Nat) (phase : BitVec 6) (l : List Touch) : Act Unit := do
  let s ← state
  if raceLaunch s w then
    let words := l.flatMap (fun t => (checkedWords (bankOf s w.core w.bank) t.1 t.2.1).map (fun i => (i, t.2.2)))
    requireOpen (!words.any (fun i => races (shadowWord s w.core i.1) agent phase i.2)) .race
    let mark := fun (s : State) (i : Nat × Bool) => updCore s w.core (fun k =>
      { k with sBytes := setShadow k.sBytes i.1 (shadowAfter (shadowWord s w.core i.1) agent phase i.2) })
    change (fun s => words.foldl mark s)
  else pure ()

/-- Race check of one access. -/
def raceCheck (w : Who) (agent : Nat) (phase : BitVec 6) (o n : Nat) (write : Bool) : Act Unit :=
  raceTouches w agent phase [(o, n, write)]

/-- The control core's agent code (06 R160). -/
def threadAgent : Nat := 0x100

end Sys2Proof.Machine
end

