-- ==== Sys2Proof/Machine/Flags.lean ====
section
/-!
DEFINITION. Conditions, predicates and the bitwise, shift and packed computations of the control core (10 R273; 11 R287;
12 R303 to R310). Results set no flag (12 R303); the machine's flags are the predicates (09 R223).
-/

namespace Sys2Proof.Machine

/-- A condition on two values (11 R287). -/
def condHolds (c : BitVec 3) (a b : Word) : Bool :=
  match c.toNat with
  | 0 => a == b
  | 1 => a != b
  | 2 => a.slt b
  | 3 => !a.slt b
  | 4 => a.ult b
  | 5 => !a.ult b
  | 6 => a &&& b != 0
  | _ => a &&& b == 0

/-- A predicate set to a value, with the recorder's mark (09 R223, 06 R145). -/
def setPred (r : Regs) (n : Nat) (v : Bool) (m : PMark) : Regs :=
  let one : BitVec 64 := BitVec.ofNat 64 (2 ^ n)
  { r with p := if v then r.p ||| one else r.p &&& ~~~one, pMark := sset .clean r.pMark n m }

/-- The mark of a compare's result: a guard candidate when one operand was written by one load and the other is not
data-derived (06 R144, R145). -/
def compareMark (c : BitVec 3) (a b : Val) : PMark :=
  match a.mark, b.mark with
  | .clean, .clean => .clean
  | .load n sg inS addr, .clean => .guard c n sg inS addr b.v false
  | .clean, .load n sg inS addr => .guard c n sg inS addr a.v true
  | _, _ => .derived

def PMark.isClean : PMark → Bool
  | .clean => true
  | _ => false

/-- The mark of a predicate computed from predicates. -/
def predMark (ms : List PMark) : PMark := if ms.all PMark.isClean then .clean else .derived

/-! ### Shifts (10 R273) -/

def shiftLeft (w : Nat) (v n : BitVec w) : BitVec w := if n.toNat ≥ w then 0 else v <<< n.toNat
def shiftRightL (w : Nat) (v n : BitVec w) : BitVec w := if n.toNat ≥ w then 0 else v >>> n.toNat
def shiftRightA (w : Nat) (v n : BitVec w) : BitVec w :=
  if n.toNat ≥ w then (if v.msb then BitVec.allOnes w else 0) else v.sshiftRight n.toNat

/-! ### Division (12 R304) -/

def divS (a b : Word) : Word := BitVec.ofInt 64 (a.toInt.tdiv b.toInt)
def remS (a b : Word) : Word := BitVec.ofInt 64 (a.toInt.tmod b.toInt)
def divN (a b : Word) : Word := BitVec.ofNat 64 (a.toNat / b.toNat)
def remN (a b : Word) : Word := BitVec.ofNat 64 (a.toNat % b.toNat)
def mulhS (a b : Word) : Word := BitVec.ofInt 64 (a.toInt * b.toInt / 2 ^ 64)
def mulhN (a b : Word) : Word := BitVec.ofNat 64 (a.toNat * b.toNat / 2 ^ 64)

/-! ### Counts and bit fields (12 R306) -/

/-- Bits <hi - 1 : 0> searched from the top: the number of leading zeros. -/
def leadingZeros (a : Word) : Nat → Nat
  | 0 => 0
  | n + 1 => if a.getLsbD n then 0 else 1 + leadingZeros a n

def trailingZeros (a : Word) : Nat := ((List.range 64).find? (fun n => a.getLsbD n)).getD 64
def oneBits (a : Word) : Nat := ((List.range 64).filter (fun n => a.getLsbD n)).length
def bitReverse (a : Word) : Word := a.reverse
def byteSwap (a : Word) : Word := leWord (wordBytes a).reverse

/-- A field of a word, zero- or sign-extended. -/
def extractN (a : Word) (pos width : Nat) : Word := BitVec.ofNat 64 (fld a pos width)
def extractS (a : Word) (pos width : Nat) : Word := sext width (fld a pos width)
/-- The low `width` bits of `a` placed in `d` at `pos`. -/
def insertField (d a : Word) (pos width : Nat) : Word :=
  let m : Word := BitVec.ofNat 64 ((2 ^ width - 1) * 2 ^ pos)
  (d &&& ~~~m) ||| (BitVec.ofNat 64 (fld a 0 width * 2 ^ pos) &&& m)

/-! ### Packed lanes (12 R305) -/

/-- The operations of group 0x0C. -/
inductive PackOp where
  | add | sub | adds | subs | min | max | shl | shr
deriving DecidableEq, Repr

/-- A value clamped to a lane type's range (10 R273). -/
def clampLane (w : Nat) (signed : Bool) (v : Int) : BitVec w :=
  let lo : Int := if signed then -(2 ^ (w - 1) : Nat) else 0
  let hi : Int := if signed then (2 ^ (w - 1) : Nat) - 1 else (2 ^ w : Nat) - 1
  BitVec.ofInt w (if v < lo then lo else if v > hi then hi else v)

/-- A lane as an integer of its type. -/
def laneInt (w : Nat) (signed : Bool) (v : BitVec w) : Int := if signed then v.toInt else v.toNat

/-- One lane of a packed operation (12 Table 3). -/
def laneOp (w : Nat) (signed : Bool) (op : PackOp) (d a : BitVec w) : BitVec w :=
  let x := laneInt w signed d
  let y := laneInt w signed a
  match op with
  | .add => d + a
  | .sub => d - a
  | .adds => clampLane w signed (x + y)
  | .subs => clampLane w signed (x - y)
  | .min => if x ≤ y then d else a
  | .max => if x ≤ y then a else d
  | .shl => shiftLeft w d a
  | .shr => if signed then shiftRightA w d a else shiftRightL w d a

/-- A packed operation over lanes of `w` bits. -/
def packLanes (w : Nat) (signed : Bool) (op : PackOp) (d a : Word) : Word :=
  (List.range (64 / w)).foldl (fun v i =>
    v ||| ((laneOp w signed op (d.extractLsb' (w * i) w) (a.extractLsb' (w * i) w)).setWidth 64 <<< (w * i))) 0

/-- A packed operation by lane type: .s8, .n8, .s16, .n16 (11 R288). -/
def packed (lane : BitVec 2) (op : PackOp) (d a : Word) : Word :=
  match lane.toNat with
  | 0 => packLanes 8 true op d a
  | 1 => packLanes 8 false op d a
  | 2 => packLanes 16 true op d a
  | _ => packLanes 16 false op d a

end Sys2Proof.Machine
end

