-- ==== Sys2Proof/Machine/ControlMem.lean ====
section
/-!
DEFINITION. Loads, stores and atomics of the control core (12 R315 to R324), and their performing at home (08 R199 to R203).
-/

namespace Sys2Proof.Machine

/-! ### Issue of memory accesses -/

/-- The byte of an address that the store buffer holds, from its youngest entry (08 R201): an entry holds it under the same
address, or under another address of the same physical byte. -/
def bufferedByte (s : State) (x : Nat) (k : Bank) (va : Nat) : Option Byte :=
  let pa := peekPa s x va
  k.storeBuf.foldl (fun r e =>
    if e.va ≤ va && va < e.va + e.bytes.length then e.bytes[va - e.va]?
    else
      match pa, peekPa s x e.va with
      | some a, some b => if b ≤ a && a < b + e.bytes.length then e.bytes[a - b]? else r
      | _, _ => r) none

/-- The buffered bytes of a piece. -/
def bufferedBytes (s : State) (x : Nat) (k : Bank) (p : Piece) : List (Option Byte) :=
  (List.range p.len).map (fun i => bufferedByte s x k (p.va + i))

/-- The pieces of an access are translated and checked, in order (12 R315 step 3). -/
def placePieces (w : Who) (id : Nat) (kind : AccKind) (dkind : BitVec 4) (right : Right) (cls : BitVec 4) :
    List Piece → Act (List Access)
  | [] => pure []
  | p :: r => do
    let a ← placePiece w id kind dkind right cls (BitVec.ofNat 64 p.va) p
    pure (a :: (← placePieces w id kind dkind right cls r))

/-- Room in the ticket table for the remote pieces of an access: a table full of parked or noticed entries traps, any
other lack of room, an open ticket or an older access in the way makes the instruction wait (07 R185, R188, R189). -/
def remoteRoom (w : Who) (info : Word) (l : List Access) : Act Unit := do
  let rs := l.filter (fun a => a.remote)
  if rs.isEmpty then pure ()
  else do
    let s ← state
    let k := bankOf s w.core w.bank
    require (!tableParked k) .ticketOverflow info
    waitUntil (k.tickets.length + rs.length ≤ 32 && rs.all (fun a => canSend s (holdsOf s w.core w.ctx) k k.inflight a))

/-- The accesses enter the list of those in flight, with the record of what they bring back. -/
def launchAccess (w : Who) (l : List Access) (back : Load) : Act Unit := do
  let l := l.map (fun a => { a with size := back.size })
  change (fun s => updBank s w.core w.bank (fun k => { k with inflight := k.inflight ++ l, loads := k.loads ++ [back] }))
  pump w.core w.bank

/-- A load of `n` bytes takes its place (12 R316); the answer is its number. `checks` are those that follow the translation, and
`spec` the destination operand its ticket names (07 R185). -/
def issueLoad (w : Who) (va : Word) (n : Nat) (signed : Bool) (cls : BitVec 4) (dest : Dest) (spec : Nat)
    (checks : Act Unit) : Act Nat := do
  let id ← newId
  let ps := pieces va.toNat n
  let placed ← placePieces w id .load 0 .rd cls ps
  checks
  remoteRoom w va placed
  let s ← state
  let k := bankOf s w.core w.bank
  let placed := (placed.zip ps).map (fun e => { e.1 with fwd := bufferedBytes s w.ctx k e.2 })
  launchAccess w placed { id := id, size := n, signed := signed, dest := dest, spec := spec, got := List.replicate n none }
  pure id

/-- A memory load into D (12 R316). -/
def loadMem (g : Guard) (n : Nat) (d a : Spec) (c : BitVec 4) (q : BitVec 2) (disp : BitVec 32) (signed : Bool)
    (s : State) : Host.Outcome State Fault Refusal :=
  issue g n (fun w => do
    let p ← destReady w d
    let x ← readSrc w a
    noteAddress w x
    let va := addressOf x.v disp
    checkVa va
    let id ← issueLoad w va (2 ^ q.toNat) signed c .regs d.toNat (pure ())
    setRegsAct w (fun r => pendD r p id)
    pure .next) s

/-- ldq: the tail entry of the queue is reserved at issue (12 R320, 09 R222). -/
def loadQ (g : Guard) (n : Nat) (d a : Spec) (c : BitVec 4) (q : BitVec 2) (disp : BitVec 32) (s : State) :
    Host.Outcome State Fault Refusal :=
  issue g n (fun w => do
    let x ← readSrc w a
    noteAddress w x
    let va := addressOf x.v disp
    checkVa va
    let r ← regsAct w
    let qn := d.toNat - 48
    requireOpen ((sget [] r.q qn).length < 16) .reservedField
    let size := 2 ^ q.toNat
    let id ← issueLoad w va size false c .regs d.toNat (pure ())
    let e : QEntry := { v := 0, wait := id, va := va, size := size, cls := c }
    setRegsAct w (fun r => { r with q := sset [] r.q qn (sget [] r.q qn ++ [e]) })
    pure .next) s

/-- A load from S reads its bytes at issue (12 R317). -/
def loadS (g : Guard) (n : Nat) (d a : Spec) (q : BitVec 2) (disp : BitVec 32) (signed : Bool) (s : State) :
    Host.Outcome State Fault Refusal :=
  issue g n (fun w => do
    let x ← readSrc w a
    noteAddress w x
    let size := 2 ^ q.toNat
    let o ← checkS w (addressOf x.v disp) size size
    waitUntil (!sWaits (← state) w o size)
    raceCheck w threadAgent (coreOf (← state) w.core).phase o size false
    let s ← state
    let v := leNat (readS s w.core (partOf s w) o size)
    let v := if signed then sext (8 * size) v else BitVec.ofNat 64 v
    writeD w d ⟨v, .load size signed true (BitVec.ofNat 64 o)⟩
    pure .next) s

/-- A store to S writes at issue (12 R317). -/
def storeS (g : Guard) (n : Nat) (d a : Spec) (q : BitVec 2) (disp : BitVec 32) (s : State) :
    Host.Outcome State Fault Refusal :=
  issue g n (fun w => do
    let v ← readSrc w d
    let x ← readSrc w a
    let size := 2 ^ q.toNat
    let o ← checkS w (addressOf x.v disp) size size
    waitUntil (!sWaits (← state) w o size)
    raceCheck w threadAgent (coreOf (← state) w.core).phase o size true
    change (fun s => writeS s w.core (partOf s w) o (leBytes size v.v.toNat))
    noteLive w
    pure .next) s

/-- Buffer entries of a store: one for each sector it touches (12 R318). -/
def bufEntries (va : Nat) (bs : List Byte) (cls : BitVec 4) (ordered : Bool) : List BufEntry :=
  (pieces va bs.length).map (fun p =>
    { va := p.va, bytes := (bs.drop p.off).take p.len, cls := cls, ordered := ordered, off := p.off, size := bs.length, fromS := none })

/-- Bytes enter the store buffer; with too few free entries the implicit commit of 05 R115 comes first, from the registers
as they stood before the instruction (12 R318). -/
def buffer (w : Who) (before : Regs) (es : List BufEntry) : Act Unit := do
  let k := bankOf (← state) w.core w.bank
  if k.storeBuf.length + es.length > 128 then
    change (fun s => setRegs s w.core w.bank before)
    commitRegion w true
    change (fun s => setRegs s w.core w.bank k.regs)
  change (fun s => updBank s w.core w.bank (fun k => { k with storeBuf := k.storeBuf ++ es }))
  noteLive w

/-- A memory store: checked under steps 1 and 2 of 12 R315 and buffered (12 R318, R321). Where D and A both name an operand queue, D pops
first: the rules do not place D among the ascending source fields (log 92). -/
def storeMem (g : Guard) (n : Nat) (d a : Spec) (c : BitVec 4) (q : BitVec 2) (disp : BitVec 32) (ordered : Bool)
    (s : State) : Host.Outcome State Fault Refusal :=
  issue g n (fun w => do
    let before ← regsAct w
    let v ← readSrc w d
    let x ← readSrc w a
    let va := addressOf x.v disp
    let size := 2 ^ q.toNat
    checkVa va
    if ordered then require (va.toNat % size == 0) .alignment va
    buffer w before (bufEntries va.toNat (leBytes size v.v.toNat) c ordered)
    pure .next) s

/-- Steps 1 and 2 of 12 R315 for a sector opcode: both addresses, then both alignments. `n` is how many S bytes it uses. -/
def sectorAddresses (w : Who) (off va : Word) (n : Nat) : Act Nat := do
  checkVa va
  let s ← state
  let o := off.toNat
  requireOpen (o + n ≤ 2048 * (partOf s w).sn) .protection
  require (va.toNat % 32 == 0) .alignment va
  requireOpen (o % 32 == 0 && o % 2048 + n ≤ 2048) .alignment
  pure o

/-- The S bytes of a sector opcode are thread-owned (12 R315 step 4). -/
def sectorOwner (w : Who) (o : Nat) : Act Unit := do
  requireOpen (threadOwned (← state) w o) .ownerViolation

/-- ld.sec: a memory sector into S (12 R319). -/
def loadSec (g : Guard) (n : Nat) (d a : Spec) (c : BitVec 4) (disp : BitVec 32) (s : State) :
    Host.Outcome State Fault Refusal :=
  issue g n (fun w => do
    let off ← readSrc w d
    let x ← readSrc w a
    let va := addressOf x.v disp
    let o ← sectorAddresses w off.v va 32
    waitUntil (!sWaits (← state) w o 32)
    let _ ← issueLoad w va 32 false c (.sBytes o) 0 (sectorOwner w o)
    raceCheck w threadAgent (coreOf (← state) w.core).phase o 32 true
    noteLive w
    pure .next) s

/-- st.sec: 32 S bytes read at issue into one buffer entry (12 R319). -/
def storeSec (g : Guard) (n : Nat) (d a : Spec) (c : BitVec 4) (disp : BitVec 32) (s : State) :
    Host.Outcome State Fault Refusal :=
  issue g n (fun w => do
    let before ← regsAct w
    let off ← readSrc w d
    let x ← readSrc w a
    let va := addressOf x.v disp
    let o ← sectorAddresses w off.v va 32
    sectorOwner w o
    waitUntil (!sWaits (← state) w o 32)
    raceCheck w threadAgent (coreOf (← state) w.core).phase o 32 false
    let s ← state
    buffer w before [{ va := va.toNat, bytes := readS s w.core (partOf s w) o 32, cls := c, ordered := false, off := 0,
                        size := 32, fromS := some o }]
    pure .next) s

/-- Atomics to host memory are add, swap and cas only, and none goes to the pool (12 R324). -/
def atomicTarget (info : Word) (aop : Option (BitVec 3)) (l : List Access) : Act Unit :=
  let hostOk := aop == some 0 || aop == some 4 || aop == some 7
  require (l.all (fun a => a.target != .pool && (a.target != .host || hostOk))) .protection info

/-- atom: a read-modify-write of 4 or 8 bytes (12 R322). -/
def atomic (g : Guard) (aop : BitVec 3) (d a b : Spec) (sz lg : Bool) (c : BitVec 4) (s : State) :
    Host.Outcome State Fault Refusal :=
  issue g 2 (fun w => do
    let old ← if aop = 7 then readSrc w d else pure ⟨0, .clean⟩
    let p ← destReady w d
    let x ← readSrc w a
    let y ← readSrc w b
    let va := x.v
    let size := if sz then 8 else 4
    checkVa va
    require (va.toNat % size == 0) .alignment va
    let id ← newId
    let placed ← placePieces w id .atomic 2 .rdw c (pieces va.toNat size)
    atomicTarget va (some aop) placed
    remoteRoom w va placed
    let placed := placed.map (fun e => { e with aop := aop, opB := y.v, opD := old.v, log := lg })
    let signed := aop = 5 || aop = 6
    launchAccess w placed { id := id, size := size, signed := signed, dest := .regs, spec := d.toNat, got := List.replicate size none }
    setRegsAct w (fun r => pendD r p id)
    noteLive w
    pure .next) s

/-- cas.sec: a whole sector compared and swapped; S holds the expected bytes, then the new ones (12 R323). -/
def casSector (g : Guard) (n : Nat) (d a : Spec) (c : BitVec 4) (disp : BitVec 32) (s : State) :
    Host.Outcome State Fault Refusal :=
  issue g n (fun w => do
    let off ← readSrc w d
    let x ← readSrc w a
    let va := addressOf x.v disp
    let o ← sectorAddresses w off.v va 64
    waitUntil (!sWaits (← state) w o 64)
    let id ← newId
    let placed ← placePieces w id .casSec 2 .rdw c (pieces va.toNat 32)
    atomicTarget va none placed
    sectorOwner w o
    remoteRoom w va placed
    raceCheck w threadAgent (coreOf (← state) w.core).phase o 64 false
    raceCheck w threadAgent (coreOf (← state) w.core).phase o 32 true
    let s ← state
    let data := readS s w.core (partOf s w) o 64
    let placed := placed.map (fun e => { e with data := data })
    launchAccess w placed { id := id, size := 32, signed := false, dest := .sBytes o, spec := 0, got := List.replicate 32 none }
    noteLive w
    pure .next) s

/-- ld.s: a sign-extended load (12 R316) -/
def execLdS (g : Guard) (d a : Spec) (c : BitVec 4) (q : BitVec 2) (s : State) : Host.Outcome State Fault Refusal :=
  loadMem g 1 d a c q 0 true s

/-- ld.s: a sign-extended load (12 R316) -/
def execLdSDisp (g : Guard) (d a : Spec) (c : BitVec 4) (q : BitVec 2) (disp : BitVec 32) (s : State) : Host.Outcome State Fault Refusal :=
  loadMem g 2 d a c q disp true s

/-- ld.n: a zero-extended load (12 R316) -/
def execLdN (g : Guard) (d a : Spec) (c : BitVec 4) (q : BitVec 2) (s : State) : Host.Outcome State Fault Refusal :=
  loadMem g 1 d a c q 0 false s

/-- ld.n: a zero-extended load (12 R316) -/
def execLdNDisp (g : Guard) (d a : Spec) (c : BitVec 4) (q : BitVec 2) (disp : BitVec 32) (s : State) : Host.Outcome State Fault Refusal :=
  loadMem g 2 d a c q disp false s

/-- st: a buffered store (12 R318) -/
def execSt (g : Guard) (d a : Spec) (c : BitVec 4) (q : BitVec 2) (s : State) : Host.Outcome State Fault Refusal :=
  storeMem g 1 d a c q 0 false s

/-- st: a buffered store (12 R318) -/
def execStDisp (g : Guard) (d a : Spec) (c : BitVec 4) (q : BitVec 2) (disp : BitVec 32) (s : State) : Host.Outcome State Fault Refusal :=
  storeMem g 2 d a c q disp false s

/-- stf: a buffered ordered-flag store (12 R321) -/
def execStf (g : Guard) (d a : Spec) (c : BitVec 4) (q : BitVec 2) (s : State) : Host.Outcome State Fault Refusal :=
  storeMem g 1 d a c q 0 true s

/-- stf: a buffered ordered-flag store (12 R321) -/
def execStfDisp (g : Guard) (d a : Spec) (c : BitVec 4) (q : BitVec 2) (disp : BitVec 32) (s : State) : Host.Outcome State Fault Refusal :=
  storeMem g 2 d a c q disp true s

/-- ldq: a load into an operand queue (12 R320) -/
def execLdq (g : Guard) (d a : Spec) (c : BitVec 4) (q : BitVec 2) (s : State) : Host.Outcome State Fault Refusal :=
  loadQ g 1 d a c q 0 s

/-- ldq with a displacement (12 R320) -/
def execLdqDisp (g : Guard) (d a : Spec) (c : BitVec 4) (q : BitVec 2) (disp : BitVec 32) (s : State) : Host.Outcome State Fault Refusal :=
  loadQ g 2 d a c q disp s

/-- ld.s from S (12 R317) -/
def execLdSSpaceS (g : Guard) (d a : Spec) (_c : BitVec 4) (q : BitVec 2) (s : State) : Host.Outcome State Fault Refusal :=
  loadS g 1 d a q 0 true s

/-- ld.s from S (12 R317) -/
def execLdSSpaceSDisp (g : Guard) (d a : Spec) (_c : BitVec 4) (q : BitVec 2) (disp : BitVec 32) (s : State) : Host.Outcome State Fault Refusal :=
  loadS g 2 d a q disp true s

/-- ld.n from S (12 R317) -/
def execLdNSpaceS (g : Guard) (d a : Spec) (_c : BitVec 4) (q : BitVec 2) (s : State) : Host.Outcome State Fault Refusal :=
  loadS g 1 d a q 0 false s

/-- ld.n from S (12 R317) -/
def execLdNSpaceSDisp (g : Guard) (d a : Spec) (_c : BitVec 4) (q : BitVec 2) (disp : BitVec 32) (s : State) : Host.Outcome State Fault Refusal :=
  loadS g 2 d a q disp false s

/-- st to S (12 R317) -/
def execStSpaceS (g : Guard) (d a : Spec) (_c : BitVec 4) (q : BitVec 2) (s : State) : Host.Outcome State Fault Refusal :=
  storeS g 1 d a q 0 s

/-- st to S (12 R317) -/
def execStSpaceSDisp (g : Guard) (d a : Spec) (_c : BitVec 4) (q : BitVec 2) (disp : BitVec 32) (s : State) : Host.Outcome State Fault Refusal :=
  storeS g 2 d a q disp s

/-- ld.sec (12 R319) -/
def execLdSec (g : Guard) (d a : Spec) (c : BitVec 4) (s : State) : Host.Outcome State Fault Refusal :=
  loadSec g 1 d a c 0 s

/-- ld.sec (12 R319) -/
def execLdSecDisp (g : Guard) (d a : Spec) (c : BitVec 4) (disp : BitVec 32) (s : State) : Host.Outcome State Fault Refusal :=
  loadSec g 2 d a c disp s

/-- st.sec (12 R319) -/
def execStSec (g : Guard) (d a : Spec) (c : BitVec 4) (s : State) : Host.Outcome State Fault Refusal :=
  storeSec g 1 d a c 0 s

/-- st.sec (12 R319) -/
def execStSecDisp (g : Guard) (d a : Spec) (c : BitVec 4) (disp : BitVec 32) (s : State) : Host.Outcome State Fault Refusal :=
  storeSec g 2 d a c disp s

/-- cas.sec (12 R323) -/
def execCasSec (g : Guard) (d a : Spec) (c : BitVec 4) (s : State) : Host.Outcome State Fault Refusal :=
  casSector g 1 d a c 0 s

/-- cas.sec (12 R323) -/
def execCasSecDisp (g : Guard) (d a : Spec) (c : BitVec 4) (disp : BitVec 32) (s : State) : Host.Outcome State Fault Refusal :=
  casSector g 2 d a c disp s

/-- atom.add (12 R322) -/
def execAtomAdd (g : Guard) (d a b : Spec) (sz log : Bool) (c : BitVec 4) (s : State) : Host.Outcome State Fault Refusal :=
  atomic g 0 d a b sz log c s

/-- atom.and (12 R322) -/
def execAtomAnd (g : Guard) (d a b : Spec) (sz log : Bool) (c : BitVec 4) (s : State) : Host.Outcome State Fault Refusal :=
  atomic g 1 d a b sz log c s

/-- atom.or (12 R322) -/
def execAtomOr (g : Guard) (d a b : Spec) (sz log : Bool) (c : BitVec 4) (s : State) : Host.Outcome State Fault Refusal :=
  atomic g 2 d a b sz log c s

/-- atom.xor (12 R322) -/
def execAtomXor (g : Guard) (d a b : Spec) (sz log : Bool) (c : BitVec 4) (s : State) : Host.Outcome State Fault Refusal :=
  atomic g 3 d a b sz log c s

/-- atom.swap (12 R322) -/
def execAtomSwap (g : Guard) (d a b : Spec) (sz log : Bool) (c : BitVec 4) (s : State) : Host.Outcome State Fault Refusal :=
  atomic g 4 d a b sz log c s

/-- atom.mins (12 R322) -/
def execAtomMinS (g : Guard) (d a b : Spec) (sz log : Bool) (c : BitVec 4) (s : State) : Host.Outcome State Fault Refusal :=
  atomic g 5 d a b sz log c s

/-- atom.maxs (12 R322) -/
def execAtomMaxS (g : Guard) (d a b : Spec) (sz log : Bool) (c : BitVec 4) (s : State) : Host.Outcome State Fault Refusal :=
  atomic g 6 d a b sz log c s

/-- atom.cas (12 R322) -/
def execAtomCas (g : Guard) (d a b : Spec) (sz log : Bool) (c : BitVec 4) (s : State) : Host.Outcome State Fault Refusal :=
  atomic g 7 d a b sz log c s

/-! ### Performing -/

/-- What an atomic makes of the old value, in `n` bytes; none where it writes nothing (12 R322). -/
def atomicNew (aop : BitVec 3) (n : Nat) (old : Nat) (b d : Word) : Option Nat :=
  let m := 2 ^ (8 * n)
  let bn := b.toNat % m
  let lt := (BitVec.ofNat (8 * n) old).slt (BitVec.ofNat (8 * n) bn)
  match aop.toNat with
  | 0 => some ((old + bn) % m)
  | 1 => some (old &&& bn)
  | 2 => some (old ||| bn)
  | 3 => some (old ^^^ bn)
  | 4 => some bn
  | 5 => some (if lt then old else bn)
  | 6 => some (if lt then bn else old)
  | _ => if old = d.toNat % m then some bn else none

/-- An access performs at its physical address: the bytes it brings back, and the state after its write (08 R202, R203).
A notification store then sends its message (03 R75). -/
def performAccess (s : State) (a : Access) : State × List Byte :=
  let old := readBytes s a.pa a.len
  match a.kind with
  | .load => (s, (old.zip (a.fwd ++ List.replicate a.len none)).map (fun e => e.2.getD e.1))
  | .store | .stf =>
    let s := writeBytes s a.pa a.data
    (if a.notify = 0 then s else sendVector s (a.notify - 1), [])
  | .atomic =>
    match atomicNew a.aop a.len (leNat old) a.opB a.opD with
    | some v => (writeBytes s a.pa (leBytes a.len v), old)
    | none => (s, old)
  | .casSec =>
    if old == a.data.take 32 then (writeBytes s a.pa ((a.data.drop 32).take 32), old) else (s, old)
  | .copyRead => (s, readBytes s (a.pa / 32 * 32) 32)
  | .copyWrite t => (if t then writeDigits s a.pa a.fwd else writeMasked s a.pa a.fwd, [])
  | .barrier _ => (s, [])

/-- Bytes of a list replaced from a place on. -/
def putAt (l : List (Option Byte)) (off : Nat) (bs : List Byte) : List (Option Byte) :=
  l.take off ++ bs.map some ++ l.drop (off + bs.length)

/-- Bytes written to the S of a bank's partition: to the slot, or to what a context that has taken the slot over keeps of it
(05 R124). -/
def writeBankS (s : State) (c b o : Nat) (bs : List Byte) : State :=
  let k := bankOf s c b
  let n := k.part.s0 + o / 2048
  match aget k.overS n with
  | some (x, d, old) =>
    let bytes := old.take (o % 2048) ++ bs ++ old.drop (o % 2048 + bs.length)
    updBank s c b (fun k => { k with overS := k.overS.map (fun e => if e.1 = n then (n, x, d, bytes) else e) })
  | none => writeS s c k.part o bs

/-- Bytes come back for an access: once every piece has returned, the value goes to its registers (active and restart
state), to S, or nowhere (07 R195, 12 R316, R319, R323). -/
def returnBytes (s : State) (c b : Nat) (a : Access) (bs : List Byte) : State :=
  let k := bankOf s c b
  match k.loads.find? (fun l => l.id == a.id) with
  | none => s
  | some l =>
    let got := putAt l.got a.off bs
    if got.any (fun x => x.isNone) then
      let upd := fun (e : Load) => if e.id = l.id then { e with got := got } else e
      updBank s c b (fun k => { k with loads := k.loads.map upd })
    else
      let all := got.map (fun x => x.getD 0)
      let s := updBank s c b (fun k => { k with loads := k.loads.filter (fun e => e.id != l.id) })
      match l.dest with
      | .none => s
      | .sBytes o => writeBankS s c b o all
      | .regs =>
        let n := leNat all
        let v : Word := if l.signed then sext (8 * l.size) n else BitVec.ofNat 64 n
        let m : Mark := if a.kind == .load then .load l.size l.signed false (BitVec.ofNat 64 (a.va - a.off)) else .derived
        let x : Val := ⟨v, m⟩
        updBank s c b (fun k => { k with regs := k.regs.fill l.id x, restart := k.restart.fill l.id x })

/-- The k-th access in flight of a core, over its banks in order: its bank and its place there. -/
def findInflight (s : State) (c k : Nat) : Option (Nat × Nat) :=
  (List.range bankCount).foldl (fun (r : Option (Nat × Nat) × Nat) b =>
    match r with
    | (some x, n) => (some x, n)
    | (none, n) =>
      let len := (bankOf s c b).inflight.length
      if n < len then (some (b, n), n) else (none, n - len)) (none, k) |>.1

/-- A logged atomic of a deterministic launch waits for its turn in a forced log, and is logged (06 R158, R159; 12 R324). -/
def atomicTurn (c b : Nat) (a : Access) : Act Unit := do
  if a.log then
    let s ← state
    match (bankOf s c b).task.bind (fun t => (taskOf s t).bind (fun k => k.launch)) with
    | none => pure ()
    | some l =>
      let det := match launchOf s l with
        | some q => q.determ
        | none => false
      if det then
        let die := targetDie a.target
        let site := a.pa / 32 % 2 ^ 26
        match ← forcedWinner l 2 die site with
        | some win => waitUntil (win == c)
        | none => pure ()
        logChoice l 2 die site c

/-- A local access in flight performs when nothing before it holds it back (08 R200, R201); a write to a granule pending
for a checkpoint stalls (04 R102). -/
def performInflight (c b i : Nat) : Act Unit := do
  let s ← state
  let l := (bankOf s c b).inflight
  match l[i]? with
  | none => cannot "no such access is in flight"
  | some a =>
    needs (!a.remote) "a remote access performs at its owner"
    waitUntil (mayPerform s c b i)
    waitUntil (!(a.kind.isWrite && writeStalls s a.pa a.len))
    if a.kind == .atomic || a.kind == .casSec then atomicTurn c b a
    let r := performAccess (← state) a
    set r.1
    change (fun s => updBank s c b (fun k => { k with inflight := dropBarriers (removeAt k.inflight i) }))
    change (fun s => returnBytes s c b a r.2)
    pump c b

/-- The data of a load or ldq arrives (12 R316; 18 R417 for a shadow's bank). -/
def execLoadDataArrival (core : BitVec 8) (k : Nat) (s : State) : Host.Outcome State Fault Refusal :=
  asStep (do
    let c := core.toNat
    let s ← state
    match findInflight s c k with
    | none => cannot "no such access is in flight"
    | some (b, i) => do
      let kind := ((bankOf s c b).inflight[i]?).map (fun a => a.kind)
      needs (kind == some .load) "the access is not a load"
      performInflight c b i) s

/-- A released store, stf or atomic performs at its home and is acknowledged (08 R202, R203). -/
def execStorePerformedAtHome (core : BitVec 8) (k : Nat) (s : State) : Host.Outcome State Fault Refusal :=
  asStep (do
    let c := core.toNat
    let s ← state
    match findInflight s c k with
    | none => cannot "no such access is in flight"
    | some (b, i) => do
      let kind := ((bankOf s c b).inflight[i]?).map (fun a => a.kind)
      needs (kind.any AccKind.isWrite) "the access is not a store, stf or atomic"
      performInflight c b i) s

end Sys2Proof.Machine
end

