-- ==== Sys2Proof/Machine/ControlSync.lean ====
section
/-!
DEFINITION. Ordering instructions of the control core (12 R325 to R328) and the fold operations (05 R131 to R134, 12 R329).
-/

namespace Sys2Proof.Machine

/-! ### Fences -/

/-- Every earlier access whose class is in the mask has performed (08 R203, R204); `local_` tells whether a store to
die-local memory counts before it has performed, as at core scope. -/
def performed (k : Bank) (mask : BitVec 16) (core : Bool) : Bool :=
  let in_ := fun (a : Access) => mask.getLsbD a.cls.toNat
  k.inflight.all (fun a =>
    match a.kind with
    | .barrier _ => true
    | .store | .stf => !in_ a || (core && a.dieLocal && !a.remote)
    | _ => !in_ a) &&
  k.tickets.all (fun e => !in_ e.2.acc || e.2.kind == 5 || e.2.kind == 6)

/-- A completed core-scope fence leaves the stores it let pass ahead of the later accesses of its classes (08 R203). -/
def leaveBarrier (k : Bank) (mask : BitVec 16) (id : Nat) : Bank :=
  if k.inflight.any (fun a => a.kind.isWrite && mask.getLsbD a.cls.toNat) then
    let b : Access :=
      { id := id, kind := .barrier mask, cls := 0, ctx := 0, va := 0, pa := 0, len := 0, off := 0, size := 0, data := [],
        fwd := [], target := .host, dieLocal := false, remote := false, notify := 0, aop := 0, opB := 0, opD := 0, log := false }
    { k with inflight := k.inflight ++ [b] }
  else k

/-- fence: waits at its boundary until the earlier accesses of its classes have performed at its scope; an empty mask
completes at once (08 R196, R204; 12 R325). -/
def execFence (g : Guard) (scope : BitVec 3) (mask : BitVec 16) (s : State) : Host.Outcome State Fault Refusal :=
  issue g 2 (fun w => do
    let k := bankOf (← state) w.core w.bank
    waitUntil (mask == 0 || performed k mask (scope == 0))
    let id ← newId
    change (fun s => updBank s w.core w.bank (fun k => leaveBarrier k mask id))
    pure .next) s

/-- The cores within a scope of a core (08 Table 1). -/
def inScope (scope : BitVec 3) (c d : Nat) : Bool :=
  match scope.toNat with
  | 0 => c == d
  | 1 => c / 8 == d / 8
  | 2 => c / 64 == d / 64
  | _ => true

/-- The fetched lines of a core are discarded. -/
def dropLines (s : State) (c : Nat) : State := updCore s c (fun k => { k with icache := [] })

/-- iflush: no instruction cache within the scope keeps a line (08 R216; 12 R326). -/
def execIflush (g : Guard) (scope : BitVec 3) (s : State) : Host.Outcome State Fault Refusal :=
  issue g 1 (fun w => do
    change (fun s => (s.cores.map (fun e => e.1)).foldl (fun s d => if inScope scope w.core d then dropLines s d else s) s)
    pure .next) s

/-- isync: the issuing core's fetched lines are discarded (12 R326). -/
def execIsync (g : Guard) (s : State) : Host.Outcome State Fault Refusal :=
  issue g 1 (fun w => do
    change (fun s => dropLines s w.core)
    pure .next) s

/-- tkwait: waits while the task has a ticket (12 R328; 07 R191). -/
def execTkwait (g : Guard) (s : State) : Host.Outcome State Fault Refusal :=
  issue g 1 (fun w => do
    waitUntil (bankOf (← state) w.core w.bank).tickets.isEmpty
    pure .next) s

/-! ### Owner flips (12 R327; 09 R229; 08 R211) -/

/-- An S interval touches a slot. -/
def Interval.onSlot (r : Interval) (slot : Nat) : Bool := !r.inC && r.lo < 2048 * (slot + 1) && 2048 * slot < r.hi

/-- A queued command of the bank, or a collective of its task that runs, touches a slot of the partition. -/
def slotBusy (s : State) (c b slot : Nat) : Bool :=
  let k := bankOf s c b
  k.queues.any (fun e => e.2.any (fun c => c.ranges.any (fun r => r.onSlot slot))) ||
    s.programs.any (fun e => e.2.core == c && e.2.task.isSome && e.2.task == k.task &&
      e.2.ranges.any (fun r => r.onSlot slot))

/-- The slot of an owner flip, within the partition. -/
def flipSlot (w : Who) (a : Spec) (n : BitVec 8) : Act Nat := do
  let x ← readSrc w a
  let slot := (x.v.toNat + n.toNat) % 256
  requireOpen (slot < (partOf (← state) w).sn) .protection
  pure slot

/-- The flip takes effect: the slot's shadow words are cleared, and the recorder captures it (06 R142, R160). A flip that
finds the owner at its target is none. -/
def flip (s : State) (c b slot : Nat) (toEngines : Bool) : State :=
  let n := (bankOf s c b).part.s0 + slot
  let o := slotOf s c n
  if o.owner = toEngines then s
  else
    let s := setSlot s c n { o with owner := toEngines }
    if bankRaced s c b then clearShadow s c n else s

/-- own.t: the slot passes to the thread once the queued commands that touch it have retired. -/
def execOwnT (g : Guard) (a : Spec) (n : BitVec 8) (s : State) : Host.Outcome State Fault Refusal :=
  issue g 1 (fun w => do
    let slot ← flipSlot w a n
    let k := bankOf (← state) w.core w.bank
    requireOpen (!ringHolds k slot) .ownerViolation
    let s ← state
    if (slotOf s w.core (k.part.s0 + slot)).owner then do
      waitUntil (!slotBusy s w.core w.bank slot)
      change (fun s => recFlip (flip s w.core w.bank slot false) w.task slot false)
    pure .next) s

/-- own.e: the slot passes to the engines; an ld.sec that is still to write it comes first (08 R211). -/
def execOwnE (g : Guard) (a : Spec) (n : BitVec 8) (s : State) : Host.Outcome State Fault Refusal :=
  issue g 1 (fun w => do
    let slot ← flipSlot w a n
    let s ← state
    if !(slotOf s w.core ((partOf s w).s0 + slot)).owner then do
      waitUntil (!sWaits s w (2048 * slot) 2048)
      change (fun s => recFlip (flip s w.core w.bank slot true) w.task slot true)
    pure .next) s

/-! ### Folds -/

/-- The fold is in the context's grant mask (05 R131). -/
def foldGranted (w : Who) (f : Nat) : Act Unit := do
  let ok := match ctxOf (← state) w.ctx with
    | some k => maskHas k.foldMask f
    | none => false
  requireOpen ok .protection

/-- fold.set: the mask waits for the generation to complete, or takes effect at once when the effective mask is 0
(05 R132). -/
def setFoldMask (s : State) (f : Nat) (m : BitVec 256) : State :=
  let k := foldOf s f
  if k.eff = 0 then resetCollSeq (setFold s f { k with eff := m, pend := m, pflag := false }) f
  else setFold s f { k with pend := m, pflag := true }

def execFoldSet (g : Guard) (a : Spec) (n : BitVec 8) (s : State) : Host.Outcome State Fault Refusal :=
  issue g 1 (fun w => do
    foldGranted w n.toNat
    let x ← readSrc w a
    noteAddress w x
    let o ← checkS w x.v 32 32
    waitUntil (!sWaits (← state) w o 32)
    raceCheck w threadAgent (coreOf (← state) w.core).phase o 32 false
    change (fun s => setFoldMask s n.toNat (BitVec.ofNat 256 (leNat (readS s w.core (partOf s w) o 32))))
    pure .next) s

/-- The earlier accesses of a core have performed at package scope, those of shadows and of streamed-out contexts among them (05 R134, 08
R203). -/
def corePerformed (s : State) (c : Nat) : Bool :=
  (List.range bankCount).all (fun b => performed (bankOf s c b) 0xFFFF false) &&
    (coreOf s c).streamed.all (fun e => e.saved.all (fun k => performed k 0xFFFF false))

/-- The arrival of the core at a fold, after its commit and once the earlier accesses of the core have performed at the fold's scope (05
R132, R134; 12 R329). It answers the generation at arrival. -/
def arrive (w : Who) (f : Nat) : Act (BitVec 16) := do
  commitRegion w false
  foldGranted w f
  let s ← state
  let k := foldOf s f
  requireOpen (maskHas k.eff w.core) .foldMembership
  waitUntil (corePerformed s w.core)
  waitUntil (!maskHas k.arr w.core)
  match bodyTaskOf s w with
  | some cur => liveSets w cur
  | none => pure ()
  change (fun s => recMark s w.task)
  change (fun s => recFold s w.task w.core f k.eff k.gen true)
  change (fun s => completeGeneration
    (setFold s f { k with arr := k.arr ||| BitVec.ofNat 256 (2 ^ w.core) }) f)
  pure k.gen

/-- A fold.wait or fold.aw returns: the core's fold phase rises (06 R160). -/
def foldReturn (w : Who) (f : Nat) (gen : BitVec 16) : Act Unit := do
  change (fun s => recFold s w.task w.core f (foldOf s f).eff gen false)
  change (fun s => updCore s w.core (fun k => { k with phase := k.phase + 1 }))

def execFoldArr (g : Guard) (d : Spec) (n : BitVec 8) (s : State) : Host.Outcome State Fault Refusal :=
  issue g 1 (fun w => do
    let p ← destReady w d
    let gen ← arrive w n.toNat
    setRegsAct w (fun r => push (gWrite r p ⟨gen.setWidth 64, .clean⟩) ⟨gen.setWidth 64, .clean⟩)
    pure .region) s

/-- fold.wait: waits while the generation equals A<15:0> (05 R132, 12 R329). -/
def execFoldWait (g : Guard) (a : Spec) (n : BitVec 8) (s : State) : Host.Outcome State Fault Refusal :=
  issue g 1 (fun w => do
    foldGranted w n.toNat
    let x ← readSrc w a
    let gen := BitVec.ofNat 16 x.v.toNat
    waitUntil ((foldOf (← state) n.toNat).gen != gen)
    foldReturn w n.toNat gen
    pure .next) s

/-- fold.aw: fold.arr, then fold.wait on the generation it returned. The arrival stands while it waits (05 R132, R134). -/
def execFoldAw (g : Guard) (n : BitVec 8) (s : State) : Host.Outcome State Fault Refusal :=
  issue g 1 (fun w => do
    let f := n.toNat
    let gen ← match (bankOf (← state) w.core w.bank).awaiting with
      | some (f', gen) => if f' = f then pure gen else arrive w f
      | none => arrive w f
    change (fun s => updBank s w.core w.bank (fun k => { k with awaiting := some (f, gen) }))
    waitUntil ((foldOf (← state) f).gen != gen)
    change (fun s => updBank s w.core w.bank (fun k => { k with awaiting := none }))
    foldReturn w f gen
    pure .region) s

end Sys2Proof.Machine
end

