-- ==== Sys2Proof/Machine/Tickets.lean ====
section
/-!
DEFINITION. The release of accesses that wait for a fault descriptor (07 R181, R182), and the windows' notices (R186).
-/

namespace Sys2Proof.Machine

/-- The bank or streamed-out context of a task no longer waits for its descriptor. -/
def releaseTask (s : State) (t : Nat) : State :=
  match taskOf s t with
  | none => s
  | some k =>
    if k.place = .streamedOut then
      let f := fun (e : Streamed) => if e.task = t then { e with waitDesc := none } else e
      updCore s k.core (fun q => { q with streamed := q.streamed.map f })
    else updBank s k.core k.bank (fun q => { q with waitDesc := none })

/-- The physical address of a position in a die's switch area (09 R249, Table 11). -/
def switchPos (s : State) (c pos : Nat) : Nat :=
  fld (dieOf s (coreDie c)).swarea 31 21 * 2 ^ 31 + 0x2000000 * coreLocal c + 0x800000 * pos

/-- The PC of a task that holds a bank, or of a streamed-out context's block (09 Table 9). -/
def taskPc (s : State) (t : Nat) (k : Task) : Word :=
  if k.place = .streamedOut then
    match (coreOf s k.core).streamed.find? (fun e => e.task == t) with
    | some e => readWord s (switchPos s k.core e.pos + 0x40)
    | none => 0
  else (bankOf s k.core k.bank).regs.pc

/-- A notice is posted once every page missed under the window's ticket is resolved (07 R186); the owner's monitors sample the time since
the ticket (03 R79). -/
def noticeWhenDone (s : State) (d : Nat) (w : Window) : State :=
  if w.pages.isEmpty then
    let n : Notice := { req := w.req, ctx := w.ctx, cls := w.cls, owner := d, ticket := w.ticket, refused := w.refused, route := 0 }
    postNotice (monFree s d 2 none) n
  else s

/-- The window of a key at an owner. -/
def windowOf (s : State) (d req ctx : Nat) (cls : BitVec 4) : Option Window :=
  (dieOf s d).windows.find? (fun w => w.req == req && w.ctx == ctx && w.cls == cls)

def setWindow (s : State) (d : Nat) (w : Window) : State :=
  let f := fun (o : Window) => if o.req = w.req && o.ctx = w.ctx && o.cls = w.cls then w else o
  updDie s d (fun k => { k with windows := k.windows.map f })

/-- One access that joined descriptor `id` of die `d` is released, or ends as refused with a trap code (07 R181, R182). A
local access's task ends at its boundary, where it stands. -/
def releaseJoined (d : Nat) (id : BitVec 32) (refused : Option Trap) (j : Joined) : Act Unit := do
  match j with
  | .localTask t info pc =>
    match refused with
    | none => change (fun s => releaseTask s t)
    | some code =>
      match taskOf (← state) t with
      | none => pure ()
      | some k => endByTrap t k.core code (pc.getD (taskPc (← state) t k)) (BitVec.ofNat 64 info)
  | .window req ctx cls =>
    match windowOf (← state) d req ctx cls with
    | none => pure ()
    | some w =>
      let w' := { w with pages := w.pages.filter (fun p => p != id), refused := refused.or w.refused }
      change (fun s => noticeWhenDone (setWindow s d w') d w')
  | .staging n =>
    match (← state).net.blocks.findIdx? (fun b => b.order == n && b.st == 2) with
    | none => pure ()
    | some k => change (fun s => answerBlock s k (fun b => { b with st := 5, refused := refused }))
  | .ckpt x =>
    match refused with
    | none => pure ()
    | some _ => change (fun s => updCtx s x (fun k =>
        { k with ckpt := if k.ckpt.busy then { k.ckpt with busy := false, res := 3, pending := [] } else k.ckpt }))

/-- The descriptor `id` of a die is resolved or refused; an ID that is not outstanding is ignored (07 R181, R182). -/
def settleDesc (d : Nat) (id : BitVec 32) (refused : Option Trap) : Act Unit := do
  match (dieOf (← state) d).descs.find? (fun k => k.id == id && k.written) with
  | none => pure ()
  | some k => do
    change (fun s => updDie s d (fun q => { q with descs := q.descs.filter (fun e => e.id != id) }))
    for j in k.joined do releaseJoined d id refused j

end Sys2Proof.Machine
end

