-- ==== Sys2Proof/Machine/ControlSys.lean ====
section
/-!
DEFINITION. Task operations (05 R125 to R129; 12 R330, R331) and system registers (12 R332, R333; 09 R238, R241, R244, R249;
07 R176, R179, R181; 04 R85, R98; 03 R81).
-/

namespace Sys2Proof.Machine

/-! ### spawn, wloan, yield, commit -/

/-- The record a spawn or exit.succ names: read once, and legal with DEPCNT 0 (05 R127, 12 R330). -/
def successorRecord (w : Who) (a : Word) : Act Record := do
  requireOpen (a.toNat % 64 == 0) .reservedField
  let bs ← reachBytes w a 64 0 .rd
  let r := recordOf bs
  requireOpen (recordOk bs && r.depcnt == 0) .reservedField
  pure r

/-- The acting task, its SPART and CPART, its launch's priority and the context's ceiling (05 R106, R108; 16 R420: 1 slot, 0
tiles for a task of no launch). -/
structure Givens where
  task : Task
  spart : Nat
  cpart : Nat
  prio : Nat
  ceiling : Nat
  maxS : Nat
  maxC : Nat
deriving DecidableEq, Repr

def givens (w : Who) : Act Givens := do
  let s ← state
  let k ← need (taskOf s w.task) "the task has ended"
  let (sp, cp, pr) := match w.launch.bind (launchOf s) with
    | some q => (q.spart, q.cpart, q.prio.toNat)
    | none => (1, 0, k.prio)
  match ctxOf s w.ctx with
  | some x =>
    pure { task := k, spart := sp, cpart := cp, prio := pr, ceiling := x.ceiling.toNat, maxS := x.maxS, maxC := x.maxC }
  | none =>
    pure { task := k, spart := sp, cpart := cp, prio := pr, ceiling := 7, maxS := 256, maxC := 64 }

/-- The instance's weight changes. -/
def setWeight (s : State) (t : Nat) (v : Word) : State := updTask s t (fun k => { k with weight := v })

/-- The child of a spawn: half the weight, its record's demands and priority, its identity from its parent's (05 R127, Table 9; 06
R157). -/
def childOf (w : Who) (v : Givens) (r : Record) (at_ : Word) : Task :=
  let k := v.task
  { k with index := 0, recAddr := at_, record := r, weight := BitVec.ofNat 64 (k.weight.toNat / 2),
           prio := recordPrio r v.prio v.ceiling, sdem := recordS r v.spart, cdem := recordC r v.cpart, place := .pool,
           die := readyDie r (coreDie w.core), cluster := readyCluster r (coreCluster w.core),
           iid := sieve k.iid (BitVec.ofNat 64 k.spawns), spawns := 0, keeperOf := none, thr := 0, repEntry := 0, recEntry := 0,
           ancestors := if k.launch.isNone then w.task :: k.ancestors else [], waits := [], recPred := 0, recBy := 0, repIter := 0,
           noRec := k.noRec,
           fixed := none }

/-- Every access that a task has issued has performed; the sectors of its copies apart (05 R129). -/
def accessesDone (k : Bank) : Bool :=
  k.inflight.all (fun a => !a.kind.ordered) && k.tickets.all (fun e => e.2.kind == 5 || e.2.kind == 6)

/-- spawn: a child with half the weight enters the pool (05 R127, Table 9; R114, R116; 06 R157). -/
def execSpawn (g : Guard) (a : Spec) (s : State) : Host.Outcome State Fault Refusal :=
  issue g 1 (fun w => do
    commitRegion w false
    waitUntil (accessesDone (bankOf (← state) w.core w.bank))
    let x ← readSrc w a
    noteAddress w x
    match bodyTaskOf (← state) w with
    | some cur => do
      liveSets w cur
      pure .region
    | none => do
      let v ← givens w
      let k := v.task
      requireOpen (2 ≤ k.weight.toNat) .weightExhausted
      let r ← successorRecord w x.v
      let sd := recordS r v.spart
      let cd := recordC r v.cpart
      requireOpen (sd ≤ v.maxS && cd ≤ v.maxC) .reservedField
      let half := BitVec.ofNat 64 (k.weight.toNat / 2)
      match ← enrol .spawned (childOf w v r x.v) with
      | .yes t => do
        change (fun s => setWeight s w.task (k.weight - half))
        change (fun s => updTask s w.task (fun k => { k with spawns := k.spawns + 1 }))
        change (fun s => recMark s w.task)
        match w.launch, recordingOf (← state) w.task with
        | some l, some (_, _, e) => change (fun s => recReady (updTask s t (fun k => { k with recBy := e + 1 })) l t [e])
        | _, _ => pure ()
        pure .region
      | _ => trapOpen .spawnLimit) s

/-- wloan: 2^32 of weight, counted as a loan of the launch (05 R127; 16 R420). -/
def execWloan (g : Guard) (s : State) : Host.Outcome State Fault Refusal :=
  issue g 1 (fun w => do
    commitRegion w false
    let s ← state
    let k ← need (taskOf s w.task) "the task has ended"
    match w.launch.bind (launchOf s) with
    | some q => do
      requireOpen (q.loans != 0xFFFFFFFF) .weightExhausted
      if (bodyTaskOf s w).isNone then
        change (fun s => updLaunch s (w.launch.getD 0) (fun q => { q with loans := q.loans + 1 }))
        change (fun s => setWeight s w.task (k.weight + 0x100000000))
    | none => change (fun s => setWeight s w.task (k.weight + 0x100000000))
    change (fun s => recMark s w.task)
    pure .region) s

/-- commit (12 R331). -/
def execCommit (g : Guard) (s : State) : Host.Outcome State Fault Refusal :=
  issue g 1 (fun w => do
    commitRegion w true
    pure .region) s

/-! ### exit and exit.succ -/

/-- The waits of exit and exit.succ (05 R128). A task that replays an entry retires once its streams have passed every WAIT. -/
def retireWait (w : Who) : Act Unit := do
  commitRegion w false
  let s ← state
  waitUntil (retireReady s w.core w.bank w.task)
  match bodyTaskOf s w with
  | none => pure ()
  | some c =>
    match ← restOf w.ctx c with
    | none => pure ()
    | some rest => waitUntil (rest.all atLastSets)

/-- A live task of a body retires: its last SETs, then its entry (06 R142, R147). -/
def retireBody (w : Who) (c : Cursor) : Act Unit := do
  let l := w.launch.getD 0
  match ← restOf w.ctx c with
  | none => pure ()
  | some rest => lastSets l c.body rest
  replayRetire l w.task w.core w.bank c

/-- The retirement of a task, by exit or by exit.succ, with the weight it gives back (05 R112, R113, R127; 16 R420). -/
def retire (w : Who) (weight : Word) (bySucc : Bool) : Act Unit := do
  recEnd w.task bySucc
  match w.launch, taskOf (← state) w.task with
  | some l, some k => retireCounts l w.task k weight
  | _, _ => pure ()

/-- exit: once its waits are over, the successor list is processed, the weight goes back, the partition is free and the side
cores stop (05 R127, R128). -/
def execExit (g : Guard) (s : State) : Host.Outcome State Fault Refusal :=
  issue g 1 (fun w => do
    retireWait w
    match bodyTaskOf (← state) w with
    | some c => retireBody w c
    | none => do
      let k ← need (taskOf (← state) w.task) "the task has ended"
      retire w k.weight false
      change (fun s => dropTask s w.task)
    pure .gone) s

/-- exit.succ: the successor starts on the core with the task's weight, partition and registers but the trap stack (05
R127, R109). -/
def execExitSucc (g : Guard) (a : Spec) (s : State) : Host.Outcome State Fault Refusal :=
  issue g 1 (fun w => do
    retireWait w
    let x ← readSrc w a
    noteAddress w x
    match bodyTaskOf (← state) w with
    | some c => retireBody w c
    | none => do
      let v ← givens w
      let r ← successorRecord w x.v
      let p := partOf (← state) w
      requireOpen (recordS r v.spart ≤ p.sn && recordC r v.cpart ≤ p.cn) .reservedField
      retire w 0 true
      match taskOf (← state) w.task with
      | none => pure ()
      | some k => do
        let k' := { succTask (← state) k r x.v with sdem := k.sdem, cdem := k.cdem }
        let _ ← replaceTask w.core w.bank w.task k'
        change (fun s => beginRegs s w.core w.bank (succRegs (regsOf s w.core w.bank) r))
    pure .gone) s

/-! ### yield (05 R125, R120) -/

/-- The key by which Table 5 step 2 orders candidates of one core, smallest first. Of two launches' tasks of equal priority an instance id
counts against a ready number; a streamed-out context comes behind the shadows, and by its ready number among the queued (log 77). -/
def candidateKey (s : State) (c t : Nat) (k : Task) : List Nat :=
  let shadowAt := match (coreOf s c).shadows.findIdx? (fun b => (bankOf s c b).task == some t) with
    | some i => i
    | none => 3
  let affin := k.record.affin && k.record.core == coreLocal c
  let det := match k.launch.bind (launchOf s) with
    | some q => q.determ
    | none => false
  [7 - k.prio, shadowAt, if affin then 0 else 1, if det then k.iid.toNat else k.ready, if det then 0 else k.entry]

/-- The candidate that comes first in Table 5. -/
def bestOf (s : State) (c : Nat) (l : List (Nat × Task)) : Option (Nat × Task) :=
  l.foldl (fun b e =>
    match b with
    | none => some e
    | some f => if candidateKey s c e.1 e.2 < candidateKey s c f.1 f.2 then some e else some f) none

/-- The other candidate of the core that comes before the task that yields in Table 5, if there is one (05 R125). -/
def yieldWinner (s : State) (w : Who) (others : List (Nat × Task)) : Option Nat :=
  match taskOf s w.task with
  | none => none
  | some k =>
    let mine := candidateKey s w.core w.task { k with ready := s.nextId, place := .pool }
    (bestOf s w.core (others.filter (fun e => candidateKey s w.core e.1 e.2 < mine))).map (fun e => e.1)

/-- A resident shadow can resume: it waits on no page (07 R178, 09 R248). -/
def shadowReady (s : State) (c b : Nat) : Bool := (bankOf s c b).waitDesc.isNone

/-- The unused runs of a core: slots or tiles that no bank's task holds (05 R119). -/
def freeRun (held : Nat → Bool) (n total : Nat) : Option Nat :=
  (List.range (total + 1)).find? (fun a => a + n ≤ total && (List.range n).all (fun i => !held (a + i)))

/-- The banks of a core that hold a task. -/
def heldBanks (s : State) (c : Nat) : List Nat := (List.range bankCount).filter (fun b => (bankOf s c b).task.isSome)

/-- A slot, or a tile, lies in a partition. -/
def Part.hasSlot (p : Part) (n : Nat) : Bool := p.s0 ≤ n && n < p.s0 + p.sn
def Part.hasTile (p : Part) (n : Nat) : Bool := p.c0 ≤ n && n < p.c0 + p.cn

/-- The slots that a partition takes, with the shadow slots 128 above them in a race-check launch (06 R160). -/
def Part.slots (p : Part) (race : Bool) : List Nat :=
  let l := (List.range p.sn).map (p.s0 + ·)
  l ++ (if race then l.map (· + 128) else [])
def Part.tiles (p : Part) : List Nat := (List.range p.cn).map (p.c0 + ·)

/-- A slot, or a tile, that a context of one of the banks holds; in a race-check launch its shadow slots with them. -/
def slotHeld (s : State) (c : Nat) (banks : List Nat) (n : Nat) : Bool :=
  banks.any (fun b =>
    let p := (bankOf s c b).part
    p.hasSlot n || (128 ≤ n && p.hasSlot (n - 128) && bankRaced s c b))
def tileHeld (s : State) (c : Nat) (banks : List Nat) (n : Nat) : Bool := banks.any (fun b => (bankOf s c b).part.hasTile n)

/-- The task is of a race-check launch. -/
def taskRaced (s : State) (k : Task) : Bool :=
  match k.launch.bind (launchOf s) with
  | some q => q.race
  | none => false

/-- The units of a partition are free beside what the banks hold; in a race-check launch its slots lie below 128 (06 R160). -/
def partFree (s : State) (c : Nat) (banks : List Nat) (race : Bool) (p : Part) : Bool :=
  (!race || p.s0 + p.sn ≤ 128) && (p.slots race).all (fun n => !slotHeld s c banks n) && p.tiles.all (fun n => !tileHeld s c banks n)

/-- The partition a task gets on a core whose `banks` keep theirs: the lowest run that fits, or its recorded one (05 R119).
In a race-check launch slots lie below 128 and their shadows s + 128 are free too (06 R160). -/
def partitionFor (s : State) (c : Nat) (banks : List Nat) (k : Task) : Option Part :=
  let race := taskRaced s k
  let held := fun (n : Nat) => slotHeld s c banks n || (race && slotHeld s c banks (n + 128))
  match k.fixed with
  | some p => if partFree s c banks race p then some p else none
  | none =>
    match freeRun held k.sdem (if race then 128 else 256), freeRun (tileHeld s c banks) k.cdem 64 with
    | some a, some b => some { s0 := a, sn := k.sdem, c0 := b, cn := k.cdem }
    | _, _ => none

/-- A task waits for a core. -/
def isQueued (k : Task) : Bool := k.place == .pool || k.place == .keeperEntry || k.place == .replayWait

/-- The core of its die that a dynamic task of a deterministic launch is drawn to (06 R157); a replayed task has its recorded
core. -/
def drawnCore (s : State) (k : Task) : Option Nat :=
  match k.launch.bind (launchOf s) with
  | some q =>
    if !q.determ || k.repEntry != 0 then none
    else if k.record.pin then some k.record.core
    else some ((((sieve q.seed k.iid) >>> 32).toNat * 64) / 2 ^ 32)
  | none => none

/-- PIN, or the recorded core of a replayed task, allows the core (05 R119, 06 R147). -/
def onCore (k : Task) (c : Nat) : Bool :=
  (!k.record.pin || k.record.core == coreLocal c) && (k.place != .replayWait || k.core == c)

/-- Another core of the die has been left to the task by a yield (05 R125). -/
def chosenElsewhere (s : State) (c t : Nat) : Bool := s.cores.any (fun e => e.1 != c && e.2.chosen == some t)

/-- The tasks queued for a cluster that core `c`, with `banks` held, is eligible for (05 R119, R120; 06 R157). -/
def queuedFor (s : State) (c : Nat) (banks : List Nat) : List (Nat × Task) :=
  s.tasks.filter (fun e =>
    let k := e.2
    isQueued k && k.die == coreDie c && !chosenElsewhere s c e.1 && (match drawnCore s k with
      | some n => n == coreLocal c
      | none => k.cluster == coreCluster c) && onCore k c && (partitionFor s c banks k).isSome)

/-- The resident shadows of a core that can resume, with their tasks. -/
def shadowTasks (s : State) (c : Nat) : List (Nat × Task) :=
  (coreOf s c).shadows.filterMap (fun b =>
    if shadowReady s c b then
      match (bankOf s c b).task with
      | some t => (taskOf s t).map (fun k => (t, k))
      | none => none
    else none)

/-- A free bank of a core. -/
def freeBankOf (s : State) (c : Nat) : Option Nat :=
  (List.range bankCount).find? (fun b => (bankOf s c b).task.isNone)

/-- A position of a core's switch area that is free. -/
def freePos (s : State) (c : Nat) : Option Nat :=
  if (dieOf s (coreDie c)).swarea.getLsbD 63 then
    (List.range 4).find? (fun p => !(coreOf s c).streamed.any (fun e => e.pos == p))
  else none

/-- A queued task can start on a core beside its shadows: a bank is free, or the older shadow can stream out (09 R248, R249). -/
def bankFrees (s : State) (c : Nat) : Bool := (freeBankOf s c).isSome || (freePos s c).isSome

/-- yield: the task stays unless another candidate of its core comes first in Table 5; it then becomes a shadow as under R124, and
the core is left to that candidate (05 R125). -/
def execYield (g : Guard) (s : State) : Host.Outcome State Fault Refusal :=
  issue g 1 (fun w => do
    let s ← state
    let banks := heldBanks s w.core
    let queued := if bankFrees s w.core then queuedFor s w.core banks else []
    let others := if s.pm.hup then [] else shadowTasks s w.core ++ queued
    match yieldWinner s w others with
    | some t => do
      stopCopies w.core w.bank
      change (fun s => updCore s w.core (fun k => { k with chosen := some t }))
      change (fun s => updTask s w.task (fun k => { k with ready := s.nextId }))
      let _ ← newId
      change (fun s => updRegs s w.core w.bank (fun r => { r with pc := nextPc r.pc 1 }))
      leaveCore w.core w.bank
      pure .gone
    | none => pure .next) s

/-! ### Side-core control (09 R241, R243) -/

/-- SY_PEEL or SY_RACK as read (09 Table 7): LOAD reads 0. -/
def sideWord (k : Side) : Word :=
  BitVec.ofNat 64 (bitAt 63 k.run + bitAt 61 k.halt + k.len.toNat * 2 ^ 52 + k.img.toNat)

def sideOf (k : Bank) (rack : Bool) : Side := if rack then k.rack else k.peel
def updSide (s : State) (c b : Nat) (rack : Bool) (f : Side → Side) : State :=
  updBank s c b (fun k => if rack then { k with rack := f k.rack } else { k with peel := f k.peel })

/-- The instruction store of a side core. -/
def updStore (s : State) (c : Nat) (rack : Bool) (f : Sparse Byte → Sparse Byte) : State :=
  updCore s c (fun k => if rack then { k with rackI := f k.rackI } else { k with peelI := f k.peelI })

/-- The stores of a side core, with the bank that last started it and their domain. -/
structure SideStores where
  inst : Sparse Byte
  data : Sparse Byte
  hold : Option Nat
  dom : Nat

def storesOf (k : Core) (rack : Bool) : SideStores :=
  if rack then { inst := k.rackI, data := k.rackD, hold := k.rackHold, dom := k.rackDom }
  else { inst := k.peelI, data := k.peelD, hold := k.peelHold, dom := k.peelDom }

def setStores (k : Core) (rack : Bool) (x : SideStores) : Core :=
  if rack then { k with rackI := x.inst, rackD := x.data, rackHold := x.hold, rackDom := x.dom }
  else { k with peelI := x.inst, peelD := x.data, peelHold := x.hold, peelDom := x.dom }

/-- The stores as they stand are kept for another resident context whose side core they serve (09 R243). -/
def keepStores (s : State) (c b : Nat) (rack : Bool) : State :=
  let x := storesOf (coreOf s c) rack
  match x.hold with
  | none => s
  | some o =>
    if o = b || (bankOf s c o).task.isNone then s
    else updBank s c o (fun k =>
      if rack then { k with rackSave := some (x.inst, x.data) } else { k with peelSave := some (x.inst, x.data) })

/-- A context starts its side core: the stores pass to it, zeroed when they pass to another domain (09 R226, R243). -/
def takeStores (s : State) (c b dom : Nat) (rack : Bool) : State :=
  let s := keepStores s c b rack
  updCore s c (fun k =>
    let x := storesOf k rack
    let x := if x.dom = dom then x else { x with inst := [], data := [], dom := dom }
    setStores k rack { x with hold := some b })

/-- A write of SY_PEEL or SY_RACK (09 R241). -/
def writeSide (w : Who) (rack : Bool) (v : Word) : Act Unit := do
  let run := v.getLsbD 63
  let load := v.getLsbD 62
  let len := fld v 52 6
  requireOpen (fld v 58 3 == 0 && fld v 44 8 == 0 && (!load || (1 ≤ len && len ≤ 32))) .reservedField
  let k := sideOf (bankOf (← state) w.core w.bank) rack
  let set := fun (k : Side) => { k with len := BitVec.ofNat 6 len, img := BitVec.ofNat 44 (fld v 0 44) }
  if run then
    let dom := match ctxOf (← state) w.ctx with
      | some x => x.domain.toNat
      | none => 0
    let take := change (fun s => takeStores s w.core w.bank dom rack)
    if k.run then pure ()
    else if load then do
      let img ← reachBytes w (BitVec.ofNat 64 (fld v 0 44 * 4096)) (1024 * len) 0 .rd
      take
      change (fun s => updStore s w.core rack (fun m => ssetAll 0 m 0 img))
      change (fun s => updSide s w.core w.bank rack (fun k => { set k with x := [], pc := 0, run := true, halt := false }))
    else do
      take
      change (fun s => updSide s w.core w.bank rack (fun k => { set k with run := true, halt := false }))
  else change (fun s => updSide s w.core w.bank rack (fun k => { set k with run := false }))

/-! ### Reading registers (11 Table 6; 12 Table 17) -/

/-- SY_ESTAT (09 Table 8). -/
def estatWord (r : Regs) : Word :=
  BitVec.ofNat 64 (r.cause1.toNat * 2 ^ 16 + r.cause0.toNat * 2 ^ 8 + r.depth.toNat)

/-- SY_EPC: the top of the trap stack, 0 at depth 0 (09 R244). -/
def epcWord (r : Regs) : Word := if r.depth = 0 then 0 else if r.depth = 1 then r.epc0 else r.epc1

/-- SY_CKPT as read (04 Table 5). -/
def ckptWord (k : Ckpt) : Word := BitVec.ofNat 64 (k.res.toNat * 2 ^ 58 + bitAt 57 k.busy + k.desc.toNat * 64)

/-- A register of a monitor unit at offset 8 x i (03 R79). -/
def monWord (m : Monitor) (i : Nat) : Word :=
  if i = 0 then m.cfg
  else if i = 1 then m.mx ++ m.mn
  else if i = 2 then m.count
  else if i = 3 then 0
  else sget (0 : BitVec 32) m.bins (2 * (i - 4) + 1) ++ sget (0 : BitVec 32) m.bins (2 * (i - 4))

/-- A monitor register by its SY number: unit and register (11 R289); indices 20 to 31 are unassigned. -/
def monNumber (n : Nat) : Option (Nat × Nat) :=
  if 0x400 ≤ n && n < 0xC00 && (n - 0x400) % 32 < 20 then some ((n - 0x400) / 32, (n - 0x400) % 32) else none

/-- The oldest entry of the error logs is returned and removed, 0 when they are empty (09 R238, Table 5). -/
def takeElog (w : Who) : Act Word := do
  match (coreOf (← state) w.core).elog with
  | [] => pure 0
  | e :: r => do
    change (fun s => updCore s w.core (fun k => { k with elog := r }))
    pure e

/-- The value of SY register `n` (12 R332, Table 17). The answer says whether its mark is clean (06 R144). -/
def readSy (w : Who) (n : Nat) : Act Word := do
  let s ← state
  let k := bankOf s w.core w.bank
  let r := k.regs
  let d := coreDie w.core
  match n with
  | 0x000 => pure r.rm
  | 0x001 => pure r.route
  | 0x002 => pure r.evec
  | 0x003 => pure (epcWord r)
  | 0x004 => pure (estatWord r)
  | 0x005 => pure ((coreOf s w.core).derr.setWidth 64)
  | 0x006 => takeElog w
  | 0x007 => pure (sideWord k.peel)
  | 0x008 => pure (sideWord k.rack)
  | 0x009 =>
    if k.window then do
      let v ← drawWord
      pure (BitVec.ofNat 64 (v.toNat % 20001 * 2 ^ 32))
    else pure 0
  | 0x00A => pure (match ctxOf s w.ctx with
    | some x => ckptWord x.ckpt
    | none => 0)
  | 0x010 => pure s.gang.tick
  | 0x011 => pure (s.gang.gidx.setWidth 64)
  | 0x012 => pure (s.gang.gsize.setWidth 64)
  | 0x020 => pure (dieOf s d).keeper
  | 0x021 => pure 0
  | 0x022 => pure (BitVec.ofNat 64 (bitAt 62 (dieOf s d).xinv.isSome))
  | 0x023 => pure (dieOf s d).swarea
  | 0x024 => pure 0
  | n =>
    match monNumber n with
    | none => trapOpen .reservedField
    | some (u, i) => do
      let ok := match ctxOf s w.ctx with
        | some x => x.monMask.getLsbD u
        | none => false
      requireOpen ok .protection
      pure (monWord (sget Monitor.reset s.host.mon u) i)

/-- sysrd: a read of SY_ELOG commits first (12 R332, R333). -/
def sysRead (g : Guard) (d : Spec) (n : Nat) (s : State) : Host.Outcome State Fault Refusal :=
  issue g 1 (fun w => do
    if n = 6 then commitRegion w false
    let p ← destReady w d
    let v ← readSy w n
    if n = 6 then change (fun s => recMark s w.task)
    let m : Mark := if n = 0 || n = 1 then .clean else .derived
    setRegsAct w (fun r => push (gWrite r p ⟨v, m⟩) ⟨v, m⟩)
    pure (if n = 6 then .region else .next)) s

/-! ### Writing registers -/

/-- A write that only a keeper-capable context may make (12 Table 17). -/
def keeperOnly (w : Who) : Act Unit := do
  let ok := match ctxOf (← state) w.ctx with
    | some k => k.keeper
    | none => false
  requireOpen ok .privilege

/-- What a register takes of a word: the RSV bits, about which its rule states nothing, ignore the write (00 R3). -/
def keeperTaken (v : Word) : Word := v &&& 0x80FFFFFFFFFFFFC0
def swareaTaken (v : Word) : Word := v &&& 0x800FFFFF80000000
def routeTaken (v : Word) : Word := v &&& 0x80FFFE00FF0000FF

/-- SY_KEEPER: the task's context serves its die's misses (07 R179, Table 6; 19 R419). -/
def writeKeeper (w : Who) (v : Word) : Act Unit := do
  keeperOnly w
  change (fun s => updDie s (coreDie w.core) (fun k => { k with keeper := keeperTaken v, keeperCtx := w.ctx }))

/-- Every earlier store of the task has performed at package scope (07 R181). -/
def storesDone (k : Bank) : Bool := k.tickets.isEmpty && k.inflight.all (fun a => !a.kind.isWrite)

/-- SY_KNOTE: resolve or refuse a descriptor of the die (07 R181, R182, Table 7). -/
def writeKnote (w : Who) (v : Word) : Act Unit := do
  keeperOnly w
  if v.getLsbD 63 then
    waitUntil (storesDone (bankOf (← state) w.core w.bank))
    settleDesc (coreDie w.core) (v.setWidth 32) (if v.getLsbD 62 then some .protection else none)

/-- SY_XINV: an invalidation starts, after the one that runs (07 R176, Table 5). -/
def writeXinv (w : Who) (v : Word) : Act Unit := do
  keeperOnly w
  requireOpen (fld v 60 2 < 2 && fld v 57 3 < 4 && fld v 40 11 == 0) .reservedField
  if v.getLsbD 63 then
    waitUntil (dieOf (← state) (coreDie w.core)).xinv.isNone
    change (fun s => updDie s (coreDie w.core) (fun k => { k with xinv := some v }))

/-- A position of some core of the die is occupied (09 R249). -/
def areaUsed (s : State) (d : Nat) : Bool := (List.range 64).any (fun c => (coreOf s (64 * d + c)).streamed != [])

/-- SY_SWAREA: a change of BASE or EN while a position is occupied is ignored (09 R249, Table 11). -/
def writeSwarea (w : Who) (v : Word) : Act Unit := do
  keeperOnly w
  change (fun s =>
    if areaUsed s (coreDie w.core) then s else updDie s (coreDie w.core) (fun k => { k with swarea := swareaTaken v }))

/-- The length of a position-shaped image (09 R249). -/
def imageLen : Nat := 4612 * 1024 + 2 * 16384

/-- A word of a context block. -/
def blockWord (bs : List Byte) (off : Nat) : Word := BitVec.ofNat 64 (fieldAt bs off 8)

/-- The queued commands of a block, in queue order: bits, mode, issuer. -/
def commandsFrom (bs : List Byte) (queue : Nat) : List (BitVec 96 × BitVec 3 × BitVec 2) :=
  (List.range 16).filterMap (fun i =>
    let o := 0x500 + 256 * queue + 16 * i
    let hi := blockWord bs (o + 8)
    if hi.getLsbD 63 then
      some (hi.setWidth 32 ++ blockWord bs o, BitVec.ofNat 3 (fld hi 32 3), BitVec.ofNat 2 (fld hi 35 2))
    else none)

/-- The engines' words of a block fit the queues of their commands (09 R246): ACTIVE with a command at the head, and a
continuation only for a v.scan. -/
def continuationOk (bs : List Byte) : Bool :=
  (List.range 3).all (fun e =>
    let head := (commandsFrom bs e).head?
    let scans := e == 1 && (match head with
      | some h => (match decodeCommand 1 h.1 with
        | .ok (.vScan _) => true
        | _ => false)
      | none => false)
    let o := 0x480 + 32 * e
    (!(blockWord bs o).getLsbD 16 || head.isSome) && (blockWord bs (o + 8) == 0 || scans) && blockWord bs (o + 16) == 0 &&
      blockWord bs (o + 24) == 0)

/-- A replayed block that is loaded uses the body its cursor names (06 R147). -/
def blockBody (bs : List Byte) : Word := BitVec.ofNat 64 (fieldAt bs 0x900 8)

/-- A loaded block uses the body of its cursor; where its launch replays nothing, the semaphores of that body start at 0
and none of its entries becomes ready (06 R147). -/
def adoptBody (l : Option Nat) (x : Nat) (body : Word) (version : BitVec 16) : Act Unit := do
  addUsers x body 1
  match l with
  | some n => do
    let nt := match ← bodyHead x body with
      | some h => h.nt
      | none => 0
    let r : Replay :=
      { body := body, version := version, variant := 0, sems := [], started := List.range nt, retired := [], passed := true,
        earlier := [] }
    change (fun s => updLaunch s n (fun q =>
      { q with loaded := q.loaded ++ [body], replay := if q.replay.isNone then some r else q.replay }))
  | none => pure ()

/-- SY_SWLOAD: a saved block becomes a streamed-out context of the task's launch (09 R250). One that belongs to no launch was loaded and not
spawned: it does not end with the task that loaded it (19 R420). -/
def writeSwload (w : Who) (v : Word) : Act Unit := do
  keeperOnly w
  if v.getLsbD 63 then
    let c := 64 * coreDie w.core + fld v 56 6
    let pos := freePos (← state) c
    requireOpen pos.isSome .reservedField
    let p := pos.getD 0
    let bs ← reachBytes w (BitVec.ofNat 64 (fld v 12 44 * 4096)) imageLen 0 .rd
    let x := fieldAt bs 5 1 % 64
    let s ← state
    let live := match ctxOf s x with
      | some k => k.domain.toNat == fieldAt bs 6 1 % 16
      | none => false
    requireOpen (fieldAt bs 0 4 == 0x4358424B && fieldAt bs 4 1 == 1 && live) .reservedField
    requireOpen (continuationOk bs) .dataError
    let v ← givens w
    let t ← newId
    let part := partOfBits (fieldAt bs 0x20 8)
    let adopted : Task :=
      { v.task with ctx := x, index := 0, recAddr := BitVec.ofNat 64 (fieldAt bs 0x10 8),
                    record := { recordOf [] with wid := BitVec.ofNat 64 (fieldAt bs 8 8) }, weight := 0,
                    sdem := part.sn, cdem := part.cn, place := .streamedOut, die := coreDie c, cluster := coreCluster c,
                    ready := t, core := c, bank := 0, start := t, iid := 0, spawns := 0, keeperOf := none, thr := 0,
                    repEntry := 0, recEntry := 0, ancestors := [],
                    waits := [], recPred := 0, recBy := 0, repIter := 0, noRec := true, fixed := some part }
    change (fun s => writeBytes s (switchPos s c p) bs)
    change (fun s => { s with tasks := aset s.tasks t adopted })
    change (fun s => updCore s c (fun q => { q with streamed := q.streamed ++
      [{ pos := p, task := t, awaiting := none, awaitOuter := [], waitDesc := none, pend := [], mustTgt := false,
         saved := none }] }))
    if (blockBody bs).getLsbD 0 then adoptBody w.launch x (blockBody bs &&& ~~~63) (BitVec.ofNat 16 (fieldAt bs 0x910 2))

/-- SY_HUP: DONE ends the finalisation window (04 R84, R85). -/
def writeHup (w : Who) (v : Word) : Act Unit := do
  if (bankOf (← state) w.core w.bank).window && v.getLsbD 0 then
    stopCopies w.core w.bank
    change (fun s => closeWindow s w.core w.bank)

/-- SY_CKPT: a checkpoint or restore starts, is refused while one runs, or after supply loss is abandoned as it starts (04 R86, R98,
R101, R104; log 93). The syswr of a checkpoint
completes once its granules are marked. -/
def writeCkpt (w : Who) (v : Word) : Act Unit := do
  requireOpen (fld v 61 2 < 2 && !v.getLsbD 56 && fld v 0 6 == 0) .reservedField
  let s ← state
  let upd := fun (f : Ckpt → Ckpt) (s : State) => updCtx s w.ctx (fun k => { k with ckpt := f k.ckpt })
  match ctxOf s w.ctx with
  | none => pure ()
  | some x => do
    let k := x.ckpt
    if (bankOf s w.core w.bank).ckptWait then
      waitUntil (!k.busy || 1 ≤ k.phase)
      change (fun s => updBank s w.core w.bank (fun b => { b with ckptWait := false }))
    else if v.getLsbD 63 then
      if k.busy then change (upd (fun k => { k with res := 1 }))
      else if s.pm.hup then change (upd (fun k => { k with desc := BitVec.ofNat 50 (fld v 6 50), res := 4 }))
      else do
        let restore := fld v 61 2 == 1
        let desc := BitVec.ofNat 50 (fld v 6 50)
        change (upd (fun k => { Ckpt.reset with desc := desc, opDesc := desc, res := k.res, busy := true, restore := restore,
                                                core := w.core, task := w.task, since := s.nextId }))
        if !restore then
          change (fun s => updBank s w.core w.bank (fun b => { b with ckptWait := true }))
          waitHere
    else change (upd (fun k => { k with desc := BitVec.ofNat 50 (fld v 6 50) }))

/-- SY_ROUTE: MODE 2 and 3 trap (02 R33). -/
def routeOk (v : Word) : Bool := fld v 49 1 == 0

/-- The write of a register outside the restart state takes effect once, after its commit (12 R333); `waiting` tells that
it has begun and waits at its boundary. -/
def once (w : Who) (body : Act Unit) (waiting : Bool := false) : Act Flow := do
  if !waiting then commitRegion w false
  body
  change (fun s => recMark s w.task)
  change (fun s => recLive s w.task)
  pure .region

/-- The effect of a syswr to register `n` (12 R332, Table 17). A register that is read-only from a context takes nothing. `src` reads the value. -/
def writeSyFrom (w : Who) (n : Nat) (src : Act Val) : Act Flow := do
  match n with
  | 0x000 => do
    let x ← src
    requireOpen (x.v.toNat ≤ 4) .reservedField
    setRegsAct w (fun r => { r with rm := x.v })
    pure .next
  | 0x001 => do
    let x ← src
    requireOpen (routeOk x.v) .reservedField
    setRegsAct w (fun r => { r with route := routeTaken x.v })
    pure .next
  | 0x002 => do
    let x ← src
    requireOpen (fld x.v 0 5 == 0) .reservedField
    setRegsAct w (fun r => { r with evec := x.v })
    change (fun s => recLive s w.task)
    pure .next
  | 0x003 => do
    let x ← src
    setRegsAct w (fun r => if r.depth = 1 then { r with epc0 := x.v } else if r.depth = 2 then { r with epc1 := x.v } else r)
    change (fun s => recLive s w.task)
    pure .next
  | 0x004 => do
    let x ← src
    requireOpen (fld x.v 24 40 == 0 && fld x.v 2 6 == 0) .reservedField
    change (fun s => recLive s w.task)
    pure .next
  | 0x005 => once w (do
    let x ← src
    change (fun s => updCore s w.core (fun k => { k with derr := k.derr &&& ~~~(x.v.setWidth 6) })))
  | 0x007 => once w (do
    let x ← src
    writeSide w false x.v)
  | 0x008 => once w (do
    let x ← src
    writeSide w true x.v)
  | 0x009 => once w (do
    let x ← src
    writeHup w x.v)
  | 0x00A => do
    let waiting := (bankOf (← state) w.core w.bank).ckptWait
    once w (do
      let x ← src
      writeCkpt w x.v) waiting
  | 0x020 => once w (do
    let x ← src
    writeKeeper w x.v)
  | 0x021 => once w (do
    let x ← src
    writeKnote w x.v)
  | 0x022 => once w (do
    let x ← src
    writeXinv w x.v)
  | 0x023 => once w (do
    let x ← src
    writeSwarea w x.v)
  | 0x024 => once w (do
    let x ← src
    writeSwload w x.v)
  | 0x006 | 0x010 | 0x011 | 0x012 => once w (do
    let _ ← src
    pure ())
  | n => do
    requireOpen (monNumber n).isSome .reservedField
    once w (do
      let _ ← src
      pure ())

def writeSy (w : Who) (n : Nat) (a : Spec) : Act Flow := writeSyFrom w n (readSrc w a)

/-- syswr of register `n` by the task that runs on the acting core. -/
def sysWrite (g : Guard) (n : Nat) (a : Spec) (s : State) : Host.Outcome State Fault Refusal :=
  issue g 1 (fun w => writeSy w n a) s

def execSysrd (g : Guard) (d : Spec) (n : BitVec 12) (s : State) : Host.Outcome State Fault Refusal :=
  sysRead g d n.toNat s

def execSyswr (g : Guard) (n : BitVec 12) (a : Spec) (s : State) : Host.Outcome State Fault Refusal :=
  sysWrite g n.toNat a s

/-- sysrd of SY_ELOG (09 R238, 12 R333). -/
def execSyElogRead (g : Guard) (d : Spec) (s : State) : Host.Outcome State Fault Refusal := sysRead g d 6 s

/-- syswr of SY_HUP with DONE = 1 (04 R84, R85). -/
def execSyHupDone (g : Guard) (a : Spec) (s : State) : Host.Outcome State Fault Refusal :=
  sysWrite g 0x009 a s

/-- syswr of SY_CKPT with GO = 1, OP 0 (04 R101). -/
def execSyCkptCheckpoint (g : Guard) (a : Spec) (s : State) : Host.Outcome State Fault Refusal :=
  sysWrite g 0x00A a s

/-- syswr of SY_CKPT with GO = 1, OP 1 (04 R104). -/
def execSyCkptRestore (g : Guard) (a : Spec) (s : State) : Host.Outcome State Fault Refusal :=
  sysWrite g 0x00A a s

/-- syswr of SY_KEEPER (07 R179). -/
def execSyKeeper (g : Guard) (a : Spec) (s : State) : Host.Outcome State Fault Refusal := sysWrite g 0x020 a s

/-- syswr of SY_KNOTE with GO = 1, REFUSE = 0 (07 R181). -/
def execSyKnoteResolve (g : Guard) (a : Spec) (s : State) : Host.Outcome State Fault Refusal :=
  sysWrite g 0x021 a s

/-- syswr of SY_KNOTE with GO = 1, REFUSE = 1 (07 R182). -/
def execSyKnoteRefuse (g : Guard) (a : Spec) (s : State) : Host.Outcome State Fault Refusal :=
  sysWrite g 0x021 a s

/-- syswr of SY_XINV with GO = 1, KIND 0 (07 R176). -/
def execSyXinvPage (g : Guard) (a : Spec) (s : State) : Host.Outcome State Fault Refusal :=
  sysWrite g 0x022 a s

/-- KIND 1: all of a context. -/
def execSyXinvContext (g : Guard) (a : Spec) (s : State) : Host.Outcome State Fault Refusal :=
  sysWrite g 0x022 a s

/-- KIND 2: heap attributes of a context. -/
def execSyXinvHeap (g : Guard) (a : Spec) (s : State) : Host.Outcome State Fault Refusal :=
  sysWrite g 0x022 a s

/-- KIND 3: all contexts. -/
def execSyXinvAll (g : Guard) (a : Spec) (s : State) : Host.Outcome State Fault Refusal :=
  sysWrite g 0x022 a s

/-- syswr of SY_SWAREA (09 R249). -/
def execSySwarea (g : Guard) (a : Spec) (s : State) : Host.Outcome State Fault Refusal := sysWrite g 0x023 a s

/-- syswr of SY_SWLOAD with GO = 1 (09 R250). -/
def execSySwload (g : Guard) (a : Spec) (s : State) : Host.Outcome State Fault Refusal :=
  sysWrite g 0x024 a s

/-- The SY register of a side core. -/
def sideNumber (rack : Bool) : Nat := if rack then 0x008 else 0x007

/-- syswr of SY_PEEL or SY_RACK with LOAD = 1, RUN = 1 (09 R241). -/
def execSyPeelLoadRun (g : Guard) (a : Spec) (rack : Bool) (s : State) : Host.Outcome State Fault Refusal :=
  sysWrite g (sideNumber rack) a s

/-- RUN = 1 without LOAD. -/
def execSyPeelRun (g : Guard) (a : Spec) (rack : Bool) (s : State) : Host.Outcome State Fault Refusal :=
  sysWrite g (sideNumber rack) a s

/-- RUN = 0. -/
def execSyPeelStop (g : Guard) (a : Spec) (rack : Bool) (s : State) : Host.Outcome State Fault Refusal :=
  sysWrite g (sideNumber rack) a s

end Sys2Proof.Machine
end

