-- ==== Sys2Proof/Machine/Numbers.lean ====
section
/-!
DEFINITION. Number formats and arithmetic (10): exact values, the decoding of every element format (R251 to R256, R261),
rounding (R260, R263 to R265), sums and products with their NaN, infinity and zero rules (R266, R267, R269),
transcendental functions (R272), Sieve's uniform numbers (R275).
-/

namespace Sys2Proof.Machine

/-! ### Exact values -/

/-- An exact value. `fin n m e` is (-1)^n x m x 2^e with m > 0; with `more` its magnitude lies strictly between m x 2^e and
(m + 1) x 2^e, which happens only for irrational results, and no format has a value or a midpoint in between. -/
inductive Num where
  | nan
  | inf (neg : Bool)
  | zero (neg : Bool)
  | fin (neg : Bool) (m : Nat) (e : Int) (more : Bool)
deriving DecidableEq, Repr

def Num.isNan : Num → Bool
  | .nan => true
  | _ => false

def Num.neg : Num → Bool
  | .nan => false
  | .inf n => n
  | .zero n => n
  | .fin n _ _ _ => n

def Num.isZero : Num → Bool
  | .zero _ => true
  | _ => false

def Num.negate : Num → Num
  | .nan => .nan
  | .inf n => .inf (!n)
  | .zero n => .zero (!n)
  | .fin n m e k => .fin (!n) m e k

def Num.abs : Num → Num
  | .nan => .nan
  | .inf _ => .inf false
  | .zero _ => .zero false
  | .fin _ m e k => .fin false m e k

/-- An integer. -/
def Num.ofInt (i : Int) : Num := if i = 0 then .zero false else .fin (i < 0) i.natAbs 0 false

/-- (-1)^n x m x 2^e, a zero when m is 0. -/
def Num.mk' (n : Bool) (m : Nat) (e : Int) : Num := if m = 0 then .zero n else .fin n m e false

/-- The integer m x 2^k for a shift that may be negative (then floored). -/
def shiftBy (m : Nat) (k : Int) : Nat := if 0 ≤ k then m * 2 ^ k.toNat else m / 2 ^ (-k).toNat

/-- FloorLog2 of a finite non-zero magnitude (10 R271). -/
def floorLog2 (m : Nat) (e : Int) : Int := (Nat.log2 m : Int) + e

/-! ### Formats -/

/-- Parameters of a floating-point format (10 Table 1). -/
structure FloatFmt where
  ebits : Nat
  mbits : Nat
  bias : Nat
  hasInf : Bool
  /-- the encoding of the largest finite value, sign 0 -/
  maxCode : Nat
  nan : Nat
  emax : Int
deriving DecidableEq, Repr

def fp32 : FloatFmt := ⟨8, 23, 127, true, 0x7F7FFFFF, 0x7FC00000, 127⟩
def bf16 : FloatFmt := ⟨8, 7, 127, true, 0x7F7F, 0x7FC0, 127⟩
def fp16 : FloatFmt := ⟨5, 10, 15, true, 0x7BFF, 0x7E00, 15⟩
def e4m3 : FloatFmt := ⟨4, 3, 7, false, 0x7E, 0x7F, 8⟩
def e5m2 : FloatFmt := ⟨5, 2, 15, true, 0x7B, 0x7E, 15⟩
/-- FP4 has no NaN; the pattern 0 stands in a block whose scale is 0xFF (10 R260). -/
def e2m1 : FloatFmt := ⟨2, 1, 1, false, 0x7, 0, 2⟩

def FloatFmt.width (f : FloatFmt) : Nat := 1 + f.ebits + f.mbits

/-- The floating-point format of a code (00 Table 2). -/
def floatFmt (f : BitVec 6) : Option FloatFmt :=
  match f.toNat with
  | 1 => some fp32
  | 2 => some bf16
  | 3 => some fp16
  | 4 => some e4m3
  | 5 => some e5m2
  | 6 => some e2m1
  | _ => none

/-- Element size in bytes (10 R251, R271); 0 for the packed formats. -/
def sizeOf' (f : BitVec 6) : Nat :=
  match f.toNat with
  | 0 | 4 | 5 | 7 | 11 => 1
  | 2 | 3 => 2
  | 1 | 8 => 4
  | _ => 0

/-- Format and geometry go together (10 R258; 00 R6: codes 0x0C to 0x3F are reserved). -/
def fmtOk (f : BitVec 6) (geo : BitVec 4) : Bool :=
  match f.toNat with
  | 0 | 1 | 2 | 3 | 7 | 8 | 9 | 11 => geo == 0
  | 4 | 5 => geo == 0 || geo == 1
  | 6 | 10 => geo == 1
  | _ => false

/-- Neither code is reserved (00 R6; 10 R258). -/
def codesOk (f : BitVec 6) (geo : BitVec 4) : Bool := f.toNat < 12 && geo.toNat < 2

/-- The value of a floating-point encoding (10 R251, R252). -/
def FloatFmt.value (f : FloatFmt) (v : Nat) : Num :=
  let n := v / 2 ^ (f.ebits + f.mbits) % 2 == 1
  let ex := v / 2 ^ f.mbits % 2 ^ f.ebits
  let m := v % 2 ^ f.mbits
  let top := 2 ^ f.ebits - 1
  if f.hasInf && ex == top then (if m = 0 then .inf n else .nan)
  else if f.nan == 0x7F && v % 128 == 0x7F then .nan
  else if ex = 0 then Num.mk' n m (1 - (f.bias : Int) - f.mbits)
  else .fin n (2 ^ f.mbits + m) ((ex : Int) - f.bias - f.mbits) false

/-- Widen: the exact value of an unpacked encoding (10 R254, R265). E8M0 is a power of two. -/
def widen (f : BitVec 6) (v : Nat) : Num :=
  match floatFmt f with
  | some p => p.value v
  | none =>
    match f.toNat with
    | 7 => Num.ofInt (BitVec.ofNat 8 v).toInt
    | 8 => Num.ofInt (BitVec.ofNat 32 v).toInt
    | 11 => if v % 256 = 255 then .nan else .fin false 1 ((v % 256 : Nat) - 127) false
    | _ => Num.ofInt (v % 256 : Nat)

/-- The value of an integer encoding (10 R254). -/
def widenInt (f : BitVec 6) (v : Nat) : Int :=
  match f.toNat with
  | 7 => (BitVec.ofNat 8 v).toInt
  | 8 => (BitVec.ofNat 32 v).toInt
  | _ => (v % 256 : Nat)

def isIntFmt (f : BitVec 6) : Bool := f == 0 || f == 7 || f == 8
def isFloatFmt (f : BitVec 6) : Bool := 1 ≤ f.toNat && f.toNat ≤ 6

/-! ### Rounding -/

/-- A rounding: its mode (10 Table 5) and, under SR, its 32 random bits. -/
structure Rnd where
  mode : Nat
  r : Nat
deriving DecidableEq, Repr

/-- The rounding of a destination position under a captured mode (10 R264). -/
def rndAt (mode : BitVec 3) (key : Word) (p g : Nat) : Rnd :=
  { mode := mode.toNat,
    r := if mode = 4 then ((sieve key (BitVec.ofNat 64 (g * 2 ^ 32 + p % 2 ^ 32))) >>> 32).toNat else 0 }

/-- SR counts as RNE (10 R272, 02 R47). -/
def noSr (mode : BitVec 3) : Rnd := { mode := if mode = 4 then 0 else mode.toNat, r := 0 }

/-- Pick between magnitudes k and k + 1: `up` is the magnitude's rounding, from what is left below k (10 R263). `num / den`
is the fraction left, `more` a further non-zero rest. -/
def pickUp (rd : Rnd) (neg : Bool) (k num den : Nat) (more : Bool) : Bool :=
  if num = 0 && !more then false
  else
    match rd.mode with
    | 0 => den < 2 * num || (2 * num == den && (more || k % 2 == 1))
    | 1 => false
    | 2 => !neg
    | 3 => neg
    | _ =>
      if neg then !(rd.r < (den - num) * 2 ^ 32 / den) else rd.r < num * 2 ^ 32 / den

/-- Rounding of magnitude m x 2^e to a multiple of 2^q: the multiple. -/
def roundAt (rd : Rnd) (neg : Bool) (m : Nat) (e q : Int) (more : Bool) : Nat :=
  if q ≤ e then
    let k := m * 2 ^ (e - q).toNat
    if pickUp rd neg k 0 1 more then k + 1 else k
  else
    let d := 2 ^ (q - e).toNat
    let k := m / d
    if pickUp rd neg k (m % d) d more then k + 1 else k

/-- An encoding from a magnitude k x 2^q, k ≤ 2^(mbits + 1). -/
def FloatFmt.encode (f : FloatFmt) (neg : Bool) (k : Nat) (q : Int) : Nat :=
  let s := bitAt (f.ebits + f.mbits) neg
  let (k, q) := if 2 ^ (f.mbits + 1) ≤ k then (k / 2, q + 1) else (k, q)
  if k < 2 ^ f.mbits then s + k
  else s + (q + f.mbits + f.bias).toNat * 2 ^ f.mbits + (k - 2 ^ f.mbits)

def FloatFmt.inf (f : FloatFmt) (neg : Bool) : Nat :=
  bitAt (f.ebits + f.mbits) neg + (2 ^ f.ebits - 1) * 2 ^ f.mbits

/-- Overflow (10 Table 6); `sat` is SatRound's saturation (R260). -/
def FloatFmt.overflow (f : FloatFmt) (rd : Rnd) (neg sat : Bool) : Nat :=
  let big := bitAt (f.ebits + f.mbits) neg + f.maxCode
  if sat || !f.hasInf then big
  else
    match rd.mode with
    | 1 => big
    | 2 => if neg then big else f.inf neg
    | 3 => if neg then f.inf neg else big
    | _ => f.inf neg

/-- The magnitude of a finite encoding against k x 2^q. -/
def exceeds (k : Nat) (q : Int) (m : Nat) (e : Int) : Bool :=
  if q ≤ e then m * 2 ^ (e - q).toNat < k else m < k * 2 ^ (q - e).toNat

/-- RoundToFormat to a floating-point format (10 R263, R264), or SatRound (R260). -/
def FloatFmt.round (f : FloatFmt) (rd : Rnd) (sat : Bool) (x : Num) : Nat :=
  match x with
  | .nan => f.nan
  | .inf n => if f.hasInf && !sat then f.inf n else if sat then bitAt (f.ebits + f.mbits) n + f.maxCode else f.nan
  | .zero n => bitAt (f.ebits + f.mbits) n
  | .fin n m e more =>
    let (bm, be) := match f.value f.maxCode with
      | .fin _ a b _ => (a, b)
      | _ => (0, 0)
    let q := max (floorLog2 m e - f.mbits) (1 - (f.bias : Int) - f.mbits)
    let past := exceeds m e bm be || (more && !exceeds bm be m e)
    let rd' : Rnd := if rd.mode = 4 && past then { rd with mode := 0 } else rd
    let k := roundAt rd' n m e q more
    if exceeds k q bm be then f.overflow rd' n sat else f.encode n k q

/-- Range of an integer format. -/
def intRange (f : BitVec 6) : Int × Int :=
  match f.toNat with
  | 7 => (-128, 127)
  | 8 => (-(2 ^ 31), 2 ^ 31 - 1)
  | _ => (0, 255)

def intWidth (f : BitVec 6) : Nat := if f = 8 then 32 else 8

/-- An integer saturated to a format, as an encoding (10 R263). -/
def satInt (f : BitVec 6) (i : Int) : Nat :=
  let (lo, hi) := intRange f
  (BitVec.ofInt (intWidth f) (max lo (min hi i))).toNat

/-- An integer encoding of a value: rounded to an integer, saturated, 0 for a NaN (10 R263, R265). An integer format has no largest finite
value, and SR draws bits beyond its range as well, before the result saturates; past 2^40 nothing is left to draw (log 91). -/
def roundInt (f : BitVec 6) (rd : Rnd) (x : Num) : Nat :=
  let (lo, hi) := intRange f
  match x with
  | .nan => 0
  | .zero _ => 0
  | .inf n => satInt f (if n then lo else hi)
  | .fin n m e more =>
    let big := 2 ^ 40
    let past := exceeds m e big 0
    let rd' : Rnd := if rd.mode = 4 && past then { rd with mode := 0 } else rd
    let k := if past then big else roundAt rd' n m e 0 more
    satInt f (if n then -(k : Int) else k)

/-- RoundToFormat to an unpacked format code (10 R263). -/
def roundTo (f : BitVec 6) (rd : Rnd) (x : Num) : Nat :=
  match floatFmt f with
  | some p => p.round rd false x
  | none => roundInt f rd x

/-- A value rounded to FP32, as a value. -/
def toFp32 (rd : Rnd) (x : Num) : Num := fp32.value (fp32.round rd false x)

/-! ### Sums and products (10 R267, R269) -/

def mulNum (a b : Num) : Num :=
  match a, b with
  | .nan, _ => .nan
  | _, .nan => .nan
  | .inf x, .inf y => .inf (x != y)
  | .inf _, .zero _ => .nan
  | .zero _, .inf _ => .nan
  | .inf x, .fin y _ _ _ => .inf (x != y)
  | .fin x _ _ _, .inf y => .inf (x != y)
  | .zero x, y => .zero (x != y.neg)
  | x, .zero y => .zero (x.neg != y)
  | .fin x m e _, .fin y m' e' _ => .fin (x != y) (m * m') (e + e') false

/-- The signed integer a value is in units of 2^q, q no larger than its exponent. -/
def scaled (q : Int) : Num → Int
  | .fin n m e _ => (if n then -1 else 1) * ((m * 2 ^ (e - q).toNat : Nat) : Int)
  | _ => 0

def minExp : List Num → Int → Int
  | [], q => q
  | .fin _ _ e _ :: r, q => minExp r (min q e)
  | _ :: r, q => minExp r q

/-- The exact sum of addends; `rdn` tells that the rounding to come is RDN (10 R267, R269). -/
def sumNum (rdn : Bool) (xs : List Num) : Num :=
  if xs.any Num.isNan then .nan
  else
    let pos := xs.contains (.inf false)
    let neg := xs.contains (.inf true)
    if pos && neg then .nan
    else if pos then .inf false
    else if neg then .inf true
    else
      let q := minExp xs 0
      let t := xs.foldl (fun s x => s + scaled q x) (0 : Int)
      if t = 0 then .zero (rdn || xs.all (fun x => x.isZero && x.neg)) else .fin (t < 0) t.natAbs q false

def addNum (rdn : Bool) (a b : Num) : Num := sumNum rdn [a, b]

/-- FusedMulAdd (10 R271). -/
def fmaNum (rd : Rnd) (a b c : Num) : Num := toFp32 rd (sumNum (rd.mode == 3) [mulNum a b, c])

/-- a < b for values that are no NaN; zeros are equal. -/
def ltNum (a b : Num) : Bool :=
  match a, b with
  | .inf x, .inf y => x && !y
  | .inf x, _ => x
  | _, .inf y => !y
  | a, b =>
    let q := minExp [a, b] 0
    scaled q a < scaled q b

/-- max with NaN and zero rules (02 R47). -/
def maxNum (a b : Num) : Num :=
  if a.isNan || b.isNan then .nan
  else if a.isZero && b.isZero then .zero (a.neg && b.neg)
  else if ltNum a b then b else a

def minNum (a b : Num) : Num :=
  if a.isNan || b.isNan then .nan
  else if a.isZero && b.isZero then .zero (a.neg || b.neg)
  else if ltNum b a then b else a

/-- x times a power of two. -/
def scale2 (x : Num) (k : Int) : Num :=
  match x with
  | .fin n m e r => .fin n m (e + k) r
  | y => y

/-! ### MX blocks (10 R260, R261) -/

/-- The scale code of a block (10 R260). -/
def mxScale (f : FloatFmt) (xs : List Num) : Nat :=
  if xs.any (fun x => match x with
    | .nan => true
    | .inf _ => true
    | _ => false) then 0xFF
  else
    let m := xs.foldl (fun a x => if ltNum a x.abs then x.abs else a) (.zero false)
    match m with
    | .fin _ m e _ => (max 0 (min 254 (floorLog2 m e - f.emax + 127))).toNat
    | _ => 0

/-- One element of a block with its scale code. -/
def mxEncode (f : FloatFmt) (code : Nat) (rd : Rnd) (x : Num) : Nat :=
  if code = 0xFF then 0 else f.round rd true (scale2 x (127 - code))

/-- A decoded element of a block (10 R261). -/
def mxDecode (f : FloatFmt) (code v : Nat) : Num := if code = 0xFF then .nan else scale2 (f.value v) ((code : Int) - 127)

/-! ### Packed formats -/

/-- Element `j` of a T5 byte (10 R255). -/
def t5Digit (b j : Nat) : Int :=
  if 243 ≤ b then 0
  else
    match b / 3 ^ j % 3 with
    | 0 => 0
    | 1 => 1
    | _ => -1

/-- Coordinate `t` of a VQ2 index before scaling, in quarters, and whether a zero magnitude is negative (10 R256). -/
def vq2Coord (ix entry t : Nat) : Num :=
  let signs := (List.range 7).map (fun k => ix / 2 ^ (k + 1) % 2)
  let s := if t = 7 then signs.sum % 2 else signs.getD t 0
  let v : Num := Num.mk' (s == 1) (entry / 16 ^ t % 16) (-1)
  if ix % 2 = 1 then sumNum false [v, .fin false 1 (-2) false] else v

/-- A decoded VQ2 weight. -/
def vq2Weight (ix entry scale t : Nat) : Num :=
  if scale = 0xFF then .nan else scale2 (vq2Coord ix entry t) ((scale : Int) - 127)

/-- Parameters of an MX-blocked unit (10 Table 3): blocks, data bytes a block. -/
def mxBlocks (f : BitVec 6) : Nat × Nat :=
  match f.toNat with
  | 6 => (120, 16)
  | 10 => (224, 8)
  | _ => (60, 32)

/-- ElementPlace (10 R259): byte, low bit (FP4), digit (T5) or coordinate (VQ2), scale byte. -/
structure EPlace where
  byte : Nat
  sub : Nat
  scale : Option Nat
deriving DecidableEq, Repr

def elementPlace (f : BitVec 6) (geo : BitVec 4) (i : Nat) : EPlace :=
  if f = 9 then ⟨i / 5, i % 5, none⟩
  else if geo = 0 then ⟨i * sizeOf' f, 0, none⟩
  else
    let (nb, db) := mxBlocks f
    let blk := i / 32
    let u := blk / nb
    let b := blk % nb
    let k := i % 32
    let base := 2048 * u + db * b
    let sb := 2048 * u + nb * db + b
    if f = 6 then ⟨base + k / 2, 4 * (k % 2), some sb⟩
    else if f = 10 then ⟨base + 2 * (k / 8), k % 8, some sb⟩
    else ⟨base + k, 0, some sb⟩

/-! ### Transcendental functions (10 R272) -/

/-- Fraction bits of the fixed-point work: far beyond what decides a rounding to FP32. -/
def fixBits : Nat := 320

/-- atanh(a / b) for a / b ≤ 1/3, times 2^fixBits. -/
def atanhFix (a b : Nat) : Nat :=
  let z := a * 2 ^ fixBits / b
  let z2 := z * z / 2 ^ fixBits
  let rec go : Nat → Nat → Nat → Nat → Nat
    | 0, _, _, s => s
    | n + 1, k, p, s => if p = 0 then s else go n (k + 2) (p * z2 / 2 ^ fixBits) (s + p / k)
  go 120 1 z 0

/-- ln 2, times 2^fixBits. -/
def ln2Fix : Nat := 2 * atanhFix 1 3

/-- e^t for 0 ≤ t < 1, both times 2^fixBits. -/
def expFix (t : Nat) : Nat :=
  let rec go : Nat → Nat → Nat → Nat → Nat
    | 0, _, _, s => s
    | n + 1, k, p, s => if p = 0 then s else go n (k + 1) (p * t / (2 ^ fixBits * k)) (s + p)
  go 100 1 (2 ^ fixBits) 0

/-- A finite value in units of 2^-fixBits, floored. -/
def fixOf (x : Num) : Int :=
  match x with
  | .fin n m e _ =>
    let v := shiftBy m (e + fixBits)
    if n then -(v : Int) else v
  | _ => 0

/-- 2^(t / 2^fixBits) as a value. -/
def exp2Fix (t : Int) : Num :=
  let n := t / 2 ^ fixBits
  let f := (t % 2 ^ fixBits).toNat
  if f = 0 then .fin false 1 n false
  else .fin false (expFix (f * ln2Fix / 2 ^ fixBits)) (n - fixBits) true

/-- A magnitude beyond every format's range, and one below it. -/
def hugeNum (neg : Bool) : Num := .fin neg 1 100000 true
def tinyNum (neg : Bool) : Num := .fin neg 1 (-100000) true

/-- |x| is at least 2^k. -/
def atLeast2 (x : Num) (k : Int) : Bool :=
  match x with
  | .fin _ m e _ => k ≤ floorLog2 m e
  | _ => false

def one : Num := .fin false 1 0 false

def exp2Num (x : Num) : Num :=
  match x with
  | .nan => .nan
  | .inf n => if n then .zero false else .inf false
  | .zero _ => one
  | .fin n _ _ _ => if atLeast2 x 12 then (if n then tinyNum false else hugeNum false) else exp2Fix (fixOf x)

def expNum (x : Num) : Num :=
  match x with
  | .nan => .nan
  | .inf n => if n then .zero false else .inf false
  | .zero _ => one
  | .fin n _ _ _ =>
    if atLeast2 x 12 then (if n then tinyNum false else hugeNum false)
    else
      let v := fixOf x
      let k := v / (ln2Fix : Int)
      .fin false (expFix (v % (ln2Fix : Int)).toNat) (k - fixBits) true

/-- log2 of a positive finite value. -/
def log2Num (x : Num) : Num :=
  match x with
  | .nan => .nan
  | .zero _ => .inf true
  | .inf n => if n then .nan else .inf false
  | .fin true _ _ _ => .nan
  | .fin false m e _ =>
    let l := Nat.log2 m
    let n : Int := (l : Int) + e
    if m = 2 ^ l then Num.ofInt n
    else
      let a := m - 2 ^ l
      let y := 2 * atanhFix a (m + 2 ^ l) * 2 ^ fixBits / ln2Fix
      let t : Int := n * 2 ^ fixBits + y
      .fin (t < 0) (if t < 0 then t.natAbs - 1 else t.natAbs) (-fixBits) true

def rcpNum (x : Num) : Num :=
  match x with
  | .nan => .nan
  | .inf n => .zero n
  | .zero n => .inf n
  | .fin n m e _ =>
    let b := Nat.log2 m + 64
    let q := 2 ^ b / m
    .fin n q (-(b : Int) - e) (2 ^ b % m != 0)

/-- A quotient of exact values: 0 / 0 and ∞ / ∞ are NaN, signs as R267. -/
def divNum (a b : Num) : Num :=
  let n := a.neg != b.neg
  match a, b with
  | .nan, _ => .nan
  | _, .nan => .nan
  | .inf _, .inf _ => .nan
  | .inf _, _ => .inf n
  | _, .inf _ => .zero n
  | .zero _, .zero _ => .nan
  | .zero _, _ => .zero n
  | _, .zero _ => .inf n
  | .fin _ m e _, .fin _ m' e' _ =>
    let k := Nat.log2 m' + 128
    .fin n (m * 2 ^ k / m') (e - e' - k) (m * 2 ^ k % m' != 0)

/-- Square root of a positive finite value. -/
def sqrtNum (x : Num) : Num :=
  match x with
  | .nan => .nan
  | .zero n => .zero n
  | .inf n => if n then .nan else .inf false
  | .fin true _ _ _ => .nan
  | .fin false m e _ =>
    let (m, e) := if e % 2 = 0 then (m, e) else (2 * m, e - 1)
    let v := m * 2 ^ 128
    let r := Nat.sqrt v
    .fin false r (e / 2 - 64) (r * r != v)

def rsqrtNum (x : Num) : Num :=
  match x with
  | .nan => .nan
  | .zero n => .inf n
  | .inf n => if n then .nan else .zero false
  | .fin true _ _ _ => .nan
  | .fin false m e _ =>
    let (m, e) := if e % 2 = 0 then (m, e) else (2 * m, e - 1)
    let b := 2 * (Nat.log2 m / 2) + 256
    let r := Nat.sqrt (2 ^ b / m)
    .fin false r (-((b / 2 : Nat) : Int) - e / 2) (r * r * m != 2 ^ b)

def tanhNum (x : Num) : Num :=
  match x with
  | .nan => .nan
  | .zero n => .zero n
  | .inf n => .fin n 1 0 false
  | .fin n _ _ _ =>
    if atLeast2 x 7 then .fin n (2 ^ fixBits - 1) (-fixBits) true
    else
      let v := 2 * (fixOf x.abs)
      let k := v / (ln2Fix : Int)
      let r := expFix (v % (ln2Fix : Int)).toNat
      let a := shiftBy r k
      let o := 2 ^ fixBits
      .fin n (((a - o) * o - 1) / (a + o)) (-fixBits) true

/-! ### Helpers for encodings -/

/-- SieveUniform (10 R275), as an exact value. -/
def sieveUniform (k c : Word) : Num := Num.mk' false ((sieve k c) >>> 40).toNat (-24)

/-- The key of a sampling stream (10 R275). -/
def streamKey (seed s : Word) : Word := seed ^^^ (s * 0xD6E8FEB86659FD93)

end Sys2Proof.Machine
end

