-- ==== Sys2Proof/Machine/Engine.lean ====
section
/-!
DEFINITION. What every engine command shares: dispatch (09 R218, 13 R336), the range checker (09 R234), micro-steps and
retirement (09 R237, 13 R337 to R339), operands in S with their tags (09 R229, R230), rings (09 R231, R233).
-/

namespace Sys2Proof.Machine

/-! ### The range checker (09 R234) -/

/-- Two intervals overlap, and one is written. -/
def Interval.meets (a b : Interval) : Bool :=
  a.inC == b.inC && a.lo < b.hi && b.lo < a.hi && (a.write || b.write)

/-- The range checker orders two commands. -/
def conflict (a b : Cmd) : Bool := a.ranges.any (fun x => b.ranges.any (fun y => x.meets y))

/-- The captured pages of a copy hold die-local memory. -/
def PageMap.isLocal (die : Nat) (p : PageMap) : Bool :=
  p.home == die && (match rowOf p.pa with
    | some (.near _) => true
    | some .second => true
    | _ => false)

/-- Accesses of two copy commands of one queue perform in queue order: one class, both to die-local addresses (08 note 8). -/
def sameStream (die : Nat) (a b : Cmd) : Bool :=
  a.cls.isSome && a.cls == b.cls && a.pages.any (PageMap.isLocal die) && b.pages.any (PageMap.isLocal die)

/-- Command numbers of the collectives of a bank's task that run and that a command overlaps (14 R397). -/
def heldPrograms (s : State) (c b : Nat) (m : Cmd) : List Nat :=
  (s.programs.filter (fun e => e.2.core == c && e.2.task.isSome && e.2.task == (bankOf s c b).task &&
    e.2.ranges.any (fun x => m.ranges.any (fun y => x.meets y)))).map (fun e => e.2.cmd)

/-- Command `k` of queue `e` may start: its predecessors in the queue have started and none overlaps it; no earlier
command of another queue and no earlier collective that overlaps it is left; a copy, also, waits behind one that has drawn a ticket (14
R392). -/
def mayStart (s : State) (c b e k : Nat) (m : Cmd) : Bool :=
  ((queueOf s c b e).take k).all (fun a => a.started && !conflict a m) &&
    (List.range 4).all (fun e' => e' == e || (queueOf s c b e').all (fun a => !(a.id < m.id && conflict a m))) &&
    (heldPrograms s c b m).all (fun n => m.id < n) && !(e == 2 && copyParked (bankOf s c b) (m.id - 1))

/-- Command `k` of queue `e` may run a micro-step beside the commands before it: the matrix and vector engines expand
their head command only; copies of one class to die-local memory keep queue order. -/
def mayRun (s : State) (c b e k : Nat) (m : Cmd) : Bool :=
  k == 0 || (2 ≤ e && ((queueOf s c b e).take k).all (fun a => !(e == 2 && sameStream (coreDie c) a m)))

/-! ### Commands as the engines hold them -/

/-- The agent of a micro-step: the task, queue, command, its partition, its key of random bits (10 R264). -/
structure Eng where
  w : Who
  e : Nat
  k : Nat
  cmd : Cmd
  part : Part
  key : Word

/-- What an engine does with a command: its queue, the checks and captures of dispatch, whether its head may start beyond what
the range checker asks, one micro-step. A micro-step answers whether the command retires. -/
structure CmdSpec where
  queue : Nat
  check : Who → Cmd → Act Cmd
  ready : Eng → Act Bool
  micro : Eng → Act Bool
  /-- a ring or a trigger holds it now (06 R153) -/
  held : Eng → State → Bool := fun _ _ => false

/-- The launch's SEED; 0 for a task of no launch (16 R420). -/
def seedOf (s : State) (w : Who) : Word :=
  match w.launch.bind (launchOf s) with
  | some q => q.seed
  | none => 0

/-- The key of stochastic rounding (10 R264). -/
def srKey (s : State) (w : Who) : Word :=
  sieve (seedOf s w) (match taskOf s w.task with
    | some k => k.record.wid
    | none => 0)

/-- The command as it stands in its queue. -/
def cmdNow (e : Eng) : Act Cmd := do
  let s ← state
  pure (((queueOf s e.w.core e.w.bank e.e).find? (fun m => m.id == e.cmd.id)).getD e.cmd)

/-- The command changes in its queue. -/
def updCmd (s : State) (c b e id : Nat) (f : Cmd → Cmd) : State :=
  setQueue s c b e ((queueOf s c b e).map (fun m => if m.id = id then f m else m))

def changeCmd (e : Eng) (f : Cmd → Cmd) : Act Unit :=
  change (fun s => updCmd s e.w.core e.w.bank e.e e.cmd.id f)

/-- A retired command leaves its queue. -/
def retireCmd (s : State) (c b e id : Nat) : State :=
  setQueue s c b e ((queueOf s c b e).filter (fun m => m.id != id))

/-! ### Dispatch (09 R218; 13 R336; 14 R380) -/

/-- The accesses to S that a command's intervals stand for, within a partition. -/
def touchesOf (p : Part) (l : List Interval) : List Touch :=
  (l.filter (fun r => !r.inC)).flatMap (fun r =>
    ((List.range r.count).map (fun k => (r.lo + k * r.step, r.size, r.write))).filter (fun t => t.1 + t.2.1 ≤ 2048 * p.sn))

/-- The race check of a command: the words it accesses, as far as its dispatch tells them (06 R161; log 37). The collective engine's
accesses are among the core's engines' (log 79). -/
def raceRanges (w : Who) (phase : BitVec 6) (l : List Interval) : Act Unit := do
  raceTouches w 0x101 phase (touchesOf (partOf (← state) w) l)

/-- Is the command an epi.send? A ROUTE entry stands before it (06 R142). -/
def isSend : Instr → Bool
  | .mEpiSend _ => true
  | _ => false

/-- A command that the range checker holds in replay without a semaphore raises HITS (06 R155). -/
def countHit (w : Who) (body : Word) : Act Unit := do
  let a := body.toNat + 0x28
  match ← devReadWord w.ctx a with
  | .error _ => pure ()
  | .ok n =>
    let _ ← devWriteWord w.ctx a (n + 1)

/-- The stall count of a stream entry rises by the cycles it was held, a free number, up to its limit (06 R153); a count the
device cannot reach stays. -/
def countStall (x : Nat) (body : Word) (entry : Nat) : Act Unit := do
  match ← bodyHead x body with
  | none => pure ()
  | some h =>
    let cycles ← drawWord
    let a := body.toNat + stallOff h + 4 * entry
    match ← devRead x a 4 with
    | .error _ => pure ()
    | .ok bs =>
      let _ ← devWrite x a (leBytes 4 (Nat.min (leNat bs + cycles.toNat % 2 ^ 32) 0xFFFFFFFF))

/-- Numbers of the unretired commands of other queues that the range checker puts before a command. -/
def heldBehind (s : State) (c b e : Nat) (m : Cmd) : List Nat :=
  (List.range 4).flatMap (fun e' =>
    if e' == e then [] else ((queueOf s c b e').filter (fun a => conflict a m)).map (fun a => a.id)) ++
    (if e = 3 then [] else heldPrograms s c b m)

/-- The orderings that the range checker enforces at this moment: a command that its queue would let start, behind each earlier one of
another queue that it overlaps (09 R234). -/
def holdsNow (s : State) (c b : Nat) : List (Nat × Nat) :=
  (List.range 4).flatMap (fun e =>
    let q := queueOf s c b e
    q.zipIdx.flatMap (fun m =>
      if !m.1.started && (m.2 == 0 || 2 ≤ e) && (q.take m.2).all (fun a => a.started) then
        ((heldBehind s c b e m.1).filter (· < m.1.id)).map (fun a => (a, m.1.id))
      else []))

/-- The recorder captures them (06 R143). -/
def recHolds (w : Who) (s : State) : State :=
  if (recordingOf s w.task).isSome then (holdsNow s w.core w.bank).foldl (fun s p => recOrder s w.task p.1 p.2) s else s

/-- The slices of a command as 96 bits (06 R142). -/
def commandBits (i : Instr) : BitVec 96 :=
  let ws := encode i
  (ws.getD 2 0) ++ (ws.getD 1 0) ++ (ws.getD 0 0)

/-- A command before its checks. -/
def newCmd (i : Instr) (mode : BitVec 3) (pc : Word) (issuer : BitVec 2) (starter : Bool) (route : Word) : Cmd :=
  { id := 0, bits := commandBits i, instr := i, mode := mode, pc := pc, issuer := issuer, starter := starter, entry := 0, ranges := [],
    started := false, upc := 0, cont := 0, released := 0, route := route, block := [], obj := [], pages := [], tok := 0,
    kvLen := 0, kvVer := 0, kvPages := [], mask := 0, halted := false, tags := [], stamped := [], phase := 0, todo := [],
    buf := [], asked := [], got := [], seqs := none, raw := false }

/-- Commands a queue holds (09 R218). -/
def queueCap : Nat := 16

/-- A command is dispatched: its queue has room, its checks pass, it enters the queue, and the recorder captures it, with the orderings that
the range checker then enforces (06 R143). -/
def dispatchCmd (w : Who) (sp : CmdSpec) (m : Cmd) : Act Unit := do
  waitUntil ((queueOf (← state) w.core w.bank sp.queue).length < queueCap)
  let id ← newId
  let m ← sp.check w { m with id := id }
  raceRanges w (coreOf (← state) w.core).phase m.ranges
  let before := heldBehind (← state) w.core w.bank sp.queue m
  change (fun s => setQueue s w.core w.bank sp.queue (queueOf s w.core w.bank sp.queue ++ [m]))
  change (fun s => recCmd s w.task (recStream sp.queue m.issuer) m (isSend m.instr))
  change (recHolds w)
  match (bankOf (← state) w.core w.bank).cursor with
  | some c => if m.starter && !before.isEmpty then countHit w c.body
  | none => pure ()

/-- No guard. -/
def unguarded : Guard := { en := false, neg := false, pred := 0 }

/-- Dispatch by the control core of the command in the slice at its PC (13 R336). -/
def issueCmd (i : Instr) (sp : CmdSpec) (s : State) : Host.Outcome State Fault Refusal :=
  issue unguarded (encode i).length (fun w => do
    let r ← regsAct w
    dispatchCmd w sp (newCmd i (r.rm.setWidth 3) r.pc 0 false r.route)
    pure .next) s

/-! ### Micro-steps (09 R237; 13 R337, R338) -/

/-- The PC of a fault record of an engine's command: that of its slice, 0 for a starter's (13 R337). -/
def Eng.recPc (e : Eng) : Word := if e.cmd.starter then 0 else e.cmd.pc

/-- A command has raised a trap, which waits for the task's next instruction boundary (13 R337). -/
def haltCmd (s : State) (e : Eng) (t : Trap) (info : Option Word) (miss : Option Miss) : State :=
  let s := updCmd s e.w.core e.w.bank e.e e.cmd.id (fun m =>
    { m with halted := true, started := m.started && miss.isNone })
  updBank s e.w.core e.w.bank (fun k =>
    { k with pend := k.pend ++
      [{ src := .engine, code := t, info := info, pc := e.recPc, miss := miss.map (fun y => { y with pc := some e.recPc }) }] })

/-- A started command runs a micro-step. -/
def runStarted (sp : CmdSpec) (e : Eng) : Act Unit := do
  waitUntil (mayRun (← state) e.w.core e.w.bank e.e e.k e.cmd)
  if (← sp.micro e) then change (fun s => retireCmd s e.w.core e.w.bank e.e e.cmd.id)

/-- A command of a loaded block whose dispatch had to wait is dispatched where it stands in its queue, after those before it (09 R237). -/
def dispatchLate (sp : CmdSpec) (e : Eng) : Act Unit := do
  waitUntil (((queueOf (← state) e.w.core e.w.bank e.e).take e.k).all (fun m => !m.raw))
  let m ← sp.check e.w e.cmd
  raceRanges e.w (coreOf (← state) e.w.core).phase m.ranges
  changeCmd e (fun _ => { m with raw := false })

/-- A head command starts when the range checker and its own conditions allow it; a started one runs one micro-step
and retires after its last. -/
def runMicro (sp : CmdSpec) (e : Eng) : Act Unit := do
  let s ← state
  if e.cmd.raw then dispatchLate sp e
  else if !e.cmd.started then
    waitUntil (mayStart s e.w.core e.w.bank e.e e.k e.cmd)
    if (← sp.ready e) then
      changeCmd e (fun m => { m with started := true })
      runStarted sp e
  else runStarted sp e

/-- The range checker, a ring or a trigger holds a command whose predecessors in its queue have started (06 R153). -/
def headHeld (sp : CmdSpec) (e : Eng) (s : State) : Bool :=
  ((queueOf s e.w.core e.w.bank e.e).take e.k).all (fun a => a.started) &&
    ((!e.cmd.started && !mayStart s e.w.core e.w.bank e.e e.k e.cmd) || sp.held e s)

/-- The time that a command of a starter is so held counts (06 R153). -/
def countHeld (sp : CmdSpec) (e : Eng) (s : State) : State :=
  match (bankOf s e.w.core e.w.bank).cursor with
  | some c => if e.cmd.starter && headHeld sp e s then ((countStall e.w.ctx c.body e.cmd.entry).go s).2 else s
  | none => s

/-- The command stands in its queue as it stood: it has not started. -/
def stillHeld (s : State) (e : Eng) : Bool :=
  (queueOf s e.w.core e.w.bank e.e).any (fun m => m.id == e.cmd.id && !m.started)

/-- The engine `q` of a core takes a step with the k-th command of its queue. Where engines stop, a copy in its write phase goes on to
the end of its micro-step (01 Table 3; 04 R84; 14 R393). -/
def engineStep (i : Instr) (sp : CmdSpec) (c q k : Nat) (s : State) : Host.Outcome State Fault Refusal :=
  match whoRuns s c with
  | none => .refused (.notEnabled "no task runs on the core")
  | some w =>
    match (queueOf s c w.bank q)[k]? with
    | none => .refused (.notEnabled "the queue holds no such command")
    | some m =>
      let b := bankOf s c w.bank
      if q != sp.queue || m.instr != i then .refused (.notEnabled "the queue holds another command")
      else if m.halted || !((enginesRun s && !b.frozen) || (q == 2 && m.phase == 2)) then .next s
      else
        let e : Eng := { w := w, e := q, k := k, cmd := m, part := b.part, key := srKey s w }
        match (runMicro sp e).go s with
        | (.ok _, s') => .next (if stillHeld s' e then countHeld sp e s' else recHolds w s')
        | (.error .wait, s') => .next (countHeld sp e (recHolds w { s with fresh := s'.fresh }))
        | (.error (.trap t info), s') => .next (haltCmd { s with fresh := s'.fresh } e t info none)
        | (.error (.miss x), s') => .next (haltCmd { s with fresh := s'.fresh } e .translation none (some x))
        | (.error (.cannot why), _) => .refused (.notEnabled why)

/-- The meaning of an engine command: a micro-step when an engine acts, its dispatch when the control core does. -/
def runCommand (i : Instr) (sp : CmdSpec) (s : State) : Host.Outcome State Fault Refusal :=
  match s.actor with
  | .engine c q k => engineStep i sp c q k s
  | _ => issueCmd i sp s

/-- A command that starts as soon as the range checker allows. -/
def startsFreely : Eng → Act Bool := fun _ => pure true

/-! ### Traps of micro-steps (13 R337) -/

/-- INFO of an engine trap: queue code, micro-PC, what failed. -/
def engInfo (e : Eng) (low : Nat) : Word :=
  BitVec.ofNat 64 ((e.e + 1) * 2 ^ 60 + e.cmd.upc % 2 ^ 16 * 2 ^ 44 + low % 2 ^ 44)

/-- INFO of an engine trap that concerns a memory address. -/
def engAddr (e : Eng) (va : Nat) : Word := BitVec.ofNat 64 ((e.e + 1) * 2 ^ 60 + va % 2 ^ 56)

def etrap {α : Type} (e : Eng) (t : Trap) (low : Nat) : Act α := trap t (engInfo e low)
def erequire (e : Eng) (ok : Bool) (t : Trap) (low : Nat) : Act Unit := if ok then pure () else etrap e t low

/-! ### Operands in S -/

/-- The slots that `n` bytes from a partition-relative offset touch. -/
def slotsOf (off n : Nat) : List Nat :=
  if n = 0 then [] else (List.range ((off + n - 1) / 2048 - off / 2048 + 1)).map (fun i => off / 2048 + i)

/-- The tag of a slot as it stood when the command first touched the slot (13 R339). -/
def touchTag (e : Eng) (slot : Nat) : Act (BitVec 6 × BitVec 4) := do
  let m ← cmdNow e
  match aget m.tags slot with
  | some t => pure t
  | none => do
    let o := slotOf (← state) e.w.core (e.part.s0 + slot)
    changeCmd e (fun m => { m with tags := aset m.tags slot (o.fmt, o.geo) })
    pure (o.fmt, o.geo)

/-- Bytes of S that a command touches lie in its partition, in slots of the engines (09 R227, R229; 13 R355). -/
def checkBytes (e : Eng) (off n : Nat) : Act Unit := do
  erequire e (off + n ≤ 2048 * e.part.sn) .protection off
  let s ← state
  erequire e ((slotsOf off n).all (fun i => (slotOf s e.w.core (e.part.s0 + i)).owner)) .ownerViolation off

/-- The data-error bit and log of an engine (09 R238, Tables 4 and 5). -/
def dataError (s : State) (c eng : Nat) (space : Bool) (unit row col : Nat) : State :=
  updCore s c (fun k =>
    let mine := k.elog.filter (fun e => fld e 60 2 == eng)
    let entry : Word :=
      BitVec.ofNat 64 (2 ^ 63 + bitAt 62 space + eng * 2 ^ 60 + unit % 256 * 2 ^ 48 + row % 65536 * 2 ^ 32 + col % 65536 * 2 ^ 16)
    if mine.length < 8 then { k with derr := k.derr ||| BitVec.ofNat 6 (2 ^ eng), elog := k.elog ++ [entry] }
    else { k with derr := k.derr ||| BitVec.ofNat 6 (2 ^ eng + 2 ^ (eng + 3)) })

/-- Errors that have been read are gone. -/
def dropFlaws (s : State) (fs : List Flaw) : State := { s with flaws := s.flaws.filter (fun f => !fs.contains f) }

/-- The byte of S at a partition-relative offset, as a place of an error. -/
def flawS (e : Eng) (off : Nat) : Flaw := .s e.w.core (2048 * e.part.s0 + off)

/-- Places of the bytes from an offset that have an error. -/
def struckS (s : State) (e : Eng) (off n : Nat) : List Nat :=
  if s.flaws.isEmpty then [] else (List.range n).filter (fun i => s.flaws.contains (flawS e (off + i)))

/-- A copy takes S to memory: the log names no place of its elements (14 R394). -/
def toMemory : Instr → Bool
  | .xSt _ | .xScat _ => true
  | _ => false

/-- Elements at offsets are reported by an engine, and the errors of their bytes are gone (09 R238; 14 R394). -/
def reportS (s : State) (e : Eng) (elems bytes : List Nat) : State :=
  let s := elems.foldl (fun s o =>
    if toMemory e.cmd.instr then dataError s e.w.core e.e false 0 0 0 else dataError s e.w.core e.e false (o / 2048) 0 (o % 2048)) s
  dropFlaws s (bytes.map (flawS e))

/-- Bytes with some of their elements, of `size` bytes, zero. -/
def zeroElems (size : Nat) (elems : List Nat) (bs : List Byte) : List Byte :=
  bs.zipIdx.map (fun x => if elems.contains (x.2 / size) then 0 else x.1)

/-- A word of C as an engine reads it: 0 where it has an error (09 R238). -/
def cWord (s : State) (e : Eng) (tile row col : Nat) : BitVec 32 :=
  if s.flaws.contains (.c e.w.core (cKey tile row col)) then 0 else readC s e.w.core tile row col

/-- The words of a tile that have been read, by row and column: those with an error are reported, and the errors are gone. -/
def reportC (s : State) (e : Eng) (tile : Nat) (cells : List (Nat × Nat)) : State :=
  if s.flaws.isEmpty then s
  else
    let bad := cells.filter (fun x => s.flaws.contains (.c e.w.core (cKey tile x.1 x.2)))
    dropFlaws (bad.foldl (fun s x => dataError s e.w.core e.e true (tile - e.part.c0) x.1 x.2) s)
      (bad.map (fun x => Flaw.c e.w.core (cKey tile x.1 x.2)))

/-- Bytes of a source in elements of `size` bytes; an element with an uncorrectable error reads 0 and is reported (09 R238). -/
def getBytes (e : Eng) (size off n : Nat) : Act (List Byte) := do
  checkBytes e off n
  let s ← state
  let bs := readS s e.w.core e.part off n
  let bad := struckS s e off n
  if bad.isEmpty then pure bs
  else do
    let elems := (bad.map (· / size)).eraseDups
    change (fun s => reportS s e (elems.map (fun k => off + size * k)) (bad.map (off + ·)))
    pure (zeroElems size elems bs)

/-- Bytes of a source whose slots must all carry one tag (13 R339). -/
def getTagged (e : Eng) (tag : BitVec 6 × BitVec 4) (size off n : Nat) : Act (List Byte) := do
  let bs ← getBytes e size off n
  for i in slotsOf off n do
    let t ← touchTag e i
    erequire e (t == tag) .formatMismatch off
  pure bs

/-- Slots are stamped, each once in a command (13 R339). -/
def stampSlots (e : Eng) (fmt : BitVec 6) (geo : BitVec 4) (slots : List Nat) : Act Unit := do
  for i in slots do
    let _ ← touchTag e i
    let m ← cmdNow e
    if !m.stamped.contains i then
      change (fun s => setSlot s e.w.core (e.part.s0 + i)
        { slotOf s e.w.core (e.part.s0 + i) with fmt := fmt, geo := geo })
      changeCmd e (fun m => { m with stamped := m.stamped ++ [i] })

/-- Bytes of a destination, whose slots are stamped at the command's first write (13 R339). -/
def putBytes (e : Eng) (fmt : BitVec 6) (geo : BitVec 4) (off : Nat) (bs : List Byte) : Act Unit := do
  checkBytes e off bs.length
  stampSlots e fmt geo (slotsOf off bs.length)
  change (fun s => writeS s e.w.core e.part off bs)

/-- Bytes of a destination that keeps its tag. -/
def putPlain (e : Eng) (off : Nat) (bs : List Byte) : Act Unit := do
  checkBytes e off bs.length
  change (fun s => writeS s e.w.core e.part off bs)

/-! ### Checks of dispatch (13 R336) -/

/-- An S interval. -/
def sRange (lo n : Nat) (write : Bool) : Interval :=
  { inC := false, lo := lo, hi := lo + n, write := write, count := 1, size := n, step := 0 }

/-- `count` elements of `size` bytes that lie `stride` elements apart, held as elements of `held` bytes (13 R378). -/
def sElems (lo stride count size held : Nat) (write : Bool) : Interval :=
  { inC := false, lo := lo, hi := lo + (count - 1) * stride * held + held, write := write, count := count, size := size,
    step := stride * size }

/-- An interval that is held, with no access that dispatch tells. -/
def Interval.heldOnly (r : Interval) : Interval := { r with count := 0 }

/-- A range of tiles of C, in bytes of C (09 R228). -/
def cRange (tile n : Nat) (write : Bool) : Interval :=
  { inC := true, lo := 65536 * tile, hi := 65536 * (tile + n), write := write, count := 0, size := 0, step := 0 }

/-- An interval clipped to the partition's end (13 R378). -/
def clipRange (p : Part) (r : Interval) : Interval :=
  if r.inC then r else { r with hi := Nat.min r.hi (2048 * p.sn) }

/-- Step 2: bytes lie in the partition. -/
def inPart (p : Part) (off n : Nat) : Act Unit := requireOpen (off + n ≤ 2048 * p.sn) .protection

/-- Step 2: tiles lie in the partition. -/
def inTiles (p : Part) (tile n : Nat) : Act Unit := requireOpen (tile + n ≤ p.cn) .protection

/-- Step 4: the slots of an interval belong to the engines. -/
def engineOwned (w : Who) (p : Part) (off n : Nat) : Act Unit := do
  let s ← state
  requireOpen ((slotsOf off n).all (fun i => (slotOf s w.core (p.s0 + i)).owner)) .ownerViolation

/-- Step 4: the first slot of a source belongs to the engines. -/
def firstOwned (w : Who) (p : Part) (off : Nat) : Act Unit := engineOwned w p off 1

/-! ### Rings (09 R231 to R233) -/

/-- Fields of a ring descriptor (09 Table 3). -/
def ringEn (r : Word) : Bool := r.getLsbD 63
def ringNslot (r : Word) : Nat := fld r 54 9
def ringBase (r : Word) : Nat := fld r 46 8
def ringTsz (r : Word) : Nat := fld r 41 5
def ringTail (r : Word) : Nat := fld r 16 16
def ringHead (r : Word) : Nat := fld r 0 16
def ringOcc (r : Word) : Nat := (ringTail r + 65536 - ringHead r) % 65536
def ringCap (r : Word) : Nat := ringNslot r / ringTsz r

/-- The first slot of tile `k` of a ring. -/
def ringSlot (r : Word) (k : Nat) : Nat := ringBase r + ringTsz r * (k % ringCap r)

def ringOf (s : State) (c b n : Nat) : Word := sget 0 (bankOf s c b).rings n
def setRing (s : State) (c b n : Nat) (v : Word) : State :=
  updBank s c b (fun k => { k with rings := sset 0 k.rings n v })

/-- A ring with TAIL or HEAD moved on by `n` tiles. -/
def ringPushed (r : Word) (n : Nat) : Word :=
  BitVec.ofNat 64 (r.toNat / 2 ^ 32 * 2 ^ 32 + (ringTail r + n) % 65536 * 2 ^ 16 + ringHead r)
def ringPopped (r : Word) (n : Nat) : Word :=
  BitVec.ofNat 64 (r.toNat / 2 ^ 16 * 2 ^ 16 + (ringHead r + n) % 65536)

/-- A ring of a core gives up `n` tiles; the units that capture the core's ring occupancy take what it held (03 R79). -/
def popRing (s : State) (c b ring n : Nat) : State :=
  let r := ringOf s c b ring
  let s := monTake s (coreDie c) 3 (some (coreLocal c)) (BitVec.ofNat 32 (ringOcc r))
  setRing s c b ring (ringPopped r n)

/-- A ring descriptor as it reads, its reserved bits zero (09 Table 3; 00 R3). -/
def ringTaken (v : Word) : Word := v &&& ~~~0x1FF00000000

/-- The check of a bind (09 R232). -/
def bindTrap (s : State) (c : Nat) (p : Part) (r : Word) : Option Trap :=
  if !ringEn r then none
  else if ringTsz r = 0 || 16 < ringTsz r || ringNslot r = 0 || 256 < ringNslot r || ringNslot r % ringTsz r != 0 ||
      fld r 32 9 != 0 || p.sn < ringBase r + ringNslot r then some .reservedField
  else if (List.range (ringNslot r)).all (fun i => (slotOf s c (p.s0 + ringBase r + i)).owner) then none
  else some .ownerViolation

end Sys2Proof.Machine
end

