-- ==== Sys2Proof/Machine/Elements.lean ====
section
/-!
DEFINITION. Elements of engine operands by the tag of their slots (13 R340, R354 to R358): decoding from bytes, the format sets,
results under a captured mode.
-/

namespace Sys2Proof.Machine

abbrev TileTag := BitVec 6 × BitVec 4

/-- The value of element `i` of a row in a format and geometry, its bytes given by `at_`; `table` is the VQ2 lattice (10
R251 to R261). -/
def elemNum (fmt : BitVec 6) (geo : BitVec 4) (table : List Byte) (at_ : Nat → Nat) (i : Nat) : Num :=
  let p := elementPlace fmt geo i
  let scale := match p.scale with
    | some k => at_ k
    | none => 0
  if fmt = 9 then Num.ofInt (t5Digit (at_ p.byte) p.sub)
  else if fmt = 10 then
    let ix := at_ p.byte + 256 * at_ (p.byte + 1)
    vq2Weight ix (leNat ((table.drop (4 * (ix / 256))).take 4)) scale p.sub
  else if geo = 1 then
    match floatFmt fmt with
    | some f => mxDecode f scale (at_ p.byte / 2 ^ p.sub % 2 ^ f.width)
    | none => .nan
  else widen fmt ((List.range (sizeOf' fmt)).foldl (fun v k => v + at_ (p.byte + k) * 256 ^ k) 0)

/-- The numeric formats of a tag: FP32, BF16, FP16, INT8, INT32, unscaled FP8 (13 R356). -/
def isNumeric (t : TileTag) : Bool := t.2 == 0 && (t.1 == 7 || t.1 == 8 || (1 ≤ t.1.toNat && t.1.toNat ≤ 5))

/-- The move formats: the numeric ones, raw bytes and E8M0 (13 R356). -/
def isMove (t : TileTag) : Bool := isNumeric t || (t.2 == 0 && (t.1 == 0 || t.1 == 11))

/-- Raw bytes, INT8, INT32 (13 R359). -/
def isBits (t : TileTag) : Bool := t.2 == 0 && isIntFmt t.1

/-- INT8 or INT32 (13 R358). -/
def isInteger (f : BitVec 6) : Bool := f == 7 || f == 8

/-- Bytes between consecutive elements in units of one element (13 R354). -/
def strideOf (c : BitVec 3) : Nat := if c = 0 then 0 else 2 ^ (c.toNat - 1)

/-- A region of S: base, stride code (13 R354). -/
structure Region where
  base : Nat
  code : BitVec 3
deriving DecidableEq, Repr

/-- Byte offset of element `i` of `size` bytes. -/
def Region.at (r : Region) (size i : Nat) : Nat := r.base + i * strideOf r.code * size

/-- Bytes that `n` elements cover. -/
def Region.span (r : Region) (size n : Nat) : Nat := (n - 1) * strideOf r.code * size + size

/-- An integer that wraps to a format (13 R358). -/
def wrapInt (f : BitVec 6) (i : Int) : Nat := (BitVec.ofInt (intWidth f) i).toNat

/-- Result(y, F) of a value that is an exact integer (13 R358). -/
def intResult (f : BitVec 6) (x : Bool) (i : Int) : Nat := if x then satInt f i else wrapInt f i

/-- Result(y, F) of any other value: RoundToFormat with the captured mode at a destination offset. -/
def numResult (e : Eng) (f : BitVec 6) (off : Nat) (y : Num) : Nat := roundTo f (rndAt e.cmd.mode e.key off 0) y

/-- The captured rounding is RDN (10 Table 5). -/
def isRdn (e : Eng) : Bool := e.cmd.mode == 3

/-- The element size a tag gives at dispatch, 4 for a packed one and beyond the partition (log 33). -/
def sizeAt (s : State) (c : Nat) (p : Part) (off : Nat) : Nat :=
  let o := slotOf s c (p.s0 + off / 2048)
  let n := sizeOf' o.fmt
  if n = 0 || off / 2048 ≥ p.sn then 4 else n

/-- A destination element's bytes. -/
def elemBytes (f : BitVec 6) (v : Nat) : List Byte := leBytes (sizeOf' f) v

end Sys2Proof.Machine
end

