-- ==== Sys2Proof/Machine/EngineMem.lean ====
section
/-!
DEFINITION. Memory as the engines see it: translation and rights of engine operands (07 R172, R177, R178), and the sequence
table with gkv.app and v.kvroll (13 R375 to R377).
-/

namespace Sys2Proof.Machine

/-! ### Engine accesses to memory -/

/-- Descriptor KIND of an engine access (07 R180). -/
def engKind (right : Right) : BitVec 4 := if right.writes then 5 else 4

/-- The leaf of an engine operand's byte, its right checked; the owner die of a page that another die walks. `info` lays out the
trap's INFO; `q` is the queue code. -/
def engLeaf (w : Who) (q : Nat) (info : Nat → Word) (va : Nat) (right : Right) : Act (Except Nat Leaf) := do
  require (va < 2 ^ 56) .protection (info va)
  match ctxOf (← state) w.ctx with
  | none => trap .protection (info va)
  | some k =>
    let die := coreDie w.core
    match ← translate (some w.core) die (some die) w.ctx k va right with
    | .bad t => trap t (info va)
    | .miss n => throw (.miss { die := die, va := va, kind := engKind right, level := BitVec.ofNat 4 n, queue := q })
    | .remote h => pure (.error h)
    | .leaf l => do
      require (l.allows right) .protection (info va)
      pure (.ok l)

/-! ### The sequence table (13 R375) -/

/-- A byte range of the table within one sector: in the heap window or in pages of the core's die. `x` is the trap of
anything outside that rule. -/
def seqAt (w : Who) (q : Nat) (info : Nat → Word) (outside : Act Unit) (va : Nat) (right : Right) : Act Nat := do
  match ← engLeaf w q info va right with
  | .error _ => do
    outside
    pure 0
  | .ok l => do
    if !(l.heap || l.home == coreDie w.core) then outside
    waitUntil (portClear (← state) w.core (← state).nextId l.pa 32)
    pure l.pa

/-- The header of a sequence table. -/
structure SeqHead where
  nseq : Nat
  free : Nat
  cap : Nat
  cnt : Nat
deriving DecidableEq, Repr

/-- An entry. -/
structure SeqEntry where
  plist : Nat
  len : Nat
  npage : Nat
  version : Nat
deriving DecidableEq, Repr

/-- The header's reserved bytes are zero. -/
def seqHeadOk (bs : List Byte) : Bool := fieldAt bs 4 4 == 0 && (bs.drop 0x18).all (fun b => b == 0)

def seqHeadOf (bs : List Byte) : SeqHead :=
  { nseq := fieldAt bs 0 4, free := fieldAt bs 8 8, cap := fieldAt bs 0x10 4, cnt := fieldAt bs 0x14 4 }

/-- The entry's reserved bytes are zero and SPP is 64. -/
def seqEntryOk (bs : List Byte) : Bool := (bs.drop 0x14).all (fun b => b == 0) && fieldAt bs 0xC 2 == 64

def seqEntryOf (bs : List Byte) : SeqEntry :=
  { plist := fieldAt bs 0 8, len := fieldAt bs 8 4, npage := fieldAt bs 0xE 2, version := fieldAt bs 0x10 4 }

/-- The table a context names, 0 for none. -/
def seqTable (s : State) (x : Nat) : Nat :=
  match ctxOf s x with
  | some k => k.seqTab.toNat
  | none => 0

/-- ceil(n / 64). -/
def pages64 (n : Nat) : Nat := (n + 63) / 64

/-! ### gkv.app and v.kvroll (13 R376, R377) -/

/-- A gather of the die that has not retired names a page in its snapshot (13 R377). -/
def gatherNames (s : State) (die page : Nat) : Bool :=
  let names := fun (b : Bank) => (sget [] b.queues 2).any (fun m => m.kvPages.contains page)
  s.cores.any (fun c => coreDie c.1 == die &&
    (c.2.banks.any (fun b => names b.2) || c.2.streamed.any (fun e => e.saved.any names)))

/-- The task of a bank is of context `x`. -/
def bankOfCtx (s : State) (x : Nat) (t : Option Nat) : Bool := (t.bind (taskOf s)).any (fun k => k.ctx == x)

/-- Commands of context `x` that stand in queue `q` of a core: in its banks, and in what is kept of contexts streamed out. -/
def coreCmds (s : State) (c x q : Nat) : List Cmd :=
  let k := coreOf s c
  k.banks.flatMap (fun b => if bankOfCtx s x b.2.task then sget [] b.2.queues q else []) ++
    k.streamed.flatMap (fun e => if bankOfCtx s x (some e.task) then (e.saved.map (fun b => sget [] b.queues q)).getD [] else [])

/-- A gather of the same core and table that was dispatched before command `id` has not taken its snapshot (13 R377; 14 R386). -/
def snapshotDue (s : State) (c x id : Nat) : Bool :=
  (coreCmds s c x 2).any (fun m => m.raw && m.id < id && (match m.instr with
    | .xKvg _ => true
    | _ => false))

/-- Elements of an address, 8 bytes each, with a right. -/
def seqWords (w : Who) (info : Nat → Word) (outside : Act Unit) (right : Right) : List Nat → Act (List Nat)
  | [] => pure []
  | va :: r => do
    let pa ← seqAt w 2 info outside va right
    pure (pa :: (← seqWords w info outside right r))

/-- One pair: its checks in the order of R376, then its effect. -/
def seqPair (e : Eng) (roll : Bool) (off : Nat) : Act Unit := do
  let w := e.w
  let info := engAddr e
  let outside : Act Unit := etrap e .protection off
  let pair ← getBytes e 4 off 8
  let sn := (BitVec.ofNat 32 (fieldAt pair 0 4)).toInt
  let n := fieldAt pair 4 4
  let table := seqTable (← state) w.ctx
  erequire e (table != 0) .protection off
  let head ← seqAt w 2 info outside table .er
  let _ ← seqAt w 2 info outside table .ew
  let head2 ← seqAt w 2 info outside (table + 32) .er
  let hb := readBytes (← state) head 32 ++ readBytes (← state) head2 32
  erequire e (seqHeadOk hb) .reservedField off
  let h := seqHeadOf hb
  erequire e (0 ≤ sn && sn < h.nseq) .objectBounds off
  let eva := table + 0x40 + 32 * sn.toNat
  let epa ← seqAt w 2 info outside eva .er
  let _ ← seqAt w 2 info outside eva .ew
  let eb := readBytes (← state) epa 32
  erequire e (seqEntryOk eb) .reservedField off
  let q := seqEntryOf eb
  erequire e (if roll then n ≤ q.len else q.len + n ≤ 64 * q.npage) .objectBounds off
  let len := if roll then q.len - n else q.len + n
  let first := if roll then pages64 len else pages64 q.len
  let last := if roll then q.npage else pages64 len
  let js := (List.range (last - first)).map (fun i => q.plist + 8 * (first + i))
  let pas ← seqWords w info outside .er js
  let s ← state
  let touched := (js.zip pas).filter (fun x => (readWord s x.2 == 0) != roll)
  let _ ← seqWords w info outside .ew (touched.map (fun x => x.1))
  let k := touched.length
  erequire e (if roll then h.cnt + k ≤ h.cap else k ≤ h.cnt) .objectBounds off
  let cnt := if roll then h.cnt + k else h.cnt - k
  let stack := (List.range k).map (fun i => h.free + 8 * (if roll then h.cnt + i else h.cnt - 1 - i))
  let spas ← seqWords w info outside (if roll then .ew else .er) stack
  let s ← state
  let popped := if roll then [] else spas.map (fun pa => (readWord s pa).toNat)
  waitUntil (popped.all (fun p => !gatherNames s (coreDie w.core) p))
  waitUntil (!writeStalls s head 32 && !writeStalls s epa 32 && !touched.any (fun x => writeStalls s x.2 8) &&
    !(roll && spas.any (fun pa => writeStalls s pa 8)))
  change (fun s => (touched.zip spas).foldl (fun s x =>
    if roll then writeWord (writeWord s x.2 (readWord s x.1.2)) x.1.2 0 else writeWord s x.1.2 (readWord s x.2)) s)
  change (fun s => writeBytes s (head + 0x14) (leBytes 4 cnt))
  let version := if roll then q.version + 1 else q.version
  change (fun s => writeBytes s epa (leBytes 8 q.plist ++ leBytes 4 len ++ leBytes 2 64 ++ leBytes 2 q.npage ++
    leBytes 4 version ++ leBytes 12 0))

def seqSpec (roll : Bool) (v : V2Args) : CmdSpec :=
  { queue := 1
    check := fun w c => do
      let p := partOf (← state) w
      inPart p v.d.toNat 1
      requireOpen (v.d.toNat % 8 == 0) .alignment
      firstOwned w p v.d.toNat
      pure { c with ranges := [clipRange p (sElems v.d.toNat 1 v.n.toNat 8 8 false)] }
    ready := startsFreely
    micro := fun e => do
      waitUntil (!snapshotDue (← state) e.w.core e.w.ctx e.cmd.id)
      seqPair e roll (v.d.toNat + 8 * e.cmd.upc)
      changeCmd e (fun c => { c with upc := e.cmd.upc + 1 })
      pure (v.n.toNat ≤ e.cmd.upc + 1) }

/-- v.kvroll: sequences grow shorter, one pair a micro-step; their pages go back to the free stack. -/
def execVKvroll (v : V2Args) (s : State) : Host.Outcome State Fault Refusal := runCommand (.vKvroll v) (seqSpec true v) s

/-- gkv.app: sequences grow longer; missing pages come from the free stack. -/
def execGkvApp (v : V2Args) (s : State) : Host.Outcome State Fault Refusal := runCommand (.gkvApp v) (seqSpec false v) s

end Sys2Proof.Machine
end

