-- ==== Sys2Proof/Machine/Remote.lean ====
section
/-!
DEFINITION. Remote requests at their owner, responses, notices and replays (07 R183 to R193; 08 R206 to R208, R421), and the
fault tickets that the pages of a copy command draw (14 R380).
-/

namespace Sys2Proof.Machine

/-! ### The owner's side -/

/-- `a` is younger than `s0` (07 R183). -/
def younger (a s0 : BitVec 16) : Bool := 1 ≤ (a - s0).toNat && (a - s0).toNat ≤ 32767

/-- The right that a request needs, by its KIND (07 R172, Table 8). -/
def reqRight (kind : BitVec 4) : Right :=
  match kind.toNat with
  | 0 => .rd
  | 1 => .w
  | 2 => .w
  | 3 => .rdw
  | 4 => .rdw
  | 5 => .er
  | _ => .ew

/-- The descriptor KIND of a request KIND (07 R180). -/
def descKind (kind : BitVec 4) : BitVec 4 :=
  match kind.toNat with
  | 0 => 0
  | 1 => 1
  | 2 => 1
  | 3 => 2
  | 4 => 2
  | 5 => 4
  | _ => 5

/-- What an owner makes of a miss (07 R182, R186, R190). -/
inductive MissAnswer where
  | ticket (t : BitVec 16)
  | busy
  | refused
deriving DecidableEq, Repr

/-- A ticket number not open at an owner, from the next one on. -/
def freeTicketNumber (k : Die) : BitVec 16 :=
  let used := k.windows.map (fun w => w.ticket)
  ((List.range 1025).map (fun n => k.nextTicket + BitVec.ofNat 16 n)).find? (fun t => !used.contains t) |>.getD 0

/-- A page missed under a window gets its own descriptor (07 R186). -/
def joinPage (s : State) (d : Nat) (w : Window) (va : Nat) (kind level : BitVec 4) : State :=
  let known := match findDesc s d w.ctx va with
    | some e => w.pages.contains e.id
    | none => false
  if known then s
  else
    let r := joinDesc s d w.ctx va (descKind kind) level w.req true w.ticket (.window w.req w.ctx w.cls)
    setWindow r.1 d { w with pages := w.pages ++ [r.2] }

/-- A request misses at its owner: it joins the window of its key or opens one. One that is older than the window's s0 takes its place
there: the key has one window, and requests younger than this one are ticketed too (07 R186, R187; log 47). -/
def ownerMiss (d req x : Nat) (cls : BitVec 4) (seq : BitVec 16) (va : Nat) (kind level : BitVec 4) :
    Act MissAnswer := do
  let s ← state
  if !keeperOn s d then pure .refused
  else
    match windowOf s d req x cls with
    | some w => do
      let w := if younger w.s0 seq then { w with s0 := seq } else w
      change (fun s => joinPage (setWindow s d w) d w va kind level)
      pure (.ticket w.ticket)
    | none =>
      if 1024 ≤ (dieOf s d).windows.length then pure .busy
      else do
        let t := freeTicketNumber (dieOf s d)
        let w : Window := { req := req, ctx := x, cls := cls, ticket := t, s0 := seq, pages := [], refused := none }
        change (fun s => updDie s d (fun k => { k with windows := k.windows ++ [w], nextTicket := t + 1 }))
        change (fun s => joinPage s d w va kind level)
        pure (.ticket t)

/-- The window of a key closes (07 R188 step 5). -/
def closeTicketWindow (s : State) (d req x : Nat) (cls : BitVec 4) : State :=
  updDie s d (fun k => { k with windows := k.windows.filter (fun w => !(w.req == req && w.ctx == x && w.cls == cls)) })

/-- Every route's arrival count has reached what the stf carries (08 R206). -/
def countsReached (s : State) (r : Request) : Bool :=
  (List.range 4).all (fun i =>
    (sget 0 (dieOf s r.owner).arr (arrivalKey r.req r.acc.ctx r.acc.cls i) - r.cnt.getD i 0).toNat < 2 ^ 15)

/-- A response on its way. -/
def respond (s : State) (r : Request) (status : BitVec 2) (ticket : BitVec 16) (code : Option Trap) (data : List Byte) :
    State :=
  let a : Response :=
    { req := r.req, bank := r.bank, ctx := r.acc.ctx, owner := r.owner, entry := r.entry, cls := r.acc.cls, seq := r.seq,
      status := status, ticket := ticket, code := code, data := data, final := r.final, route := 0 }
  postResponse s a

/-- The ticket entry of a request or response still stands in its core's table. -/
def entryStands (s : State) (c b n x owner : Nat) (cls : BitVec 4) (seq : BitVec 16) : Bool :=
  match aget (bankOf s c b).tickets n with
  | some t => t.owner.toNat == owner && t.acc.ctx == x && t.acc.cls == cls && t.seq == seq
  | none => false

def requestStands (s : State) (r : Request) : Bool :=
  entryStands s r.req r.bank r.entry r.acc.ctx r.owner r.acc.cls r.seq

/-- A request whose access has its physical address performs at the owner, is counted, and is answered; the FINAL one closes
its window (07 R188, 08 R206). A write to a granule pending for a checkpoint stalls (04 R102). -/
def performRequest (r : Request) : Act Unit := do
  let s ← state
  waitUntil (!((r.acc.kind.isWrite || r.kind == 6) && writeStalls s r.acc.pa r.acc.len))
  if (r.acc.kind == .atomic || r.acc.kind == .casSec) && requestStands s r then atomicTurn r.req r.bank r.acc
  let out := performAccess (← state) r.acc
  set out.1
  if 1 ≤ r.kind.toNat && r.kind.toNat ≤ 4 then
    let key := arrivalKey r.req r.acc.ctx r.acc.cls r.orte.toNat
    change (fun s => updDie s r.owner (fun k => { k with arr := supd 0 k.arr key (· + 1) }))
  if r.final then change (fun s => closeTicketWindow s r.owner r.req r.acc.ctx r.acc.cls)
  change (fun s => respond s r 0 0 none out.2)

/-- An atomic or sector compare-and-swap may not go to the pool, and only some to the host (12 R324). -/
def ownerAtomicOk (r : Request) : Bool :=
  match r.acc.kind with
  | .atomic => r.acc.target != .pool && (r.acc.target != .host || r.acc.aop == 0 || r.acc.aop == 4 || r.acc.aop == 7)
  | .casSec => r.acc.target != .pool && r.acc.target != .host
  | _ => true

/-- An earlier write of an stf's class to its target, host or pool, has not been acknowledged (08 R209). -/
def earlierWrites (s : State) (c b : Nat) (v : Access) : Bool :=
  let k := bankOf s c b
  k.inflight.any (fun e => e.id < v.id && stfWaits (seen s e) v) ||
    k.tickets.any (fun e => e.2.acc.id < v.id && stfWaits (seen s e.2.acc) v)

/-- A request translated at its owner. An stf that must wait for its counts is held while its task stands (08 R206, R208); one that its
page takes to host or pool memory waits for the writes before it (08 R209). -/
def arriveAt (r : Request) (l : Leaf) : Act Unit := do
  let a := { r.acc with pa := l.pa, target := leafTarget l }
  let r := { r with acc := a }
  if !l.allows (reqRight r.kind) || !ownerAtomicOk r then change (fun s => respond s r 3 0 (some .protection) [])
  else if r.kind == 5 || r.kind == 6 then
    if r.final then change (fun s => closeTicketWindow s r.owner r.req r.acc.ctx r.acc.cls)
    change (fun s => respond s r 0 0 none [])
  else if r.kind == 2 && a.target.isDie && !countsReached (← state) r then
    if !requestStands (← state) r then pure ()
    else if 256 ≤ (dieOf (← state) r.owner).heldStf.length then change (fun s => respond s r 2 0 none [])
    else change (fun s => updDie s r.owner (fun k => { k with heldStf := k.heldStf ++ [r] }))
  else do
    if r.kind == 2 && !a.target.isDie then waitUntil (!earlierWrites (← state) r.req r.bank a)
    performRequest r

/-- A sector that a copy reads or writes, whose page was translated at dispatch (07 R193; 14 R380). -/
def Request.isSector (r : Request) : Bool := (r.kind == 5 || r.kind == 6) && r.acc.len != 0

/-- The translation of an access that was issued before some decoders' EN was cleared: those still take it (07 R164). -/
def issuedAt (id : Nat) (act : Act Xlat) : Act Xlat := do
  let drains := (← state).host.poolDrain
  change (fun s => { s with host := { s.host with poolDrain := drains.filter (fun e => e.2.1 ≤ id) } })
  let r ← act
  change (fun s => { s with host := { s.host with poolDrain := drains } })
  pure r

/-- A remote request arrives at its owner (07 R186, R187, R190). -/
def ownerArrival (r : Request) : Act Unit := do
  let s ← state
  let x := r.acc.ctx
  match ctxOf s x with
  | none => pure ()
  | some k =>
    if r.kind == 7 then do
      change (fun s => closeTicketWindow s r.owner r.req x r.acc.cls)
      change (fun s => respond s r 0 0 none [])
    else do
      let w := windowOf s r.owner r.req x r.acc.cls
      let young := !r.replay && w.any (fun w => younger r.seq w.s0)
      if r.isSector then
        if young then change (fun s => respond s r 1 ((w.map (fun w => w.ticket)).getD 0) none [])
        else performRequest r
        return
      let t ← issuedAt r.acc.id (translate none r.owner none x k r.acc.va (reqRight r.kind))
      if young then change (fun q => { s with fresh := q.fresh })
      let ticket := (w.map (fun w => w.ticket)).getD 0
      match t with
      | .miss n =>
        if requestStands s r then
          match ← ownerMiss r.owner r.req x r.acc.cls r.seq r.acc.va r.kind (BitVec.ofNat 4 n) with
          | .ticket t => change (fun s => respond s r 1 t none [])
          | .busy => change (fun s => respond s r 2 0 none [])
          | .refused => change (fun s => respond s r 3 0 (some .translation) [])
      | .bad t => change (fun s => if young then respond s r 1 ticket none [] else respond s r 3 0 (some t) [])
      | .remote _ => cannot "the owner walks its pages"
      | .leaf l => if young then change (fun s => respond s r 1 ticket none []) else arriveAt r l

/-- The k-th request in flight reaches its owner. -/
def execRemoteRequest (k : Nat) (s : State) : Host.Outcome State Fault Refusal :=
  asStep (do
    let s ← state
    match s.net.reqs[k]? with
    | none => cannot "no such request is in flight"
    | some r => do
      ownerArrival r
      change (fun s => { s with net := { s.net with reqs := removeAt s.net.reqs k } })) s

/-- A held stf performs once its counts are reached (08 R206). -/
def execStfHeldPerform (die : BitVec 2) (k : Nat) (s : State) : Host.Outcome State Fault Refusal :=
  asStep (do
    let d := die.toNat
    let s ← state
    match (dieOf s d).heldStf[k]? with
    | none => cannot "no such stf is held"
    | some r => do
      waitUntil (countsReached s r)
      performRequest r
      change (fun s => updDie s d (fun q => { q with heldStf := removeAt q.heldStf k }))) s

/-! ### The requester's side -/

/-- The queued copy command that a fault ticket of its page belongs to (14 R380). -/
def ticketCmd (k : Bank) (t : Ticket) : Option Cmd :=
  if t.kind == 5 || t.kind == 6 then (sget [] k.queues 2).find? (fun m => m.id == t.acc.id && t.acc.id != 0) else none

/-- A trap that ends the task of a parked or answered access at its next instruction boundary (07 R182, R190); for a copy
command it is the engine's (14 R380). -/
def ticketTrap (k : Bank) (t : Ticket) (code : Trap) : PendTrap :=
  match ticketCmd k t with
  | some m =>
    { src := .engine, code := code, info := some (BitVec.ofNat 64 (3 * 2 ^ 60 + t.acc.va)), pc := if m.starter then 0 else m.pc,
      miss := none }
  | none => { src := .remote, code := code, info := some (BitVec.ofNat 64 t.acc.va), pc := k.regs.pc, miss := none }

/-- The command a ticket belongs to runs no further micro-step. -/
def haltTicketCmd (k : Bank) (t : Ticket) : Bank :=
  match ticketCmd k t with
  | some m =>
    { k with queues := supd [] k.queues 2 (fun l => l.map (fun q => if q.id = m.id then { q with halted := true } else q)) }
  | none => k

def refuseTicket (k : Bank) (t : Ticket) (code : Trap) : Bank :=
  { haltTicketCmd k t with pend := k.pend ++ [ticketTrap k t code] }

/-- The holds of a key on a core change. -/
def updHolds (s : State) (c x owner : Nat) (cls : BitVec 4) (f : Hold → Option Hold) : State :=
  updCore s c (fun k =>
    { k with holds := k.holds.filterMap (fun h => if h.ctx == x && h.owner == owner && h.cls == cls then f h else some h) })

/-- An access draws a ticket (07 R188 step 1); its entry is parked, or noticed when the notice has come already. -/
def parkEntry (s : State) (c b n : Nat) (t : Ticket) (ticket : BitVec 16) : State :=
  let owner := t.owner.toNat
  let key := fun (h : Hold) => h.owner == owner && h.cls == t.acc.cls
  let s := if t.replaying then updHolds s c t.acc.ctx owner t.acc.cls (fun h =>
    some { h with noticed := false, finalSent := false }) else s
  let noticed := (holdsOf s c t.acc.ctx).any (fun h => key h && h.noticed)
  let entry := { t with ticket := ticket, state := if noticed then 3 else 2, replaying := false, busy := false }
  let h : Hold :=
    { ctx := t.acc.ctx, owner := owner, cls := t.acc.cls, ticket := ticket, noticed := noticed, finalSent := false }
  let s := updBank s c b (fun k => { k with tickets := aset k.tickets n entry })
  updCore s c (fun k =>
    { k with holds := if k.holds.any (fun h => h.ctx == t.acc.ctx && key h) then k.holds else k.holds ++ [h] })

/-- The answer to a sector of a copy reaches its command (14 R393). -/
def returnSector (k : Bank) (a : Access) (bs : List Byte) : Bank :=
  let f := fun (m : Cmd) =>
    if m.id = a.id then { m with asked := m.asked.erase (a.va / 32), got := m.got ++ [(a.va / 32, bs)] } else m
  { k with queues := supd [] k.queues 2 (fun l => l.map f) }

/-- A response reaches its core (07 R184, R188, R190); the wait of a load is sampled (03 R79). -/
def responseArrival (a : Response) : Act Unit := do
  let c := a.req
  let b := a.bank
  if a.final && a.status = 0 then change (fun s => updHolds s c a.ctx a.owner a.cls (fun _ => none))
  let s ← state
  if entryStands s c b a.entry a.ctx a.owner a.cls a.seq then
    match aget (bankOf s c b).tickets a.entry with
    | none => pure ()
    | some t =>
      match a.status.toNat with
      | 0 => do
        change (fun s => updBank s c b (fun k => { k with tickets := adel k.tickets a.entry }))
        if t.kind == 0 then change (fun s => monFree s (coreDie c) 1 (some (coreLocal c)))
        if !t.disc && (t.kind == 0 || t.kind == 3 || t.kind == 4) then change (fun s => returnBytes s c b t.acc a.data)
        else if !t.disc && t.acc.len != 0 && (t.kind == 5 || t.kind == 6) then
          change (fun s => updBank s c b (fun k => returnSector k t.acc a.data))
        else if t.disc then
          change (fun s => updBank s c b (fun k => { k with loads := k.loads.filter (fun l => l.id != t.acc.id || l.dest != .none) }))
      | 1 => change (fun s => parkEntry s c b a.entry t a.ticket)
      | 2 => change (fun s => updBank s c b (fun k => { k with tickets := aset k.tickets a.entry { t with busy := true } }))
      | _ => change (fun s => updBank s c b (fun k => refuseTicket k t (a.code.getD .protection)))
  for b in List.range bankCount do pump c b

def execRemoteResponse (k : Nat) (s : State) : Host.Outcome State Fault Refusal :=
  asStep (do
    let s ← state
    match s.net.resps[k]? with
    | none => cannot "no such response is in flight"
    | some a => do
      change (fun s => { s with net := { s.net with resps := removeAt s.net.resps k } })
      responseArrival a) s

/-- The request of a ticket entry, as it leaves again (08 R421). -/
def requestOf (c b n : Nat) (t : Ticket) (replay final : Bool) : Request :=
  { kind := t.kind, req := c, bank := b, owner := t.owner.toNat, entry := n, seq := t.seq, acc := t.acc, replay := replay,
    final := final, route := 0, orte := t.orte, cnt := t.cnt }

/-- A request answered with STATUS 2 leaves again (07 R190); k is 96 x core + 32 x bank + entry. -/
def execRemoteResend (k : Nat) (s : State) : Host.Outcome State Fault Refusal :=
  asStep (do
    let c := k / 96
    let b := k % 96 / 32
    let n := k % 32
    let s ← state
    match aget (bankOf s c b).tickets n with
    | none => cannot "no such entry"
    | some t => do
      needs t.busy "the request was not answered busy"
      let r := requestOf c b n t t.replaying
        (t.replaying && (holdsOf s c t.acc.ctx).any (fun h => h.owner == t.owner.toNat && h.cls == t.acc.cls && h.finalSent))
      change (fun s => updBank s c b (fun q => { q with tickets := aset q.tickets n { t with busy := false } }))
      change (fun s => postRequest s false r)) s

/-- A notice marks the entries of its ticket noticed, or ends their tasks (07 R182, R188, R191). -/
def noticeBank (n : Notice) (k : Bank) : Bank :=
  let mine := fun (t : Ticket) =>
    t.acc.ctx == n.ctx && t.owner.toNat == n.owner && t.acc.cls == n.cls && t.state == 2 && t.ticket == n.ticket
  match n.refused with
  | none =>
    { k with tickets := k.tickets.map (fun e => if mine e.2 then (e.1, { e.2 with state := 3 }) else e) }
  | some code => (k.tickets.filter (fun e => mine e.2)).foldl (fun k e => refuseTicket k e.2 code) k

/-- Bits of the block's ticket entry: <109:108> STATE (07 Table 9). -/
def noticeBlockEntry (s : State) (pa : Nat) (n : Notice) : State :=
  let w := readWord s (pa + 8)
  let same := fld w 48 16 == n.ticket.toNat && fld w 46 2 == n.owner && fld w 44 2 == 2 && fld w 23 4 == n.cls.toNat
  if same then writeWord s (pa + 8) (w ||| BitVec.ofNat 64 (3 * 2 ^ 44)) else s

/-- A streamed-out context takes a notice in its saved block (07 R191). -/
def noticeStreamed (n : Notice) (s : State) (e : Streamed) : State :=
  match taskOf s e.task with
  | none => s
  | some t =>
    if t.ctx != n.ctx then s
    else
      let base := switchPos s n.req e.pos + 0x980
      let s := match n.refused with
        | none => (List.range 32).foldl (fun s i => noticeBlockEntry s (base + 16 * i) n) s
        | some _ => s
      let saved := e.saved.map (noticeBank n)
      let more := match n.refused with
        | none => []
        | some _ => ((saved.map (fun k => k.pend)).getD []).drop ((e.saved.map (fun k => k.pend.length)).getD 0)
      updCore s n.req (fun q => { q with streamed := q.streamed.map (fun o =>
        if o.task = e.task then { o with saved := saved, pend := o.pend ++ more } else o) })

/-- The k-th notice reaches its core. -/
def execReplayNotice (k : Nat) (s : State) : Host.Outcome State Fault Refusal :=
  asStep (do
    let s ← state
    match s.net.notices[k]? with
    | none => cannot "no such notice is in flight"
    | some n => do
      change (fun s => { s with net := { s.net with notices := removeAt s.net.notices k } })
      change (fun s => (List.range bankCount).foldl (fun s b => updBank s n.req b (noticeBank n)) s)
      if n.refused.isNone then
        change (fun s => updHolds s n.req n.ctx n.owner n.cls (fun h => some { h with noticed := true }))
      change (fun s => ((coreOf s n.req).streamed).foldl (noticeStreamed n) s)) s

/-- The entries of a key on a core, its streamed-out contexts' among them. -/
def keyEntries (s : State) (c x owner : Nat) (cls : BitVec 4) : List Ticket :=
  (coreTickets s c).filter (fun t => t.acc.ctx == x && t.owner.toNat == owner && t.acc.cls == cls)

/-- Replays run on a core while a task of their context runs there (07 R191). -/
def contextRuns (s : State) (c x : Nat) : Bool :=
  enginesRun s && (match whoRuns s c with
    | some w => w.ctx == x
    | none => false)

/-- A parked access is replayed (07 R188): noticed, the oldest of its key, after the one before it has performed and every
older request of the key has its response. The last one carries FINAL when none of the key is in flight. -/
def replayEntry (c b n : Nat) (t : Ticket) : Act Unit := do
  let s ← state
  let owner := t.owner.toNat
  let others := (keyEntries s c t.acc.ctx owner t.acc.cls).filter (fun e => e.seq != t.seq)
  let older := fun (o : Ticket) => younger t.seq o.seq
  needs (t.state == 3) "the entry is not noticed"
  needs (contextRuns s c t.acc.ctx) "the context does not run"
  needs (!others.any (fun e => e.replaying || older e)) "an older request has not performed"
  waitUntil (!earlierWrites s c b (seen s t.acc))
  let final := others.isEmpty
  let r := requestOf c b n t true final
  if final then change (fun s => updHolds s c t.acc.ctx owner t.acc.cls (fun h => some { h with finalSent := true }))
  change (fun s => updBank s c b (fun k => { k with tickets := aset k.tickets n { t with state := 1, replaying := true } }))
  change (fun s => postRequest s false r)

/-- A close request carries FINAL when no replay is left to carry it (07 R188 step 4). -/
def closeKey (c owner : Nat) (cls : BitVec 4) (h : Hold) : Act Unit := do
  let s ← state
  needs (h.noticed && !h.finalSent) "the window is not to be closed"
  needs (enginesRun s && (keyEntries s c h.ctx owner cls).isEmpty) "an access of the key has not performed"
  let a := placeRemote 0 .load cls h.ctx ⟨0, 0, 0⟩ owner
  let r : Request :=
    { kind := 7, req := c, bank := 0, owner := owner, entry := 32, seq := 0, acc := a, replay := true, final := true, route := 0, orte := 0,
      cnt := [] }
  change (fun s => updHolds s c h.ctx owner cls (fun h => some { h with finalSent := true }))
  change (fun s => postRequest s false r)

/-- TICKET_REPLAY: below 96, k is 32 x bank + entry of a replay; from 96 on, k - 96 is 64 x context + 4 x class + owner of a
window to be closed. -/
def execTicketReplay (core : BitVec 8) (k : Nat) (s : State) : Host.Outcome State Fault Refusal :=
  asStep (do
    let c := core.toNat
    let s ← state
    if k < 96 then
      match aget (bankOf s c (k / 32)).tickets (k % 32) with
      | none => cannot "no such entry"
      | some t => replayEntry c (k / 32) (k % 32) t
    else
      let j := k - 96
      let owner := j % 4
      let cls := BitVec.ofNat 4 (j % 64 / 4)
      match (holdsOf s c (j / 64)).find? (fun h => h.owner == owner && h.cls == cls) with
      | none => cannot "no such window"
      | some h => closeKey c owner cls h) s

/-! ### Fault tickets of a copy command's pages (14 R380, 07 R193) -/

/-- The ticket of a context's key is open, as its core knows it. -/
def keyHeld (s : State) (c x owner : Nat) (cls : BitVec 4) : Bool :=
  (holdsOf s c x).any (fun h => h.owner == owner && h.cls == cls)

/-- A copy of a queue has pieces of a key, class and owner, to number (07 R183). -/
def unnumbered (q : List Cmd) (cls : BitVec 4) (owner : Nat) : Bool :=
  q.any (fun m => m.cls == some cls && m.seqs.isNone && m.pages.any (fun p => p.remote && p.home == owner))

/-- The commands of a bank's copy queue before the one with number `id`, all of them for 0. -/
def copiesBefore (s : State) (c b id : Nat) : List Cmd :=
  (sget [] (bankOf s c b).queues 2).takeWhile (fun m => id == 0 || m.id != id)

/-- A page of a copy missed at its owner: a parked entry of the table stands for it, once the pieces of earlier copies have their
numbers (07 R183; log 85). `id` is the command's number, 0 while the command has not entered its queue. -/
def parkPage (w : Who) (id : Nat) (cls : BitVec 4) (owner va : Nat) (write : Bool) (level : Nat) : Act Unit := do
  let s ← state
  let k := bankOf s w.core w.bank
  let kind : BitVec 4 := if write then 6 else 5
  if unnumbered (copiesBefore s w.core w.bank id) cls owner then return
  match freeTicket k with
  | none => waitHere
  | some n => do
    let seq := sget 0 (coreOf s w.core).seqN (remoteKey w.ctx cls owner)
    match ← ownerMiss owner w.core w.ctx cls seq va kind (BitVec.ofNat 4 level) with
    | .busy => waitHere
    | .refused => trap .translation (BitVec.ofNat 64 va)
    | .ticket ticket => do
      let a := placeRemote id .load cls w.ctx ⟨0, va, 0⟩ owner
      let t : Ticket :=
        { ticket := ticket, owner := BitVec.ofNat 2 owner, state := 2, disc := false, seq := seq, kind := kind,
          acc := a, orte := 0, cnt := [], replaying := false, busy := false }
      let _ ← takeSeqs w.core w.ctx owner cls 1
      change (fun s => parkEntry s w.core w.bank n t ticket)

/-- The owner's translation of a remote page for a copy: the leaf, or none where it has drawn a ticket or is to ask again. -/
def ownerLeaf (w : Who) (id : Nat) (cls : BitVec 4) (owner va : Nat) (right : Right) (info : Word) : Act (Option Leaf) := do
  match ctxOf (← state) w.ctx with
  | none => trap .protection info
  | some k =>
    match ← translate none owner none w.ctx k va right with
    | .bad t => trap t info
    | .remote _ => trap .protection info
    | .miss n => do
      parkPage w id cls owner va right.writes n
      pure none
    | .leaf l => do
      require (l.allows right) .protection info
      pure (some l)

end Sys2Proof.Machine
end

