-- ==== Sys2Proof/Machine/CopyWindow.lean ====
section
/-!
DEFINITION. Object entries and copy windows (03 R72 to R74; 14 R382, R383): where each element of a window lies in memory and in
S, micro-step by micro-step.
-/

namespace Sys2Proof.Machine

/-! ### Object entries (03 R72, R73) -/

/-- An object-table entry. -/
structure Obj where
  base : Nat
  fmt : Nat
  rank : Nat
  rights : Nat
  fill : Nat
  swz : Nat
  ext : List Nat
  stride : List Int
  win : List Nat
deriving DecidableEq, Repr

/-- Bits of an entry as a number. -/
def bitsAt (n lo k : Nat) : Nat := n / 2 ^ lo % 2 ^ k

/-- The fields of an entry given as a number of 768 bits (03 Table 6a). -/
def objOf (n : Nat) : Obj :=
  { base := bitsAt n 0 64, fmt := bitsAt n 64 8, rank := bitsAt n 72 3, rights := bitsAt n 75 5, fill := bitsAt n 80 16,
    swz := bitsAt n 96 32, ext := (List.range 6).map (fun d => bitsAt n (128 + 32 * d) 32),
    stride := (List.range 6).map (fun d => (BitVec.ofNat 40 (bitsAt n (320 + 40 * d) 40)).toInt),
    win := (List.range 6).map (fun d => bitsAt n (560 + 16 * d) 16) }

/-- The number of an entry's twelve words. -/
def wordsNat (ws : List Word) : Nat := ws.foldr (fun w n => w.toNat + 2 ^ 64 * n) 0

/-- A packed object: FP4, VQ2, T5, or E4M3 and E5M2 with GEO 0x1 (03 R73, 10 R258). -/
def isPacked (fmt : BitVec 6) (geo : BitVec 4) : Bool := fmt == 9 || geo == 1

/-- Step 3 of 03 R73 for dimension 0 of a packed object of a format. -/
def packedDimOk (o : Obj) (fmt : Nat) : Bool :=
  let m := if fmt = 9 then 5 else 32
  o.ext.getD 0 0 % m == 0 && o.stride.getD 0 0 == 0

/-- Steps 2 and 3 of 03 R73. -/
def objFieldsOk (n : Nat) (o : Obj) : Bool :=
  bitsAt n 656 112 == 0 && o.fmt < 64 && o.rank != 0 && o.rank != 7 &&
    (List.range 6).all (fun d =>
      if d < o.rank then o.win.getD d 0 != 0
      else o.ext.getD d 0 == 0 && o.stride.getD d 0 == 0 && o.win.getD d 0 == 0) &&
    (!(o.fmt == 6 || o.fmt == 10 || o.fmt == 9) || packedDimOk o o.fmt)

/-- A use of object `idx` that needs a right, given by its bit from 75 (03 R73 steps 1 to 4); the twelve words. -/
def readObj (w : Who) (idx right : Nat) : Act (List Word) := do
  let info := BitVec.ofNat 64 idx
  match ctxOf (← state) w.ctx with
  | none => trap .objectBounds info
  | some k =>
    require (idx != 0 && idx < k.objCnt) .objectBounds info
    let bs ← reachBytes w (k.objBase + BitVec.ofNat 64 (96 * idx)) 96 0 .rd
    let n := leNat bs
    let o := objOf n
    require (objFieldsOk n o) .reservedField info
    require (o.rights.testBit right) .objectRights info
    pure ((List.range 12).map (fun i => leWord ((bs.drop (8 * i)).take 8)))

/-- The fill value in a format (03 R74). -/
def fillBytes (fmt : BitVec 6) (fill : Nat) : List Byte :=
  if fmt = 1 then leBytes 4 (fill * 2 ^ 16)
  else if fmt = 8 then leBytes 4 (sext 16 fill).toNat
  else leBytes (sizeOf' fmt) fill

/-! ### Windows (14 R382) -/

/-- Window positions: NW. -/
def windowSize (o : Obj) : Nat := (o.win.take o.rank).foldl (· * ·) 1

/-- The window's S size WB. -/
def windowBytes (fmt : BitVec 6) (geo : BitVec 4) (nw : Nat) : Nat :=
  if fmt = 9 then (nw + 4) / 5
  else if geo = 1 then
    let per := 32 * (mxBlocks fmt).1
    2048 * ((nw + per - 1) / per)
  else nw * sizeOf' fmt

/-- The source index of flat position `n` in each dimension. -/
def windowIndex : List Nat → List Nat → Nat → List Nat
  | w :: ws, g :: gs, n => (g + n % w) :: windowIndex ws gs (n / w)
  | _, _, _ => []

/-- Every index lies within its extent. -/
def indexInside (ext idx : List Nat) : Bool := (idx.zip ext).all (fun p => p.1 < p.2)

/-- Base plus strides, from dimension `d` on (03 R74). -/
def indexAddress (base : Nat) (stride : List Int) (idx : List Nat) : Nat :=
  (((base : Int) + (idx.zip stride).foldl (fun a p => a + (p.1 : Int) * p.2) 0) % (2 ^ 64 : Int)).toNat

/-- The address of a row: dimension 0 apart (10 R259). -/
def rowAddress (base : Nat) (stride : List Int) (idx : List Nat) : Nat :=
  indexAddress base (stride.drop 1) (idx.drop 1)

/-- The address of an element: in a packed format that of the byte, or block of bytes, that holds it (10 R259). -/
def elementAddress (o : Obj) (fmt : BitVec 6) (geo : BitVec 4) (base : Nat) (org : List Nat) : Nat :=
  if fmt = 9 then rowAddress base o.stride org + org.headD 0 / 5
  else if geo = 1 then
    let (nb, db) := mxBlocks fmt
    let blk := org.headD 0 / 32
    rowAddress base o.stride org + 2048 * (blk / nb) + db * (blk % nb)
  else indexAddress base o.stride org

/-- The address whose page step 4 of 14 R380 translates. Where the object's FMT leaves open whether its elements are packed, the page
of their row's start shows it (log 73). -/
def firstAddress (s : State) (x : Nat) (o : Obj) (base : Nat) (org : List Nat) : Nat :=
  if o.fmt == 6 || o.fmt == 10 then elementAddress o (BitVec.ofNat 6 o.fmt) 1 base org
  else if o.fmt == 9 then elementAddress o 9 0 base org
  else if o.stride.headD 0 != 0 then indexAddress base o.stride org
  else
    match (ctxOf s x).bind (fun k => peekLeaf s k (rowAddress base o.stride org)) with
    | some l => elementAddress o l.fmt l.geo base org
    | none => indexAddress base o.stride org

/-- A run of bytes of a micro-step: its place in the 2,048-byte image, its length, its address in memory (none beyond the
ragged edge), what it reads there, and for T5 its digit in the image byte and in memory's byte. -/
structure Cell where
  at_ : Nat
  len : Nat
  va : Option Nat
  fill : List Byte
  digit : Nat
  memDigit : Nat
deriving DecidableEq, Repr

/-- A copy of windows: the object, the format and geometry, images of WB bytes each. -/
structure Job where
  o : Obj
  fmt : BitVec 6
  geo : BitVec 4
  nw : Nat
  wb : Nat
  count : Nat
  /-- the ragged edge reads the fill value (loads, x.fill) -/
  fill : List Byte
deriving DecidableEq, Repr

/-- Where image `g` of a job starts: base and origins; none where the whole image lies beyond the edge. -/
abbrev Origins := Nat → Option (Nat × List Nat)

def jobOf (o : Obj) (fmt : BitVec 6) (geo : BitVec 4) (count : Nat) : Job :=
  let nw := windowSize o
  { o := o, fmt := fmt, geo := geo, nw := nw, wb := windowBytes fmt geo nw, count := count, fill := fillBytes fmt o.fill }

/-- Micro-steps of 2,048 bytes (14 R393). -/
def Job.steps (j : Job) : Nat := (j.wb * j.count + 2047) / 2048

/-- Position `n` of image `g`: base and index, when it lies within the extents. -/
def positionOf (j : Job) (org : Origins) (g n : Nat) : Option (Nat × List Nat) :=
  match org g with
  | none => none
  | some (base, orgs) =>
    let idx := windowIndex (j.o.win.take j.o.rank) orgs n
    if indexInside j.o.ext idx then some (base, idx) else none

/-- Cells of micro-step `u` in a linear format: one an element. -/
def linearCells (j : Job) (org : Origins) (u : Nat) : List Cell :=
  let size := sizeOf' j.fmt
  let first := 2048 * u / size
  let n := Nat.min (2048 / size) (j.nw * j.count - first)
  (List.range n).map (fun i =>
    let e := first + i
    { at_ := i * size, len := size,
      va := (positionOf j org (e / j.nw) (e % j.nw)).map (fun p => indexAddress p.1 j.o.stride p.2),
      fill := j.fill, digit := 0, memDigit := 0 })

/-- Cells of a block unit: the data and the scale of each block, then the pad bytes (10 R257). -/
def blockCells (j : Job) (org : Origins) (u : Nat) : List Cell :=
  let (nb, db) := mxBlocks j.fmt
  let units := j.wb / 2048
  let g := u / units
  let blocks := (List.range nb).filter (fun b => 32 * (u % units * nb + b) < j.nw)
  let cells := blocks.flatMap (fun b =>
    let p := positionOf j org g (32 * (u % units * nb + b))
    let place := fun (scale : Bool) => p.map (fun p =>
      let blk := p.2.headD 0 / 32
      let unit := rowAddress p.1 j.o.stride p.2 + 2048 * (blk / nb)
      if scale then unit + nb * db + blk % nb else unit + db * (blk % nb))
    [{ at_ := db * b, len := db, va := place false, fill := List.replicate db 0, digit := 0, memDigit := 0 },
     { at_ := nb * db + b, len := 1, va := place true, fill := [0], digit := 0, memDigit := 0 }])
  let pad := nb * db + nb
  cells ++ [{ at_ := pad, len := 2048 - pad, va := none, fill := List.replicate (2048 - pad) 0, digit := 0, memDigit := 0 }]

/-- Cells of a T5 window: one a digit. -/
def ternaryCells (j : Job) (org : Origins) (u : Nat) : List Cell :=
  let n := Nat.min 2048 (j.wb * j.count - 2048 * u)
  (List.range n).flatMap (fun i =>
    let m := 2048 * u + i
    ((List.range 5).filter (fun d => 5 * (m % j.wb) + d < j.nw)).map (fun d =>
      let p := positionOf j org (m / j.wb) (5 * (m % j.wb) + d)
      { at_ := i, len := 1, va := p.map (fun p => rowAddress p.1 j.o.stride p.2 + p.2.headD 0 / 5), fill := [0], digit := d,
        memDigit := (p.map (fun p => p.2.headD 0 % 5)).getD 0 }))

/-- The cells of micro-step `u`. -/
def cellsOf (j : Job) (org : Origins) (u : Nat) : List Cell :=
  if j.fmt = 9 then ternaryCells j org u
  else if j.geo = 1 then blockCells j org u
  else linearCells j org u

/-- The rows that a block window touches, for the alignment check of 10 R259. -/
def blockRows (j : Job) (org : Origins) : List Nat :=
  (List.range j.count).flatMap (fun g =>
    ((List.range (j.nw / 32)).filterMap (fun b => (positionOf j org g (32 * b)).map (fun p => rowAddress p.1 j.o.stride p.2))))

/-! ### The swizzle (14 R383) -/

def swzMode (n : Nat) : Nat := bitsAt n 30 2
def swzUnit (n : Nat) : Nat := bitsAt n 27 3 + 4
def swzRow (n : Nat) : Nat := bitsAt n 24 3 + 8

/-- The code is legal for a window. -/
def swzOk (n : Nat) (packed : Bool) (wb : Nat) : Bool :=
  swzMode n ≤ 1 && swzUnit n ≤ 7 && swzRow n ≤ 11 && bitsAt n 0 24 == 0 &&
    (swzMode n == 0 || (!packed && wb % 2 ^ swzRow n == 0))

/-- Where byte offset `o` of the S operand moves to. -/
def swzOff (n o : Nat) : Nat :=
  if swzMode n = 0 then o
  else
    let u := swzUnit n
    let w := swzRow n
    let m := 2 ^ (w - u)
    let x := o / 2 ^ u % m
    let y := x ^^^ (o / 2 ^ w % m)
    o / 2 ^ w * 2 ^ w + y * 2 ^ u + o % 2 ^ u

/-! ### Sector pieces of a micro-step (07 R195) -/

/-- A run of bytes within one sector: its place in the read buffer, its address, its length. -/
structure Run where
  buf : Nat
  va : Nat
  len : Nat
  memDigit : Nat
deriving DecidableEq, Repr

/-- The place of a cell in the read buffer: T5 keeps one raw byte for each digit. -/
def Cell.buf (t5 : Bool) (c : Cell) : Nat := if t5 then 5 * c.at_ + c.digit else c.at_

/-- The sectors that cells touch, in order. -/
def sectorsOf (cs : List Cell) : List Nat :=
  (cs.flatMap (fun c =>
    match c.va with
    | none => []
    | some va => (List.range ((va + c.len - 1) / 32 - va / 32 + 1)).map (fun i => va / 32 + i))).eraseDups

/-- The runs of cells within a sector, in image order. -/
def runsIn (t5 : Bool) (cs : List Cell) (sector : Nat) : List Run :=
  cs.filterMap (fun c =>
    match c.va with
    | none => none
    | some va =>
      let lo := Nat.max va (32 * sector)
      let hi := Nat.min (va + c.len) (32 * sector + 32)
      if lo < hi then some { buf := c.buf t5 + (lo - va), va := lo, len := hi - lo, memDigit := c.memDigit } else none)

end Sys2Proof.Machine
end

