-- ==== Sys2Proof/Machine/Triggers.lean ====
section
/-!
DEFINITION. Trigger counters (02 R30), the members and peers of a collective (R25, R28), and which held operations come first
(R31).
-/

namespace Sys2Proof.Machine

/-! ### Trigger counters (02 R30) -/

def ctrOf (s : State) (d n : Nat) : BitVec 32 := sget 0 (dieOf s d).ctr n
def setCtr (s : State) (d n : Nat) (v : BitVec 32) : State := updDie s d (fun k => { k with ctr := sset 0 k.ctr n v })

/-- An addition, which saturates. -/
def addCtr (s : State) (d n v : Nat) : State :=
  setCtr s d n (BitVec.ofNat 32 (Nat.min 0xFFFFFFFF ((ctrOf s d n).toNat + v)))

/-- A trigger counter of a die is granted to a context. -/
def counterGranted (s : State) (x die ctr : Nat) : Bool :=
  match ctxOf s x with
  | some k => maskHas k.ctrMask (64 * die + ctr)
  | none => false

/-- The trigger of a copy command. -/
def copyTrigger : Instr → Option XoArgs
  | .xLd x | .xSt x | .xFeed x | .xKvg x | .xScat x | .xFill x | .xMcpy x | .xRsw x => if x.ten then some x else none
  | _ => none

/-! ### Members and peers (02 R25, R28) -/

def Program.members (g : Program) : List Nat := maskMembers g.mask

/-- Members on this device and over the gang. -/
def Program.n (g : Program) : Nat := g.members.length
def Program.total (g : Program) : Nat := g.dcount * g.n

/-- The sender number of a block from the member with a global rank on another device. -/
def farCore (r : Nat) : Nat := 256 + r

/-- The global rank of a core of this device, or of a member of another (farCore); the core of a global rank. -/
def Program.rankOf (g : Program) (c : Nat) : Nat :=
  if 256 ≤ c then c - 256 else g.drank * g.n + (g.members.filter (· < c)).length
def Program.coreAt (g : Program) (r : Nat) : Option Nat := if r / g.n = g.drank then g.members[r % g.n]? else none

/-- The fields of a step. -/
def stepArgs : Instr → Option StepArgs
  | .stepSend t | .stepRecv t | .stepRecvReduceSend t | .stepCopy t | .stepWait t | .stepLoop t => some t
  | _ => none

/-- Lk (14 Table 9). -/
def loopTerm (g : Program) (t : StepArgs) : Nat := if t.len then sget 0 g.loops t.lsel.toNat else 0

/-- A peer (02 R28). -/
def peerOf (g : Program) (t : StepArgs) (off : BitVec 12) : Nat :=
  (((g.rankOf g.core : Int) + t.mul.toInt * loopTerm g t + off.toInt) % (g.total : Int)).toNat

/-! ### What a step waits for -/

/-- Blocks in a program's staging, oldest first, with their place among those under way. -/
def staged (s : State) (g : Program) : List (CBlock × Nat) :=
  s.net.blocks.zipIdx.filter (fun e =>
    let b := e.1
    b.dstCore == g.core && b.fold == g.fold && b.seq == g.seq && b.sweep.isNone && (b.st == 3 || b.st == 6))

/-- Blocks ticketed at their senders on a die. -/
def ticketedBlocks (s : State) (die : Nat) : List CBlock :=
  s.net.blocks.filter (fun b => (b.st == 2 || b.st == 5 || b.st == 7) && coreDie b.fromCore == die)

/-- With 64 tickets outstanding, an engine sends nothing to the owners they concern (02 R44). -/
def sendHeld (s : State) (die owner : Nat) : Bool :=
  let ts := ticketedBlocks s die
  64 ≤ ts.length && ts.any (fun b => coreDie b.dstCore == owner)

/-- A step sends a block. -/
def stepSends : Instr → Bool
  | .stepSend _ => true
  | .stepRecvReduceSend t => !t.nosend
  | _ => false

/-- A step writes a destination. -/
def stepWrites : Instr → Bool
  | .stepRecv _ => true
  | .stepCopy _ => true
  | .stepRecvReduceSend t => !t.nodst
  | _ => false

/-- A step takes a block from staging. -/
def stepTakes : Instr → Bool
  | .stepRecv _ => true
  | .stepRecvReduceSend _ => true
  | _ => false

/-- A step's inputs are ready: its block in staging, of any member under ARRIVAL, and for a destination the verdict (02 R37,
R39); no ticket holds its send (R44). -/
def stepInputs (s : State) (g : Program) (i : Instr) (t : StepArgs) : Bool :=
  (!stepTakes i || (staged s g).any (fun e => t.arrival || g.rankOf e.1.fromCore == peerOf g t t.offin)) &&
    (!stepWrites i || g.verdict == .matched) &&
    (!stepSends i || (match g.coreAt (peerOf g t t.offout) with
      | some c => !sendHeld s (coreDie g.core) (coreDie c)
      | none => true))

/-- A step's trigger has fired and its inputs are ready (02 R35). -/
def stepReady (s : State) (g : Program) (i : Instr) (t : StepArgs) : Bool :=
  (!t.ten || g.released != 0) && stepInputs s g i t

/-! ### Held operations of a die, in the order in which they were queued or reached (02 R31) -/

/-- The copy commands of a core's task, with their queue. -/
def copiesOf (s : State) (c : Nat) : List (Cmd × Nat × Nat) :=
  match whoRuns s c with
  | none => []
  | some w => (queueOf s c w.bank 2).zipIdx.map (fun e => (e.1, e.2, w.bank))

/-- The cores of a die. -/
def dieCores (d : Nat) : List Nat := (List.range 64).map (fun k => 64 * d + k)

/-- A copy command is held by its trigger: it has one that has not fired, and the commands before it in its queue have
started. -/
def copyHeld (s : State) (c bank k : Nat) (m : Cmd) : Bool :=
  (copyTrigger m.instr).isSome && m.released == 0 && ((queueOf s c bank 2).take k).all (fun a => a.started)

/-- A counter is at its threshold. -/
def fired (s : State) (d : Nat) (ctr : BitVec 6) (thr : Nat) : Bool := thr ≤ (ctrOf s d ctr.toNat).toNat

/-- Numbers of the held operations of a die whose counters are at their thresholds. -/
def eligible (s : State) (d : Nat) : List Nat :=
  ((dieCores d).flatMap (fun c => (copiesOf s c).filterMap (fun e =>
    match copyTrigger e.1.instr with
    | some x => if copyHeld s c e.2.2 e.2.1 e.1 && fired s d x.tctr x.tthr.toNat then some e.1.id else none
    | none => none))) ++
  s.programs.filterMap (fun e =>
    match e.2.cur.bind stepArgs with
    | some t =>
      if coreDie e.2.core == d && t.ten && e.2.released == 0 && fired s d t.tctr t.tthr.toNat then some e.2.reached else none
    | none => none)

/-- A feed of a ring. -/
def feedsRing (ring : Nat) (c : Cmd) : Bool :=
  match c.instr with
  | .xFeed x => x.ring.toNat == ring
  | _ => false

/-- Feeds of a ring in flight ahead of the k-th command of the copy queue (09 R233). -/
def feedsAhead (s : State) (c bank k ring : Nat) : Nat :=
  (((queueOf s c bank 2).take k).filter (fun m => m.started && feedsRing ring m)).length

/-- A ring has room for a feed (09 R233). -/
def feedRoom (s : State) (c bank k ring : Nat) : Bool :=
  let r := ringOf s c bank ring
  ringOcc r + feedsAhead s c bank k ring < ringCap r

/-- The ring of a feed has room; true of any other command. -/
def ringFree (s : State) (c bank k : Nat) (i : Instr) : Bool :=
  match i with
  | .xFeed x => feedRoom s c bank k x.ring.toNat
  | _ => true

/-- A copy command that has been released, and could start now, comes before release `n`. -/
def copyAhead (s : State) (d n : Nat) : Bool :=
  (dieCores d).any (fun c => (copiesOf s c).any (fun e =>
    e.1.released != 0 && e.1.released < n && !e.1.started && !e.1.halted && e.1.pages.all (fun p => !p.waiting) &&
      ringFree s c e.2.2 e.2.1 e.1.instr && mayStart s c e.2.2 2 e.2.1 e.1))

/-- A step that has been released, and could issue now, comes before release `n`. -/
def stepAhead (s : State) (d n : Nat) : Bool :=
  s.programs.any (fun e =>
    let g := e.2
    coreDie g.core == d && g.released != 0 && g.released < n && !g.issued && g.code.isNone && (!g.locked || g.ticked) &&
      (match g.cur, g.cur.bind stepArgs with
        | some i, some t => stepInputs s g i t
        | _, _ => false))

/-- Operation `n` of those released on a die issues before no earlier one that could issue (02 R31). -/
def releasedAhead (s : State) (d n : Nat) : Bool := copyAhead s d n || stepAhead s d n

end Sys2Proof.Machine
end

