-- ==== Sys2Proof/Machine/Matrix.lean ====
section
/-!
DEFINITION. The matrix engine (13 R340 to R353): multiply-accumulate, m.perm, accumulator operations, the epilogue, m.bind.
-/

namespace Sys2Proof.Machine

/-! ### Multiply-accumulate (13 R340 to R344) -/

/-- Slots of an operand tile (13 Table 1); 0 for a tag that is no operand. T5 and VQ2 are B tiles. -/
def tileSlots (t : TileTag) : Nat :=
  match t.1.toNat, t.2.toNat with
  | 4, 0 | 5, 0 => 2
  | 4, 1 | 5, 1 => 3
  | 2, 0 | 3, 0 => 4
  | 6, 1 => 2
  | 9, 0 => 1
  | 10, 1 => 1
  | _, _ => 0

/-- The pairs of 13 Table 2; `vq` tells the forms that name a lattice, which take VQ2 and nothing else as B (R341). -/
def pairOk (vq : Bool) (a b : TileTag) : Bool :=
  let fp8 := fun (t : TileTag) => (t.1 == 4 || t.1 == 5) && (t.2 == 0 || t.2 == 1)
  let half := fun (t : TileTag) => (t.1 == 2 || t.1 == 3) && t.2 == 0
  let fp4 := fun (t : TileTag) => t.1 == 6 && t.2 == 1
  if vq then fp8 a && b.1 == 10 && b.2 == 1
  else (fp8 a && (fp8 b || fp4 b || (b.1 == 9 && b.2 == 0))) || (half a && half b) || (fp4 a && fp4 b)

/-- The forms of format MM. -/
structure MmaForm where
  zero : Bool
  vq : Bool
deriving DecidableEq, Repr

/-- Dispatch of a multiply (13 R336, R342). -/
def mmaCheck (f : MmaForm) (m : MmArgs) (w : Who) (c : Cmd) : Act Cmd := do
  let p := partOf (← state) w
  inTiles p m.acc.toNat 1
  if f.vq then
    requireOpen (m.ls.toNat < p.sn) .protection
    firstOwned w p (2048 * m.ls.toNat)
  let ls : List Interval := if f.vq then [{ sRange (2048 * m.ls.toNat) 2048 false with size := 1024 }] else []
  pure { c with ranges := [cRange m.acc.toNat 1 false, cRange m.acc.toNat 1 true] ++ ls }

/-- The bytes of element `k` of vector `v` of a tile, from its first byte (13 R340). -/
def elemPlaces (t : TileTag) (v k : Nat) : List Nat :=
  if t.1 = 9 then [8 * v + k / 5]
  else
    let p := elementPlace t.1 t.2 (32 * v + k)
    (List.range (if t.1 = 10 then 2 else Nat.max 1 (sizeOf' t.1))).map (p.byte + ·)

/-- Element `k` of vector `v` of a tile whose first byte is at `base` of S (13 R340): 0 where it has an error (09 R238). -/
def tileElem (s : State) (e : Eng) (t : TileTag) (table : List Byte) (base v k : Nat) : Num :=
  let bad := fun (n : Nat) => s.flaws.contains (flawS e (base + n))
  let at_ := fun (n : Nat) => if bad n then 0 else (sByte s e.w.core (2048 * e.part.s0 + base + n)).toNat
  if !s.flaws.isEmpty && (elemPlaces t v k).any bad then .zero false
  else if t.1 = 9 then Num.ofInt (t5Digit (at_ (8 * v + k / 5)) (k % 5))
  else elemNum t.1 t.2 table at_ (32 * v + k)

/-- The bytes of a tile's elements that a K-group has read, scales among them: those with an error are reported, and the errors are
gone (13 R344). -/
def reportTile (s : State) (e : Eng) (t : TileTag) (base vectors kn : Nat) : State :=
  if s.flaws.isEmpty then s
  else
    let scale := fun (v k : Nat) => if t.1 = 9 then [] else (elementPlace t.1 t.2 (32 * v + k)).scale.toList
    let places := (List.range vectors).flatMap (fun v => (List.range kn).flatMap (fun k => elemPlaces t v k ++ scale v k))
    let bad := (places.eraseDups.filter (fun n => s.flaws.contains (flawS e (base + n)))).map (base + ·)
    reportS s e bad bad

/-- The tag that all slots of a tile carry; the tile has as many as its ring gives a tile (13 R339, R340). -/
def tileTag (e : Eng) (r : Word) (slot : Nat) : Act TileTag := do
  let t ← touchTag e slot
  erequire e (tileSlots t == ringTsz r && tileSlots t != 0) .formatMismatch (2048 * slot)
  for i in List.range (ringTsz r) do
    let u ← touchTag e (slot + i)
    erequire e (u == t) .formatMismatch (2048 * (slot + i))
  pure t

/-- Reserved T5 bytes among the decoded positions of a tile set the matrix engine's data-error bit (10 R255). -/
def logT5 (e : Eng) (t : TileTag) (base cols kn : Nat) : Act Unit := do
  if t.1 = 9 then
    for v in List.range cols do
      for b in List.range ((kn + 4) / 5) do
        let off := base + 8 * v + b
        if 243 ≤ (sByte (← state) e.w.core (2048 * e.part.s0 + off)).toNat then
          change (fun s => dataError s e.w.core 0 false (off / 2048) 0 (off % 2048))

/-- The new value of one accumulator element for one K-group (13 R343; 10 R269). -/
def mmaElem (s : State) (e : Eng) (m : MmArgs) (fresh : Bool) (ta tb : TileTag) (table : List Byte) (a b kn g i j : Nat) :
    BitVec 32 :=
  let tile := m.acc.toNat
  let products := (List.range kn).map (fun k =>
    mulNum (tileElem s e ta [] a i k) (tileElem s e tb table b j k))
  let old := fp32.value (cWord s e (e.part.c0 + tile) i j).toNat
  let x := sumNum (isRdn e) (if fresh then products else old :: products)
  let rd := rndAt e.cmd.mode e.key (2 ^ 19 + 2 ^ 14 * tile + 128 * i + j) g
  BitVec.ofNat 32 (fp32.round rd false x)

/-- One K-group (13 R343, R344). -/
def mmaMicro (f : MmaForm) (m : MmArgs) (e : Eng) : Act Bool := do
  let s ← state
  let groups := (m.kc.toNat + 31) / 32
  let ra := ringOf s e.w.core e.w.bank m.ra.toNat
  let rb := ringOf s e.w.core e.w.bank m.rb.toNat
  let g := e.cmd.upc
  if g = 0 then
    erequire e (ringEn ra && ringEn rb && groups ≤ ringCap ra && groups ≤ ringCap rb) .reservedField 0
  waitUntil (g < ringOcc ra && g < ringOcc rb)
  let sa := ringSlot ra (ringHead ra + g)
  let sb := ringSlot rb (ringHead rb + g)
  let ta ← tileTag e ra sa
  let tb ← tileTag e rb sb
  erequire e (pairOk f.vq ta tb) .formatMismatch (2048 * sa)
  let kn := Nat.min 32 (m.kc.toNat - 32 * g)
  let table ← if f.vq then getBytes e 4 (2048 * m.ls.toNat) 1024 else pure []
  logT5 e tb (2048 * sb) (m.cols.toNat + 1) kn
  let s ← state
  let cells := (List.range (m.rows.toNat + 1)).flatMap (fun i => (List.range (m.cols.toNat + 1)).map (fun j => (i, j)))
  let out := cells.map (fun c =>
    (c, mmaElem s e m (g == 0 && f.zero) ta tb table (2048 * sa) (2048 * sb) kn g c.1 c.2))
  change (fun s => reportTile (reportTile s e ta (2048 * sa) (m.rows.toNat + 1) kn) e tb (2048 * sb) (m.cols.toNat + 1) kn)
  if g != 0 || !f.zero then change (fun s => reportC s e (e.part.c0 + m.acc.toNat) cells)
  change (fun s => out.foldl (fun s o => writeC s e.w.core (e.part.c0 + m.acc.toNat) o.1.1 o.1.2 o.2) s)
  changeCmd e (fun c => { c with upc := g + 1 })
  if g + 1 < groups then pure false
  else do
    change (fun s => popRing s e.w.core e.w.bank m.ra.toNat groups)
    if m.ra != m.rb then change (fun s => popRing s e.w.core e.w.bank m.rb.toNat groups)
    pure true

def mmaSpec (f : MmaForm) (m : MmArgs) : CmdSpec :=
  { queue := 0, check := mmaCheck f m, ready := startsFreely, micro := mmaMicro f m,
    held := fun e s =>
      let short := fun (r : BitVec 3) => ringOcc (ringOf s e.w.core e.w.bank r.toNat) ≤ e.cmd.upc
      short m.ra || short m.rb }

/-- m.mma: groups of products are added to the accumulator tile (13 R343). -/
def execMMma (m : MmArgs) (s : State) : Host.Outcome State Fault Refusal :=
  runCommand (.mMma m) (mmaSpec ⟨false, false⟩ m) s

/-- m.mmaz: as m.mma, the first group accumulating from zero. -/
def execMMmaz (m : MmArgs) (s : State) : Host.Outcome State Fault Refusal :=
  runCommand (.mMmaz m) (mmaSpec ⟨true, false⟩ m) s

/-- m.mmv: as m.mma with a VQ2 B tile decoded through the lattice table in slot LS (13 R342; 10 R256). -/
def execMMmv (m : MmArgs) (s : State) : Host.Outcome State Fault Refusal :=
  runCommand (.mMmv m) (mmaSpec ⟨false, true⟩ m) s

/-- m.mmvz: as m.mmv, the first group accumulating from zero. -/
def execMMmvz (m : MmArgs) (s : State) : Host.Outcome State Fault Refusal :=
  runCommand (.mMmvz m) (mmaSpec ⟨true, true⟩ m) s

/-! ### m.perm (13 R345, R346) -/

/-- Column `j` of a selection matrix, as a number. -/
def permColumn (q : List Byte) (j : Nat) : Nat := leNat ((q.drop (16 * j)).take 16)

/-- A column with two or more bits set. -/
def permBad (q : List Byte) : Bool :=
  (List.range 128).any (fun j => let v := permColumn q j; v != 0 && v != 2 ^ Nat.log2 v)

/-- A command or collective with given intervals writes a slot of the partition. -/
def slotWritten (slot : Nat) (l : List Interval) : Bool :=
  l.any (fun r => r.write && !r.inC && r.lo < 2048 * (slot + 1) && 2048 * slot < r.hi)

/-- m.perm waits for earlier writers of its selection matrix, then captures it (13 R346); an error in it is the matrix engine's (09 R238). -/
def permCheck (m : PmArgs) (w : Who) (c : Cmd) : Act Cmd := do
  let s ← state
  let p := partOf s w
  let rows := m.rows.toNat + 1
  let d := m.d.toNat
  let a := m.a.toNat
  let n := 128 * sizeAt s w.core p a * rows
  requireOpen (!(d < a + n && a < d + n)) .reservedField
  inPart p d n
  inPart p a 1
  requireOpen (m.qs.toNat < p.sn) .protection
  requireOpen (d % 2048 == 0 && a % 2048 == 0) .alignment
  engineOwned w p d n
  firstOwned w p a
  firstOwned w p (2048 * m.qs.toNat)
  waitUntil ((List.range 4).all (fun e => (queueOf s w.core w.bank e).all (fun k => !slotWritten m.qs.toNat k.ranges)))
  waitUntil (s.programs.all (fun e => e.2.core != w.core || e.2.task != some w.task || !slotWritten m.qs.toNat e.2.ranges))
  let q ← getBytes { w := w, e := 0, k := 0, cmd := c, part := p, key := 0 } 1 (2048 * m.qs.toNat) 2048
  requireOpen (!permBad q) .reservedField
  let rows := { sRange a (512 * rows) false with size := n }
  pure { c with block := q, ranges := [sRange d n true, clipRange p rows, sRange (2048 * m.qs.toNat) 2048 false] }

/-- Eight rows (13 Table 12). -/
def permMicro (m : PmArgs) (e : Eng) : Act Bool := do
  let rows := m.rows.toNat + 1
  let a := m.a.toNat
  let t ← touchTag e (a / 2048)
  let size := sizeOf' t.1
  erequire e (t.2 == 0 && size != 0) .formatMismatch a
  let todo := (List.range 8).filterMap (fun k => if e.cmd.upc + k < rows then some (e.cmd.upc + k) else none)
  for i in todo do
    let row ← getTagged e t size (a + 128 * size * i) (128 * size)
    let out := (List.range 128).flatMap (fun j =>
      let v := permColumn e.cmd.block j
      if v = 0 then List.replicate size (0 : Byte) else (row.drop (size * Nat.log2 v)).take size)
    putBytes e t.1 t.2 (m.d.toNat + 128 * size * i) out
  changeCmd e (fun c => { c with upc := e.cmd.upc + todo.length })
  pure (rows ≤ e.cmd.upc + todo.length)

/-- m.perm: each column takes the element its column of Q selects, or zero (13 R346). -/
def permSpec (m : PmArgs) : CmdSpec :=
  { queue := 0, check := permCheck m, ready := startsFreely, micro := permMicro m }

def execMPerm (m : PmArgs) (s : State) : Host.Outcome State Fault Refusal := runCommand (.mPerm m) (permSpec m) s

/-! ### Accumulator operations (13 R347, R348) -/

/-- A tile takes one pattern in every element. -/
def fillTile (s : State) (c tile : Nat) (v : BitVec 32) : State :=
  (List.range 16384).foldl (fun s i => writeC s c tile (i / 128) (i % 128) v) s

/-- The canonical NaN for a NaN pattern (10 R266). -/
def canonical32 (v : BitVec 32) : BitVec 32 :=
  if (fp32.value v.toNat).isNan then BitVec.ofNat 32 fp32.nan else v

def azeroSpec (acc cnt : BitVec 6) (value : BitVec 32) : CmdSpec :=
  { queue := 0
    check := fun w c => do
      inTiles (partOf (← state) w) acc.toNat (cnt.toNat + 1)
      pure { c with ranges := [cRange acc.toNat (cnt.toNat + 1) true] }
    ready := startsFreely
    micro := fun e => do
      change (fun s => fillTile s e.w.core (e.part.c0 + acc.toNat + e.cmd.upc) (canonical32 value))
      changeCmd e (fun c => { c with upc := e.cmd.upc + 1 })
      pure (cnt.toNat + 1 ≤ e.cmd.upc + 1) }

/-- m.azero: tiles filled with a value, one tile a micro-step. -/
def execMAzero (acc cnt : BitVec 6) (value : BitVec 32) (s : State) : Host.Outcome State Fault Refusal :=
  runCommand (.mAzero acc cnt value) (azeroSpec acc cnt value) s

/-- Places of `rows` rows of a tile. -/
def tileCells (rows : List Nat) : List (Nat × Nat) := rows.flatMap (fun i => (List.range 128).map (fun j => (i, j)))

/-- A tile copied bit for bit. -/
def copyTile (s : State) (e : Eng) (dst src : Nat) : State :=
  let s0 := s
  let s := reportC s e src (tileCells (List.range 128))
  (List.range 16384).foldl (fun s i => writeC s e.w.core dst (i / 128) (i % 128) (cWord s0 e src (i / 128) (i % 128))) s

def acopySpec (acc cnt src : BitVec 6) : CmdSpec :=
  { queue := 0
    check := fun w c => do
      let p := partOf (← state) w
      inTiles p acc.toNat (cnt.toNat + 1)
      inTiles p src.toNat (cnt.toNat + 1)
      pure { c with ranges := [cRange acc.toNat (cnt.toNat + 1) true, cRange src.toNat (cnt.toNat + 1) false] }
    ready := startsFreely
    micro := fun e => do
      let i := if src.toNat < acc.toNat then cnt.toNat - e.cmd.upc else e.cmd.upc
      change (fun s => copyTile s e (e.part.c0 + acc.toNat + i) (e.part.c0 + src.toNat + i))
      changeCmd e (fun c => { c with upc := e.cmd.upc + 1 })
      pure (cnt.toNat + 1 ≤ e.cmd.upc + 1) }

/-- m.acopy: tiles copied, upwards or downwards so that overlapping ranges copy the values from before. -/
def execMAcopy (acc cnt src : BitVec 6) (s : State) : Host.Outcome State Fault Refusal :=
  runCommand (.mAcopy acc cnt src) (acopySpec acc cnt src) s

/-- A row of a tile as bytes, and written from bytes. -/
def tileRow (s : State) (e : Eng) (tile i : Nat) : List Byte :=
  (List.range 128).flatMap (fun j => leBytes 4 (cWord s e tile i j).toNat)
def setTileRow (s : State) (c tile i : Nat) (bs : List Byte) : State :=
  (List.range 128).foldl (fun s j => writeC s c tile i j (BitVec.ofNat 32 (leNat ((bs.drop (4 * j)).take 4)))) s

/-- The rows of a micro-step of 16 (13 Table 12). -/
def rows16 (e : Eng) (rows : Nat) : List Nat :=
  (List.range 16).filterMap (fun k => if e.cmd.upc + k < rows then some (e.cmd.upc + k) else none)

/-- Dispatch of m.aload and m.astore (13 R336, R348). -/
def rowsCheck (off rows acc : Nat) (store : Bool) (w : Who) (c : Cmd) : Act Cmd := do
  let p := partOf (← state) w
  inPart p off (if store then 512 * rows else 1)
  inTiles p acc 1
  requireOpen (off % 512 == 0) .alignment
  if store then engineOwned w p off (512 * rows) else firstOwned w p off
  pure { c with ranges := [clipRange p (sRange off (512 * rows) store), cRange acc 1 (!store)] }

def aloadSpec (off : BitVec 19) (rows : BitVec 8) (acc : BitVec 6) : CmdSpec :=
  { queue := 0, check := rowsCheck off.toNat (rows.toNat + 1) acc.toNat false, ready := startsFreely
    micro := fun e => do
      let todo := rows16 e (rows.toNat + 1)
      for i in todo do
        let bs ← getTagged e (1, 0) 4 (off.toNat + 512 * i) 512
        change (fun s => setTileRow s e.w.core (e.part.c0 + acc.toNat) i bs)
      changeCmd e (fun c => { c with upc := e.cmd.upc + todo.length })
      pure (rows.toNat + 1 ≤ e.cmd.upc + todo.length) }

def astoreSpec (off : BitVec 19) (rows : BitVec 8) (acc : BitVec 6) : CmdSpec :=
  { queue := 0, check := rowsCheck off.toNat (rows.toNat + 1) acc.toNat true, ready := startsFreely
    micro := fun e => do
      let todo := rows16 e (rows.toNat + 1)
      for i in todo do
        putBytes e 1 0 (off.toNat + 512 * i) (tileRow (← state) e (e.part.c0 + acc.toNat) i)
      change (fun s => reportC s e (e.part.c0 + acc.toNat) (tileCells todo))
      changeCmd e (fun c => { c with upc := e.cmd.upc + todo.length })
      pure (rows.toNat + 1 ≤ e.cmd.upc + todo.length) }

/-- m.aload: rows of an FP32 S block into an accumulator tile. -/
def execMAload (off : BitVec 19) (rows : BitVec 8) (acc : BitVec 6) (s : State) : Host.Outcome State Fault Refusal :=
  runCommand (.mAload off rows acc) (aloadSpec off rows acc) s

/-- m.astore: rows of an accumulator tile into S, stamped FP32. -/
def execMAstore (off : BitVec 19) (rows : BitVec 8) (acc : BitVec 6) (s : State) : Host.Outcome State Fault Refusal :=
  runCommand (.mAstore off rows acc) (astoreSpec off rows acc) s

/-! ### The epilogue (13 R349 to R352) -/

def numOfBits (v : Nat) : Num := fp32.value v

/-- The activations (13 Table 6); every operation rounds to FP32. -/
def actNum (rd : Rnd) (act : BitVec 3) (x : Num) : Num :=
  let mul := fun (a b : Num) => toFp32 rd (mulNum a b)
  let add := fun (a b : Num) => toFp32 rd (addNum (rd.mode == 3) a b)
  let div := fun (a b : Num) => toFp32 rd (divNum a b)
  match act.toNat with
  | 1 => if x.isNan then .nan else if ltNum (.zero false) x then x else .zero false
  | 2 =>
    let t := mul (mul x x) x
    let t := mul (fmaNum rd (numOfBits 0x3D372713) t x) (numOfBits 0x3F4C422A)
    let t := add (toFp32 rd (tanhNum t)) one
    mul (mul (numOfBits 0x3F000000) x) t
  | 3 => div x (add one (toFp32 rd (expNum x.negate)))
  | 4 => toFp32 rd (tanhNum x)
  | 5 => div one (add one (toFp32 rd (expNum x.negate)))
  | _ => x

/-- An element through scale, bias and activation (13 R350). -/
def epiValue (m : EpArgs) (rd : Rnd) (x scale bias : Num) : Num :=
  let x :=
    if m.sen && m.ben then fmaNum rd x scale bias
    else if m.sen then toFp32 rd (mulNum x scale)
    else if m.ben then toFp32 rd (addNum (rd.mode == 3) x bias)
    else x
  actNum rd m.act x

/-- The geometry a form writes. -/
def epGeo (m : EpArgs) : BitVec 4 := if m.mx then 1 else 0

/-- Bytes of the converted tile (13 R351). -/
def epBytes (m : EpArgs) : Nat :=
  let rows := m.rows.toNat + 1
  if m.mx then
    let nb := (mxBlocks m.f).1
    2048 * ((4 * rows + nb - 1) / nb)
  else 128 * sizeOf' m.f * rows

/-- The formats of the epilogue (13 R349). -/
def epFmtOk (m : EpArgs) : Bool :=
  1 ≤ m.f.toNat && m.f.toNat ≤ 8 && fmtOk m.f (epGeo m)

/-- Dispatch checks that m.epi and m.epi.send share (13 R336, R349). -/
def epCheck (m : EpArgs) (d n : Nat) (w : Who) (c : Cmd) : Act Cmd := do
  let p := partOf (← state) w
  let meets := fun (v : BitVec 19) => d < v.toNat + 512 && v.toNat < d + n
  requireOpen (!(n != 0 && ((m.sen && meets m.scale) || (m.ben && meets m.bias)))) .reservedField
  requireOpen (epFmtOk m) .formatMismatch
  inPart p d n
  if m.sen then inPart p m.scale.toNat 1
  if m.ben then inPart p m.bias.toNat 1
  inTiles p m.acc.toNat 1
  requireOpen (d % 2048 == 0 && m.scale.toNat % 4 == 0 && m.bias.toNat % 4 == 0) .alignment
  if n != 0 then engineOwned w p d n
  if m.sen then firstOwned w p m.scale.toNat
  if m.ben then firstOwned w p m.bias.toNat
  let vec := fun (on : Bool) (v : BitVec 19) => if on then [clipRange p (sRange v.toNat 512 false)] else []
  pure { c with ranges := [cRange m.acc.toNat 1 false] ++ vec m.sen m.scale ++ vec m.ben m.bias ++
                  (if n = 0 then [] else [sRange d n true]) }

/-- The vector of 128 FP32 values at an offset, or zeros where the form has none. -/
def epVector (e : Eng) (on : Bool) (off : Nat) : Act (List Num) := do
  if on then
    let bs ← getTagged e (1, 0) 4 off 512
    pure ((List.range 128).map (fun j => numOfBits (leNat ((bs.drop (4 * j)).take 4))))
  else pure (List.replicate 128 (.zero false))

/-- The values of row `i` before the last step. -/
def epRow (s : State) (e : Eng) (m : EpArgs) (scale bias : List Num) (i : Nat) : List Num :=
  (List.range 128).map (fun j =>
    let x := numOfBits (cWord s e (e.part.c0 + m.acc.toNat) i j).toNat
    epiValue m (noSr e.cmd.mode) x (scale.getD j (.zero false)) (bias.getD j (.zero false)))

/-- A nibble of FP4 put beside its neighbour. -/
def packNibbles : List Nat → List Byte
  | a :: b :: r => BitVec.ofNat 8 (a % 16 + 16 * (b % 16)) :: packNibbles r
  | [a] => [BitVec.ofNat 8 (a % 16)]
  | [] => []

/-- The data bytes of an MX block's encoded elements. -/
def blockBytes (f : BitVec 6) (vs : List Nat) : List Byte :=
  if f = 6 then packNibbles vs else vs.map (BitVec.ofNat 8)

/-- An MX block of 32 values at block number `b` of a layout: its data and scale, with their offsets (10 R259, R260); the pads of
its unit when it is the unit's last block, or the last of all (10 R257). `p0` is the layout's place in P. -/
def mxBlock (f : BitVec 6) (mode : BitVec 3) (key : Word) (p0 b : Nat) (last : Bool) (xs : List Num) : List (Nat × List Byte) :=
  match floatFmt f with
  | none => []
  | some ff =>
    let code := mxScale ff xs
    let vs := xs.zipIdx.map (fun x =>
      mxEncode ff code (rndAt mode key (p0 + (elementPlace f 1 (32 * b + x.2)).byte) 0) x.1)
    let data := (elementPlace f 1 (32 * b)).byte
    let (nb, db) := mxBlocks f
    let unit := b / nb
    let scale := 2048 * unit + nb * db + b % nb
    let pad := nb * db + nb
    [(data, blockBytes f vs), (scale, [BitVec.ofNat 8 code])] ++
      (if last || b % nb = nb - 1 then [(2048 * unit + pad, List.replicate (2048 - pad) 0)] else [])

/-- The bytes of a converted row, with their offsets in the image (13 R351). -/
def epOut (e : Eng) (m : EpArgs) (p0 i : Nat) (xs : List Num) : List (Nat × List Byte) :=
  if m.mx then
    (List.range 4).flatMap (fun q =>
      mxBlock m.f e.cmd.mode e.key p0 (4 * i + q) (i == m.rows.toNat && q == 3) ((xs.drop (32 * q)).take 32))
  else
    let n := sizeOf' m.f
    [(128 * n * i, xs.zipIdx.flatMap (fun x =>
      elemBytes m.f (roundTo m.f (rndAt e.cmd.mode e.key (p0 + 128 * n * i + n * x.2) 0) x.1)))]

def epiMicro (m : EpArgs) (e : Eng) : Act Bool := do
  let rows := m.rows.toNat + 1
  let scale ← epVector e m.sen m.scale.toNat
  let bias ← epVector e m.ben m.bias.toNat
  let todo := (List.range 8).filterMap (fun k => if e.cmd.upc + k < rows then some (e.cmd.upc + k) else none)
  for i in todo do
    let xs := epRow (← state) e m scale bias i
    for o in epOut e m m.d.toNat i xs do putBytes e m.f (epGeo m) (m.d.toNat + o.1) o.2
  change (fun s => reportC s e (e.part.c0 + m.acc.toNat) (tileCells todo))
  changeCmd e (fun c => { c with upc := e.cmd.upc + todo.length })
  pure (rows ≤ e.cmd.upc + todo.length)

def epiSpec (m : EpArgs) : CmdSpec :=
  { queue := 0, check := epCheck m m.d.toNat (epBytes m), ready := startsFreely, micro := epiMicro m }

/-- m.epi: a converted accumulator tile in S, eight rows a micro-step. -/
def execMEpi (m : EpArgs) (s : State) : Host.Outcome State Fault Refusal := runCommand (.mEpi m) (epiSpec m) s

/-! ### Images for other cores (02 R33, R34) -/

/-- Fields of SY_ROUTE (02 Table 3). -/
def routeEn (r : Word) : Bool := r.getLsbD 63
def routeDev (r : Word) : Nat := fld r 50 6
def routeMode (r : Word) : Nat := fld r 48 2
def routeCtr (r : Word) : Nat := fld r 42 6
def routeCen (r : Word) : Bool := r.getLsbD 41
def routeSlot (r : Word) : Nat := fld r 24 8
def routeCore (r : Word) : Nat := fld r 0 8

/-- SY_ROUTE with DSLOT moved on. -/
def routeNext (r : Word) (n : Nat) : Word :=
  BitVec.ofNat 64 (r.toNat / 2 ^ 32 * 2 ^ 32 + (routeSlot r + n) % 256 * 2 ^ 24 + r.toNat % 2 ^ 24)

def sendCheck (m : EpArgs) (w : Who) (c : Cmd) : Act Cmd := do
  requireOpen (routeEn c.route) .reservedField
  requireOpen (routeMode c.route != 1 || m.f == 1) .formatMismatch
  let c ← epCheck m 0 0 w c
  let s ← state
  let own := routeDev c.route == s.gang.gidx.toNat
  requireOpen (!(routeCen c.route && own) || counterGranted s w.ctx (coreDie (routeCore c.route)) (routeCtr c.route)) .protection
  if !c.starter then
    change (fun s => updRegs s w.core w.bank (fun r => { r with route := routeNext r.route ((epBytes m + 2047) / 2048) }))
  pure c

/-- Bytes laid over a buffer of `n`. -/
def layOver (n : Nat) (buf : List Byte) (os : List (Nat × List Byte)) : List Byte :=
  sgetAll 0 (os.foldl (fun t o => ssetAll 0 t o.1 o.2) (ssetAll 0 ([] : Sparse Byte) 0 buf)) 0 n

/-- An image leaves for a core of this device; one for another device of the gang leaves the machine. -/
def sendImage (dev : Nat) (a : Arrival) : Act Unit :=
  change (fun s => if dev = s.gang.gidx.toNat then postArrival s a else s)

/-- Eight rows a micro-step into the send buffer, `phase` counting the rows (µPC stays 0; 13 R378); then the image leaves, while the
destination's engine holds fewer than 32 arrivals (02 R34). -/
def sendMicro (m : EpArgs) (e : Eng) : Act Bool := do
  let r := e.cmd.route
  let p0 := 2048 * routeSlot r
  let rows := m.rows.toNat + 1
  if e.cmd.phase < rows then do
    let scale ← epVector e m.sen m.scale.toNat
    let bias ← epVector e m.ben m.bias.toNat
    let todo := (List.range 8).filterMap (fun k => if e.cmd.phase + k < rows then some (e.cmd.phase + k) else none)
    let s ← state
    let out := todo.flatMap (fun i => epOut e m p0 i (epRow s e m scale bias i))
    change (fun s => reportC s e (e.part.c0 + m.acc.toNat) (tileCells todo))
    changeCmd e (fun c => { c with phase := e.cmd.phase + todo.length, buf := layOver (epBytes m) c.buf out })
    pure false
  else do
    let s ← state
    waitUntil (routeDev r != s.gang.gidx.toNat || (dieOf s (coreDie (routeCore r))).held.length < 32)
    let bytes := e.cmd.buf
    sendImage (routeDev r)
      { rsw := false, fromCore := e.w.core, fromBank := e.w.bank, core := routeCore r, off := p0, bytes := bytes,
        tags := List.replicate ((bytes.length + 2047) / 2048) (m.f, epGeo m), add := routeMode r == 1, ctr := routeCtr r,
        cen := routeCen r, phase := (coreOf s e.w.core).phase, cmd := e.cmd.id, route := 0 }
    pure true

def epiSendSpec (m : EpArgs) : CmdSpec :=
  { queue := 0, check := sendCheck m, ready := startsFreely, micro := sendMicro m }

/-- m.epi.send: the converted tile leaves for the core that the captured SY_ROUTE names (13 R352). -/
def execMEpiSend (m : EpArgs) (s : State) : Host.Outcome State Fault Refusal :=
  runCommand (.mEpiSend m) (epiSendSpec m) s

/-! ### m.bind (13 R353; 09 R232) -/

def bindSpec (off : BitVec 19) (ring : BitVec 3) : CmdSpec :=
  { queue := 0
    check := fun w c => do
      let p := partOf (← state) w
      inPart p off.toNat 8
      requireOpen (off.toNat % 8 == 0) .alignment
      firstOwned w p off.toNat
      pure { c with ranges := [sRange off.toNat 8 false] }
    ready := startsFreely
    micro := fun e => do
      let s ← state
      waitUntil ((queueOf s e.w.core e.w.bank 2).all (fun c => !(feedsRing ring.toNat c && (c.started || c.id < e.cmd.id))))
      let v := leWord (← getBytes e 8 off.toNat 8)
      match bindTrap (← state) e.w.core e.part v with
      | some t => etrap e t off.toNat
      | none => do
        change (fun s => setRing s e.w.core e.w.bank ring.toNat (ringTaken v))
        pure true }

/-- m.bind: the descriptor at S is checked and installed in the ring; its reserved bits read as zero (00 R3). -/
def execMBind (off : BitVec 19) (ring : BitVec 3) (s : State) : Host.Outcome State Fault Refusal :=
  runCommand (.mBind off ring) (bindSpec off ring) s

end Sys2Proof.Machine
end

