-- ==== Sys2Proof/Machine/Copy.lean ====
section
/-!
DEFINITION. The copy engine (14 R379 to R394): dispatch of the copy commands with their captures, their micro-steps, tokens and
arrival flags.
-/

namespace Sys2Proof.Machine

/-! ### Captures of dispatch (14 R380) -/

/-- The parameter block of a command: bytes of the thread for the control core, of the engines for a side core. -/
def readBlock (w : Who) (pb : BitVec 14) (issuer : BitVec 2) : Act (List Byte) := do
  let p := partOf (← state) w
  let o := 32 * pb.toNat
  inPart p o 32
  if issuer = 0 then do
    let s ← state
    requireOpen (!(slotOf s w.core (p.s0 + o / 2048)).owner) .ownerViolation
    waitUntil (!sWaits s w o 32)
    raceCheck w threadAgent (coreOf s w.core).phase o 32 false
  else engineOwned w p o 32
  pure (readS (← state) w.core p o 32)

/-- A field of the block. -/
def blockAt (b : List Byte) (off n : Nat) : Nat := leNat ((b.drop off).take n)

/-- TOK is legal for its issuer, and its register is not pending (14 R379, R381). The answer is the physical register, or
the token word of a side core. -/
def tokenReady (w : Who) (tok : BitVec 6) (issuer : BitVec 2) : Act Nat := do
  if issuer = 0 then do
    requireOpen (1 ≤ tok.toNat && tok.toNat ≤ 31) .reservedField
    destReady w tok
  else pure tok.toNat

/-- TOK of a copy, and the grant of its trigger's counter (02 R30, R31). -/
def copyToken (w : Who) (x : XoArgs) (issuer : BitVec 2) : Act Nat := do
  let tok ← tokenReady w x.tok issuer
  requireOpen (!x.ten || counterGranted (← state) w.ctx (coreDie w.core) x.tctr.toNat) .protection
  pure tok

/-- TOK of a control-core command becomes pending (09 R236). -/
def tokenPending (w : Who) (c : Cmd) : Act Unit := do
  if c.issuer = 0 then
    change (fun s => updRegs s w.core w.bank (fun r =>
      { r with gWait := sset 0 r.gWait c.tok c.id, gMark := sset .clean r.gMark c.tok .derived }))

/-- A page on another die needs a permission that the command lacks (07 R172; 14 R388). -/
def farDenied (w : Who) (owner va : Nat) (right : Right) (info : Word) (obj : Option Word) : Act Unit := do
  match ctxOf (← state) w.ctx with
  | none => trap .protection info
  | some k =>
    match ← translate none owner none w.ctx k va right with
    | .bad t => trap t info
    | .leaf l => do
      require (l.allows right) .protection info
      throw (.trap .objectRights obj)
    | _ => throw (.trap .objectRights obj)

/-- FMT and GEO of a page outside windows: a page that is read has a legal pair, one that is only written no reserved code (10 R258). -/
def plainPageOk (write : Bool) (fmt : BitVec 6) (geo : BitVec 4) : Bool := if write then codesOk fmt geo else fmtOk fmt geo

/-- The page of an address is translated, checked and captured, once for reads and once for writes. `far`: pages on another
die are allowed; `fmtd`: its FMT and GEO are those of a window;
`first`: the page of step 4, whose ticket stalls the dispatch. -/
def capturePage (w : Who) (c : Cmd) (va : Nat) (right : Right) (far : Bool) (obj : Option Word) (fmtd first : Bool) :
    Act Cmd := do
  let vpn := va / 0x10000
  let wr := right.writes
  if c.pages.any (fun p => p.vpn == vpn && p.write == wr) then pure c
  else do
    let info := BitVec.ofNat 64 va
    let die := coreDie w.core
    let plain := !fmtd
    let page := fun (rem : Bool) (l : Leaf) =>
      ({ vpn := vpn, pa := l.pa - va % 0x10000, fmt := l.fmt, geo := l.geo, home := l.home, write := wr, remote := rem, waiting := false,
         fmtd := fmtd, va := va } : PageMap)
    let late := fun (h : Nat) =>
      ({ vpn := vpn, pa := 0, fmt := 0, geo := 0, home := h, write := wr, remote := true, waiting := true, fmtd := fmtd, va := va } : PageMap)
    match ← engLeaf w 0 (fun va => BitVec.ofNat 64 va) va right with
    | .ok l => do
      if !far && l.home != die then throw (.trap .objectRights obj)
      requireOpen (!plain || plainPageOk wr l.fmt l.geo) .formatMismatch
      pure { c with pages := c.pages ++ [page false l] }
    | .error h => do
      if !far then farDenied w h va right info obj
      let cls := c.cls.getD 0
      if keyHeld (← state) w.core w.ctx h cls then
        if first then waitHere else pure { c with pages := c.pages ++ [late h] }
      else
        match ← ownerLeaf w (if first then 0 else c.id) cls h va right info with
        | some l => do
          requireOpen (!plain || plainPageOk wr l.fmt l.geo) .formatMismatch
          pure { c with pages := c.pages ++ [page true l] }
        | none => if first then waitHere else pure { c with pages := c.pages ++ [late h] }

/-- The pages of cells, in order. -/
def captureCells (w : Who) (c : Cmd) (cs : List Cell) (right : Right) (far : Bool) (obj : Option Word) : Act Cmd := do
  let mut c := c
  for x in cs do
    match x.va with
    | none => pure ()
    | some va => do
      c ← capturePage w c va right far obj true false
      c ← capturePage w c (va + x.len - 1) right far obj true false
  pure c

/-- Pages captured have the format and geometry of the window (07 R173). -/
def pagesAlike (c : Cmd) (tag : TileTag) : Act Unit :=
  requireOpen (c.pages.all (fun p => p.waiting || !p.fmtd || (p.fmt, p.geo) == tag)) .formatMismatch

/-- The arrival flag of a block (14 R389): its word aligned, its page writable by the engines; on another die it needs what the
command's range needs there (07 R172). -/
def captureFlag (w : Who) (c : Cmd) (far : Bool) (obj : Option Word) (flag : Nat) : Act Cmd := do
  if flag = 0 then pure c
  else do
    require (flag % 8 == 0) .alignment (BitVec.ofNat 64 flag)
    capturePage w c flag .ew far obj false false

/-- The window's format and geometry: those of the page captured first, else the object's (14 R380 step 4). -/
def windowTag (c : Cmd) : TileTag :=
  match c.pages.head? with
  | some p => (p.fmt, p.geo)
  | none => (BitVec.ofNat 6 (objOf (wordsNat c.obj)).fmt, 0)

/-- What the page of step 4 settles: object FMT, format and geometry, packed dimensions, swizzle (03 R73 step 5; 10 R258;
14 R382, R383). -/
def windowChecks (o : Obj) (idx : Word) (tag : TileTag) (org0 wb : Nat) : Act Unit := do
  require (o.fmt == 0 || o.fmt == tag.1.toNat) .formatMismatch idx
  require (fmtOk tag.1 tag.2) .formatMismatch idx
  let packed := isPacked tag.1 tag.2
  require (!packed || packedDimOk o tag.1.toNat) .reservedField idx
  require (tag.2 != 1 || (org0 % 32 == 0 && o.win.getD 0 0 % 32 == 0)) .reservedField idx
  require (swzOk o.swz packed wb) .reservedField idx

/-- Origins of a block: zero beyond dimension `n`, each below its extent (03 R74; 14 Table 3). -/
def originsOf (b : List Byte) (o : Obj) (idx : Word) (words n : Nat) : Act (List Nat) := do
  let all := (List.range words).map (fun d => blockAt b (4 * d) 4)
  requireOpen ((all.drop n).all (fun g => g == 0)) .reservedField
  let org := all.take n
  require (indexInside o.ext org) .objectBounds idx
  pure org

/-- What copies that name an object differ in. -/
structure ObjCopy where
  /-- memory is written -/
  store : Bool
  /-- S is read or written -/
  inS : Bool
deriving DecidableEq, Repr

/-- The field S of a command as an offset. -/
def sField (x : XoArgs) : Nat := x.s.toNat

/-- Row alignment of a block window, then every page of the range (14 R380 step 6; 10 R259). -/
def captureRange (w : Who) (c : Cmd) (j : Job) (org : Origins) (right : Right) (far : Bool) (obj : Word) : Act Cmd := do
  if j.geo = 1 then
    for r in blockRows j org do require (r % 2048 == 0) .alignment (BitVec.ofNat 64 r)
  let c ← captureCells w c ((List.range j.steps).flatMap (cellsOf j org)) right far (some obj)
  pagesAlike c (j.fmt, j.geo)
  pure c

/-- Origins of one image. -/
def oneImage (o : Obj) (org : List Nat) : Origins := fun _ => some (o.base, org)

/-- Dispatch of x.ld, x.st, x.feed and x.fill (14 R380). -/
def windowCopyCheck (k : ObjCopy) (feed : Bool) (x : XoArgs) (w : Who) (c : Cmd) : Act Cmd := do
  let tok ← copyToken w x c.issuer
  let idx := BitVec.ofNat 64 x.obj.toNat
  let b ← readBlock w x.pb c.issuer
  requireOpen (k.store || blockAt b 0x18 8 == 0) .reservedField
  let words ← readObj w x.obj.toNat (if k.store then 3 else 2)
  let o := objOf (wordsNat words)
  let org ← originsOf b o idx 6 o.rank
  let right : Right := if k.store then .ew else .er
  let far := o.rights.testBit 4
  let c := { c with block := b, obj := words, tok := tok }
  let c ← capturePage w c (firstAddress (← state) w.ctx o o.base org) right far (some idx) true true
  let tag := windowTag c
  let j := jobOf o tag.1 tag.2 1
  windowChecks o idx tag (org.headD 0) j.wb
  if k.inS then do
    let p := partOf (← state) w
    inPart p (sField x) j.wb
    engineOwned w p (sField x) j.wb
  let c ← captureRange w c j (oneImage o org) right far idx
  let c ← captureFlag w c far (some idx) (if k.store then blockAt b 0x18 8 else 0)
  let c := { c with ranges := if k.inS && !feed then [sRange (sField x) j.wb (!k.store)] else [] }
  tokenPending w c
  pure c

/-- Dispatch of x.scat (14 R387). -/
def scatCheck (x : XoArgs) (w : Who) (c : Cmd) : Act Cmd := do
  let tok ← copyToken w x c.issuer
  let idx := BitVec.ofNat 64 x.obj.toNat
  let b ← readBlock w x.pb c.issuer
  let count := blockAt b 0x14 4
  requireOpen (1 ≤ count && count ≤ 65535) .reservedField
  let words ← readObj w x.obj.toNat 3
  let o := objOf (wordsNat words)
  requireOpen (o.rank ≤ 5) .reservedField
  let org ← originsOf b o idx 4 (o.rank - 1)
  let far := o.rights.testBit 4
  let c := { c with block := b, obj := words, tok := tok }
  let c ← capturePage w c (firstAddress (← state) w.ctx o o.base (org ++ [0])) .ew far (some idx) true true
  let tag := windowTag c
  let j := jobOf o tag.1 tag.2 count
  windowChecks o idx tag (if o.rank = 1 then 0 else org.headD 0) j.wb
  let p := partOf (← state) w
  let list := blockAt b 0x10 4
  requireOpen (list % 4 == 0) .alignment
  inPart p (sField x) (j.wb * count)
  inPart p list (4 * count)
  engineOwned w p (sField x) (j.wb * count)
  engineOwned w p list (4 * count)
  let rows : Origins := fun g => some (o.base, org ++ [g])
  let c ← captureRange w c { j with count := o.ext.getD (o.rank - 1) 0 } rows .ew far idx
  let c ← captureFlag w c far (some idx) (blockAt b 0x18 8)
  let c := { c with ranges := [sRange (sField x) (j.wb * count) false, sRange list (4 * count) false] }
  tokenPending w c
  pure c

/-- Sequence operations of the core on the table of the context, dispatched before command `id`, that have not taken effect: those of
shadows and of streamed-out contexts count (13 R377; 14 R386). -/
def seqPending (s : State) (w : Who) (id : Nat) : Bool :=
  (coreCmds s w.core w.ctx 1).any (fun m => m.id < id && (match m.instr with
    | .gkvApp _ | .vKvroll _ => true
    | _ => false))

/-- The snapshot of x.kvg: entry SEQ and its page-list elements for COUNT slots from FIRST (14 R386; 13 R375). -/
def snapshot (w : Who) (idx : Word) (b : List Byte) : Act (SeqEntry × List Nat) := do
  let info := fun (va : Nat) => BitVec.ofNat 64 va
  let outside : Act Unit := trapOpen .protection
  let sn := (BitVec.ofNat 32 (blockAt b 0x10 4)).toInt
  let first := blockAt b 0x14 4
  let count := blockAt b 0x18 4
  let table := seqTable (← state) w.ctx
  requireOpen (table != 0) .protection
  let head ← seqAt w 0 info outside table .er
  let head2 ← seqAt w 0 info outside (table + 32) .er
  let hb := readBytes (← state) head 32 ++ readBytes (← state) head2 32
  requireOpen (seqHeadOk hb) .reservedField
  require (0 ≤ sn && sn < (seqHeadOf hb).nseq) .objectBounds idx
  let epa ← seqAt w 0 info outside (table + 0x40 + 32 * sn.toNat) .er
  let eb := readBytes (← state) epa 32
  requireOpen (seqEntryOk eb) .reservedField
  let q := seqEntryOf eb
  let js := (List.range ((first + count - 1) / 64 - first / 64 + 1)).map (fun i => first / 64 + i)
  let mut pages : List Nat := []
  for j in js do
    if j < q.npage then
      let pa ← seqAt w 0 info outside (q.plist + 8 * j) .er
      pages := pages ++ [(readWord (← state) pa).toNat]
    else pages := pages ++ [0]
  require (js.zip pages |>.all (fun e => e.2 != 0 || q.len ≤ Nat.max (64 * e.1) first)) .objectBounds idx
  pure (q, pages)

/-- The windows of gathered slots (14 R386 steps 4 and 5). -/
def gatherOrigins (org : List Nat) (first len : Nat) (pages : List Nat) : Origins := fun g =>
  let q := first + g
  if q < len then some (pages.getD (q / 64 - first / 64) 0, org ++ [q % 64]) else none

/-- Dispatch of x.kvg. -/
def kvgCheck (x : XoArgs) (w : Who) (c : Cmd) : Act Cmd := do
  let tok ← copyToken w x c.issuer
  let idx := BitVec.ofNat 64 x.obj.toNat
  let b ← readBlock w x.pb c.issuer
  let count := blockAt b 0x18 4
  let first := blockAt b 0x14 4
  requireOpen (1 ≤ count && count ≤ 65535 && blockAt b 0x1C 4 == 0) .reservedField
  let words ← readObj w x.obj.toNat 2
  let o := objOf (wordsNat words)
  requireOpen (o.rank ≤ 5) .reservedField
  require (o.ext.getD (o.rank - 1) 0 == 64 && o.win.getD (o.rank - 1) 0 == 1) .reservedField idx
  let org ← originsOf b o idx 4 (o.rank - 1)
  waitUntil (!seqPending (← state) w c.id)
  let (q, pages) ← snapshot w idx b
  let far := o.rights.testBit 4
  let c := { c with block := b, obj := words, tok := tok, kvLen := q.len, kvVer := q.version, kvPages := pages }
  let gathered := gatherOrigins org first q.len pages
  let c ← match gathered 0 with
    | some p => capturePage w c (firstAddress (← state) w.ctx o p.1 p.2) .er far (some idx) true true
    | none => pure c
  let tag := windowTag c
  require (!c.pages.isEmpty || o.fmt != 0) .reservedField idx
  let j := jobOf o tag.1 tag.2 count
  windowChecks o idx tag (org.headD 0) j.wb
  let p := partOf (← state) w
  inPart p (sField x) (j.wb * count)
  engineOwned w p (sField x) (j.wb * count)
  let c ← captureRange w c j gathered .er far idx
  let c := { c with ranges := [sRange (sField x) (j.wb * count) true] }
  tokenPending w c
  pure c

/-- The page starts of a byte range, the first at its first byte. -/
def rangePages (va n : Nat) : List Nat :=
  (List.range ((va + n - 1) / 0x10000 - va / 0x10000 + 1)).map (fun i => Nat.max va ((va / 0x10000 + i) * 0x10000))

/-- Dispatch of x.mcpy (14 R388). -/
def mcpyCheck (x : XoArgs) (w : Who) (c : Cmd) : Act Cmd := do
  let tok ← copyToken w x c.issuer
  let b ← readBlock w x.pb c.issuer
  let dst := blockAt b 0 8
  let src := blockAt b 8 8
  let len := blockAt b 0x10 8
  requireOpen (1 ≤ len && len ≤ 2 ^ 26) .reservedField
  requireOpen (!(dst < src + len && src < dst + len)) .reservedField
  let mut c := { c with block := b, tok := tok }
  for va in rangePages src len do c ← capturePage w c va .er x.rem none false false
  for va in rangePages dst len do c ← capturePage w c va .ew x.rem none false false
  c ← captureFlag w c x.rem none (blockAt b 0x18 8)
  tokenPending w c
  pure c

/-- Fields of the block of x.rsw (14 Table 3). -/
def rswLen (b : List Byte) : Nat := blockAt b 0 4
def rswOff (b : List Byte) : Nat := blockAt b 4 4
def rswCore (b : List Byte) : Nat := blockAt b 8 1
def rswDev (b : List Byte) : Nat := blockAt b 9 1
def rswCtr (b : List Byte) : Nat := blockAt b 10 1
def rswCen (b : List Byte) : Nat := blockAt b 11 1

/-- Dispatch of x.rsw (14 R391). -/
def rswCheck (x : XoArgs) (w : Who) (c : Cmd) : Act Cmd := do
  let tok ← copyToken w x c.issuer
  let b ← readBlock w x.pb c.issuer
  requireOpen (rswDev b < 64 && rswCtr b < 64 && rswCen b < 2 && (b.drop 12).all (fun v => v == 0)) .reservedField
  requireOpen (rswLen b % 32 == 0 && 32 ≤ rswLen b && rswLen b ≤ 65536) .reservedField
  requireOpen (rswOff b % 32 == 0 && sField x % 32 == 0) .alignment
  let s ← state
  let own := rswDev b == s.gang.gidx.toNat
  requireOpen (!(rswCen b == 1 && own) || counterGranted s w.ctx (coreDie (rswCore b)) (rswCtr b)) .protection
  let p := partOf s w
  inPart p (sField x) (rswLen b)
  engineOwned w p (sField x) (rswLen b)
  let c := { c with block := b, tok := tok, ranges := [sRange (sField x) (rswLen b) false] }
  tokenPending w c
  pure c

/-! ### Start (14 R392; 09 R233) -/

/-- Pages still to be checked are translated at their owners, once no ticket of their key is open (14 R380). It answers
whether there was none. -/
def lateReady (e : Eng) : Act Bool := do
  let late := e.cmd.pages.filter (fun p => p.waiting)
  let cls := e.cmd.cls.getD 0
  let tag := windowTag e.cmd
  for p in late do
    if !keyHeld (← state) e.w.core e.w.ctx p.home cls then
      match ← ownerLeaf e.w e.cmd.id cls p.home p.va (if p.write then .ew else .er) (engAddr e p.va) with
      | none => pure ()
      | some l => do
        erequire e (if p.fmtd then (l.fmt, l.geo) == tag else plainPageOk p.write l.fmt l.geo) .formatMismatch 0
        let fix := fun (o : PageMap) =>
          if o.vpn = p.vpn && o.write = p.write then
            { o with waiting := false, pa := l.pa - p.va % 0x10000, fmt := l.fmt, geo := l.geo }
          else o
        changeCmd e (fun m => { m with pages := m.pages.map fix })
  pure late.isEmpty

/-- A copy starts once its trigger has fired and its pages are checked. -/
def copyReady (x : XoArgs) (e : Eng) : Act Bool := do
  let n := e.cmd.released
  if x.ten && (n == 0 || releasedAhead (← state) (coreDie e.w.core) n) then pure false else lateReady e

/-- The trigger of a copy holds it (06 R153). -/
def triggerHeld (x : XoArgs) (e : Eng) (_ : State) : Bool := x.ten && e.cmd.released == 0

/-- The window of a queued command. -/
def cmdJob (c : Cmd) (count : Nat) : Job :=
  let tag := windowTag c
  jobOf (objOf (wordsNat c.obj)) tag.1 tag.2 count

/-- The ring's next tile can take the window, as far as the ring's binding goes (14 R385). -/
def feedFits (r : Word) (c : Cmd) : Bool := ringEn r && (cmdJob c 1).wb ≤ 2048 * ringTsz r

/-- The trigger of an x.feed holds it, or its ring, which has no room. -/
def feedHeld (x : XoArgs) (e : Eng) (s : State) : Bool :=
  triggerHeld x e s || (feedFits (ringOf s e.w.core e.w.bank x.ring.toNat) e.cmd && !feedRoom s e.w.core e.w.bank e.k x.ring.toNat)

/-- x.feed also waits for room, unless it is going to trap. -/
def feedReady (x : XoArgs) (e : Eng) : Act Bool := do
  let s ← state
  let ring := ringOf s e.w.core e.w.bank x.ring.toNat
  if !(← copyReady x e) then pure false
  else pure (!feedFits ring e.cmd || feedRoom s e.w.core e.w.bank e.k x.ring.toNat)

/-! ### Sector pieces (07 R195) -/

/-- A store before a completed core-scope fence of the class has still to perform (08 R203, R204). -/
def behindBarrier (cls : BitVec 4) (id : Nat) : List Access → Bool
  | [] => false
  | a :: r =>
    (a.kind.isWrite && r.any (fun b => b.kind.covers cls && b.kind.covers a.cls && b.id < id)) || behindBarrier cls id r

/-- The captured page of a sector, for a read or a write. -/
def sectorPage (c : Cmd) (sector : Nat) (write : Bool) : Option PageMap :=
  c.pages.find? (fun p => p.vpn == 32 * sector / 0x10000 && p.write == write)

/-- The physical address of a sector of a page that the core's die walks; the access waits behind a fence, for stores that have
passed the core's port, and for a granule pending for a checkpoint (08 R203; 04 R102). -/
def sectorHere (e : Eng) (p : PageMap) (sector : Nat) (write : Bool) : Act Nat := do
  let s ← state
  let die := coreDie e.w.core
  let pa := p.pa + 32 * sector % 0x10000
  waitUntil (!(p.isLocal die && behindBarrier (e.cmd.cls.getD 0) e.cmd.id (bankOf s e.w.core e.w.bank).inflight))
  waitUntil (portClear s e.w.core e.cmd.id pa 32)
  waitUntil (!(write && writeStalls s pa 32))
  pure pa

/-- Sectors of a micro-step on pages of other dies, of those left, that have not left as requests. -/
def unasked (m : Cmd) (write : Bool) : List Nat :=
  m.todo.filter (fun t => (sectorPage m t write).any (fun p => p.remote) && !m.asked.contains t && !m.got.any (fun g => g.1 == t))

/-- The origins in the block of a command that names an object. -/
def cmdOrigins (c : Cmd) (o : Obj) : List Nat := (List.range o.rank).map (fun d => blockAt c.block (4 * d) 4)

/-- The windows of the rows of x.scat, by the index list in S (14 R387). -/
def scatOrigins (s : State) (e : Eng) (o : Obj) : Origins := fun g =>
  let i := (BitVec.ofNat 32 (leNat (readS s e.w.core e.part (blockAt e.cmd.block 0x10 4 + 4 * g) 4))).toInt
  if 0 ≤ i && i < o.ext.getD (o.rank - 1) 0 then some (o.base, (cmdOrigins e.cmd o).take (o.rank - 1) ++ [i.toNat]) else none

/-- The one cell of a micro-step of x.mcpy. -/
def mcpyCell (va len u : Nat) : Cell :=
  let n := Nat.min 2048 (len - 2048 * u)
  { at_ := 0, len := n, va := some (va + 2048 * u), fill := List.replicate n 0, digit := 0, memDigit := 0 }

/-- The sectors that a copy reads (false) and writes (true), micro-step by micro-step, and its arrival flag's (14 R393, R389). -/
def pieceSectors (s : State) (e : Eng) : List (Nat × Bool) :=
  let b := e.cmd.block
  let windows := fun (write : Bool) (count : Nat) (org : Obj → Origins) =>
    let j := cmdJob e.cmd count
    (List.range j.steps).flatMap (fun u => (sectorsOf (cellsOf j (org j.o) u)).map (fun t => (t, write)))
  let one := fun (write : Bool) => windows write 1 (fun o => oneImage o (cmdOrigins e.cmd o))
  let flag := if blockAt b 0x18 8 = 0 then [] else [(blockAt b 0x18 8 / 32, true)]
  match e.cmd.instr with
  | .xLd _ | .xFeed _ => one false
  | .xSt _ | .xFill _ => one true ++ flag
  | .xScat _ => windows true (blockAt b 0x14 4) (fun o => scatOrigins s e o) ++ flag
  | .xKvg _ => windows false (blockAt b 0x18 4) (fun o =>
      gatherOrigins ((cmdOrigins e.cmd o).take (o.rank - 1)) (blockAt b 0x14 4) e.cmd.kvLen e.cmd.kvPages)
  | .xMcpy _ =>
    let len := blockAt b 0x10 8
    (List.range ((len + 2047) / 2048)).flatMap (fun u =>
      (sectorsOf [mcpyCell (blockAt b 8 8) len u]).map (fun t => (t, false)) ++
        (sectorsOf [mcpyCell (blockAt b 0 8) len u]).map (fun t => (t, true))) ++ flag
  | _ => []

/-- Ascending order, equal elements as they stand. -/
def ascending (l : List Nat) : List Nat :=
  l.foldr (fun n r => r.takeWhile (· < n) ++ n :: r.dropWhile (· < n)) []

/-- The pieces of a command on pages of another die, in the order of their addresses (07 R183). -/
def farSectors (s : State) (e : Eng) (owner : Nat) : List Nat :=
  ascending ((pieceSectors s e).filterMap (fun t =>
    if (sectorPage e.cmd t.1 t.2).any (fun p => p.remote && p.home == owner) then some t.1 else none))

/-- The pieces of a command for other dies take their numbers together, in the order of their addresses (07 R183; log 85). -/
def numberPieces (e : Eng) : Act Unit := do
  let cls := e.cmd.cls.getD 0
  let mut all : List (Nat × Nat × BitVec 16) := []
  for owner in List.range 4 do
    let l := farSectors (← state) e owner
    if !l.isEmpty then
      let first ← takeSeqs e.w.core e.w.ctx owner cls l.length
      all := all ++ l.zipIdx.map (fun t => (owner, t.1, first + BitVec.ofNat 16 t.2))
  let seqs := all
  changeCmd e (fun m => { m with seqs := some seqs })

/-- The number of a command's piece as it leaves: its own, or a new one where an abandoned micro-step reads it again. -/
def pieceSeq (e : Eng) (owner sector : Nat) : Act (BitVec 16) := do
  let m := ((queueOf (← state) e.w.core e.w.bank 2).find? (fun m => m.id == e.cmd.id)).getD e.cmd
  let l := m.seqs.getD []
  match l.find? (fun t => t.1 == owner && t.2.1 == sector) with
  | some t => do
    changeCmd e (fun m => { m with seqs := some (l.erase t) })
    pure t.2.2
  | none => takeSeqs e.w.core e.w.ctx owner (e.cmd.cls.getD 0) 1

/-- A sector of another die's page leaves as a request (07 R183, R185): its key has no open ticket, every earlier command of the queue
that has pages of the key has taken its numbers, and an entry is free. -/
def askSector (e : Eng) (p : PageMap) (kind : AccKind) (sector : Nat) (mask : List (Option Byte)) : Act Unit := do
  let s ← state
  let cls := e.cmd.cls.getD 0
  waitUntil (!keyHeld s e.w.core e.w.ctx p.home cls)
  waitUntil (!unnumbered ((queueOf s e.w.core e.w.bank 2).take e.k) cls p.home)
  match freeTicket (bankOf s e.w.core e.w.bank) with
  | none => waitHere
  | some n => do
    if e.cmd.seqs.isNone then numberPieces e
    let seq ← pieceSeq e p.home sector
    let a := placeRemote e.cmd.id kind cls e.w.ctx ⟨0, 32 * sector, 32⟩ p.home
    sendRequest e.w.core e.w.bank n { a with pa := p.pa + 32 * sector % 0x10000, fwd := mask } seq
    changeCmd e (fun m => { m with asked := m.asked ++ [sector] })

/-- The answer to a sector's request, taken out of the command; none while it has not come. A sector that has not been asked for
leaves in the order of addresses: `ask` sends one. -/
def answered (e : Eng) (write : Bool) (sector : Nat) (ask : Nat → Act Unit) : Act (Option (List Byte)) := do
  match aget e.cmd.got sector with
  | some bs => do
    changeCmd e (fun m => { m with got := m.got.filter (fun g => g.1 != sector) })
    pure (some bs)
  | none => do
    if e.cmd.asked.contains sector then waitHere
    ask ((unasked e.cmd write).foldl Nat.min sector)
    pure none

/-- How a copy reads memory: T5 digits one by one; bytes of an element, 32 where an error strikes the whole sector; where an
element goes in S, none for a memory destination (14 R394). -/
structure Reading where
  t5 : Bool
  size : Nat
  place : List Cell → Nat → Option Nat

/-- The bytes of a sector as the runs of a copy read them: an element with an uncorrectable error is 0 and is reported (14 R394). -/
def soundSector (e : Eng) (rd : Reading) (cs : List Cell) (sector pa : Nat) (bs : List Byte) : Act (List Byte) := do
  let s ← state
  if s.flaws.isEmpty then pure bs
  else
    let runs := runsIn rd.t5 cs sector
    let run := fun (i : Nat) => runs.find? (fun r => r.va ≤ 32 * sector + i && 32 * sector + i < r.va + r.len)
    let bad := (List.range 32).filter (fun i => s.flaws.contains (.mem (pa + i)) && (run i).isSome)
    let place := fun (k : Nat) => (bad.find? (fun i => i / rd.size == k)).bind (fun i =>
      (run i).bind (fun r => rd.place cs (r.buf + (Nat.max (rd.size * k + 32 * sector) r.va - r.va))))
    let elems := (bad.map (· / rd.size)).eraseDups
    change (fun s => dropFlaws (elems.foldl (fun s k =>
      match place k with
      | some o => dataError s e.w.core 2 false (o / 2048) 0 (o % 2048)
      | none => dataError s e.w.core 2 false 0 0 0) s) (bad.map (fun i => .mem (pa + i))))
    pure (zeroElems rd.size elems bs)

/-- The runs of one sector are read into the buffer; none where its request has only left. -/
def readSector (e : Eng) (rd : Reading) (cs : List Cell) (sector : Nat) (buf : List Byte) : Act (Option (List Byte)) := do
  match sectorPage e.cmd sector false with
  | none => cannot "the page was not captured"
  | some p => do
    let got ← if p.remote then answered e false sector (fun t => match sectorPage e.cmd t false with
        | some p => askSector e p .copyRead t []
        | none => waitHere)
      else do
        let pa ← sectorHere e p sector false
        pure (some (readBytes (← state) pa 32))
    match got with
    | none => pure none
    | some bs => do
      let bs ← soundSector e rd cs sector (p.pa + 32 * sector % 0x10000) bs
      pure (some ((runsIn rd.t5 cs sector).foldl (fun b r => layAt b r.buf ((bs.drop (r.va - 32 * sector)).take r.len)) buf))

/-- The row of a job's images that holds a place of the read buffer. -/
def bufRow (j : Job) (u place : Nat) : Nat := (2048 * u + (if j.fmt = 9 then place / 5 else place)) / j.wb

/-- What the runs of a sector write: its bytes, or its T5 digits five a byte; later runs take the place of earlier ones. -/
def writeMask (t5 : Bool) (cs : List Cell) (sector : Nat) (buf : List Byte) : List (Option Byte) :=
  (runsIn t5 cs sector).foldl (fun m r =>
    if t5 then m.set (5 * (r.va - 32 * sector) + r.memDigit) (some (buf.getD r.buf 0))
    else putAt m (r.va - 32 * sector) ((buf.drop r.buf).take r.len))
    (List.replicate (if t5 then 160 else 32) none)

/-- Bytes that the runs of a sector write, each row's counted for itself (14 Table 4, log 69). -/
def runsCount (t5 : Bool) (row : Nat → Nat) (cs : List Cell) (sector : Nat) : Nat :=
  ((runsIn t5 cs sector).flatMap (fun r =>
    (List.range r.len).map (fun i => (row (r.buf + (if t5 then 0 else i)), r.va + i)))).eraseDups.length

/-- A mask is written to a sector; whether it has been, and not only left as a request. -/
def putSector (e : Eng) (t5 : Bool) (mask : Nat → List (Option Byte)) (sector : Nat) : Act Bool := do
  match sectorPage e.cmd sector true with
  | none => cannot "the page was not captured"
  | some p =>
    if p.remote then do
      let got ← answered e true sector (fun t => match sectorPage e.cmd t true with
        | some p => askSector e p (.copyWrite t5) t (mask t)
        | none => waitHere)
      pure got.isSome
    else do
      let pa ← sectorHere e p sector true
      change (fun s => if t5 then writeDigits s pa (mask sector) else writeMasked s pa (mask sector))
      pure true

/-- The runs of one sector are written from the buffer; T5 digits replace those of the bytes in memory. It answers whether they are,
or the request has only left. -/
def writeSector (e : Eng) (t5 : Bool) (cs : List Cell) (sector : Nat) (buf : List Byte) : Act Bool :=
  putSector e t5 (fun t => writeMask t5 cs t buf) sector

/-- The sector a command turns to next: any of those left. -/
def nextSector (todo : List Nat) : Act Nat := do
  let i ← drawIndex todo.length
  pure (todo.getD i 0)

/-- The later pieces of a copy queue wait behind one that has drawn a ticket (07 R193). -/
def behindTicket (e : Eng) : Act Unit := do
  waitUntil (!copyParked (bankOf (← state) e.w.core e.w.bank) e.cmd.id)

/-! ### Images in S -/

/-- The cells of a job's image in S, with the place of each. -/
def cellPlace (j : Job) (base u : Nat) (c : Cell) : Nat := base + swzOff j.o.swz (2048 * u + c.at_)

/-- The reading of a job that lands in S: the cell of a buffer place says where it goes. -/
def windowReading (j : Job) (base u : Nat) : Reading :=
  { t5 := j.fmt == 9, size := Nat.max 1 (sizeOf' j.fmt)
    place := fun cs b =>
      if j.fmt = 9 then some (base + 2048 * u + b / 5)
      else (cs.find? (fun c => c.at_ ≤ b && b < c.at_ + c.len)).map (fun c => cellPlace j base u c + (b - c.at_)) }

/-- The reading of x.mcpy. -/
def plainReading : Reading := { t5 := false, size := 32, place := fun _ _ => none }

/-- The reserved T5 bytes of a read buffer are logged (10 R255; 14 R394). -/
def logTernary (e : Eng) (slots : List (Nat × Byte)) : Act Unit :=
  change (fun s => slots.foldl (fun s p =>
    if 243 ≤ p.2.toNat then dataError s e.w.core 2 false (p.1 / 2048) 0 (p.1 % 2048) else s) s)

/-- The read buffer's image is written to S and its slots are stamped (14 R384). -/
def landImage (e : Eng) (j : Job) (base : Nat) (cs : List Cell) (buf : List Byte) : Act Unit := do
  let u := e.cmd.upc
  if j.fmt = 9 then
    let n := Nat.min 2048 (j.wb * j.count - 2048 * u)
    let digit := fun (i d : Nat) =>
      match cs.find? (fun c => c.at_ == i && c.digit == d) with
      | some c => if c.va.isSome then (t5Digits (buf.getD (5 * i + d) 0)).getD c.memDigit 0 else 0
      | none => 0
    logTernary e ((cs.filter (fun c => c.va.isSome)).map (fun c => (base + 2048 * u + c.at_, buf.getD (5 * c.at_ + c.digit) 0)) |>.eraseDups)
    putBytes e j.fmt j.geo (base + 2048 * u) ((List.range n).map (fun i => t5Byte ((List.range 5).map (digit i))))
  else
    for c in cs do putBytes e j.fmt j.geo (cellPlace j base u c) ((buf.drop c.at_).take c.len)

/-- The image of a micro-step as S holds it (x.st, x.scat). -/
def liftImage (e : Eng) (j : Job) (base : Nat) (cs : List Cell) : Act (List Byte) := do
  let u := e.cmd.upc
  if j.fmt = 9 then
    let n := Nat.min 2048 (j.wb * j.count - 2048 * u)
    let bs ← getBytes e 1 (base + 2048 * u) n
    logTernary e ((bs.filter (fun b => 243 ≤ b.toNat)).map (fun b => (0, b)))
    pure (bs.flatMap (fun b => (t5Digits b).map (fun d => BitVec.ofNat 8 d)))
  else do
    let mut buf := List.replicate 2048 (0 : Byte)
    for c in cs do
      if c.va.isSome then
        let bs ← getBytes e (Nat.max 1 (sizeOf' j.fmt)) (cellPlace j base u c) c.len
        buf := layAt buf c.at_ bs
    pure buf

/-- The image of a window beyond the ragged edge: the fill value (03 R74; 14 R382). -/
def fillImage (j : Job) (cs : List Cell) : List Byte :=
  cs.foldl (fun b c => layAt b (c.buf (j.fmt == 9)) c.fill) (List.replicate (if j.fmt = 9 then 10240 else 2048) 0)

/-! ### Micro-steps (14 R393, R409) -/

/-- A command has performed its last write: it retires, and its token is due (14 R381). -/
def finishCopy (e : Eng) (value : Word) : Act Bool := do
  let due : TokenDue := { id := e.cmd.id, reg := e.cmd.tok, issuer := e.cmd.issuer, value := value }
  change (fun s => updBank s e.w.core e.w.bank (fun k => { k with tokens := k.tokens ++ [due] }))
  pure true

/-- The arrival flag, once every byte has performed, and then the end (14 R389). -/
def flagAndFinish (e : Eng) (flag : Nat) (value : Word) : Act Bool := do
  if flag = 0 then finishCopy e value
  else do
    behindTicket e
    let word := putAt (List.replicate 32 none) (flag % 32) (leBytes 8 1)
    if (← putSector e false (fun _ => word) (flag / 32)) then finishCopy e value
    else pure false

/-- A micro-step that brings memory into S: sectors read one by one, then the image written at once. -/
def loadStep (e : Eng) (j : Job) (org : Origins) (base : Nat) : Act Unit := do
  let cs := cellsOf j org e.cmd.upc
  if e.cmd.phase = 0 then
    changeCmd e (fun m => { m with phase := 1, todo := sectorsOf cs, buf := fillImage j cs })
  else if e.cmd.todo.isEmpty then do
    landImage e j base cs e.cmd.buf
    changeCmd e (fun m => { m with phase := 0, buf := [], upc := e.cmd.upc + 1 })
  else do
    behindTicket e
    let t ← nextSector e.cmd.todo
    match ← readSector e (windowReading j base e.cmd.upc) cs t e.cmd.buf with
    | some buf => changeCmd e (fun m => { m with todo := e.cmd.todo.erase t, buf := buf })
    | none => pure ()

/-- A micro-step that takes an image to memory: the image read at once, then sectors written one by one. -/
def storeStep (e : Eng) (j : Job) (org : Origins) (image : List Cell → Act (List Byte)) : Act Unit := do
  let cs := cellsOf j org e.cmd.upc
  if e.cmd.phase = 0 then do
    let buf ← image cs
    changeCmd e (fun m => { m with phase := 2, todo := sectorsOf cs, buf := buf })
  else if e.cmd.todo.isEmpty then
    changeCmd e (fun m => { m with phase := 0, buf := [], upc := e.cmd.upc + 1 })
  else do
    behindTicket e
    let t ← nextSector e.cmd.todo
    match ← writeSector e (j.fmt == 9) cs t e.cmd.buf with
    | true => changeCmd e (fun m => { m with todo := e.cmd.todo.erase t })
    | false => pure ()

def ldMicro (x : XoArgs) (e : Eng) : Act Bool := do
  let j := cmdJob e.cmd 1
  if e.cmd.upc < j.steps then do
    loadStep e j (oneImage j.o (cmdOrigins e.cmd j.o)) (sField x)
    pure false
  else finishCopy e (BitVec.ofNat 64 j.wb)

/-- Every source slot carries the window's tag (14 R384). -/
def sourceTags (e : Eng) (j : Job) (base : Nat) : Act Unit := do
  if e.cmd.upc = 0 && e.cmd.phase = 0 then
    let s ← state
    let ok := fun (i : Nat) =>
      let o := slotOf s e.w.core (e.part.s0 + i)
      (o.fmt, o.geo) == (j.fmt, j.geo)
    erequire e ((slotsOf base (j.wb * j.count)).all ok) .formatMismatch base

/-- The bytes that a command writes to its object, all micro-steps together (14 R381). -/
def writtenBytes (j : Job) (org : Origins) : Word :=
  BitVec.ofNat 64 ((List.range j.steps).map (fun u =>
    let cs := cellsOf j org u
    ((sectorsOf cs).map (runsCount (j.fmt == 9) (bufRow j u) cs)).sum)).sum

def stMicro (x : XoArgs) (e : Eng) : Act Bool := do
  let j := cmdJob e.cmd 1
  sourceTags e j (sField x)
  if e.cmd.upc < j.steps then do
    storeStep e j (oneImage j.o (cmdOrigins e.cmd j.o)) (liftImage e j (sField x))
    pure false
  else flagAndFinish e (blockAt e.cmd.block 0x18 8) (writtenBytes j (oneImage j.o (cmdOrigins e.cmd j.o)))

def fillMicro (e : Eng) : Act Bool := do
  let j := cmdJob e.cmd 1
  if e.cmd.upc < j.steps then do
    storeStep e j (oneImage j.o (cmdOrigins e.cmd j.o)) (fun cs => pure (fillImage j cs))
    pure false
  else flagAndFinish e (blockAt e.cmd.block 0x18 8) (writtenBytes j (oneImage j.o (cmdOrigins e.cmd j.o)))

/-- A rank-1 scatter takes its dimension-0 origins from the index list: in a block format each that lies in the extent is a multiple
of 32 (14 R382), checked before any byte is written. -/
def scatAligned (s : State) (e : Eng) (j : Job) : Bool :=
  j.geo != 1 || j.o.rank != 1 || (List.range j.count).all (fun g =>
    match scatOrigins s e j.o g with
    | some p => p.2.headD 0 % 32 == 0
    | none => true)

def scatMicro (x : XoArgs) (e : Eng) : Act Bool := do
  let j := cmdJob e.cmd (blockAt e.cmd.block 0x14 4)
  sourceTags e j (sField x)
  if e.cmd.upc = 0 && e.cmd.phase = 0 then erequire e (scatAligned (← state) e j) .reservedField (blockAt e.cmd.block 0x10 4)
  if e.cmd.upc < j.steps then do
    let list := blockAt e.cmd.block 0x10 4
    putPlain e list (← getBytes e 4 list (4 * j.count))
    storeStep e j (scatOrigins (← state) e j.o) (liftImage e j (sField x))
    pure false
  else flagAndFinish e (blockAt e.cmd.block 0x18 8) (writtenBytes j (scatOrigins (← state) e j.o))

def kvgMicro (x : XoArgs) (e : Eng) : Act Bool := do
  let b := e.cmd.block
  let j := cmdJob e.cmd (blockAt b 0x18 4)
  if e.cmd.upc < j.steps then do
    let org := (cmdOrigins e.cmd j.o).take (j.o.rank - 1)
    loadStep e j (gatherOrigins org (blockAt b 0x14 4) e.cmd.kvLen e.cmd.kvPages) (sField x)
    pure false
  else finishCopy e (BitVec.ofNat 64 (e.cmd.kvVer * 2 ^ 32 + e.cmd.kvLen))

def feedMicro (x : XoArgs) (e : Eng) : Act Bool := do
  let s ← state
  let n := x.ring.toNat
  let r := ringOf s e.w.core e.w.bank n
  let j := cmdJob e.cmd 1
  let ahead := feedsAhead s e.w.core e.w.bank e.k n
  erequire e (e.cmd.upc != 0 || e.cmd.phase != 0 || feedFits r e.cmd) .reservedField 0
  if e.cmd.upc < j.steps then do
    loadStep e j (oneImage j.o (cmdOrigins e.cmd j.o)) (2048 * ringSlot r (ringTail r + ahead))
    pure false
  else do
    waitUntil (ahead == 0)
    stampSlots e j.fmt j.geo ((List.range (ringTsz r)).map (fun i => ringSlot r (ringTail r) + i))
    change (fun s => setRing s e.w.core e.w.bank n (ringPushed r 1))
    finishCopy e (BitVec.ofNat 64 j.wb)

def mcpyMicro (e : Eng) : Act Bool := do
  let b := e.cmd.block
  let len := blockAt b 0x10 8
  let u := e.cmd.upc
  let src := [mcpyCell (blockAt b 8 8) len u]
  let dst := [mcpyCell (blockAt b 0 8) len u]
  if u < (len + 2047) / 2048 then do
    if e.cmd.phase = 0 then
      changeCmd e (fun m => { m with phase := 1, todo := sectorsOf src, buf := List.replicate 2048 0 })
    else if e.cmd.todo.isEmpty then
      if e.cmd.phase = 1 then changeCmd e (fun m => { m with phase := 2, todo := sectorsOf dst })
      else changeCmd e (fun m => { m with phase := 0, buf := [], upc := u + 1 })
    else do
      behindTicket e
      let t ← nextSector e.cmd.todo
      if e.cmd.phase = 1 then do
        match ← readSector e plainReading src t e.cmd.buf with
        | some buf => changeCmd e (fun m => { m with todo := e.cmd.todo.erase t, buf := buf })
        | none => pure ()
      else if (← writeSector e false dst t e.cmd.buf) then
        changeCmd e (fun m => { m with todo := e.cmd.todo.erase t })
    pure false
  else flagAndFinish e (blockAt b 0x18 8) (BitVec.ofNat 64 len)

/-- The tag that a destination slot of x.rsw takes: that of the source slot of its bytes; either, where two slots fill it. -/
def rswTag (x : XoArgs) (c : Cmd) (slot : Nat) : Act TileTag := do
  let off := rswOff c.block
  let lo := Nat.max off (2048 * slot) - off
  let hi := Nat.min (off + rswLen c.block) (2048 * slot + 2048) - 1 - off
  let tag := fun (i : Nat) => (aget c.tags ((sField x + i) / 2048)).getD (0, 0)
  if tag lo == tag hi then pure (tag lo)
  else pure (if (← drawBool) then tag lo else tag hi)

/-- Bytes of S read slot by slot, in elements of each slot's format (14 R391, R394). -/
def getImage (e : Eng) (off n : Nat) : Act (List Byte) := do
  let mut out : List Byte := []
  for i in slotsOf off n do
    let lo := Nat.max off (2048 * i)
    let t ← touchTag e i
    out := out ++ (← getBytes e (Nat.max 1 (sizeOf' t.1)) lo (Nat.min (off + n) (2048 * i + 2048) - lo))
  pure out

/-- x.rsw: the tags of the source slots must be legal (00 R6, 10 R258); the image is read 2,048 bytes a micro-step, leaves whole,
and the command retires with its acknowledgement (14 R391). That of another device comes at a time of its own. What a loaded block does
not show of the image is read again (09 R237). -/
def rswMicro (x : XoArgs) (e : Eng) : Act Bool := do
  let b := e.cmd.block
  let len := rswLen b
  let u := e.cmd.upc
  let stays := rswDev b == (← state).gang.gidx.toNat
  if e.cmd.phase = 3 then do
    if !stays && (← drawBool) then finishCopy e (BitVec.ofNat 64 len)
    else waitHere
  else if u < (len + 2047) / 2048 then do
    behindTicket e
    if u = 0 then
      for i in slotsOf (sField x) len do
        let t ← touchTag e i
        erequire e (fmtOk t.1 t.2) .formatMismatch (2048 * i)
    let bs ← getImage e (sField x + 2048 * u) (Nat.min 2048 (len - 2048 * u))
    changeCmd e (fun m => { m with buf := m.buf ++ bs, upc := u + 1 })
    pure false
  else if e.cmd.buf.length != len then do
    let bs ← getImage e (sField x) len
    changeCmd e (fun m => { m with buf := bs })
    pure false
  else do
    behindTicket e
    let mut tags : List TileTag := []
    for i in slotsOf (rswOff b) len do tags := tags ++ [← rswTag x e.cmd i]
    sendImage (rswDev b)
      { rsw := true, fromCore := e.w.core, fromBank := e.w.bank, core := rswCore b, off := rswOff b, bytes := e.cmd.buf,
        tags := tags, add := false, ctr := rswCtr b, cen := rswCen b == 1, phase := (coreOf (← state) e.w.core).phase,
        cmd := e.cmd.id, route := 0 }
    changeCmd e (fun m => { m with phase := 3, buf := [] })
    pure false

/-! ### The commands -/

def ldSpec (x : XoArgs) : CmdSpec :=
  { queue := 2, check := windowCopyCheck { store := false, inS := true } false x, ready := copyReady x,
    micro := ldMicro x, held := triggerHeld x }

def stSpec (x : XoArgs) : CmdSpec :=
  { queue := 2, check := windowCopyCheck { store := true, inS := true } false x, ready := copyReady x,
    micro := stMicro x, held := triggerHeld x }

def feedSpec (x : XoArgs) : CmdSpec :=
  { queue := 2, check := windowCopyCheck { store := false, inS := false } true x, ready := feedReady x,
    micro := feedMicro x, held := feedHeld x }

def kvgSpec (x : XoArgs) : CmdSpec :=
  { queue := 2, check := kvgCheck x, ready := copyReady x, micro := kvgMicro x, held := triggerHeld x }

def scatSpec (x : XoArgs) : CmdSpec :=
  { queue := 2, check := scatCheck x, ready := copyReady x, micro := scatMicro x, held := triggerHeld x }

def xFillSpec (x : XoArgs) : CmdSpec :=
  { queue := 2, check := windowCopyCheck { store := true, inS := false } false x, ready := copyReady x,
    micro := fillMicro, held := triggerHeld x }

def mcpySpec (x : XoArgs) : CmdSpec :=
  { queue := 2, check := mcpyCheck x, ready := copyReady x, micro := mcpyMicro, held := triggerHeld x }

/-- x.pref has no effect on any visible state and raises no fault (14 R390). -/
def prefSpec : CmdSpec :=
  { queue := 2, check := fun _ c => pure c, ready := startsFreely, micro := fun _ => pure true }

def rswSpec (x : XoArgs) : CmdSpec :=
  { queue := 2, check := rswCheck x, ready := copyReady x, micro := rswMicro x, held := triggerHeld x }

/-- x.ld: an object window into S (14 R384). -/
def execXLd (x : XoArgs) (s : State) : Host.Outcome State Fault Refusal := runCommand (.xLd x) (ldSpec x) s

/-- x.st: S into an object window (14 R384). -/
def execXSt (x : XoArgs) (s : State) : Host.Outcome State Fault Refusal := runCommand (.xSt x) (stSpec x) s

/-- x.feed: an object window into a ring's next tile (14 R385). -/
def execXFeed (x : XoArgs) (s : State) : Host.Outcome State Fault Refusal := runCommand (.xFeed x) (feedSpec x) s

/-- x.kvg: sequence slots into S (14 R386). -/
def execXKvg (x : XoArgs) (s : State) : Host.Outcome State Fault Refusal := runCommand (.xKvg x) (kvgSpec x) s

/-- x.scat: rows of S to indexed positions (14 R387). -/
def execXScat (x : XoArgs) (s : State) : Host.Outcome State Fault Refusal := runCommand (.xScat x) (scatSpec x) s

/-- x.fill: the fill value into an object window (14 R384). -/
def execXFill (x : XoArgs) (s : State) : Host.Outcome State Fault Refusal := runCommand (.xFill x) (xFillSpec x) s

/-- x.mcpy: memory to memory (14 R388). -/
def execXMcpy (x : XoArgs) (s : State) : Host.Outcome State Fault Refusal := runCommand (.xMcpy x) (mcpySpec x) s

/-- x.pref (14 R390). -/
def execXPref (pb : BitVec 14) (s : State) : Host.Outcome State Fault Refusal := runCommand (.xPref pb) prefSpec s

/-- x.rsw: S into another core's S (14 R391). -/
def execXRsw (x : XoArgs) (s : State) : Host.Outcome State Fault Refusal := runCommand (.xRsw x) (rswSpec x) s

end Sys2Proof.Machine
end

