-- ==== Sys2Proof/Machine/CollectiveOps.lean ====
section
/-!
DEFINITION. The arithmetic of collectives (02 R46 to R49, R52), the levels of a cavity (R48), trigger counters (R30), the signature
and its verdict (R38 to R40), blocks on their way (14 R403).
-/

namespace Sys2Proof.Machine

/-! ### Elements (02 R46) -/

/-- An element widened: a number, an integer, or the two numbers of a pair. -/
inductive CElem where
  | num (x : Num)
  | int (i : Int)
  | pair (x y : Num)
deriving DecidableEq, Repr

/-- The pair operators. -/
def isPairOp (op : BitVec 4) : Bool := op == 4 || op == 8

/-- Table 4: the types of an operator. -/
def opTypesOk (op : BitVec 4) (fmt : BitVec 6) : Bool :=
  if op.toNat ≤ 3 then isNumeric (fmt, 0)
  else if isPairOp op then fmt == 1
  else op.toNat ≤ 7 && isIntFmt fmt

/-- Bytes of an element in a format. -/
def elemSize (op : BitVec 4) (fmt : BitVec 6) : Nat := if isPairOp op then 2 * sizeOf' fmt else sizeOf' fmt

/-- Bytes of a widened element. -/
def wideSize (op : BitVec 4) : Nat := if isPairOp op then 8 else 4

/-- Numbers to an element: 2 for pairs. -/
def perElem (op : BitVec 4) : Nat := if isPairOp op then 2 else 1

/-- Pairs of consecutive numbers. -/
def pairUp : List Num → List CElem
  | x :: y :: r => .pair x y :: pairUp r
  | _ => []

/-- The elements of a block in a format, FP8 with scales when `mx`. -/
def decodeBlock (op : BitVec 4) (fmt : BitVec 6) (mx : Bool) (count : Nat) (bs : List Byte) : List CElem :=
  let a := bs.toArray
  let at_ := fun (k : Nat) => (a[k]?.getD 0).toNat
  let size := sizeOf' fmt
  if isIntFmt fmt then
    (List.range count).map (fun i =>
      .int (widenInt fmt ((List.range size).foldl (fun v k => v + at_ (size * i + k) * 256 ^ k) 0)))
  else
    let xs := (List.range (perElem op * count)).map (elemNum fmt (if mx then 1 else 0) [] at_)
    if isPairOp op then pairUp xs else xs.map .num

/-- The numbers of elements, in order. -/
def numbersOf (es : List CElem) : List Num :=
  es.flatMap (fun e =>
    match e with
    | .num x => [x]
    | .int i => [Num.ofInt i]
    | .pair x y => [x, y])

/-- A unit of MX blocks of FP8 (10 R257, R260). -/
def mxUnit (fmt : BitVec 6) (rd : Rnd) (xs : List Num) : List Byte :=
  match floatFmt fmt with
  | none => []
  | some f =>
    let (nb, db) := mxBlocks fmt
    let enc := (List.range nb).map (fun b =>
      let x := (xs.drop (32 * b)).take 32
      if x.isEmpty then (0, []) else (mxScale f x, x.map (mxEncode f (mxScale f x) rd)))
    let data := enc.flatMap (fun e => (e.2 ++ List.replicate (db - e.2.length) 0).map (BitVec.ofNat 8))
    let out := data ++ enc.map (fun e => BitVec.ofNat 8 e.1)
    out ++ List.replicate (2048 - out.length) 0

/-- Numbers in FP8 with one scale per 32 elements. -/
def mxBytes (fmt : BitVec 6) (rd : Rnd) (xs : List Num) : List Byte :=
  let per := 32 * (mxBlocks fmt).1
  (List.range ((xs.length + per - 1) / per)).flatMap (fun u => mxUnit fmt rd ((xs.drop (per * u)).take per))

/-- Elements in a format: rounded once, integers saturated (02 R36, R47). -/
def encodeBlock (fmt : BitVec 6) (mx : Bool) (rd : Rnd) (es : List CElem) : List Byte :=
  if mx then mxBytes fmt rd (numbersOf es)
  else
    es.flatMap (fun e =>
      match e with
      | .int i => leBytes (sizeOf' fmt) (satInt fmt i)
      | .num x => leBytes (sizeOf' fmt) (roundTo fmt rd x)
      | .pair x y => leBytes (sizeOf' fmt) (roundTo fmt rd x) ++ leBytes (sizeOf' fmt) (roundTo fmt rd y))

/-- The widened format: FP32, or INT32 for an integer type. -/
def wideFmt (fmt : BitVec 6) : BitVec 6 := if isIntFmt fmt then 8 else 1

/-! ### Operators (02 R47) -/

def isMinusInf (x : Num) : Bool := x == .inf true

/-- INT32 with wraparound. -/
def wrap32 (i : Int) : Int := (BitVec.ofInt 32 i).toInt

/-- Bit by bit on INT32. -/
def bits32 (f : BitVec 32 → BitVec 32 → BitVec 32) (a b : Int) : Int := (f (BitVec.ofInt 32 a) (BitVec.ofInt 32 b)).toInt

/-- x ⊕ y. -/
def combine (op : BitVec 4) (rd : Rnd) (x y : CElem) : CElem :=
  let rdn := rd.mode == 3
  match x, y with
  | .int a, .int b =>
    .int (match op.toNat with
      | 0 => wrap32 (a + b)
      | 1 => max a b
      | 2 => min a b
      | 3 => wrap32 (a * b)
      | 5 => bits32 (· &&& ·) a b
      | 6 => bits32 (· ||| ·) a b
      | _ => bits32 (· ^^^ ·) a b)
  | .num a, .num b =>
    .num (match op.toNat with
      | 0 => toFp32 rd (addNum rdn a b)
      | 1 => maxNum a b
      | 2 => minNum a b
      | _ => toFp32 rd (mulNum a b))
  | .pair a b, .pair c d =>
    if op = 4 then
      if isMinusInf a then .pair c d
      else if isMinusInf c then .pair a b
      else
        let m := maxNum a c
        let e := fun (v : Num) => toFp32 rd (exp2Num (addNum false v m.negate))
        let t1 := toFp32 rd (mulNum b (e a))
        let t2 := toFp32 rd (mulNum d (e c))
        .pair m (toFp32 rd (addNum rdn t1 t2))
    else .pair (toFp32 rd (mulNum c a)) (fmaNum rd c b d)
  | a, _ => a

/-- ⊕ element by element on widened blocks; the empty marker has no bytes. -/
def combineWide (op : BitVec 4) (fmt : BitVec 6) (rd : Rnd) (count : Nat) (x y : List Byte) : List Byte :=
  if x.isEmpty then y
  else if y.isEmpty then x
  else
    let f := wideFmt fmt
    encodeBlock f false { mode := 0, r := 0 }
      (List.zipWith (combine op rd) (decodeBlock op f false count x) (decodeBlock op f false count y))

/-- The identity of an operator (02 R46 Table 4), in a format (R52): a NaN where the format has none. -/
def identityElem (op : BitVec 4) (fmt : BitVec 6) : CElem :=
  if isIntFmt fmt then
    .int (match op.toNat with
      | 1 => (intRange fmt).1
      | 2 => (intRange fmt).2
      | 3 => 1
      | 5 => if fmt = 0 then 255 else -1
      | _ => 0)
  else
    match op.toNat with
    | 1 => if fmt = 4 then .num .nan else .num (.inf true)
    | 2 => if fmt = 4 then .num .nan else .num (.inf false)
    | 3 => .num one
    | 4 => .pair (.inf true) (.zero false)
    | 8 => .pair one (.zero false)
    | _ => .num (.zero false)

/-! ### Members and levels (02 R25, R48, R398) -/

/-- A member is the last of its unit: the highest core of the membership in its cluster (8) or its die (64). -/
def lastOf (ms : List Nat) (unit c : Nat) : Bool := ms.all (fun x => x / unit != c / unit || x ≤ c)

/-- Levels of a cavity within the device. -/
def cavLevels (ms : List Nat) : Nat :=
  let c := ms.headD 0
  if ms.all (fun x => x / 8 == c / 8) then 1 else if ms.all (fun x => x / 64 == c / 64) then 2 else 3

/-- The contributors of a member's group at a level, in rank order: members, representatives of clusters, of dies. -/
def contributors (ms : List Nat) (level c : Nat) : List Nat :=
  match level with
  | 1 => ms.filter (fun x => x / 8 == c / 8)
  | 2 => ms.filter (fun x => x / 64 == c / 64 && lastOf ms 8 x)
  | _ => ms.filter (lastOf ms 64)

/-- The members a level's values are passed down to by the contributor that holds them. -/
def passedTo (ms : List Nat) (level c : Nat) : List Nat :=
  match level with
  | 1 => []
  | 2 => ms.filter (fun x => x / 8 == c / 8 && x != c)
  | _ => ms.filter (fun x => x / 64 == c / 64 && x != c)

/-- The levels of a cavity: those of the membership, and the devices' above them (14 R398). -/
def Program.levels (g : Program) : Nat := cavLevels g.members + (if 1 < g.dcount then 1 else 0)

/-- A level is that of the devices. -/
def Program.gangLevel (g : Program) (level : Nat) : Bool := level == cavLevels g.members + 1

/-- The levels for which a member that represents its groups has a further pair of sweep buffers (02 R50; 14 R398): at most three,
pairs 1 to 3. -/
def repLevels (ms : List Nat) (drank dcount c : Nat) : Nat :=
  Nat.min 3 (((List.range (cavLevels ms)).filter (fun i => (contributors ms (i + 1) c).getLast? == some c)).length +
    (if 1 < dcount && drank + 1 = dcount && ms.getLast? = some c then 1 else 0))

/-! ### Signature and verdict (02 R38 to R41) -/

def signatureOf (g : Program) : Word :=
  sieve (BitVec.ofNat 64 (g.op.toNat * 2 ^ 56 + g.fmt.toNat * 2 ^ 48 + g.fold * 2 ^ 16 + g.seq.toNat)) (BitVec.ofNat 64 g.count)

/-- The programs of a collective: one fold, one sequence number, one captured membership (02 R41). -/
structure CollId where
  fold : Nat
  seq : BitVec 16
  mask : BitVec 256
deriving DecidableEq, Repr

def Program.coll (g : Program) : CollId := ⟨g.fold, g.seq, g.mask⟩
def Post.coll (q : Post) : CollId := ⟨q.fold, q.seq, q.mask⟩

def updProgram (s : State) (p : Nat) (f : Program → Program) : State := { s with programs := aupd s.programs p f }

/-- Every program of some collectives changes. -/
def updColl (s : State) (on : CollId → Bool) (f : Program → Program) : State :=
  { s with programs := s.programs.map (fun e => (e.1, if on e.2.coll then f e.2 else e.2)) }

/-- The verdict of a collective is "mismatch": every member that has not ended ends with COLLECTIVE_MISMATCH, and its posts match
no later one. -/
def mismatch (s : State) (id : CollId) : State :=
  let s := updColl s (· == id) (fun g => { g with verdict := .mismatch, code := g.code.or (some .collectiveMismatch) })
  { s with net := { s.net with posts := s.net.posts.map (fun q => if q.coll = id then { q with sig := none } else q) } }

/-- Every member of a membership has posted, and the gang's other devices have. -/
def allPosted (posts : List Post) (mask : BitVec 256) : Bool :=
  (maskMembers mask).all (fun c => posts.any (fun q => q.core == c)) &&
    (posts.all (fun q => !q.gang) || posts.any (fun q => 256 ≤ q.core))

/-- The posts of a collective that have arrived. -/
def postsOf (s : State) (id : CollId) : List Post := s.net.posts.filter (fun q => q.arrived && q.coll == id)

/-- What the posts of a collective say: it matches, it does not, or it is open. -/
def postVerdict (s : State) (id : CollId) : Verdict :=
  let posts := postsOf s id
  match posts.head? with
  | none => .open_
  | some h =>
    if posts.any (fun q => q.sig.isNone || q.sig != h.sig) then .mismatch
    else if allPosted posts id.mask then .matched
    else .open_

/-- Captured memberships whose members' posts with one fold and number are open. -/
def openMasks (s : State) (id : CollId) : List (BitVec 256) :=
  ((s.net.posts.filter (fun q => q.arrived && q.fold == id.fold && q.seq == id.seq)).map (·.mask)).eraseDups.filter
    (fun m => postVerdict s { id with mask := m } == .open_)

/-- The verdict as far as the posts that have arrived settle it. Of members whose captured memberships differ, and have not
matched among themselves, none matches (02 R41). -/
def settleVerdict (s : State) (id : CollId) : State :=
  match postVerdict s id with
  | .mismatch => mismatch s id
  | .matched => updColl s (· == id) (fun g => if g.verdict = .open_ then { g with verdict := .matched } else g)
  | .open_ =>
    let ms := openMasks s id
    if 1 < ms.length then ms.foldl (fun s m => mismatch s { id with mask := m }) s else s

/-- The posts of a collective that every member has posted to and no program is left of are gone. -/
def cleanPosts (s : State) (id : CollId) : State :=
  if allPosted (postsOf s id) id.mask && !s.programs.any (fun e => e.2.coll == id) then
    { s with net := { s.net with posts := s.net.posts.filter (fun q => q.coll != id) } }
  else s

/-- The post of a member. -/
def newPost (g : Program) (core : Nat) (sig : Option Word) : Post :=
  { fold := g.fold, core := core, seq := g.seq, sig := sig, mask := g.mask, gang := 1 < g.dcount, arrived := false, routes := [] }

/-- A post leaves for the fold's signature channel. -/
def postSig (s : State) (g : Program) (sig : Option Word) : State := postSignal s (newPost g g.core sig)

/-- A member's collective ends with a fault of its own: it posts an abort (02 R40). -/
def failProgram (s : State) (p : Nat) (code : Trap) : State :=
  match aget s.programs p with
  | none => s
  | some g => if g.code.isSome then s else postSig (updProgram s p (fun g => { g with code := some code })) g none

/-- An action of a program's engine: a trap in it ends the member's collective. -/
def guarded (p : Nat) (m : Act Unit) : Act Unit :=
  tryCatch m (fun e =>
    match e with
    | .trap code _ => change (fun s => failProgram s p code)
    | .miss _ => change (fun s => failProgram s p .translation)
    | e => throw e)

/-! ### Memory of a collective -/

/-- The leaf of a byte that a collective engine reaches, its right checked (14 R403; 02 R43). -/
def collLeaf (g : Program) (va : Nat) (right : Right) : Act Leaf := do
  requireOpen (va < 2 ^ 56) .protection
  match ctxOf (← state) g.ctx with
  | none => trapOpen .protection
  | some k =>
    let die := coreDie g.core
    match ← translate none die none g.ctx k va right with
    | .bad t => trapOpen t
    | .remote _ => trapOpen .translation
    | .miss n => throw (.miss { die := die, va := va, kind := 6, level := BitVec.ofNat 4 n })
    | .leaf l => do
      requireOpen (l.allows right) .protection
      pure l

/-- The physical addresses of the pieces of a range. -/
def collPieces (g : Program) (right : Right) : List Piece → Act (List (Nat × Piece))
  | [] => pure []
  | p :: r => do
    let l ← collLeaf g p.va right
    pure ((l.pa, p) :: (← collPieces g right r))

/-- Bytes of a source. -/
def readColl (g : Program) (va n : Nat) : Act (List Byte) := do
  let ps ← collPieces g .er (pieces va n)
  let s ← state
  pure (ps.flatMap (fun q => readBytes s q.1 q.2.len))

/-- Bytes of a step: an uncorrectable error in it is a DATA_ERROR (02 R45). -/
def readStep (g : Program) (va : Nat) : Act (List Byte) := do
  let ps ← collPieces g .er (pieces va 16)
  let s ← state
  if s.flaws.isEmpty then pure ()
  else
    let bad := (ps.flatMap (fun q => (List.range q.2.len).map (fun i => Flaw.mem (q.1 + i)))).filter s.flaws.contains
    if !bad.isEmpty then do
      change (fun s => dropFlaws s bad)
      trapOpen .dataError
  pure (ps.flatMap (fun q => readBytes s q.1 q.2.len))

/-- The pieces of a destination: all of it translates before a byte is written; a granule pending for a checkpoint stalls it
(04 R102). -/
def destPieces (g : Program) (va n : Nat) : Act (List (Nat × Piece)) := do
  let ps ← collPieces g .ew (pieces va n)
  let s ← state
  waitUntil (!ps.any (fun q => writeStalls s q.1 q.2.len))
  pure ps

/-- Bytes of a destination. -/
def writeColl (g : Program) (va : Nat) (bs : List Byte) : Act Unit := do
  let ps ← destPieces g va bs.length
  change (fun s => ps.foldl (fun s q => writeBytes s q.1 ((bs.drop q.2.off).take q.2.len)) s)

/-! ### Blocks (14 R403; 02 R43, R44) -/

/-- A block leaves for a member on this device; one for another device of the gang leaves the machine. -/
def sendBlock (s : State) (g : Program) (dst : Option Nat) (sweep : Option Nat) (fmt : BitVec 6) (mx : Bool) (bs : List Byte) :
    State :=
  match dst with
  | none => s
  | some c => postBlock s
    { src := g.cmd, fromCore := g.core, dstCore := c, fold := g.fold, seq := g.seq, sig := signatureOf g, sweep := sweep,
      fmt := fmt, mx := mx, bytes := bs, st := 0, order := 0, refused := none, route := 0 }

/-- Blocks of a program that have not been acknowledged. -/
def unacked (s : State) (g : Program) : Bool := s.net.blocks.any (fun b => b.src == g.cmd && b.st != 6)

/-- The program of a core on a fold, and the program of a command number. -/
def programAt (s : State) (core fold : Nat) : Option (Nat × Program) :=
  s.programs.find? (fun e => e.2.core == core && e.2.fold == fold)
def programOf (s : State) (cmd : Nat) : Option (Nat × Program) := s.programs.find? (fun e => e.2.cmd == cmd)

/-- Block `k` of those under way changes. -/
def updBlock (s : State) (k : Nat) (f : CBlock → CBlock) : State :=
  { s with net := { s.net with blocks := changeAt f s.net.blocks k } }

end Sys2Proof.Machine
end

