-- ==== Sys2Proof/Machine/CollectiveQueue.lean ====
section
/-!
DEFINITION. The collective queue (02 R23 to R26; 14 R395 to R401): dispatch of l.run and l.cav, and l.arm, l.ctr, l.fence whole.
-/

namespace Sys2Proof.Machine

/-! ### Dispatch of l.run and l.cav (14 R395, R397; 02 R24, R25, R46, R50) -/

/-- The descriptor: 128 bytes of the thread. -/
def readDescriptor (w : Who) (ds : BitVec 14) : Act (List Byte) := do
  let s ← state
  let p := partOf s w
  let o := 32 * ds.toNat
  inPart p o 128
  requireOpen ((slotsOf o 128).all (fun i => !(slotOf s w.core (p.s0 + i)).owner)) .ownerViolation
  waitUntil (!sWaits s w o 128)
  raceCheck w threadAgent (coreOf s w.core).phase o 128 false
  pure (readS (← state) w.core p o 128)

/-- The fields of a descriptor (14 Table 6). -/
def descProg (b : List Byte) : Nat := blockAt b 0 8
def descStage (b : List Byte) : Nat := blockAt b 8 8
def descSlen (b : List Byte) : Nat := blockAt b 0x10 8
def descBtick (b : List Byte) : Nat := blockAt b 0x18 8
def descParam (b : List Byte) : Nat := blockAt b 0x20 8
def descCount (b : List Byte) : Nat := bitsAt (descParam b) 0 32
def descNstep (b : List Byte) : Nat := bitsAt (descParam b) 32 13
def descFmt (b : List Byte) : BitVec 6 := BitVec.ofNat 6 (bitsAt (descParam b) 48 6)
def descOp (b : List Byte) : BitVec 4 := BitVec.ofNat 4 (bitsAt (descParam b) 56 4)
def descLocked (b : List Byte) : Bool := bitsAt (descParam b) 60 1 == 1
def descCrec (b : List Byte) : Nat := blockAt b 0x28 8
def descDone (b : List Byte) : Nat := blockAt b 0x30 8

/-- Reserved fields and values out of range (14 R395; 02 R24, R25). -/
def descOk (cav : Bool) (b : List Byte) : Bool :=
  let p := descParam b
  bitsAt p 45 3 == 0 && bitsAt p 54 2 == 0 && bitsAt p 61 3 == 0 && bitsAt (descDone b) 7 1 == 0 &&
    bitsAt (descDone b) 16 48 == 0 && blockAt b 0x38 8 == 0 && (b.drop 0x60).all (fun v => v == 0) &&
    (descLocked b || descBtick b == 0) && descCount b != 0 && (descOp b).toNat ≤ 8 && descSlen b % 4096 == 0 &&
    (if cav then descProg b == 0 && descNstep b == 0 && !descLocked b && (b.drop 0x40).all (fun v => v == 0)
     else 1 ≤ descNstep b && descNstep b ≤ 4096)

/-- The length that STAGE must have (02 R50; 14 R395). -/
def stageNeed (cav : Bool) (l : LcArgs) (mask : BitVec 256) (core : Nat) (b : List Byte) : Nat :=
  if cav then
    let k := repLevels (maskMembers mask) l.drank.toNat (l.dcount.toNat + 1) core
    Nat.max 4096 ((2 * (1 + k) * descCount b * wideSize (descOp b) + 4095) / 4096 * 4096)
  else 4096

/-- The fold is granted, and the completion counter where one is named. -/
def collGrants (w : Who) (fold : Nat) (b : List Byte) : Act Unit := do
  foldGranted w fold
  let cdone := descDone b
  requireOpen (bitsAt cdone 6 1 == 0 || counterGranted (← state) w.ctx (coreDie w.core) (bitsAt cdone 0 6)) .protection

/-- The S operands of l.cav. -/
def cavOperands (w : Who) (l : LcArgs) (size n : Nat) : Act (List Interval) := do
  let p := partOf (← state) w
  requireOpen (l.src.toNat % size == 0 && l.dst.toNat % size == 0) .alignment
  inPart p l.src.toNat n
  inPart p l.dst.toNat n
  engineOwned w p l.src.toNat n
  engineOwned w p l.dst.toNat n
  pure [sRange l.src.toNat n false, sRange l.dst.toNat n true]

def collCheck (cav : Bool) (l : LcArgs) (w : Who) (c : Cmd) : Act Cmd := do
  let b ← readDescriptor w l.ds
  requireOpen (descOk cav b) .reservedField
  let aligned := fun (va n : Nat) => require (va % n == 0) .alignment (BitVec.ofNat 64 va)
  aligned (descProg b) 16
  aligned (descStage b) 4096
  aligned (descCrec b) 16
  let mask := (foldOf (← state) l.fold.toNat).eff
  requireOpen (maskHas mask w.core) .foldMembership
  collGrants w l.fold.toNat b
  let op := descOp b
  requireOpen (opTypesOk op (descFmt b)) .formatMismatch
  let size := elemSize op (descFmt b)
  let ranges ← if cav then cavOperands w l size (size * descCount b) else pure []
  requireOpen (stageNeed cav l mask w.core b ≤ descSlen b) .objectBounds
  pure { c with block := b, mask := mask, ranges := ranges }

/-- l.run and l.cav wait in their queue until the collective engine starts them (COLLECTIVE_START). -/
def collSpec (cav : Bool) (l : LcArgs) : CmdSpec :=
  { queue := 3, check := collCheck cav l, ready := fun _ => pure false, micro := fun _ => pure false }

def lRunSpec (l : LcArgs) : CmdSpec := collSpec false l
def lCavSpec (l : LcArgs) : CmdSpec := collSpec true l

/-- l.run: a step program (14 R397). -/
def execLRun (l : LcArgs) (s : State) : Host.Outcome State Fault Refusal := runCommand (.lRun l) (lRunSpec l) s

/-- l.cav: a cavity reduction (14 R397). -/
def execLCav (l : LcArgs) (s : State) : Host.Outcome State Fault Refusal := runCommand (.lCav l) (lCavSpec l) s

/-! ### l.arm, l.ctr (14 R399, R400; 02 R30) -/

/-- A counter of the core's die is granted. -/
def ctrGrant (w : Who) (n : Nat) : Act Unit := do
  requireOpen (counterGranted (← state) w.ctx (coreDie w.core) n) .protection

def lArmSpec (ca : BitVec 6) (thr : BitVec 32) (cb : BitVec 6) (inc : BitVec 8) : CmdSpec :=
  { queue := 3
    check := fun w c => do
      ctrGrant w ca.toNat
      ctrGrant w cb.toNat
      pure c
    ready := fun e => do pure ((dieOf (← state) (coreDie e.w.core)).chains.length < 64)
    micro := fun e => do
      let d := coreDie e.w.core
      if thr.toNat ≤ (ctrOf (← state) d ca.toNat).toNat then change (fun s => addCtr s d cb.toNat inc.toNat)
      else
        change (fun s => updDie s d (fun k =>
          { k with chains := k.chains ++ [{ ca := ca.toNat, thr := thr, cb := cb.toNat, inc := inc, ctx := e.w.ctx }] }))
      pure true }

/-- l.arm: a one-shot chain of counters (14 R399). -/
def execLArm (ca : BitVec 6) (thr : BitVec 32) (cb : BitVec 6) (inc : BitVec 8) (s : State) :
    Host.Outcome State Fault Refusal :=
  runCommand (.lArm ca thr cb inc) (lArmSpec ca thr cb inc) s

/-- An operation on one counter. -/
def ctrSpec (ctr : BitVec 6) (f : State → Nat → State) : CmdSpec :=
  { queue := 3
    check := fun w c => do
      ctrGrant w ctr.toNat
      pure c
    ready := startsFreely
    micro := fun e => do
      change (fun s => f s (coreDie e.w.core))
      pure true }

def lCtrSetSpec (ctr : BitVec 6) (value : BitVec 32) : CmdSpec := ctrSpec ctr (fun s d => setCtr s d ctr.toNat value)
def lCtrAddSpec (ctr : BitVec 6) (value : BitVec 32) : CmdSpec :=
  ctrSpec ctr (fun s d => addCtr s d ctr.toNat value.toNat)

/-- l.ctr.set (14 R400). -/
def execLCtrSet (ctr : BitVec 6) (value : BitVec 32) (s : State) : Host.Outcome State Fault Refusal :=
  runCommand (.lCtrSet ctr value) (lCtrSetSpec ctr value) s

/-- l.ctr.add (14 R400). -/
def execLCtrAdd (ctr : BitVec 6) (value : BitVec 32) (s : State) : Host.Outcome State Fault Refusal :=
  runCommand (.lCtrAdd ctr value) (lCtrAddSpec ctr value) s

/-- DREG becomes pending, as a token's register does (09 R236; 14 R400, R401). -/
def dregPending (w : Who) (dreg : BitVec 6) (c : Cmd) : Act Cmd := do
  let c := { c with tok := ← destReady w dreg }
  tokenPending w c
  pure c

def lCtrRdSpec (dreg ctr : BitVec 6) : CmdSpec :=
  { queue := 3
    check := fun w c => do
      ctrGrant w ctr.toNat
      dregPending w dreg c
    ready := startsFreely
    micro := fun e => do
      let v := ctrOf (← state) (coreDie e.w.core) ctr.toNat
      finishCopy e (v.setWidth 64) }

/-- l.ctr.rd: the counter to a g register (14 R400). -/
def execLCtrRd (dreg ctr : BitVec 6) (s : State) : Host.Outcome State Fault Refusal :=
  runCommand (.lCtrRd dreg ctr) (lCtrRdSpec dreg ctr) s

/-! ### l.fence (14 R401) -/

/-- A collective of the core that was started before a command and has not ended, on a fold or on any. -/
def collRuns (s : State) (core cmd : Nat) (fold : Option Nat) : Bool :=
  s.programs.any (fun e => e.2.core == core && e.2.cmd < cmd && (fold.isNone || fold == some e.2.fold))

def fenceSpec (dreg : BitVec 6) (fold : Option Nat) : CmdSpec :=
  { queue := 3
    check := fun w c => if dreg = 0 then pure c else dregPending w dreg c
    ready := fun e => do pure (!collRuns (← state) e.w.core e.cmd.id fold)
    micro := fun e => if dreg = 0 then pure true else finishCopy e 1 }

def lFenceSpec (dreg : BitVec 6) (fold : BitVec 8) : CmdSpec := fenceSpec dreg (some fold.toNat)
def lFenceAllSpec (dreg : BitVec 6) : CmdSpec := fenceSpec dreg none

/-- l.fence on one fold. -/
def execLFence (dreg : BitVec 6) (fold : BitVec 8) (s : State) : Host.Outcome State Fault Refusal :=
  runCommand (.lFence dreg fold) (lFenceSpec dreg fold) s

/-- l.fence.all. -/
def execLFenceAll (dreg : BitVec 6) (s : State) : Host.Outcome State Fault Refusal :=
  runCommand (.lFenceAll dreg) (lFenceAllSpec dreg) s

end Sys2Proof.Machine
end

