-- ==== Sys2Proof/Machine/CollectiveSteps.lean ====
section
/-!
DEFINITION. Step programs (02 R27 to R37; 14 R402, R403): one step at a time, its issue and its completion.
-/

namespace Sys2Proof.Machine

/-! ### The step an engine has reached -/

/-- The engine reads the step it reaches, once (02 R37; 14 R402). -/
def latchStep (p : Nat) (g : Program) : Act Unit :=
  guarded p (do
    requireOpen (g.idx < g.nstep) .reservedField
    let bs ← readStep g (g.prog.toNat + 16 * g.idx)
    match decodeStep (BitVec.ofNat 128 (leNat bs)) with
    | .ok i => do
      let n ← newId
      change (fun s => updProgram s p (fun g => { g with cur := some i, reached := n }))
    | .error _ => trapOpen .reservedField)

/-- Bytes of an element of the sources and destinations. -/
def Program.size (g : Program) : Nat := elemSize g.op g.fmt

/-- The format W names (14 Table 9). -/
def wireFmt (w : BitVec 3) : BitVec 6 := BitVec.ofNat 6 (w.toNat + 1)

/-- The format in which an rrs leaves and writes its result, and whether it carries scales (02 R36). -/
def resultFmt (g : Program) (t : StepArgs) : BitVec 6 × Bool :=
  if isIntFmt g.fmt then (if t.conv then g.fmt else 8, false)
  else if t.conv then (wireFmt t.w, wireFmt t.w == 4 || wireFmt t.w == 5)
  else (1, false)

/-- The address of a block (14 R403): base, whether it moves with Lk, bytes of an element. -/
def blockAddr (g : Program) (t : StepArgs) (base : BitVec 2) (moves : Bool) (size : Nat) : Act Nat := do
  let b := (g.bases.getD base.toNat 0).toNat
  let a := b + (if moves then loopTerm g t else 0) * g.count * size
  requireOpen (b % size == 0 && a % size == 0) .alignment
  pure a

def sourceAddr (g : Program) (t : StepArgs) : Act Nat := blockAddr g t t.sb t.sl g.size
def destAddr (g : Program) (t : StepArgs) (size : Nat) : Act Nat := blockAddr g t t.db t.dl size

/-- A step's use of counters is granted (02 R30). -/
def stepGranted (s : State) (g : Program) (t : StepArgs) : Bool :=
  let ok := fun (n : BitVec 6) => counterGranted s g.ctx (coreDie g.core) n.toNat
  (!t.ten || ok t.tctr) && (t.inc == 0 || ok t.ictr)

/-- What ends the collective when the engine reaches a step (02 R29, R36, R37; 14 R402). -/
def stepFault (s : State) (g : Program) (i : Instr) (t : StepArgs) : Option Trap :=
  if (g.locked && t.arrival) || (!g.locked && t.t != 0) || (isIntFmt g.fmt && t.w != 0) then some .reservedField
  else
    match i with
    | .stepLoop _ =>
      if g.idx ≤ t.offin.toNat then some .reservedField else if stepGranted s g t then none else some .protection
    | _ => if stepGranted s g t then none else some .protection

/-! ### Incoming blocks (14 R403; 02 R37) -/

/-- The site of an arrival acceptance (06 Table 9). -/
def stepSite (p : Nat) (g : Program) : Nat := p % 32 + 32 * g.idx

/-- The block a step takes: the oldest of peer_in, or of any member under ARRIVAL, where a forced log names the member
(06 R159). The manual names no peer set smaller than the members: all of them are it (log 75). -/
def takenBlock (p : Nat) (g : Program) (t : StepArgs) : Act (Option (CBlock × Nat)) := do
  let l := staged (← state) g
  let from_ := fun (r : Nat) => l.find? (fun e => g.rankOf e.1.fromCore == r)
  if t.arrival then
    match g.launch with
    | none => pure l.head?
    | some n => do
      match ← forcedWinner n 3 (coreDie g.core) (stepSite p g) with
      | some r => pure (from_ r)
      | none => pure l.head?
  else pure (from_ (peerOf g t t.offin))

/-- A block is taken from staging; an acceptance of ARRIVAL is logged (06 R158). -/
def takeBlock (p : Nat) (g : Program) (t : StepArgs) (e : CBlock × Nat) : Act Unit := do
  change (fun s =>
    if e.1.st = 3 then updBlock s e.2 (fun b => { b with st := 4 })
    else { s with net := { s.net with blocks := removeAt s.net.blocks e.2 } })
  if t.arrival then
    match g.launch with
    | none => pure ()
    | some l => logChoice l 3 (coreDie g.core) (stepSite p g) (g.rankOf e.1.fromCore)

/-! ### Issue and completion -/

/-- A step completes: its increment, then the next step (02 R27, R29, R32). -/
def completeStep (s : State) (p : Nat) (g : Program) (t : StepArgs) (next : Option Nat) : State :=
  let s := if t.inc = 0 then s else addCtr s (coreDie g.core) t.ictr.toNat t.inc.toNat
  let idx := next.getD (g.idx + 1)
  updProgram s p (fun g =>
    { g with idx := idx, cur := none, released := 0, ticked := false, issued := false, wasLate := false,
             done := next.isNone && g.idx + 1 = g.nstep })

/-- A step has issued; it is complete when nothing it sent is unacknowledged. -/
def issued (p : Nat) (t : StepArgs) : Act Unit := do
  change (fun s => updProgram s p (fun g => { g with issued := true }))
  let s ← state
  match aget s.programs p with
  | none => pure ()
  | some g => if !unacked s g then change (fun s => completeStep s p g t none)

/-- A block leaves for peer_out. -/
def sendTo (g : Program) (t : StepArgs) (fmt : BitVec 6) (mx : Bool) (bs : List Byte) : Act Unit :=
  change (fun s => sendBlock s g (g.coreAt (peerOf g t t.offout)) none fmt mx bs)

/-- The engine holds a send while its tickets do (02 R44); a schedule-locked step has its inputs ready when it issues. -/
def sendReady (g : Program) (t : StepArgs) : Act Unit := do
  match (if g.locked then none else g.coreAt (peerOf g t t.offout)) with
  | none => pure ()
  | some c => waitUntil (!sendHeld (← state) (coreDie g.core) (coreDie c))

/-- Destinations are written after the verdict "match" only (02 R39). -/
def verdictKnown (g : Program) : Act Unit := waitUntil (g.verdict == .matched)

def issueSend (g : Program) (t : StepArgs) : Act Unit := do
  sendReady g t
  let a ← sourceAddr g t
  let bs ← readColl g a (g.count * g.size)
  sendTo g t g.fmt false bs

def issueRecv (p : Nat) (g : Program) (t : StepArgs) : Act Unit := do
  match ← takenBlock p g t with
  | none => waitHere
  | some e => do
    verdictKnown g
    let a ← destAddr g t g.size
    writeColl g a e.1.bytes
    takeBlock p g t e

/-- The result of an rrs: both blocks widened, combined in the order of ORD, converted (02 R36, R47). -/
def reduceBlocks (g : Program) (t : StepArgs) (incoming : CBlock) (own : List Byte) : List Byte :=
  let rd := noSr g.rm
  let x := decodeBlock g.op incoming.fmt incoming.mx g.count incoming.bytes
  let y := decodeBlock g.op g.fmt false g.count own
  let z := if t.ord then List.zipWith (combine g.op rd) y x else List.zipWith (combine g.op rd) x y
  let f := resultFmt g t
  encodeBlock f.1 f.2 rd z

def issueRrs (p : Nat) (g : Program) (t : StepArgs) : Act Unit := do
  match ← takenBlock p g t with
  | none => waitHere
  | some e => do
    if !t.nodst then verdictKnown g
    if !t.nosend then sendReady g t
    let a ← sourceAddr g t
    let own ← readColl g a (g.count * g.size)
    let f := resultFmt g t
    let out := reduceBlocks g t e.1 own
    if !t.nodst then
      let d ← destAddr g t (elemSize g.op f.1)
      writeColl g d out
    takeBlock p g t e
    if !t.nosend then sendTo g t f.1 f.2 out

def issueCopy (g : Program) (t : StepArgs) : Act Unit := do
  verdictKnown g
  let a ← sourceAddr g t
  let d ← destAddr g t g.size
  let bs ← readColl g a (g.count * g.size)
  writeColl g d bs

/-- loop: Lj rises; below M the target comes next, else Lj is 0 again and the next step follows (02 R29). -/
def issueLoop (p : Nat) (t : StepArgs) : Act Unit := do
  match aget (← state).programs p with
  | none => pure ()
  | some g => do
    let j := t.lsel.toNat
    let l := sget 0 g.loops j + 1
    let again := l < t.mul.toNat
    let g := { g with loops := sset 0 g.loops j (if again then l else 0) }
    change (fun s => updProgram s p (fun _ => g))
    change (fun s => completeStep s p g t (some (if again then t.offin.toNat else g.idx + 1)))

/-- The step that program `p` has reached issues: held until its trigger and, schedule-locked, its tick (02 R31, R35). -/
def runStep (i : Instr) (body : Nat → Program → StepArgs → Act Unit) (s : State) : Host.Outcome State Fault Refusal :=
  match s.actor, stepArgs i with
  | .program p, some t =>
    asStep (do
      let s ← state
      let g ← need (aget s.programs p) "no such program runs"
      needs (g.cur == some i) "the program is at another step"
      waitUntil (enginesRun s && g.code.isNone && !g.issued)
      match stepFault s g i t with
      | some code => change (fun s => failProgram s p code)
      | none => do
        waitUntil ((!t.ten || (g.released != 0 && !releasedAhead s (coreDie g.core) g.released)) && (!g.locked || g.ticked))
        guarded p (body p g t)) s
  | _, _ => .refused (.notEnabled "a collective engine runs steps")

/-- send: the source block to peer_out's staging. -/
def execStepSend (t : StepArgs) (s : State) : Host.Outcome State Fault Refusal :=
  runStep (.stepSend t) (fun p g t => do
    issueSend g t
    issued p t) s

/-- recv: peer_in's block to the destination. -/
def execStepRecv (t : StepArgs) (s : State) : Host.Outcome State Fault Refusal :=
  runStep (.stepRecv t) (fun p g t => do
    issueRecv p g t
    issued p t) s

/-- recv-reduce-send: peer_in's block combined with the local one. -/
def execStepRecvReduceSend (t : StepArgs) (s : State) : Host.Outcome State Fault Refusal :=
  runStep (.stepRecvReduceSend t) (fun p g t => do
    issueRrs p g t
    issued p t) s

/-- copy: the source block to the destination within the member. -/
def execStepCopy (t : StepArgs) (s : State) : Host.Outcome State Fault Refusal :=
  runStep (.stepCopy t) (fun p g t => do
    issueCopy g t
    issued p t) s

/-- wait: complete once its trigger has fired. -/
def execStepWait (t : StepArgs) (s : State) : Host.Outcome State Fault Refusal :=
  runStep (.stepWait t) (fun p _ t => issued p t) s

/-- loop (02 R29). -/
def execStepLoop (t : StepArgs) (s : State) : Host.Outcome State Fault Refusal :=
  runStep (.stepLoop t) (fun p _ t => issueLoop p t) s

end Sys2Proof.Machine
end

