-- ==== Sys2Proof/Machine/CollectiveEvents.lean ====
section
/-!
DEFINITION. What the collective engines do beside their steps: starting programs (02 R23, R26), cavity sweeps (R48 to R52; 16
R415), blocks arriving, resent and acknowledged (R43, R44; 14 R403), verdicts, ticks, triggers, chains, the end (14 R396).
-/

namespace Sys2Proof.Machine

/-! ### Cavity sweeps (02 R47 to R49, R51) -/

/-- A sweep value a member holds. -/
def Program.value (g : Program) (key : Nat) : Option (List Byte) := aget g.got key

def Program.comb (g : Program) (x y : List Byte) : List Byte := combineWide g.op g.fmt (noSr g.rm) g.count x y

/-- Its own block, widened. -/
def Program.own (g : Program) : List Byte :=
  encodeBlock (wideFmt g.fmt) false (noSr g.rm) (decodeBlock g.op g.fmt false g.count g.raw)

/-- y of a member at a level: its block, or the Total of the group below that it represents. -/
def Program.contribution (g : Program) : Nat → Option (List Byte)
  | 0 => none
  | 1 => some g.own
  | n + 1 =>
    match g.value (2 * n), g.contribution n with
    | some p, some y => some (g.comb p y)
    | _, _ => none

/-- The contributors of a member's group at a level that are on this device: of the devices' level, its representative (14 R398). -/
def Program.group (g : Program) (level : Nat) : List Nat :=
  if g.gangLevel level then g.members.getLast?.toList else contributors g.members level g.core

/-- The members to which a contributor passes a level's values down. -/
def Program.below (g : Program) (level : Nat) : List Nat :=
  if g.gangLevel level then g.members.filter (· != g.core) else passedTo g.members level g.core

/-- What a member sends at a level: sweep key, receiving core, value. What a device's representative sends to other devices
leaves the machine. -/
def levelSends (g : Program) (level : Nat) : List (Nat × Nat × List Byte) :=
  let cs := g.group level
  match cs.findIdx? (· == g.core) with
  | none => []
  | some j =>
    let up := match cs[j + 1]?, g.contribution level, g.value (2 * level) with
      | some c, some y, some p => [(2 * level, c, g.comb p y)]
      | _, _, _ => []
    let down := match (if j = 0 then none else cs[j - 1]?), g.contribution level, g.value (2 * level + 1) with
      | some c, some y, some q => [(2 * level + 1, c, g.comb y q)]
      | _, _, _ => []
    let pass := fun (key : Nat) => match g.value key with
      | some v => (g.below level).map (fun c => (key, c, v))
      | none => []
    up ++ down ++ pass (2 * level) ++ pass (2 * level + 1)

/-- Everything a member has to send so far. -/
def cavSends (g : Program) : List (Nat × Nat × List Byte) :=
  (List.range g.levels).flatMap (fun i => levelSends g (i + 1))

/-- A member is the first, or the last, contributor of its group at a level. -/
def Program.firstAt (g : Program) (level : Nat) : Bool :=
  (g.group level).head? == some g.core && (!g.gangLevel level || g.drank == 0)
def Program.lastAt (g : Program) (level : Nat) : Bool :=
  (g.group level).getLast? == some g.core && (!g.gangLevel level || g.drank + 1 == g.dcount)

/-- The empty markers a member knows from its place (02 R49). -/
def cavEmpty (g : Program) : List (Nat × List Byte) :=
  (List.range g.levels).flatMap (fun i =>
    (if g.firstAt (i + 1) then [(2 * (i + 1), [])] else []) ++ (if g.lastAt (i + 1) then [(2 * (i + 1) + 1, [])] else []))

/-- A member sends what it has not sent (02 R51). -/
def cavDuties (p : Nat) (s : State) : State :=
  match aget s.programs p with
  | none => s
  | some g =>
    if !g.cav || g.code.isSome then s
    else
      (cavSends g).foldl (fun s d =>
        if g.sent.contains (d.1, d.2.1) || sendHeld s (coreDie g.core) (coreDie d.2.1) then s
        else
          sendBlock (updProgram s p (fun g => { g with sent := g.sent ++ [(d.1, d.2.1)] })) g (some d.2.1) (some d.1)
            (wideFmt g.fmt) false d.2.2) s

/-- The result of a member (02 R49; 14 R398): its P and S of each level around its value; none while one is missing. -/
def cavResult (g : Program) : Option (List Byte) :=
  if g.total = 1 then
    some (encodeBlock g.fmt false (noSr g.rm) (List.replicate g.count (identityElem g.op g.fmt)))
  else
    let levels := (List.range g.levels).map (fun i => (g.value (2 * (i + 1)), g.value (2 * (i + 1) + 1)))
    let v := levels.foldl (fun v e =>
      match v, e with
      | some v, (some p, some q) => some (g.comb (g.comb p v) q)
      | _, _ => none) (some [])
    v.map (fun v => encodeBlock g.fmt false (noSr g.rm) (decodeBlock g.op (wideFmt g.fmt) false g.count v))

/-- All that a member has to send has left. -/
def cavSent (g : Program) : Bool := (cavSends g).all (fun d => g.sent.contains (d.1, d.2.1))

/-! ### COLLECTIVE_START (02 R23, R26, R38) -/

/-- The free slot of a die's engine with the lowest number. -/
def freeProgram (s : State) (die : Nat) : Option Nat :=
  (List.range 32).find? (fun n => (aget s.programs (32 * die + n)).isNone) |>.map (fun n => 32 * die + n)

/-- A program as its start makes it. -/
def newProgram (w : Who) (m : Cmd) (cav : Bool) (l : LcArgs) (seq : BitVec 16) (raw : List Byte) : Program :=
  let b := m.block
  { core := w.core, ctx := w.ctx, task := some w.task, launch := w.launch, cav := cav, fold := l.fold.toNat, seq := seq,
    fmt := descFmt b, op := descOp b, count := descCount b, locked := descLocked b, btick := BitVec.ofNat 64 (descBtick b),
    stage := BitVec.ofNat 64 (descStage b), slen := BitVec.ofNat 64 (descSlen b), prog := BitVec.ofNat 64 (descProg b),
    nstep := descNstep b, bases := (List.range 4).map (fun k => BitVec.ofNat 64 (blockAt b (0x40 + 8 * k) 8)),
    crec := BitVec.ofNat 64 (descCrec b), cdone := BitVec.ofNat 64 (descDone b), drank := l.drank.toNat,
    dcount := l.dcount.toNat + 1, mask := m.mask, rm := m.mode, src := l.src.toNat, dst := l.dst.toNat, cmd := m.id,
    ranges := m.ranges, loops := [], idx := 0, cur := none, late := 0, verdict := .open_, reached := 0, released := 0, ticked := false,
    issued := false, wasLate := false, done := false, code := none, raw := raw, got := [], sent := [], laid := [] }

/-- The fields of an l.run or l.cav. -/
def collArgs : Instr → Option (Bool × LcArgs)
  | .lRun l => some (false, l)
  | .lCav l => some (true, l)
  | _ => none

/-- The l.run or l.cav at the head of the collective queue of the task on a core starts. -/
def execCollectiveStart (core : BitVec 8) (s : State) : Host.Outcome State Fault Refusal :=
  asStep (do
    let s ← state
    let c := core.toNat
    let w ← need (whoRuns s c) "no task runs on the core"
    let m ← need (queueOf s c w.bank 3).head? "the collective queue is empty"
    let (cav, l) ← need (collArgs m.instr) "the queue's head is no collective"
    let fold := l.fold.toNat
    let seq := sget 0 (coreOf s c).collSeq fold
    waitUntil (enginesRun s && !(bankOf s c w.bank).frozen && mayStart s c w.bank 3 0 m)
    waitUntil (!s.programs.any (fun e =>
      e.2.fold == fold && coreDie e.2.core == coreDie c && (e.2.core == c || e.2.seq != seq)))
    match freeProgram s (coreDie c) with
    | none => waitHere
    | some p => do
      let raw :=
        if cav then readS s c (bankOf s c w.bank).part l.src.toNat (elemSize (descOp m.block) (descFmt m.block) * descCount m.block)
        else []
      let g := newProgram w m cav l seq raw
      let g := if cav then { g with got := cavEmpty g } else g
      change (fun s => retireCmd s c w.bank 3 m.id)
      change (fun s => updCore s c (fun k => { k with collSeq := sset 0 k.collSeq fold (seq + 1) }))
      change (fun s => { s with programs := aset s.programs p g })
      change (fun s => postSig s g (some (signatureOf g)))
      change (cavDuties p)) s

/-! ### SIGNATURE_POST (02 R38 to R40) -/

/-- A post of the gang's other devices: their signature, which is this device's, or an abort (02 R38, R40). -/
def farPost (g : Program) : Act Post := do
  let same ← drawBool
  pure (newPost g (farCore 0) (if same then some (signatureOf g) else none))

/-- The k-th post arrives on its fold's signature channel; a number beyond them is one, from the gang's other devices, for a
program of this device. -/
def execSignaturePost (k : Nat) (s : State) : Host.Outcome State Fault Refusal :=
  asStep (do
    let s ← state
    if s.net.posts.length ≤ k then do
      let g ← need (aget s.programs (k - s.net.posts.length)) "no such post is under way"
      needs (1 < g.dcount) "the collective has no other device"
      waitUntil (enginesRun s)
      let q ← farPost g
      change (fun s => { s with net := { s.net with posts := s.net.posts ++ [{ q with arrived := true }] } })
      change (fun s => cleanPosts (settleVerdict s g.coll) g.coll)
    else do
      let q ← need s.net.posts[k]? "no such post is under way"
      needs (!q.arrived) "the post has arrived"
      waitUntil (enginesRun s)
      change (fun s => { s with net := { s.net with posts := changeAt (fun q => { q with arrived := true }) s.net.posts k } })
      change (fun s => cleanPosts (settleVerdict s q.coll) q.coll)) s

/-! ### COLLECTIVE_BLOCK_ARRIVAL (14 R403; 02 R43; 16 R415) -/

/-- Where an incoming sweep value lands: none for one that is passed down (16 R415). -/
def sweepOffset (g : Program) (key : Nat) : Option Nat :=
  let w := wideSize g.op
  let level := key / 2
  if level ≤ 1 then some (key % 2 * g.count * w)
  else if (g.group level).contains g.core then some ((2 * (level - 1) + key % 2) * g.count * w)
  else none

/-- The pages of a staging range are resident and writable: none, or the first miss. -/
def stagingMiss (g : Program) (va n : Nat) : Act (Option Miss) := do
  let probe := fun (va : Nat) => do
    let _ ← collLeaf g va .ew
    let _ ← collLeaf g va .er
    pure (none : Option Miss)
  let mut miss : Option Miss := none
  for a in rangePages va n do
    if miss.isNone then
      miss ← tryCatch (probe a) (fun e =>
        match e with
        | .miss m => pure (some m)
        | e => throw e)
  pure miss

/-- A block's bytes land in staging; what stood there is kept until the collective ends (02 R39; 16 R415). -/
def landStaging (p : Nat) (g : Program) (va : Nat) (bs : List Byte) : Act Unit := do
  let ps ← destPieces g va bs.length
  let cells := ps.flatMap (fun q => (List.range q.2.len).map (fun i => (q.1 + i, bs.getD (q.2.off + i) 0)))
  change (fun s => updProgram s p (fun g => { g with laid := g.laid ++ cells.map (fun x => (x.1, readByte s x.1, x.2)) }))
  change (fun s => cells.foldl (fun s x => writeByte s x.1 x.2) s)

/-- A block waits for its page: ticketed while its sender's engine can hold one more ticket (02 R44), with its descriptor parked
and the keeper called while the park table has room (02 R43; 07 R182). -/
def parkBlock (p k : Nat) (g : Program) (b : CBlock) (m : Miss) : Act Unit := do
  let s ← state
  let die := coreDie g.core
  waitUntil ((ticketedBlocks s (coreDie b.fromCore)).length < 64)
  let parked := s.net.blocks.filter (fun b => b.st == 2 && coreDie b.dstCore == die)
  if !keeperOn s die then change (fun s => failProgram (answerBlock s k (fun b => { b with st := 4 })) p .translation)
  else if 32 ≤ parked.length then change (fun s => answerBlock s k (fun b => { b with st := 7 }))
  else do
    let n ← newId
    change (fun s => (joinDesc s die g.ctx m.va 6 m.level g.core false 0 (.staging n)).1)
    change (fun s => answerBlock s k (fun b => { b with st := 2, order := n }))

/-- A block lands: a step's block stays in staging, last in arrival order; a sweep value is taken. -/
def landBlock (p k : Nat) (g : Program) (b : CBlock) (at_ : Option Nat) : Act Unit := do
  match at_ with
  | some off => do
    match ← stagingMiss g (g.stage.toNat + off) b.bytes.length with
    | some m => parkBlock p k g b m
    | none => do
      landStaging p g (g.stage.toNat + off) b.bytes
      match b.sweep with
      | none =>
        change (fun s => answerBlock { s with net := { s.net with blocks := removeAt s.net.blocks k ++ [b] } }
          (s.net.blocks.length - 1) (fun b => { b with st := 3 }))
      | some key => do
        change (fun s => answerBlock s k (fun b => { b with st := 4 }))
        change (fun s => cavDuties p (updProgram s p (fun g => { g with got := aset g.got key b.bytes })))
  | none => do
    change (fun s => answerBlock s k (fun b => { b with st := 4 }))
    change (fun s => cavDuties p (updProgram s p (fun g => { g with got := aset g.got (b.sweep.getD 0) b.bytes })))

/-- A block reaches the program it is for. -/
def receiveBlock (p k : Nat) (g : Program) (b : CBlock) : Act Unit := do
  let discard := change (fun s => answerBlock s k (fun b => { b with st := 4 }))
  if b.sig != signatureOf g then do
    discard
    change (fun s => mismatch s g.coll)
  else if g.code.isSome then discard
  else
    match b.sweep with
    | some key =>
      if !g.cav then waitHere
      else guarded p (landBlock p k g b (if b.bytes.isEmpty then none else sweepOffset g key))
    | none =>
      let n := b.bytes.length
      if g.cav then waitHere
      else if g.slen.toNat < n then do
        discard
        change (fun s => failProgram s p .objectBounds)
      else
        let used := ((staged (← state) g).map (fun e => e.1.bytes.length)).sum
        if g.slen.toNat < used + n then change (fun s => updBlock s k (fun b => { b with st := 1 }))
        else do
          let off ← drawIndex (g.slen.toNat - n + 1)
          guarded p (landBlock p k g b (some off))

/-- A collective of a core on a fold comes before the next one it starts. -/
def isPast (next seq : BitVec 16) : Bool := 1 ≤ (next - seq).toNat && (next - seq).toNat < 0x8000

/-- Formats in which a block of a step may arrive, and whether it carries scales (02 R36; 14 R403). -/
def blockFmts (g : Program) : List (BitVec 6 × Bool) :=
  if isIntFmt g.fmt then [(g.fmt, false), (8, false)]
  else [(g.fmt, false), (1, false), (2, false), (3, false), (4, true), (5, true)]

/-- Bytes of a block. -/
def blockLen (g : Program) (f : BitVec 6 × Bool) : Nat :=
  if f.2 then
    let per := 32 * (mxBlocks f.1).1
    2048 * ((perElem g.op * g.count + per - 1) / per)
  else elemSize g.op f.1 * g.count

/-- A block from a member on another device of the gang: what it holds, and for a step's block who sends it, is free. A cavity's
representative lacks the value of the devices' level that comes. -/
def farBlock (g : Program) : Act CBlock := do
  let j ← drawIndex ((g.dcount - 1) * g.n)
  let same ← drawBool
  let sig ← drawWord
  let b : CBlock :=
    { src := 0, fromCore := farCore (if j < g.drank * g.n then j else j + g.n), dstCore := g.core, fold := g.fold, seq := g.seq,
      sig := if same then signatureOf g else sig, sweep := none, fmt := g.fmt, mx := false, bytes := [], st := 0, order := 0,
      refused := none, route := 0 }
  if g.cav then do
    let key := 2 * g.levels + bitAt 0 (← drawBool)
    needs ((g.group g.levels).contains g.core && (g.value key).isNone) "the member takes no such value"
    pure { b with sweep := some key, fmt := wideFmt g.fmt, bytes := ← drawBytes (wideSize g.op * g.count) }
  else do
    let fs := blockFmts g
    let f := fs.getD (← drawIndex fs.length) (g.fmt, false)
    pure { b with fmt := f.1, mx := f.2, bytes := ← drawBytes (blockLen g f) }

/-- The k-th block arrives, or one held at its sender tries again; a number beyond them is a block, from another device of the gang,
for a program of this device. A block for a collective that has ended is discarded and acknowledged (log 75). -/
def execCollectiveBlockArrival (k : Nat) (s : State) : Host.Outcome State Fault Refusal :=
  asStep (do
    let s ← state
    if s.net.blocks.length ≤ k then do
      let p := k - s.net.blocks.length
      let g ← need (aget s.programs p) "no such block is under way"
      needs (1 < g.dcount) "the collective has no other device"
      waitUntil (enginesRun s)
      let b ← farBlock g
      change (fun s => { s with net := { s.net with blocks := s.net.blocks ++ [b] } })
      receiveBlock p s.net.blocks.length g b
    else
    let b ← need s.net.blocks[k]? "no such block is under way"
    needs (b.st == 0 || b.st == 1) "the block has arrived"
    waitUntil (enginesRun s)
    match programAt s b.dstCore b.fold with
    | some (p, g) =>
      if g.seq = b.seq then receiveBlock p k g b
      else if isPast g.seq b.seq then change (fun s => answerBlock s k (fun b => { b with st := 4 }))
      else waitHere
    | none => do
      waitUntil (isPast (sget 0 (coreOf s b.dstCore).collSeq b.fold) b.seq)
      change (fun s => answerBlock s k (fun b => { b with st := 4 }))) s

/-! ### STAGING_RESEND, COLLECTIVE_BLOCK_ACKNOWLEDGED (02 R43, R44) -/

/-- The gang tick at which a schedule-locked step is due. -/
def dueTick (g : Program) (t : StepArgs) : Nat := g.btick.toNat + t.t.toNat

/-- The step of a program is counted late, once (02 R35, R44). -/
def countLate (s : State) (g : Program) : Program :=
  match g.cur.bind stepArgs with
  | none => g
  | some t =>
    if g.locked && !g.wasLate && dueTick g t < s.gang.tick.toNat then { g with late := g.late + 1, wasLate := true } else g

/-- On the notice of its ticket the k-th block is sent again; a refused page ends the receiver's task. A block ticketed
without parking has its notice when the park table has room. -/
def execStagingResend (k : Nat) (s : State) : Host.Outcome State Fault Refusal :=
  asStep (do
    let s ← state
    let b ← need s.net.blocks[k]? "no such block is under way"
    needs (b.st == 5 || b.st == 7) "the block has no notice"
    waitUntil (enginesRun s)
    match b.refused with
    | some code => do
      change (fun s => answerBlock s k (fun b => { b with st := 4 }))
      match programAt s b.dstCore b.fold with
      | some (p, g) => if g.seq = b.seq then change (fun s => failProgram s p code)
      | none => pure ()
    | none => do
      let parked := s.net.blocks.filter (fun o => o.st == 2 && coreDie o.dstCore == coreDie b.dstCore)
      waitUntil (b.st == 5 || parked.length < 32)
      change (fun s => resendBlock s k)
      match programOf s b.src with
      | some (p, _) => change (fun s => updProgram s p (countLate s))
      | none => pure ()) s

/-- The acknowledgement of the k-th block reaches its sender; the step completes with its last one (02 R32). -/
def execCollectiveBlockAcknowledged (k : Nat) (s : State) : Host.Outcome State Fault Refusal :=
  asStep (do
    let s ← state
    let b ← need s.net.blocks[k]? "no such block is under way"
    needs (b.st == 3 || b.st == 4) "the block is not to be acknowledged"
    waitUntil (enginesRun s)
    change (fun s =>
      if b.st = 3 then updBlock s k (fun b => { b with st := 6 })
      else { s with net := { s.net with blocks := removeAt s.net.blocks k } })
    let s ← state
    match programOf s b.src with
    | none => pure ()
    | some (p, g) =>
      match g.cur.bind stepArgs with
      | none => pure ()
      | some t =>
        if g.issued && !unacked s g && g.code.isNone then change (fun s => completeStep s p g t none)) s

/-! ### SCHEDULE_TICK_ISSUE, GANG_TIME_BASE_TICK (02 R35; 01 R14) -/

/-- A schedule-locked step that may issue at the present tick. -/
def tickReady (s : State) (g : Program) : Bool :=
  match g.cur, g.cur.bind stepArgs with
  | some i, some t =>
    g.locked && !g.ticked && g.code.isNone && dueTick g t ≤ s.gang.tick.toNat && stepReady s g i t
  | _, _ => false

/-- A schedule-locked step that is due, with its trigger's counter at the threshold and its inputs ready, and is still to be taken up:
it issues at the present tick (02 R35). -/
def tickOpen (s : State) (g : Program) : Bool :=
  match g.cur, g.cur.bind stepArgs with
  | some i, some t =>
    g.locked && !g.ticked && g.code.isNone && dueTick g t ≤ s.gang.tick.toNat &&
      (!t.ten || g.released != 0 || fired s (coreDie g.core) t.tctr t.tthr.toNat) && stepInputs s g i t
  | _, _ => false

/-- The step of program `p` may issue at this tick; a step after its own tick counts as late. -/
def execScheduleTickIssue (p : Nat) (s : State) : Host.Outcome State Fault Refusal :=
  asStep (do
    let s ← state
    let g ← need (aget s.programs p) "no such program runs"
    waitUntil (enginesRun s && tickReady s g)
    change (fun s => updProgram s p (fun g => { countLate s g with ticked := true }))) s

/-- The gang time base advances, once every step that is ready at this tick has been taken up: in RUN, IDLE, HOLD and TRIP (01 R14),
and in HOLD-UP, of which R14 is silent (log 76). -/
def execGangTimeBaseTick (s : State) : Host.Outcome State Fault Refusal :=
  asStep (do
    let s ← state
    waitUntil (s.pm.st != .off && s.pm.st != .spent)
    waitUntil (!(enginesRun s && s.programs.any (fun e => tickOpen s e.2)))
    change (fun s => { s with gang := { s.gang with tick := s.gang.tick + 1 } })) s

/-! ### TRIGGER_RELEASE, COUNTER_CHAIN_FIRE (02 R31; 14 R392, R399) -/

/-- A held step of program `k`, or the held command `k` mod 16 of the copy queue of core `k` / 16, is released: of those of its die
that are at their thresholds, the one queued or reached first (02 R31). -/
def execTriggerRelease (step : Bool) (k : Nat) (s : State) : Host.Outcome State Fault Refusal :=
  asStep (do
    let s ← state
    waitUntil (enginesRun s)
    if step then do
      let g ← need (aget s.programs k) "no such program runs"
      let t ← need (g.cur.bind stepArgs) "no step has been reached"
      needs (t.ten && g.released == 0) "no step is held"
      waitUntil (fired s (coreDie g.core) t.tctr t.tthr.toNat)
      waitUntil ((eligible s (coreDie g.core)).all (fun n => g.reached ≤ n))
      let r ← newId
      change (fun s => updProgram s k (fun g => { g with released := r }))
    else do
      let c := k / 16
      let w ← need (whoRuns s c) "no task runs on the core"
      let m ← need (queueOf s c w.bank 2)[k % 16]? "the queue holds no such command"
      let x ← need (copyTrigger m.instr) "the command has no trigger"
      needs (m.released == 0) "the command is not held"
      waitUntil (copyHeld s c w.bank (k % 16) m && fired s (coreDie c) x.tctr x.tthr.toNat)
      waitUntil ((eligible s (coreDie c)).all (fun n => m.id ≤ n))
      let r ← newId
      change (fun s => updCmd s c w.bank 2 m.id (fun m => { m with released := r }))) s

/-- The k-th chain of a die fires: its counter has reached the threshold. -/
def execCounterChainFire (die : BitVec 2) (k : Nat) (s : State) : Host.Outcome State Fault Refusal :=
  asStep (do
    let s ← state
    let d := die.toNat
    let h ← need (dieOf s d).chains[k]? "no such chain is armed"
    waitUntil (enginesRun s && h.thr.toNat ≤ (ctrOf s d h.ca).toNat)
    change (fun s => addCtr (updDie s d (fun q => { q with chains := removeAt q.chains k })) d h.cb h.inc.toNat)) s

/-! ### COLLECTIVE_COMPLETE (14 R396; 02 R42, R52) -/

/-- The contexts of a core, the one that runs first, then shadows from the newest on. -/
def residents (s : State) (c : Nat) : List Nat :=
  let k := coreOf s c
  (match k.active with
    | some b => [b]
    | none => []) ++ k.shadows.reverse

/-- The partition of a bank is in place: none of it is streamed out for a newer context (02 R34; 09 R248). -/
def inPlace (s : State) (c b : Nat) : Bool :=
  let k := bankOf s c b
  (residents s c).contains b && k.overS.isEmpty && k.overC.isEmpty

/-- A trap is left for a task, which may be streamed out (02 R42). A trap for a task that has ended, such as RESTORE_STEP of a restore that
outlives the task that started it, is dropped (log 58). -/
def postTaskTrap (s : State) (t : Nat) (src : TrapSource) (code : Trap) (info : Option Word) : State :=
  match taskOf s t with
  | none => s
  | some k =>
    if k.place = .streamedOut then
      let add := fun (e : Streamed) =>
        if e.task = t then { e with pend := e.pend ++ [{ src := src, code := code, info := info, pc := 0, miss := none }] }
        else e
      updCore s k.core (fun q => { q with streamed := q.streamed.map add })
    else postTrap s k.core k.bank src code info

/-- The destination of a cavity is written and its slots stamped (14 R397). -/
def writeCavity (s : State) (c b : Nat) (g : Program) (bs : List Byte) : State :=
  let p := (bankOf s c b).part
  let s := writeS s c p g.dst bs
  (slotsOf g.dst bs.length).foldl (fun s i => setSlot s c (p.s0 + i) { slotOf s c (p.s0 + i) with fmt := g.fmt, geo := 0 }) s

/-- A cavity's destination, once the verdict is known and its partition is in place. -/
def cavFinish (g : Program) : Act Unit := do
  let s ← state
  let bs ← match cavResult g with
    | some bs => pure bs
    | none => waitHere
  waitUntil (cavSent g)
  match g.task.bind (fun t => bankHolding s g.core t) with
  | none => waitHere
  | some b => do
    waitUntil (inPlace s g.core b)
    change (fun s => writeCavity s g.core b g bs)

/-- Word 0 of a completion record. -/
def recordWord (g : Program) : Word :=
  BitVec.ofNat 64 (g.late.toNat + bitAt 32 (g.cav && g.total == 1) + bitAt 33 g.code.isSome +
    (match g.code with
      | some t => t.code.toNat
      | none => 0) * 2 ^ 40 + g.seq.toNat * 2 ^ 48)

/-- The completion record; a page that does not take it is the collective's fault. -/
def writeCrec (p : Nat) (g : Program) : Act Program := do
  if g.crec = 0 then pure g
  else
    let bytes := wordBytes (recordWord g) ++ wordBytes (← state).gang.tick
    tryCatch (do
      writeColl g g.crec.toNat bytes
      pure g) (fun e =>
        let fail := fun (t : Trap) => do
          change (fun s => failProgram s p t)
          pure { g with code := g.code.or (some t) }
        match e with
        | .trap t _ => fail t
        | .miss _ => fail .translation
        | e => throw e)

/-- INFO of a collective's trap (03 R70). -/
def collInfo (g : Program) : Word := BitVec.ofNat 64 (g.seq.toNat * 2 ^ 48 + g.fold)

/-- Program `p` ends: its record, its counter, its trap (14 R396; 02 R42). -/
def execCollectiveComplete (p : Nat) (s : State) : Host.Outcome State Fault Refusal :=
  asStep (do
    let s ← state
    let g ← need (aget s.programs p) "no such program runs"
    waitUntil (enginesRun s)
    if g.code.isNone then
      waitUntil (g.verdict == .matched && (g.cav || g.done) && !unacked s g)
      if g.cav then cavFinish g
    let g ← writeCrec p g
    if g.cdone.getLsbD 6 then
      change (fun s => addCtr s (coreDie g.core) (fld g.cdone 0 6) (fld g.cdone 8 8))
    match g.code, g.task with
    | some code, some t => change (fun s => postTaskTrap s t .collective code (some (collInfo g)))
    | _, _ => pure ()
    change (fun s => cleanPosts (removeProgram s p) g.coll)) s

end Sys2Proof.Machine
end

