-- ==== Sys2Proof/Machine/Vector.lean ====
section
/-!
DEFINITION. The vector engine's elementwise commands (13 R357 to R363, R367 to R369): a command whose element i depends on
element i of each source.
-/

namespace Sys2Proof.Machine

/-! ### Regions (13 R354, R355) -/

/-- The element size that the tag of a source's first slot gives at dispatch. -/
def sizeAtDispatch (s : State) (w : Who) (off : Nat) : Nat := sizeAt s w.core (partOf s w) off

/-- The elements of a destination region. -/
def Region.written (r : Region) (size n : Nat) : Interval := sElems r.base (strideOf r.code) n size size true

/-- The elements of a source region: held as elements of 4 bytes (13 R378), accessed by the size that its tag gives at dispatch. -/
def Region.source (s : State) (w : Who) (r : Region) (n : Nat) : Interval :=
  sElems r.base (strideOf r.code) n (sizeAtDispatch s w r.base) 4 false

/-- Steps 2 to 4 of R336 for a destination interval and source intervals; `own` bytes of the destination are checked for their owner. -/
def regionCheck (w : Who) (c : Cmd) (d : Interval) (align own : Nat) (srcs more : List Interval) : Act Cmd := do
  let p := partOf (← state) w
  inPart p d.lo (d.hi - d.lo)
  for x in srcs do inPart p x.lo 1
  requireOpen (d.lo % align == 0) .alignment
  engineOwned w p d.lo own
  for x in srcs do firstOwned w p x.lo
  pure { c with ranges := d :: (srcs.map (clipRange p) ++ more) }

/-- Two intervals of bytes share a byte. -/
def bytesMeet (a n b m : Nat) : Bool := a < b + m && b < a + n

/-! ### Mapped commands -/

/-- A source of a mapped command, and the tags it accepts. -/
structure Src where
  reg : Region
  accept : TileTag → Bool

/-- A mapped command: its destination region, element count and X, its sources (the old destination among them where it is
read), the size of a destination element at dispatch, further checks of the tags that give the destination's, and an
element's encoding from its sources' at a destination offset. -/
structure MapSpec where
  d : Region
  n : Nat
  x : Bool
  srcs : List Src
  readsD : Bool
  fmts : Act Unit
  dsize : State → Who → Nat
  dest : Eng → List TileTag → Act TileTag
  value : Eng → List TileTag → Nat → Nat → List Nat → Nat

/-- Dispatch of an element-wise command: its sources, then its destination, in the order of 13 R336, with the ranges that
hold it (13 R354, R355, R378). -/
def mapCheck (ms : MapSpec) (w : Who) (c : Cmd) : Act Cmd := do
  ms.fmts
  let s ← state
  let size := ms.dsize s w
  regionCheck w c (ms.d.written size ms.n) size (ms.d.span size ms.n) (ms.srcs.map (fun x => x.reg.source s w ms.n)) []

/-- The checks made when the sources are first read: tags, X, alignment, overlap with the destination (13 R355, R358). -/
def mapFirst (ms : MapSpec) (e : Eng) (tags : List TileTag) : Act Unit := do
  for x in ms.srcs.zip tags do erequire e (x.1.accept x.2) .formatMismatch x.1.reg.base
  for x in ms.srcs.zip tags do
    erequire e (!ms.x || isInteger x.2.1) .reservedField x.1.reg.base
    erequire e (x.1.reg.base % sizeOf' x.2.1 == 0) .alignment x.1.reg.base

def mapOverlap (ms : MapSpec) (e : Eng) (tags : List TileTag) (size : Nat) : Act Unit := do
  for x in ms.srcs.zip tags do
    let n := sizeOf' x.2.1
    let same := x.1.reg == ms.d && n == size
    erequire e (same || !bytesMeet x.1.reg.base (x.1.reg.span n ms.n) ms.d.base (ms.d.span size ms.n)) .reservedField
      x.1.reg.base

/-- 256 bytes of the widest operand (13 Table 12). -/
def mapMicro (ms : MapSpec) (e : Eng) : Act Bool := do
  let tags ← ms.srcs.mapM (fun x => touchTag e (x.reg.base / 2048))
  if e.cmd.upc = 0 then mapFirst ms e tags
  let dt ← ms.dest e tags
  let size := sizeOf' dt.1
  if e.cmd.upc = 0 then mapOverlap ms e tags size
  let per := 256 / (tags.foldl (fun m t => Nat.max m (sizeOf' t.1)) size)
  let todo := (List.range per).filterMap (fun k => if e.cmd.upc + k < ms.n then some (e.cmd.upc + k) else none)
  let mut out : List (Nat × Nat) := []
  for i in todo do
    let raws ← (ms.srcs.zip tags).mapM (fun x => do
      let n := sizeOf' x.2.1
      pure (leNat (← getTagged e x.2 n (x.1.reg.at n i) n)))
    let off := ms.d.at size i
    out := out ++ [(off, ms.value e tags i off raws)]
  for o in out do putBytes e dt.1 dt.2 o.1 (leBytes size o.2)
  changeCmd e (fun c => { c with upc := e.cmd.upc + todo.length })
  pure (ms.n ≤ e.cmd.upc + todo.length)

def mapCmd (ms : MapSpec) : CmdSpec :=
  { queue := 1, check := mapCheck ms, ready := startsFreely, micro := mapMicro ms }

/-- The regions of format V3. -/
def regD (v : V3Args) : Region := ⟨v.d.toNat, v.sd⟩
def regA (v : V3Args) : Region := ⟨v.a.toNat, v.sa⟩
def regB (v : V3Args) : Region := ⟨v.b.toNat, v.sb⟩

/-- F as a numeric destination format (13 R356); X asks for an integer F (R358). -/
def numericF (f : BitVec 6) (x : Bool) : Act Unit := do
  requireOpen (!x || isInteger f) .reservedField
  requireOpen (isNumeric (f, 0)) .formatMismatch

/-- A mapped command whose destination format is F. -/
def mapF (v : V3Args) (srcs : List Region) (readsD : Bool) (value : Eng → List TileTag → Nat → Nat → List Nat → Nat) : MapSpec :=
  { d := regD v, n := v.n.toNat, x := v.x, srcs := srcs.map (fun r => ⟨r, isNumeric⟩), readsD := readsD,
    fmts := numericF v.f v.x, dsize := fun _ _ => sizeOf' v.f, dest := fun _ _ => pure (v.f, 0), value := value }

/-- A mapped command whose destination takes A's tag; `same` are checks between the tags. -/
def mapA (v : V3Args) (srcs : List Region) (readsD : Bool) (accept : TileTag → Bool) (same : List TileTag → Bool)
    (value : Eng → List TileTag → Nat → Nat → List Nat → Nat) : MapSpec :=
  { d := regD v, n := v.n.toNat, x := false, srcs := srcs.map (fun r => ⟨r, accept⟩), readsD := readsD, fmts := pure (),
    dsize := fun s w => sizeAtDispatch s w v.a.toNat,
    dest := fun e tags => do
      erequire e (same tags) .formatMismatch v.a.toNat
      pure (tags.getD 0 (0, 0)),
    value := value }

/-! ### Arithmetic (13 R357, R358) -/

/-- An arithmetic result: exact integers where every source and F are integers, else exact values rounded once. -/
def arithValue (f : BitVec 6) (x : Bool) (ints : List Int → Int) (nums : Eng → List Num → Num) (e : Eng)
    (tags : List TileTag) (_i off : Nat) (raws : List Nat) : Nat :=
  let ops := raws.zip tags
  if isInteger f && tags.all (fun t => isInteger t.1) then
    intResult f x (ints (ops.map (fun o => widenInt o.2.1 o.1)))
  else numResult e f off (nums e (ops.map (fun o => widen o.2.1 o.1)))

def num0 (xs : List Num) : Num := xs.getD 0 .nan
def num1 (xs : List Num) : Num := xs.getD 1 .nan
def num2 (xs : List Num) : Num := xs.getD 2 .nan
def int0 (xs : List Int) : Int := xs.getD 0 0
def int1 (xs : List Int) : Int := xs.getD 1 0
def int2 (xs : List Int) : Int := xs.getD 2 0

def addSpec (v : V3Args) : CmdSpec :=
  mapCmd (mapF v [regA v, regB v] false (arithValue v.f v.x (fun x => int0 x + int1 x)
    (fun e x => addNum (isRdn e) (num0 x) (num1 x))))
def subSpec (v : V3Args) : CmdSpec :=
  mapCmd (mapF v [regA v, regB v] false (arithValue v.f v.x (fun x => int0 x - int1 x)
    (fun e x => addNum (isRdn e) (num0 x) (num1 x).negate)))
def mulSpec (v : V3Args) : CmdSpec :=
  mapCmd (mapF v [regA v, regB v] false (arithValue v.f v.x (fun x => int0 x * int1 x)
    (fun _ x => mulNum (num0 x) (num1 x))))
def fmaSpec (v : V3Args) : CmdSpec :=
  mapCmd (mapF v [regA v, regB v, regD v] true (arithValue v.f v.x (fun x => int0 x * int1 x + int2 x)
    (fun e x => addNum (isRdn e) (mulNum (num0 x) (num1 x)) (num2 x))))
def minSpec (v : V3Args) : CmdSpec :=
  mapCmd (mapF v [regA v, regB v] false (arithValue v.f v.x (fun x => min (int0 x) (int1 x))
    (fun _ x => minNum (num0 x) (num1 x))))
def maxSpec (v : V3Args) : CmdSpec :=
  mapCmd (mapF v [regA v, regB v] false (arithValue v.f v.x (fun x => max (int0 x) (int1 x))
    (fun _ x => maxNum (num0 x) (num1 x))))
def absSpec (v : V3Args) : CmdSpec :=
  mapCmd (mapF v [regA v] false (arithValue v.f v.x (fun x => (int0 x).natAbs) (fun _ x => (num0 x).abs)))
def negSpec (v : V3Args) : CmdSpec :=
  mapCmd (mapF v [regA v] false (arithValue v.f v.x (fun x => -(int0 x)) (fun _ x => (num0 x).negate)))

/-- v.add: D := Result(a + b, F). -/
def execVAdd (v : V3Args) (s : State) : Host.Outcome State Fault Refusal := runCommand (.vAdd v) (addSpec v) s
/-- v.sub: D := Result(a - b, F). -/
def execVSub (v : V3Args) (s : State) : Host.Outcome State Fault Refusal := runCommand (.vSub v) (subSpec v) s
/-- v.mul: D := Result(a x b, F). -/
def execVMul (v : V3Args) (s : State) : Host.Outcome State Fault Refusal := runCommand (.vMul v) (mulSpec v) s
/-- v.fma: D := Result(a x b + d, F), one rounding. -/
def execVFma (v : V3Args) (s : State) : Host.Outcome State Fault Refusal := runCommand (.vFma v) (fmaSpec v) s
/-- v.min: D := Result(Min(a, b), F). -/
def execVMin (v : V3Args) (s : State) : Host.Outcome State Fault Refusal := runCommand (.vMin v) (minSpec v) s
/-- v.max: D := Result(Max(a, b), F). -/
def execVMax (v : V3Args) (s : State) : Host.Outcome State Fault Refusal := runCommand (.vMax v) (maxSpec v) s
/-- v.abs: D := Result(|a|, F). -/
def execVAbs (v : V3Args) (s : State) : Host.Outcome State Fault Refusal := runCommand (.vAbs v) (absSpec v) s
/-- v.neg: D := Result(-a, F). -/
def execVNeg (v : V3Args) (s : State) : Host.Outcome State Fault Refusal := runCommand (.vNeg v) (negSpec v) s

/-! ### Bits, compares, selection, moves (13 R359 to R361) -/

/-- Lane operations on raw encodings, at the width of A's tag. -/
def bitsValue (op : TileTag → Nat → Nat → Nat → Nat) (_e : Eng) (tags : List TileTag) (_i _off : Nat) (raws : List Nat) :
    Nat :=
  let t := tags.getD 0 (0, 0)
  op t (8 * sizeOf' t.1) (raws.getD 0 0) (raws.getD 1 0)

/-- A and B have one element size (13 R359). -/
def sameSize (tags : List TileTag) : Bool := tags.all (fun t => sizeOf' t.1 == sizeOf' (tags.getD 0 (0, 0)).1)

def bitsSpec (v : V3Args) (op : TileTag → Nat → Nat → Nat → Nat) : CmdSpec :=
  mapCmd (mapA v [regA v, regB v] false isBits sameSize (bitsValue op))

/-- Shift of a lane of `w` bits (10 R273): arithmetic for INT8 and INT32, logical for raw bytes. -/
def laneShr (t : TileTag) (w a b : Nat) : Nat :=
  if t.1 = 0 then (if w ≤ b then 0 else a / 2 ^ b)
  else (shiftRightA w (BitVec.ofNat w a) (BitVec.ofNat w b)).toNat

def laneShl (_t : TileTag) (w a b : Nat) : Nat := if w ≤ b then 0 else a * 2 ^ b % 2 ^ w

def andSpec (v : V3Args) : CmdSpec := bitsSpec v (fun _ _ a b => a &&& b)
def orSpec (v : V3Args) : CmdSpec := bitsSpec v (fun _ _ a b => a ||| b)
def xorSpec (v : V3Args) : CmdSpec := bitsSpec v (fun _ _ a b => a ^^^ b)
def shlSpec (v : V3Args) : CmdSpec := bitsSpec v laneShl
def shrSpec (v : V3Args) : CmdSpec := bitsSpec v laneShr

/-- v.and -/
def execVAnd (v : V3Args) (s : State) : Host.Outcome State Fault Refusal := runCommand (.vAnd v) (andSpec v) s
/-- v.or -/
def execVOr (v : V3Args) (s : State) : Host.Outcome State Fault Refusal := runCommand (.vOr v) (orSpec v) s
/-- v.xor -/
def execVXor (v : V3Args) (s : State) : Host.Outcome State Fault Refusal := runCommand (.vXor v) (xorSpec v) s
/-- v.shl -/
def execVShl (v : V3Args) (s : State) : Host.Outcome State Fault Refusal := runCommand (.vShl v) (shlSpec v) s
/-- v.shr -/
def execVShr (v : V3Args) (s : State) : Host.Outcome State Fault Refusal := runCommand (.vShr v) (shrSpec v) s

/-- A condition on exact values (13 R360): a comparison with a NaN is false but for ne. -/
def condNum (c : Nat) (a b : Num) : Bool :=
  let ord := !a.isNan && !b.isNan
  let lt := ord && ltNum a b
  let gt := ord && ltNum b a
  let eq := ord && !lt && !gt
  match c with
  | 0 => eq
  | 1 => !eq
  | 2 => lt
  | 3 => lt || eq
  | 4 => gt
  | _ => gt || eq

/-- Formats that v.cmp takes: the numeric ones and raw bytes. -/
def isCompared (t : TileTag) : Bool := isNumeric t || t == (0, 0)

def cmpSpec (v : V3Args) : CmdSpec :=
  mapCmd (mapA v [regA v, regB v] false isCompared (fun _ => true) (fun _ tags _ _ raws =>
    let t := fun (k : Nat) => (tags.getD k (0, 0)).1
    if condNum v.f.toNat (widen (t 0) (raws.getD 0 0)) (widen (t 1) (raws.getD 1 0)) then roundTo (t 0) ⟨0, 0⟩ one else 0))

/-- v.cmp: D := 1 in A's format where the condition holds, +0 elsewhere. -/
def execVCmp (v : V3Args) (s : State) : Host.Outcome State Fault Refusal := runCommand (.vCmp v) (cmpSpec v) s

def selSpec (v : V3Args) : CmdSpec :=
  mapCmd (mapA v [regA v, regB v, regD v] true isMove (fun tags => tags.all (fun t => t == tags.getD 0 (0, 0)))
    (fun _ _ _ _ raws => if raws.getD 2 0 != 0 then raws.getD 0 0 else raws.getD 1 0))

/-- v.sel: D := A where the old D has a bit set, else B. -/
def execVSel (v : V3Args) (s : State) : Host.Outcome State Fault Refusal := runCommand (.vSel v) (selSpec v) s

/-- v.mov's destination tag: A's, or F of the same element size (13 R361). -/
def movDest (v : V3Args) (e : Eng) (tags : List TileTag) : Act TileTag := do
  let t := tags.getD 0 (0, 0)
  if v.f = 0 then pure t
  else do
    erequire e (isMove (v.f, 0) && sizeOf' v.f == sizeOf' t.1) .formatMismatch v.a.toNat
    pure (v.f, 0)

/-- The size of v.mov's destination elements at dispatch: F's, or that of A's tag (13 R355, R361). -/
def movSize (v : V3Args) (s : State) (w : Who) : Nat :=
  if isMove (v.f, 0) then sizeOf' v.f else sizeAtDispatch s w v.a.toNat

def movSpec (v : V3Args) : CmdSpec :=
  mapCmd { mapA v [regA v] false isMove (fun _ => true) (fun _ _ _ _ raws => raws.getD 0 0) with
    dest := movDest v, dsize := movSize v }

/-- v.mov: D := A bit for bit, stamped with A's tag or F. -/
def execVMov (v : V3Args) (s : State) : Host.Outcome State Fault Refusal := runCommand (.vMov v) (movSpec v) s

def cvtSpec (v : V3Args) : CmdSpec :=
  mapCmd (mapF v [regA v] false (fun e tags _ off raws =>
    numResult e v.f off (widen (tags.getD 0 (0, 0)).1 (raws.getD 0 0))))

/-- v.cvt: numeric A converted to F (10 R265). -/
def execVCvt (v : V3Args) (s : State) : Host.Outcome State Fault Refusal := runCommand (.vCvt v) (cvtSpec v) s

/-! ### Transcendentals (13 R363; 10 R272) -/

/-- The FP32 result, converted to F where F is another format. -/
def transSpec (fn : Num → Num) (v : V3Args) : CmdSpec :=
  mapCmd (mapF v [regA v] false (fun e tags _ off raws =>
    let bits := fp32.round (noSr e.cmd.mode) false (fn (widen (tags.getD 0 (0, 0)).1 (raws.getD 0 0)))
    if v.f = 1 then bits else numResult e v.f off (fp32.value bits)))

/-- v.exp2 -/
def execVExp2 (v : V3Args) (s : State) : Host.Outcome State Fault Refusal := runCommand (.vExp2 v) (transSpec exp2Num v) s
/-- v.exp -/
def execVExp (v : V3Args) (s : State) : Host.Outcome State Fault Refusal := runCommand (.vExp v) (transSpec expNum v) s
/-- v.log2 -/
def execVLog2 (v : V3Args) (s : State) : Host.Outcome State Fault Refusal := runCommand (.vLog2 v) (transSpec log2Num v) s
/-- v.rcp -/
def execVRcp (v : V3Args) (s : State) : Host.Outcome State Fault Refusal := runCommand (.vRcp v) (transSpec rcpNum v) s
/-- v.rsqrt -/
def execVRsqrt (v : V3Args) (s : State) : Host.Outcome State Fault Refusal :=
  runCommand (.vRsqrt v) (transSpec rsqrtNum v) s
/-- v.sqrt -/
def execVSqrt (v : V3Args) (s : State) : Host.Outcome State Fault Refusal := runCommand (.vSqrt v) (transSpec sqrtNum v) s
/-- v.tanh -/
def execVTanh (v : V3Args) (s : State) : Host.Outcome State Fault Refusal := runCommand (.vTanh v) (transSpec tanhNum v) s

/-! ### Fills and random values (13 R367, R368) -/

/-- A mapped command of format V2 without sources. -/
def mapV2 (v : V2Args) (fmts : Act Unit) (value : Eng → Nat → Nat → Nat) : CmdSpec :=
  mapCmd { d := ⟨v.d.toNat, v.sd⟩, n := v.n.toNat, x := false, srcs := [], readsD := false, fmts := fmts,
           dsize := fun _ _ => sizeOf' v.f, dest := fun _ _ => pure (v.f, 0), value := fun e _ i off _ => value e i off }

def iotaSpec (v : V2Args) : CmdSpec :=
  mapV2 v (numericF v.f false) (fun e i off => numResult e v.f off (Num.ofInt (v.imm.toInt + i)))

/-- v.iota: D[i] := RoundToFormat(IMM + i, F). -/
def execVIota (v : V2Args) (s : State) : Host.Outcome State Fault Refusal := runCommand (.vIota v) (iotaSpec v) s

/-- The special values of v.fill (13 R367). -/
def fillCode (e : Eng) (f : BitVec 6) (k off : Nat) : Nat :=
  if isInteger f then
    let r := intRange f
    if k = 2 || k = 5 then satInt f r.2 else if k = 3 || k = 6 then satInt f r.1 else 0
  else
    let top := match floatFmt f with
      | some p => p.value p.maxCode
      | none => .nan
    let x := match k with
      | 0 => Num.zero false
      | 1 => .zero true
      | 2 => .inf false
      | 3 => .inf true
      | 4 => .nan
      | 5 => top
      | _ => top.negate
    numResult e f off x

def fillSpec (v : V2Args) : CmdSpec :=
  mapV2 v (numericF v.f false) (fun e _ off =>
    if v.x then fillCode e v.f v.imm.toNat off else numResult e v.f off (Num.ofInt v.imm.toInt))

/-- v.fill: D[i] := a constant. -/
def execVFill (v : V2Args) (s : State) : Host.Outcome State Fault Refusal := runCommand (.vFill v) (fillSpec v) s

/-- v.rand's values (13 R368). -/
def randValue (e : Eng) (f : BitVec 6) (key step : Word) (i off : Nat) : Nat :=
  let ctr := (step <<< 16) ||| BitVec.ofNat 64 i
  if f = 8 then (sieve key ctr >>> 32).toNat
  else numResult e f off (sieveUniform key ctr)

def randSpec (v : V3Args) : CmdSpec :=
  let size := sizeOf' v.f
  let d := regD v
  let n := v.n.toNat
  { queue := 1
    check := fun w c => do
      requireOpen (v.f == 1 || v.f == 2 || v.f == 3 || v.f == 8) .formatMismatch
      let p := partOf (← state) w
      inPart p d.base (d.span size n)
      inPart p v.a.toNat 1
      requireOpen (v.a.toNat % 16 == 0) .alignment
      regionCheck w c (d.written size n) size (d.span size n) [sRange v.a.toNat 16 false] []
    ready := startsFreely
    micro := fun e => do
      let a := v.a.toNat
      if e.cmd.upc = 0 then erequire e (!bytesMeet a 16 d.base (d.span size n)) .reservedField a
      let bs ← getBytes e 4 a 16
      erequire e (fieldAt bs 4 4 == 0) .reservedField a
      let key := streamKey (seedOf (← state) e.w) (BitVec.ofNat 64 (fieldAt bs 0 4))
      let todo := (List.range (256 / size)).filterMap (fun k => if e.cmd.upc + k < n then some (e.cmd.upc + k) else none)
      for i in todo do
        let off := d.at size i
        putBytes e v.f 0 off (leBytes size (randValue e v.f key (BitVec.ofNat 64 (fieldAt bs 8 8)) i off))
      changeCmd e (fun c => { c with upc := e.cmd.upc + todo.length })
      pure (n ≤ e.cmd.upc + todo.length) }

/-- v.rand: values of Sieve from the block at A. -/
def execVRand (v : V3Args) (s : State) : Host.Outcome State Fault Refusal := runCommand (.vRand v) (randSpec v) s

/-! ### Gather and scatter (13 R369) -/

/-- The index list at B: INT32 (13 R369). -/
def indexAt (e : Eng) (r : Region) (i : Nat) : Act Int := do
  let v := leNat (← getTagged e (8, 0) 4 (r.at 4 i) 4)
  pure (BitVec.ofNat 32 v).toInt

/-- The offset of table element `idx`; none out of range. -/
def tableAt (p : Part) (base size : Nat) (idx : Int) : Option Nat :=
  if idx < 0 then none
  else
    let off := base + idx.toNat * size
    if off + size ≤ 2048 * p.sn then some off else none

/-- The bytes from a table's base to the partition's end. -/
def tableSpan (p : Part) (base : Nat) : Nat := 2048 * p.sn - base

/-- The table elements that the index list, as S holds it at dispatch, names: what a race-check launch checks of the table (log 37). -/
def tableTouches (s : State) (w : Who) (v : V3Args) (base size : Nat) (write : Bool) : List Interval :=
  if raceLaunch s w then
    let p := partOf s w
    (List.range v.n.toNat).filterMap (fun i =>
      let idx := (BitVec.ofNat 32 (leNat (readS s w.core p ((regB v).at 4 i) 4))).toInt
      (tableAt p base size idx).map (fun o => sRange o size write))
  else []

/-- The tag of B is INT32 and its base aligned. -/
def indexTag (e : Eng) (r : Region) : Act Unit := do
  let t ← touchTag e (r.base / 2048)
  erequire e (t == (8, 0)) .formatMismatch r.base
  erequire e (r.base % 4 == 0) .alignment r.base

/-- The 64 elements of a micro-step (13 Table 12). -/
def next64 (e : Eng) (n : Nat) : List Nat :=
  (List.range 64).filterMap (fun k => if e.cmd.upc + k < n then some (e.cmd.upc + k) else none)

def gatherMicro (v : V3Args) (e : Eng) : Act Bool := do
  let n := v.n.toNat
  let a := v.a.toNat
  let t ← touchTag e (a / 2048)
  let size := sizeOf' t.1
  if e.cmd.upc = 0 then
    erequire e (isMove t) .formatMismatch a
    erequire e (a % size == 0) .alignment a
    indexTag e (regB v)
    erequire e (!bytesMeet a (tableSpan e.part a) v.d.toNat ((regD v).span size n)) .reservedField a
    erequire e (!bytesMeet v.b.toNat ((regB v).span 4 n) v.d.toNat ((regD v).span size n)) .reservedField v.b.toNat
  let todo := next64 e n
  let mut out : List (Nat × List Byte) := []
  for i in todo do
    let idx ← indexAt e (regB v) i
    let bs ← match tableAt e.part a size idx with
      | none => pure (List.replicate size (0 : Byte))
      | some off => getTagged e t size off size
    out := out ++ [((regD v).at size i, bs)]
  for o in out do putBytes e t.1 t.2 o.1 o.2
  changeCmd e (fun c => { c with upc := e.cmd.upc + todo.length })
  pure (n ≤ e.cmd.upc + todo.length)

def gatherSpec (v : V3Args) : CmdSpec :=
  { queue := 1
    check := fun w c => do
      let s ← state
      let size := sizeAtDispatch s w v.a.toNat
      let n := v.n.toNat
      let table := (sRange v.a.toNat (tableSpan (partOf s w) v.a.toNat) false).heldOnly
      regionCheck w c ((regD v).written size n) size ((regD v).span size n) [table, sElems v.b.toNat (strideOf v.sb) n 4 4 false]
        (tableTouches s w v v.a.toNat size false)
    ready := startsFreely
    micro := gatherMicro v }

/-- v.gather: D[i] := the table element at A that B[i] names, zero out of range. -/
def execVGather (v : V3Args) (s : State) : Host.Outcome State Fault Refusal := runCommand (.vGather v) (gatherSpec v) s

/-- One scattered element: the table slot belongs to the engines and carries the values' tag. -/
def scatterOne (e : Eng) (t : TileTag) (off : Nat) (bs : List Byte) : Act Unit := do
  checkBytes e off bs.length
  for i in slotsOf off bs.length do
    let u ← touchTag e i
    erequire e (u == t) .formatMismatch off
  putPlain e off bs

def scatterMicro (v : V3Args) (e : Eng) : Act Bool := do
  let n := v.n.toNat
  let a := v.a.toNat
  let d := v.d.toNat
  let t ← touchTag e (a / 2048)
  let size := sizeOf' t.1
  if e.cmd.upc = 0 then
    erequire e (isMove t) .formatMismatch a
    erequire e (a % size == 0) .alignment a
    indexTag e (regB v)
    erequire e (!bytesMeet a ((regA v).span size n) d (tableSpan e.part d)) .reservedField a
    erequire e (!bytesMeet v.b.toNat ((regB v).span 4 n) d (tableSpan e.part d)) .reservedField v.b.toNat
  let todo := next64 e n
  for i in todo do
    let idx ← indexAt e (regB v) i
    let bs ← getTagged e t size ((regA v).at size i) size
    match tableAt e.part d size idx with
    | none => pure ()
    | some off => scatterOne e t off bs
  changeCmd e (fun c => { c with upc := e.cmd.upc + todo.length })
  pure (n ≤ e.cmd.upc + todo.length)

def scatterSpec (v : V3Args) : CmdSpec :=
  { queue := 1
    check := fun w c => do
      let s ← state
      let size := sizeAtDispatch s w v.a.toNat
      let p := partOf s w
      inPart p v.d.toNat 1
      let table := (sRange v.d.toNat (tableSpan p v.d.toNat) true).heldOnly
      regionCheck w c table size 1 [(regA v).source s w v.n.toNat, sElems v.b.toNat (strideOf v.sb) v.n.toNat 4 4 false]
        (tableTouches s w v v.d.toNat size true)
    ready := startsFreely
    micro := scatterMicro v }

/-- v.scatter: A[i] into the table element at D that B[i] names, none out of range. -/
def execVScatter (v : V3Args) (s : State) : Host.Outcome State Fault Refusal := runCommand (.vScatter v) (scatterSpec v) s

end Sys2Proof.Machine
end

