-- ==== Sys2Proof/Machine/VectorReduce.lean ====
section
/-!
DEFINITION. MX quantising, reductions, scans, top-k, sampling and speculative verification (13 R362, R364 to R374).
-/

namespace Sys2Proof.Machine

/-! ### MX quantising (13 R362) -/

/-- Bytes of `n` elements in MX blocks, to the last pad byte of the last unit (10 R257). -/
def mxSpan (f : BitVec 6) (n : Nat) : Nat :=
  let nb := (mxBlocks f).1
  2048 * ((n / 32 + nb - 1) / nb)

/-- Bytes of `n` elements in MX blocks up to the last one that a decoding reads (10 R257). -/
def mxUsed (f : BitVec 6) (n : Nat) : Nat :=
  let (nb, db) := mxBlocks f
  let last := n / 32 - 1
  2048 * (last / nb) + nb * db + last % nb + 1

/-- FP32, BF16 or FP16 (13 R362). -/
def isWide (t : TileTag) : Bool := t.2 == 0 && 1 ≤ t.1.toNat && t.1.toNat ≤ 3

/-- E4M3, E5M2 or FP4 (13 R362). -/
def isMxF (f : BitVec 6) : Bool := 4 ≤ f.toNat && f.toNat ≤ 6

def qmxMicro (v : V3Args) (e : Eng) : Act Bool := do
  let a := v.a.toNat
  let n := v.n.toNat
  let t ← touchTag e (a / 2048)
  let size := sizeOf' t.1
  if e.cmd.upc = 0 then
    erequire e (isWide t) .formatMismatch a
    erequire e (a % size == 0) .alignment a
    erequire e (!bytesMeet a (size * n) v.d.toNat (mxSpan v.f n)) .reservedField a
  let b := e.cmd.upc
  let bs ← getTagged e t size (a + 32 * b * size) (32 * size)
  let xs := (List.range 32).map (fun k => widen t.1 (leNat ((bs.drop (size * k)).take size)))
  for o in mxBlock v.f e.cmd.mode e.key v.d.toNat b (b + 1 == n / 32) xs do putBytes e v.f 1 (v.d.toNat + o.1) o.2
  changeCmd e (fun c => { c with upc := b + 1 })
  pure (n / 32 ≤ b + 1)

def qmxSpec (v : V3Args) : CmdSpec :=
  { queue := 1
    check := fun w c => do
      requireOpen (isMxF v.f) .formatMismatch
      let span := mxSpan v.f v.n.toNat
      regionCheck w c (sRange v.d.toNat span true) 2048 span [Region.source (← state) w ⟨v.a.toNat, 1⟩ v.n.toNat] []
    ready := startsFreely
    micro := qmxMicro v }

/-- v.qmx: one block of 32 elements a micro-step. -/
def execVQmx (v : V3Args) (s : State) : Host.Outcome State Fault Refusal := runCommand (.vQmx v) (qmxSpec v) s

def dqmxMicro (v : V3Args) (e : Eng) : Act Bool := do
  let a := v.a.toNat
  let n := v.n.toNat
  let t ← touchTag e (a / 2048)
  let size := sizeOf' v.f
  if e.cmd.upc = 0 then
    erequire e (isMxF t.1 && t.2 == 1) .formatMismatch a
    erequire e (a % 2048 == 0) .alignment a
    erequire e (!bytesMeet a (mxSpan t.1 n) v.d.toNat (size * n)) .reservedField a
  let b := e.cmd.upc
  let (nb, db) := mxBlocks t.1
  let unit := a + 2048 * (b / nb)
  let data ← getTagged e t 1 (unit + db * (b % nb)) db
  let scale ← getTagged e t 1 (unit + nb * db + b % nb) 1
  let at_ := fun (k : Nat) => if k < db then (data.getD k 0).toNat else (scale.getD 0 0).toNat
  let dec := fun (k : Nat) =>
    match floatFmt t.1 with
    | some f =>
      let byte := if t.1 = 6 then k / 2 else k
      let sub := if t.1 = 6 then 4 * (k % 2) else 0
      mxDecode f (at_ db) (at_ byte / 2 ^ sub % 2 ^ f.width)
    | none => Num.nan
  for k in List.range 32 do
    let off := v.d.toNat + size * (32 * b + k)
    putBytes e v.f 0 off (leBytes size (numResult e v.f off (dec k)))
  changeCmd e (fun c => { c with upc := b + 1 })
  pure (n / 32 ≤ b + 1)

def dqmxSpec (v : V3Args) : CmdSpec :=
  { queue := 1
    check := fun w c => do
      requireOpen (isWide (v.f, 0)) .formatMismatch
      let size := sizeOf' v.f
      let s ← state
      let tag := (slotOf s w.core ((partOf s w).s0 + v.a.toNat / 2048)).fmt
      let src := { sRange v.a.toNat (4 * v.n.toNat) false with size := if isMxF tag then mxUsed tag v.n.toNat else 4 * v.n.toNat }
      regionCheck w c (sRange v.d.toNat (size * v.n.toNat) true) size (size * v.n.toNat) [src] []
    ready := startsFreely
    micro := dqmxMicro v }

/-- v.dqmx: one block a micro-step, decoded to F. -/
def execVDqmx (v : V3Args) (s : State) : Host.Outcome State Fault Refusal := runCommand (.vDqmx v) (dqmxSpec v) s

/-! ### Reductions (13 R364) -/

/-- The segment length L: B<15:0>, 0 for N. -/
def segLen (v : V3Args) : Nat :=
  let l := (v.b.extractLsb' 0 16).toNat
  if l = 0 then v.n.toNat else l

/-- The values of a segment and the encodings. -/
def segment (e : Eng) (v : V3Args) (t : TileTag) (first len : Nat) : Act (List Nat) := do
  let size := sizeOf' t.1
  (List.range len).mapM (fun k => do
    pure (leNat (← getTagged e t size ((regA v).at size (first + k)) size)))

/-- The checks of a reduction's source at its first read. -/
def reduceFirst (v : V3Args) (e : Eng) (t : TileTag) (dsize dn : Nat) : Act Unit := do
  let a := v.a.toNat
  let size := sizeOf' t.1
  erequire e (isNumeric t) .formatMismatch a
  erequire e (!v.x || isInteger t.1) .reservedField a
  erequire e (a % size == 0) .alignment a
  erequire e (!bytesMeet a ((regA v).span size v.n.toNat) v.d.toNat ((regD v).span dsize dn)) .reservedField a

/-- A reduction of a segment: the destination's encoding at an offset. -/
abbrev SegFn := Eng → TileTag → Nat → List Nat → Nat

def reduceMicro (v : V3Args) (f : BitVec 6) (fn : SegFn) (e : Eng) : Act Bool := do
  let t ← touchTag e (v.a.toNat / 2048)
  let size := sizeOf' f
  let l := segLen v
  let dn := v.n.toNat / l
  if e.cmd.upc = 0 then reduceFirst v e t size dn
  let i := e.cmd.upc
  let raws ← segment e v t (l * i) l
  let off := (regD v).at size i
  putBytes e f 0 off (leBytes size (fn e t off raws))
  changeCmd e (fun c => { c with upc := i + 1 })
  pure (dn ≤ i + 1)

def reduceSpec (v : V3Args) (f : BitVec 6) (fmts : Act Unit) (fn : SegFn) : CmdSpec :=
  { queue := 1
    check := fun w c => do
      fmts
      let span := (regD v).span (sizeOf' f) (v.n.toNat / segLen v)
      regionCheck w c ((regD v).written (sizeOf' f) (v.n.toNat / segLen v)) (sizeOf' f) span
        [(regA v).source (← state) w v.n.toNat] []
    ready := startsFreely
    micro := reduceMicro v f fn }

/-- A reduction over integers where source and F are integers, else over exact values. -/
def foldSeg (f : BitVec 6) (x : Bool) (ints : List Int → Int) (nums : Eng → List Num → Num) : SegFn := fun e t off raws =>
  if isInteger f && isInteger t.1 then intResult f x (ints (raws.map (widenInt t.1)))
  else numResult e f off (nums e (raws.map (widen t.1)))

def maxNums (l : List Num) : Num := l.foldl maxNum (l.getD 0 .nan)
def minNums (l : List Num) : Num := l.foldl minNum (l.getD 0 .nan)

def rsumSpec (v : V3Args) : CmdSpec :=
  reduceSpec v v.f (numericF v.f v.x) (foldSeg v.f v.x List.sum (fun e l => sumNum (isRdn e) l))

/-- The result of a v.rmax or v.rmin is converted to F, which saturates into an integer format (13 R364; 10 R265). -/
def pickSeg (f : BitVec 6) (pick : List Num → Num) : SegFn := fun e t off raws => numResult e f off (pick (raws.map (widen t.1)))

def rmaxSpec (v : V3Args) : CmdSpec := reduceSpec v v.f (numericF v.f v.x) (pickSeg v.f maxNums)
def rminSpec (v : V3Args) : CmdSpec := reduceSpec v v.f (numericF v.f v.x) (pickSeg v.f minNums)

/-- v.rsum: the exact sum of each segment, rounded once. -/
def execVRsum (v : V3Args) (s : State) : Host.Outcome State Fault Refusal := runCommand (.vRsum v) (rsumSpec v) s
/-- v.rmax: the largest of each segment. -/
def execVRmax (v : V3Args) (s : State) : Host.Outcome State Fault Refusal := runCommand (.vRmax v) (rmaxSpec v) s
/-- v.rmin: the smallest of each segment. -/
def execVRmin (v : V3Args) (s : State) : Host.Outcome State Fault Refusal := runCommand (.vRmin v) (rminSpec v) s

/-- a comes after b in v.argmax's order: a smaller value, +0 above -0. -/
def belowArg (a b : Num) : Bool := ltNum a b || (a.isZero && b.isZero && a.neg && !b.neg)

/-- The index of the first NaN, else the lowest index of the largest value. -/
def argmaxOf (xs : List Num) : Nat :=
  match xs.findIdx? Num.isNan with
  | some i => i
  | none => (xs.zipIdx.foldl (fun (b : Num × Nat) x => if belowArg b.1 x.1 then x else b) (xs.getD 0 .nan, 0)).2

def argmaxSpec (v : V3Args) : CmdSpec :=
  reduceSpec v 8 (pure ()) (fun _ t _ raws => argmaxOf (raws.map (widen t.1)))

/-- v.argmax: the index of the largest of each segment, as INT32. -/
def execVArgmax (v : V3Args) (s : State) : Host.Outcome State Fault Refusal := runCommand (.vArgmax v) (argmaxSpec v) s

/-! ### Scans (13 R365) -/

/-- The running value of a scan: FP32 bits, or INT32 where source and F are integers. -/
def scanOp (v : V3Args) : Nat := (v.b.extractLsb' 16 2).toNat
def scanExcl (v : V3Args) : Bool := v.b.getLsbD 18

/-- The identity (02 Table 4), as a running value; the type whose limits it is are the elements' (log 82). -/
def scanIdentity (op : Nat) (int : Bool) (f : BitVec 6) : Nat :=
  let top := 2 ^ (8 * sizeOf' f - 1)
  if int then (if op = 0 then 0 else if op = 1 then 2 ^ 32 - top else top - 1)
  else if op = 0 then 0 else if op = 1 then fp32.inf true else fp32.inf false

/-- run ⊕ a, its roundings under the captured mode with SR as RNE. -/
def scanStep (e : Eng) (op : Nat) (int x : Bool) (t : TileTag) (run raw : Nat) : Nat :=
  if int then
    let r := (BitVec.ofNat 32 run).toInt
    let a := widenInt t.1 raw
    if op = 0 then intResult 8 x (r + a) else if op = 1 then intResult 8 x (max r a) else intResult 8 x (min r a)
  else
    let r := fp32.value run
    let a := widen t.1 raw
    let y := if op = 0 then addNum (isRdn e) r a else if op = 1 then maxNum r a else minNum r a
    fp32.round (noSr e.cmd.mode) false y

/-- Result(run, F). -/
def scanOut (e : Eng) (v : V3Args) (int : Bool) (off run : Nat) : Nat :=
  if int then intResult v.f v.x (BitVec.ofNat 32 run).toInt else numResult e v.f off (fp32.value run)

def scanMicro (v : V3Args) (e : Eng) : Act Bool := do
  let t ← touchTag e (v.a.toNat / 2048)
  let size := sizeOf' v.f
  let n := v.n.toNat
  if e.cmd.upc = 0 then reduceFirst v e t size n
  let int := isInteger v.f && isInteger t.1
  let op := scanOp v
  let id := scanIdentity op int t.1
  let per := 256 / Nat.max size (sizeOf' t.1)
  let todo := (List.range per).filterMap (fun k => if e.cmd.upc + k < n then some (e.cmd.upc + k) else none)
  let mut run := e.cmd.cont.toNat
  let mut out : List (Nat × Nat) := []
  for i in todo do
    let raw ← segment e v t i 1
    let before := if i % segLen v = 0 then id else run
    let after := scanStep e op int v.x t before (raw.getD 0 0)
    let off := (regD v).at size i
    out := out ++ [(off, scanOut e v int off (if scanExcl v then before else after))]
    run := after
  for o in out do putBytes e v.f 0 o.1 (leBytes size o.2)
  changeCmd e (fun c => { c with upc := e.cmd.upc + todo.length, cont := BitVec.ofNat 64 run })
  pure (n ≤ e.cmd.upc + todo.length)

def scanSpec (v : V3Args) : CmdSpec :=
  { queue := 1
    check := fun w c => do
      numericF v.f v.x
      let span := (regD v).span (sizeOf' v.f) v.n.toNat
      regionCheck w c ((regD v).written (sizeOf' v.f) v.n.toNat) (sizeOf' v.f) span [(regA v).source (← state) w v.n.toNat] []
    ready := startsFreely
    micro := scanMicro v }

/-- v.scan: a running combination of each segment. -/
def execVScan (v : V3Args) (s : State) : Host.Outcome State Fault Refusal := runCommand (.vScan v) (scanSpec v) s

/-! ### Top-k (13 R366) -/

/-- a comes before b: a NaN above every number, then by descending value. -/
def topBefore (a b : Num) : Bool := if b.isNan then false else a.isNan || ltNum b a

/-- Indices by descending value, ties to the lower index. -/
def topInsert (x : Num × Nat) : List (Num × Nat) → List (Num × Nat)
  | [] => [x]
  | y :: r => if topBefore x.1 y.1 then x :: y :: r else y :: topInsert x r

def topOrder (xs : List Num) : List Nat :=
  (xs.zipIdx.foldl (fun l x => topInsert x l) []).map (fun x => x.2)

def topkMicro (v : V3Args) (e : Eng) : Act Bool := do
  let t ← touchTag e (v.a.toNat / 2048)
  let k := v.b.toNat
  reduceFirst v e t 4 k
  let raws ← segment e v t 0 v.n.toNat
  let order := topOrder (raws.map (widen t.1))
  for i in List.range k do
    putBytes e 8 0 ((regD v).at 4 i) (leBytes 4 (order.getD i 0xFFFFFFFF))
  pure true

def topkSpec (v : V3Args) : CmdSpec :=
  { queue := 1
    check := fun w c => do
      let span := (regD v).span 4 v.b.toNat
      regionCheck w c ((regD v).written 4 v.b.toNat) 4 span [(regA v).source (← state) w v.n.toNat] []
    ready := startsFreely
    micro := topkMicro v }

/-- v.topk: the indices of the K largest, -1 beyond N. -/
def execVTopk (v : V3Args) (s : State) : Host.Outcome State Fault Refusal := runCommand (.vTopk v) (topkSpec v) s

/-! ### Sampling (13 R370 to R372) -/

def rne : Rnd := { mode := 0, r := 0 }
def rne32 (x : Num) : Num := toFp32 rne x

/-- a ≥ b of values that are no NaN. -/
def geNum (a b : Num) : Bool := !a.isNan && !b.isNan && !ltNum a b

/-- The running sums until one reaches h; the sums and whether it stopped there (13 R370). -/
def cumSums (h c : Num) : List Num → List Num
  | [] => []
  | w :: r =>
    let c := rne32 (addNum false c w)
    c :: (if geNum c h then [] else cumSums h c r)

/-- SampleWeights (13 R370); -1 as none. -/
def sampleWeights (ws : List Num) (k : Nat) (topp u : Num) : Option Nat :=
  if ws.any (fun w => w.isNan || ltNum w (.zero false)) then none
  else
    let order := topOrder ws
    let m := if k = 0 then ws.length else Nat.min (Nat.min k 1024) ws.length
    let kept := (order.take m).map (fun i => ws.getD i .nan)
    let t := rne32 (sumNum false kept)
    if t.isZero || t == .inf false then none
    else
      let h := rne32 (mulNum topp t)
      let cum := cumSums h (.zero false) kept
      let last := cum.length - 1
      let tau := rne32 (mulNum u (cum.getD last .nan))
      match cum.findIdx? (fun c => !c.isNan && !tau.isNan && ltNum tau c) with
      | some j => some (order.getD j 0)
      | none => some (order.getD last 0)

/-- An INT32 result, -1 for none. -/
def indexWord (r : Option Nat) : List Byte := leBytes 4 (r.getD 0xFFFFFFFF)

/-- A uniform of a stream (10 R275). -/
def streamUniform (seed : Word) (stream : Nat) (ctr : Word) : Num :=
  sieveUniform (streamKey seed (BitVec.ofNat 64 stream)) ctr

/-- The index of the largest value, ties to the lower; none with a NaN. -/
def greedy (xs : List Num) : Option Nat :=
  if xs.any Num.isNan then none
  else some (xs.zipIdx.foldl (fun (b : Num × Nat) x => if ltNum b.1 x.1 then x else b) (xs.getD 0 .nan, 0)).2

/-- The weights of logits (13 R372). -/
def logitWeights (temp : Num) (xs : List Num) : List Num :=
  let m := maxNums xs
  let r := rne32 (divNum one temp)
  xs.map (fun x => rne32 (expNum (rne32 (mulNum (rne32 (addNum false x m.negate)) r))))

/-- One row (13 R372, Table 8). -/
def sampleRow (seed : Word) (blk : List Byte) (xs : List Num) : Option Nat :=
  let flag := fun (n : Nat) => fieldAt blk 0xC 4 / 2 ^ n % 2 == 1
  let temp := fp32.value (fieldAt blk 0 4)
  let hot := !temp.isNan && ltNum (.zero false) temp
  if flag 2 || (flag 0 && !hot) then greedy xs
  else
    let ws := if flag 0 then logitWeights temp xs else xs
    let u := if flag 1 then fp32.value (fieldAt blk 0x14 4)
      else streamUniform seed (fieldAt blk 0x10 4) (BitVec.ofNat 64 (fieldAt blk 0x18 8))
    sampleWeights ws (fieldAt blk 8 4) (fp32.value (fieldAt blk 4 4)) u

def sampleMicro (v : V3Args) (e : Eng) : Act Bool := do
  let a := v.a.toNat
  let b := v.b.toNat
  let n := v.n.toNat
  let rows := v.f.toNat + 1
  let t ← touchTag e (a / 2048)
  let size := sizeOf' t.1
  if e.cmd.upc = 0 then
    erequire e (isNumeric t) .formatMismatch a
    erequire e (a % size == 0) .alignment a
    erequire e (!bytesMeet a (size * n * rows) v.d.toNat ((regD v).span 4 rows)) .reservedField a
    erequire e (!bytesMeet b (32 * rows) v.d.toNat ((regD v).span 4 rows)) .reservedField b
  let r := e.cmd.upc
  let blk ← getBytes e 4 (b + 32 * r) 32
  erequire e (fieldAt blk 0xC 4 / 16 == 0) .reservedField (b + 32 * r)
  let raws ← (List.range n).mapM (fun i => do
    pure (leNat (← getTagged e t size (a + (r * n + i) * size) size)))
  let res := sampleRow (seedOf (← state) e.w) blk (raws.map (widen t.1))
  putBytes e 8 0 ((regD v).at 4 r) (indexWord res)
  if fieldAt blk 0xC 4 / 8 % 2 = 1 then
    putPlain e (b + 32 * r + 0x18) (leBytes 8 (fieldAt blk 0x18 8 + 1))
  changeCmd e (fun c => { c with upc := r + 1 })
  pure (rows ≤ r + 1)

def sampleSpec (v : V3Args) : CmdSpec :=
  { queue := 1
    check := fun w c => do
      let rows := v.f.toNat + 1
      let p := partOf (← state) w
      let span := (regD v).span 4 rows
      inPart p v.d.toNat span
      inPart p v.b.toNat (32 * rows)
      requireOpen (v.d.toNat % 4 == 0 && v.b.toNat % 32 == 0) .alignment
      engineOwned w p v.b.toNat (32 * rows)
      let s ← state
      let b := v.b.toNat
      let flags := fun (r : Nat) => leNat (readS s w.core p (b + 32 * r + 0xC) 4)
      let steps := (List.range rows).filterMap (fun r =>
        if raceLaunch s w && (flags r).testBit 3 then some (sRange (b + 32 * r + 0x18) 8 true) else none)
      regionCheck w c ((regD v).written 4 rows) 4 span [Region.source s w ⟨v.a.toNat, 1⟩ (v.n.toNat * rows)]
        (sRange b (32 * rows) false :: (sRange b (32 * rows) true).heldOnly :: steps)
    ready := startsFreely
    micro := sampleMicro v }

/-- v.sample: one row a micro-step; its index and its STEP are written last. -/
def execVSample (v : V3Args) (s : State) : Host.Outcome State Fault Refusal := runCommand (.vSample v) (sampleSpec v) s

/-! ### Speculative verification (13 R373, R374) -/

/-- The row `j` of `n` values among the rows at `base`. -/
def verifyRow (e : Eng) (t : TileTag) (base n j : Nat) : Act (List Num) := do
  let size := sizeOf' t.1
  let raws ← (List.range n).mapM (fun i => do
    pure (leNat (← getTagged e t size (base + (j * n + i) * size) size)))
  pure (raws.map (widen t.1))

/-- Accepted drafts: the first position that fails. -/
def verifyAccept (n vocab : Nat) (tok : Nat → Int) (u : Nat → Num) (p q : List (List Num)) : Nat :=
  ((List.range n).find? (fun j =>
    let t := tok j
    let at_ := fun (rows : List (List Num)) => (rows.getD j []).getD t.toNat .nan
    let lhs := rne32 (mulNum (u j) (at_ q))
    !(0 ≤ t && t < vocab && !lhs.isNan && !(at_ p).isNan && ltNum lhs (at_ p)))).getD n

/-- The residual weights max(+0, p - q). -/
def residual (p q : List Num) : List Num :=
  (p.zip q).map (fun x => maxNum (.zero false) (rne32 (addNum false x.1 x.2.negate)))

def verifyMicro (v : V3Args) (e : Eng) : Act Bool := do
  let n := v.f.toNat
  let vocab := v.n.toNat
  let d := v.d.toNat
  let ta ← touchTag e (v.a.toNat / 2048)
  let tb ← touchTag e (v.b.toNat / 2048)
  let len := 0x24 + 8 * n
  erequire e (isWide ta) .formatMismatch v.a.toNat
  erequire e (isWide tb) .formatMismatch v.b.toNat
  erequire e (v.a.toNat % sizeOf' ta.1 == 0) .alignment v.a.toNat
  erequire e (v.b.toNat % sizeOf' tb.1 == 0) .alignment v.b.toNat
  erequire e (!bytesMeet v.a.toNat (sizeOf' ta.1 * vocab * (n + 1)) d len) .reservedField v.a.toNat
  erequire e (!bytesMeet v.b.toNat (sizeOf' tb.1 * vocab * n) d len) .reservedField v.b.toNat
  let blk ← getBytes e 4 d len
  erequire e (fieldAt blk 8 4 / 4 == 0 && fieldAt blk 0x18 8 == 0) .reservedField d
  let p ← (List.range (n + 1)).mapM (verifyRow e ta v.a.toNat vocab)
  let q ← (List.range n).mapM (verifyRow e tb v.b.toNat vocab)
  let seed := seedOf (← state) e.w
  let expu := fieldAt blk 8 4 % 2 == 1
  let step := BitVec.ofNat 64 (fieldAt blk 0x10 8)
  let u := fun (j : Nat) =>
    if expu then fp32.value (fieldAt blk (0x20 + 4 * n + 4 * j) 4)
    else streamUniform seed (fieldAt blk 0xC 4) ((step <<< 6) ||| BitVec.ofNat 64 j)
  let tok := fun (j : Nat) => (BitVec.ofNat 32 (fieldAt blk (0x20 + 4 * j) 4)).toInt
  let acc := verifyAccept n vocab tok u p q
  let from_ := fun (ws : List Num) => sampleWeights ws 0 one (u n)
  let corr :=
    if acc < n then
      match from_ (residual (p.getD acc []) (q.getD acc [])) with
      | some r => some r
      | none => from_ (p.getD acc [])
    else from_ (p.getD n [])
  putPlain e d (leBytes 4 acc ++ indexWord corr)
  if fieldAt blk 8 4 / 2 % 2 = 1 then putPlain e (d + 0x10) (wordBytes (step + 1))
  pure true

def verifySpec (v : V3Args) : CmdSpec :=
  { queue := 1
    check := fun w c => do
      let n := v.f.toNat
      let d := v.d.toNat
      let len := 0x24 + 8 * n
      let p := partOf (← state) w
      inPart p d len
      inPart p v.a.toNat 1
      inPart p v.b.toNat 1
      requireOpen (d % 2048 + len ≤ 2048) .alignment
      let s ← state
      let src := fun (o k : Nat) => Region.source s w ⟨o, 1⟩ (v.n.toNat * k)
      let step := if (leNat (readS s w.core p (d + 8) 4)).testBit 1 then [sRange (d + 0x10) 8 true] else []
      regionCheck w c (sRange d len true).heldOnly 32 len [src v.a.toNat (n + 1), src v.b.toNat n]
        (sRange d len false :: sRange d 8 true :: step)
    ready := startsFreely
    micro := verifyMicro v }

/-- v.verify: drafts accepted and the correction or bonus token. -/
def execVVerify (v : V3Args) (s : State) : Host.Outcome State Fault Refusal := runCommand (.vVerify v) (verifySpec v) s

end Sys2Proof.Machine
end

