-- ==== Sys2Proof/Machine/Streams.lean ====
section
/-!
DEFINITION. The six streams of a task that replays an entry (06 R142, R147 to R156; 15 R410): fetch of a stream's next entry
and the meaning of each kind.
-/

namespace Sys2Proof.Machine

/-! ### Commands by name -/

/-- What the engines do with a command; none for an instruction that is no engine command. -/
def specOf : Instr → Option CmdSpec
  | .mMma m => some (mmaSpec ⟨false, false⟩ m)
  | .mMmaz m => some (mmaSpec ⟨true, false⟩ m)
  | .mMmv m => some (mmaSpec ⟨false, true⟩ m)
  | .mMmvz m => some (mmaSpec ⟨true, true⟩ m)
  | .mPerm m => some (permSpec m)
  | .mAzero acc cnt value => some (azeroSpec acc cnt value)
  | .mAcopy acc cnt src => some (acopySpec acc cnt src)
  | .mAload off rows acc => some (aloadSpec off rows acc)
  | .mAstore off rows acc => some (astoreSpec off rows acc)
  | .mEpi m => some (epiSpec m)
  | .mEpiSend m => some (epiSendSpec m)
  | .mBind off ring => some (bindSpec off ring)
  | .vAdd v => some (addSpec v)
  | .vSub v => some (subSpec v)
  | .vMul v => some (mulSpec v)
  | .vFma v => some (fmaSpec v)
  | .vMin v => some (minSpec v)
  | .vMax v => some (maxSpec v)
  | .vAbs v => some (absSpec v)
  | .vNeg v => some (negSpec v)
  | .vAnd v => some (andSpec v)
  | .vOr v => some (orSpec v)
  | .vXor v => some (xorSpec v)
  | .vShl v => some (shlSpec v)
  | .vShr v => some (shrSpec v)
  | .vCmp v => some (cmpSpec v)
  | .vSel v => some (selSpec v)
  | .vMov v => some (movSpec v)
  | .vCvt v => some (cvtSpec v)
  | .vExp2 v => some (transSpec exp2Num v)
  | .vExp v => some (transSpec expNum v)
  | .vLog2 v => some (transSpec log2Num v)
  | .vRcp v => some (transSpec rcpNum v)
  | .vRsqrt v => some (transSpec rsqrtNum v)
  | .vSqrt v => some (transSpec sqrtNum v)
  | .vTanh v => some (transSpec tanhNum v)
  | .vIota v => some (iotaSpec v)
  | .vFill v => some (fillSpec v)
  | .vRand v => some (randSpec v)
  | .vGather v => some (gatherSpec v)
  | .vScatter v => some (scatterSpec v)
  | .vQmx v => some (qmxSpec v)
  | .vDqmx v => some (dqmxSpec v)
  | .vRsum v => some (rsumSpec v)
  | .vRmax v => some (rmaxSpec v)
  | .vRmin v => some (rminSpec v)
  | .vArgmax v => some (argmaxSpec v)
  | .vScan v => some (scanSpec v)
  | .vTopk v => some (topkSpec v)
  | .vSample v => some (sampleSpec v)
  | .vVerify v => some (verifySpec v)
  | .vKvroll v => some (seqSpec true v)
  | .gkvApp v => some (seqSpec false v)
  | .xLd x => some (ldSpec x)
  | .xSt x => some (stSpec x)
  | .xFeed x => some (feedSpec x)
  | .xKvg x => some (kvgSpec x)
  | .xScat x => some (scatSpec x)
  | .xFill x => some (xFillSpec x)
  | .xMcpy x => some (mcpySpec x)
  | .xPref _ => some prefSpec
  | .xRsw x => some (rswSpec x)
  | .lRun l => some (lRunSpec l)
  | .lCav l => some (lCavSpec l)
  | .lArm ca thr cb inc => some (lArmSpec ca thr cb inc)
  | .lCtrSet ctr value => some (lCtrSetSpec ctr value)
  | .lCtrAdd ctr value => some (lCtrAddSpec ctr value)
  | .lCtrRd dreg ctr => some (lCtrRdSpec dreg ctr)
  | .lFence dreg fold => some (lFenceSpec dreg fold)
  | .lFenceAll dreg => some (lFenceAllSpec dreg)  | _ => none

/-- The issuer a stream's commands have: the peel core for stream 4, the rack core for stream 5 (15 R410). -/
def streamIssuer (k : Nat) : BitVec 2 := if k = 4 then 1 else if k = 5 then 2 else 0

/-! ### The stream that moves -/

/-- The agent of a stream step: its task, cursor, launch, stream and position. -/
structure Strm where
  w : Who
  cur : Cursor
  l : Nat
  k : Nat
  pos : Nat
deriving DecidableEq, Repr

/-- The task of a core replays an entry and its streams may move: it runs, no trap waits, its guards have passed (06 R148). -/
def streamAgent (c k : Nat) : Act Strm := do
  let s ← state
  let w ← need (whoRuns s c) "no task runs on the core"
  let b := bankOf s c w.bank
  let cur ← need b.cursor "the task replays no entry"
  needs (k < 6) "a task has six streams"
  needs (!(cur.ended.getD k true)) "the stream has ended"
  waitUntil (enginesRun s && !b.frozen && b.miss.isNone && b.pend.isEmpty && cur.shapeOk && cur.healthOk)
  pure { w := w, cur := cur, l := w.launch.getD 0, k := k, pos := cur.pos.getD k 0 }

/-- The cursor of the task changes. -/
def updCursor (s : State) (w : Who) (f : Cursor → Cursor) : State :=
  updBank s w.core w.bank (fun b => { b with cursor := b.cursor.map f })

/-- The stream passes its entry. -/
def stepOn (m : Strm) : Act Unit :=
  change (fun s => updCursor s m.w (fun q => { q with pos := changeAt (· + 1) q.pos m.k }))

/-- The slot of the task's shape guard; 65,535, which no guard slot has, for a task without one (06 Table 4, R148). -/
def shapeSlot (x : Nat) (cur : Cursor) : Act Nat := do
  match ← bodyHead x cur.body with
  | none => pure 0xFFFF
  | some h =>
    match ← bodyTask x cur.body h cur.task with
    | none => pure 0xFFFF
    | some k =>
      let mut r := 0xFFFF
      for i in List.range k.gcnt do
        match ← bodyGuard x cur.body h (k.gfirst + i) with
        | some g => if g.kind = 1 && r = 0xFFFF then r := k.gfirst + i
        | none => pure ()
      pure r

/-- An entry that cannot be read, or holds a reserved KIND or an index beyond its section, is a failed shape guard of the
task (06 R148). -/
def badEntry (m : Strm) : Act Unit := do
  let slot ← shapeSlot m.w.ctx m.cur
  guardFailsEarly m.l m.w.task slot

/-- The indices of an entry lie within the body (06 R148). -/
def entryIndexOk (h : BodyHead) (e : BitVec 128) : Bool :=
  let o := (entryOpnd e).toNat
  match entryKind e with
  | 1 | 2 => o % 65536 < h.nsem
  | 5 => !(entryOpnd e).getLsbD 27 || o % 2 ^ 20 < h.nt
  | _ => true

/-- The next entry of stream `k` of core `c` as an instruction; none when the stream has not moved or its entry has failed. -/
def fetchStream (c k : Nat) : Act (Option Instr) := do
  let m ← streamAgent c k
  match ← bodyHead m.w.ctx m.cur.body with
  | none => do
    badEntry m
    pure none
  | some h =>
    match ← streamEntry m.w.ctx m.cur.body h m.pos with
    | none => do
      badEntry m
      pure none
    | some e =>
      match decodeStreamEntry e with
      | none => do
        badEntry m
        pure none
      | some i =>
        if entryIndexOk h e then pure (some i)
        else do
          badEntry m
          pure none

/-- An entry of a task whose control program runs: SETs of recorded points and the END are performed by the program; what
else the streams hold is passed over (06 R141, R147, R149). -/
def notLive (m : Strm) : Act Unit := waitUntil (!m.cur.live)

/-- The entry is one that a live task passes over. -/
def skipsLive (m : Strm) (e : BitVec 128) : Act Bool := do
  if m.cur.live then pure (passedLive (ownSems (← wholeOf m.w.ctx m.cur)) e) else pure false

/-- A stream entry as a step: only its stream acts on it. -/
def streamStep (e : BitVec 128) (s : State) (body : Strm → Act Unit) : Host.Outcome State Fault Refusal :=
  match s.actor with
  | .stream c k => asStep (do
      let m ← streamAgent c k
      if (← skipsLive m e) then stepOn m else body m) s
  | _ => .refused (.notEnabled "a stream entry needs a replay stream to act")

/-! ### CMD (06 R142, R151, R152, R156; 15 R410) -/

/-- A 6-bit field at a low bit of a command or ROUTE value is replaced. -/
def putField (cmd : BitVec 96) (low : Nat) (v : Nat) : BitVec 96 :=
  let old := cmd.toNat / 2 ^ low % 64
  BitVec.ofNat 96 (cmd.toNat + v % 64 * 2 ^ low - old * 2 ^ low)

/-- The rank of this device in place of the recording one's (06 R156). -/
def rankField (s : State) (ridx field : Nat) : Nat :=
  let z := ((field : Int) + (s.gang.gidx.toNat : Int) - (ridx : Int)) % (s.gang.gsize.toNat : Int)
  z.toNat

/-- The rank substitutions of an entry applied to its CMD field; none where they cannot be read. -/
def substitute (x : Nat) (cur : Cursor) (pos : Nat) (cmd : BitVec 96) : Act (Option (BitVec 96)) := do
  match ← bodyHead x cur.body with
  | none => pure none
  | some h =>
    match ← bodyBytes x cur.body (rankOff h) (4 * h.nrs) with
    | none => pure none
    | some bs => do
      let s ← state
      let subs := (List.range h.nrs).map (fun i => fieldAt bs (4 * i) 4)
      pure (some (subs.foldl (fun c r =>
        let low := r % 256
        if r / 256 = pos && low + 6 ≤ 96 then putField c low (rankField s h.ridx (c.toNat / 2 ^ low % 64)) else c) cmd))

/-- A trap of a starter's command is an engine trap whose record has PC 0 (13 R337). -/
def starterTrap (m : Strm) (code : Trap) (info : Option Word) (miss : Option Miss) : Act Unit :=
  change (fun s => updBank s m.w.core m.w.bank (fun k =>
    { k with pend := k.pend ++ [{ src := .engine, code := code, info := info, pc := 0, miss := miss.map (fun y => { y with pc := some 0 }) }] }))

/-- CMD: the command goes to its queue with the mode of its OPND and the route of the ROUTE before it. A command that must
wait is held at the head of the stream. -/
def streamIssue (m : Strm) (opnd : BitVec 28) (cmd : BitVec 96) : Act Unit := do
  notLive m
  match ← substitute m.w.ctx m.cur m.pos cmd with
  | none => badEntry m
  | some c =>
    match decodeCommand (streamQueue m.k) c with
    | .error e => starterTrap m (decodeTrap e) none none
    | .ok i =>
      match specOf i with
      | none => starterTrap m .illegalOpcode none none
      | some sp => do
        let c := { newCmd i (opnd.setWidth 3) 0 (streamIssuer m.k) true m.cur.route with entry := m.pos }
        let done ← tryCatch (do
            dispatchCmd m.w sp c
            pure true)
          (fun e => do
            match e with
            | .trap t info => starterTrap m t info none
            | .miss x => starterTrap m .translation none (some x)
            | e => throw e
            pure false)
        if done then stepOn m

def execStreamCmd (opnd : BitVec 28) (cmd : BitVec 96) (s : State) : Host.Outcome State Fault Refusal :=
  streamStep (streamWord 0 opnd cmd) s (fun m => streamIssue m opnd cmd)

/-! ### SET, WAIT, FLIP -/

/-- Commands of the stream that have not retired, with the collectives that its task started (06 R142). -/
def streamBusy (s : State) (m : Strm) : Bool :=
  (queueOf s m.w.core m.w.bank (streamQueue m.k)).any (fun c => c.starter && recStream (streamQueue m.k) c.issuer == m.k) ||
    (m.k == 3 && !(programsOf s m.w.task).isEmpty)

/-- SET: once every earlier entry of the stream has retired, 1 is added to the semaphore, once in each iteration (06 R142, R151). -/
def execStreamSet (opnd : BitVec 28) (cmd : BitVec 96) (s : State) : Host.Outcome State Fault Refusal :=
  streamStep (streamWord 1 opnd cmd) s (fun m => do
    notLive m
    let s ← state
    waitUntil (!streamBusy s m)
    stepOn m
    if m.cur.setPos.getD m.k 0 ≤ m.pos then
      change (fun s => updCursor s m.w (fun q => { q with setPos := changeAt (fun _ => m.pos + 1) q.setPos m.k }))
      setSem m.l m.w.task m.cur.body (opnd.toNat % 65536))

/-- The count of a semaphore as a task's replay unit holds it. -/
def semCount (s : State) (l : Nat) (body : Word) (n : Nat) : Nat :=
  match (launchOf s l).bind (fun q => q.replay) with
  | some r => (semOf r body n).toNat
  | none => 0

/-- WAIT: the stream is held until count(s) ≥ M x (ITER + 1) (06 R142). -/
def execStreamWait (opnd : BitVec 28) (cmd : BitVec 96) (s : State) : Host.Outcome State Fault Refusal :=
  streamStep (streamWord 2 opnd cmd) s (fun m => do
    let o := opnd.toNat
    if o / 65536 % 256 * (m.cur.iter + 1) ≤ semCount (← state) m.l m.cur.body (o % 65536) then stepOn m
    else countStall m.w.ctx m.cur.body m.pos)

/-- The FLIPs of a stream, numbered from its beginning: how many lie before a position, and whether one stands there. -/
def flipsAt (whole : List (BitVec 128)) (n : Nat) : Nat × Bool :=
  (((whole.take n).filter (fun e => entryKind e == 3)).length, (whole[n]?).any (fun e => entryKind e == 3))

/-- How the six streams stand to the FLIP at which stream `k` stands: some stream is past it, or every one has reached it (06 R142, R151). -/
inductive FlipState where
  | passed | reached | before
deriving DecidableEq, Repr

def flipState (m : Strm) : Act FlipState := do
  let starts ← startsOf m.w.ctx m.cur
  let whole ← wholeOf m.w.ctx m.cur
  let ats := (List.range 6).map (fun k => flipsAt (whole.getD k []) (m.cur.pos.getD k 0 - starts.getD k 0))
  let n := (ats.getD m.k (0, false)).1
  pure (if ats.any (fun x => n < x.1) then .passed else if ats.all (fun x => x.1 == n && x.2) then .reached else .before)

/-- FLIP: takes effect once every stream has reached it and, to the thread, once every queued command that touches the slot
has retired; all six streams then pass it (06 R142; 12 R327). A stream that a miss set back before a FLIP that has taken effect passes it
again at once: the slot's owner is not set back (06 R151; log 88). -/
def execStreamFlip (opnd : BitVec 28) (cmd : BitVec 96) (s : State) : Host.Outcome State Fault Refusal :=
  streamStep (streamWord 3 opnd cmd) s (fun m => do
    notLive m
    match ← flipState m with
    | .before => waitHere
    | .passed => stepOn m
    | .reached => do
    let s ← state
    let slot := opnd.toNat % 256
    let toEngines := opnd.getLsbD 8
    let b := bankOf s m.w.core m.w.bank
    let pass := change (fun s => updCursor s m.w (fun q => { q with pos := q.pos.map (· + 1) }))
    if b.part.sn ≤ slot then starterTrap m .protection none none
    else if toEngines then do
      change (fun s => flip s m.w.core m.w.bank slot true)
      pass
    else if ringHolds b slot then starterTrap m .ownerViolation none none
    else do
      waitUntil (!((slotOf s m.w.core (b.part.s0 + slot)).owner && slotBusy s m.w.core m.w.bank slot))
      change (fun s => flip s m.w.core m.w.bank slot false)
      pass)

/-! ### MARK, END, ROUTE -/

/-- MARK: waits until the task has no outstanding tickets, and starts a region (06 R142, R151, R152). -/
def execStreamMark (opnd : BitVec 28) (cmd : BitVec 96) (s : State) : Host.Outcome State Fault Refusal :=
  streamStep (streamWord 4 opnd cmd) s (fun m => do
    notLive m
    waitUntil (bankOf (← state) m.w.core m.w.bank).tickets.isEmpty
    change (fun s => updCursor s m.w (fun q => { q with markPos := changeAt (fun _ => m.pos) q.markPos m.k }))
    stepOn m)

/-- END: the stream has ended. The task retires with its last stream, under the waits of exit, once its branch guard has
passed (06 R142, R148, R152; 05 R128). -/
def execStreamEnd (opnd : BitVec 28) (cmd : BitVec 96) (s : State) : Host.Outcome State Fault Refusal :=
  streamStep (streamWord 5 opnd cmd) s (fun m => do
    notLive m
    let s ← state
    waitUntil (bankOf s m.w.core m.w.bank).tickets.isEmpty
    let ended := changeAt (fun _ => true) m.cur.ended m.k
    if ended.all id then do
      waitUntil (m.cur.branchOk && retireReady s m.w.core m.w.bank m.w.task)
      replayRetire m.l m.w.task m.w.core m.w.bank m.cur
    else change (fun s => updCursor s m.w (fun q => { q with ended := ended })))

/-- ROUTE: the SY_ROUTE value of the epi.send that follows (06 R142, R156). -/
def execStreamRoute (opnd : BitVec 28) (cmd : BitVec 96) (s : State) : Host.Outcome State Fault Refusal :=
  streamStep (streamWord 6 opnd cmd) s (fun m => do
    notLive m
    match ← substitute m.w.ctx m.cur m.pos cmd with
    | none => badEntry m
    | some c => do
      change (fun s => updCursor s m.w (fun q => { q with route := c.setWidth 64 }))
      stepOn m)

/-- The control program of a live task waits while a stream of it stands at one of its task-level WAITs (06 R142, R144,
R147). -/
def liveHeld (w : Who) (cur : Cursor) : Act Bool := do
  let starts ← startsOf w.ctx cur
  let n := (taskWaits (← wholeOf w.ctx cur)).length
  pure ((List.range 6).any (fun k => cur.pos.getD k 0 < starts.getD k 0 + n))

end Sys2Proof.Machine
end

