-- ==== Sys2Proof/Machine/SideRisc.lean ====
section
/-!
DEFINITION. The standard instructions of the side cores (09 R239): RV64IMC with Zicsr, decoded to one tree, and their
arithmetic. The encodings and results are those of the RISC-V architecture, which the manual names (log 20).
-/

namespace Sys2Proof.Machine

/-- Register-register operations. -/
inductive RvAlu where
  | add | sub | sll | slt | sltu | xor | srl | sra | or | and
  | mul | mulh | mulhsu | mulhu | div | divu | remS | remu
deriving DecidableEq, Repr

/-- A standard instruction; registers as numbers, immediates and offsets sign-extended. -/
inductive Rv where
  | lui (rd : Nat) (v : Word)
  | auipc (rd : Nat) (v : Word)
  | jal (rd : Nat) (off : Word)
  | jalr (rd rs1 : Nat) (off : Word)
  | branch (cond : Nat) (rs1 rs2 : Nat) (off : Word)
  | load (size : Nat) (signed : Bool) (rd rs1 : Nat) (off : Word)
  | store (size : Nat) (rs1 rs2 : Nat) (off : Word)
  | aluImm (f : RvAlu) (w32 : Bool) (rd rs1 : Nat) (v : Word)
  | alu (f : RvAlu) (w32 : Bool) (rd rs1 rs2 : Nat)
  | fence
  | ebreak
  | csr (rd : Nat) (n : Nat)
deriving DecidableEq, Repr

/-- Bits `lo` up of a number, `n` of them. -/
def bitsOf (w lo n : Nat) : Nat := w / 2 ^ lo % 2 ^ n

/-- A read of a CSR: 0xC00 cycle, 0xC01 time, 0xC02 instret, 0xF14 mhartid; a write, and any other CSR, is illegal. -/
def csrRead (f3 rd rs1 n : Nat) : Option Rv :=
  let known := n == 0xC00 || n == 0xC01 || n == 0xC02 || n == 0xF14
  let reads := (f3 == 2 || f3 == 3 || f3 == 6 || f3 == 7) && rs1 == 0
  if known && reads then some (.csr rd n) else none

/-- The load of a funct3. -/
def rvLoad (f3 : Nat) : Option (Nat × Bool) :=
  match f3 with
  | 0 => some (1, true)
  | 1 => some (2, true)
  | 2 => some (4, true)
  | 3 => some (8, true)
  | 4 => some (1, false)
  | 5 => some (2, false)
  | 6 => some (4, false)
  | _ => none

/-- OP and OP-32 by funct7 and funct3. -/
def rvOp (w32 : Bool) (f7 f3 : Nat) : Option RvAlu :=
  let word := fun (f : RvAlu) => some f
  let long := fun (f : RvAlu) => if w32 then none else some f
  match f7, f3 with
  | 0, 0 => word .add
  | 0, 1 => word .sll
  | 0, 2 => long .slt
  | 0, 3 => long .sltu
  | 0, 4 => long .xor
  | 0, 5 => word .srl
  | 0, 6 => long .or
  | 0, 7 => long .and
  | 0x20, 0 => word .sub
  | 0x20, 5 => word .sra
  | 1, 0 => word .mul
  | 1, 1 => long .mulh
  | 1, 2 => long .mulhsu
  | 1, 3 => long .mulhu
  | 1, 4 => word .div
  | 1, 5 => word .divu
  | 1, 6 => word .remS
  | 1, 7 => word .remu
  | _, _ => none

/-- OP-IMM and OP-IMM-32; a shift amount has 6 bits, 5 for 32-bit shifts. -/
def rvOpImm (w32 : Bool) (f3 rd rs1 imm12 : Nat) : Option Rv :=
  let v := sext 12 imm12
  let sh := BitVec.ofNat 64 (if w32 then imm12 % 32 else imm12 % 64)
  let top := if w32 then imm12 / 32 * 2 else imm12 / 64 * 4
  match f3 with
  | 0 => some (.aluImm .add w32 rd rs1 v)
  | 1 => if top = 0 then some (.aluImm .sll w32 rd rs1 sh) else none
  | 5 =>
    if top = 0 then some (.aluImm .srl w32 rd rs1 sh)
    else if top = 0x40 then some (.aluImm .sra w32 rd rs1 sh)
    else none
  | 2 => if w32 then none else some (.aluImm .slt false rd rs1 v)
  | 3 => if w32 then none else some (.aluImm .sltu false rd rs1 v)
  | 4 => if w32 then none else some (.aluImm .xor false rd rs1 v)
  | 6 => if w32 then none else some (.aluImm .or false rd rs1 v)
  | _ => if w32 then none else some (.aluImm .and false rd rs1 v)

/-- A 32-bit standard instruction; none for an encoding outside RV64IM, Zicsr. -/
def decodeRv32 (b : BitVec 32) : Option Rv :=
  let w := b.toNat
  let rd := bitsOf w 7 5
  let f3 := bitsOf w 12 3
  let rs1 := bitsOf w 15 5
  let rs2 := bitsOf w 20 5
  let f7 := bitsOf w 25 7
  match bitsOf w 0 7 with
  | 0x37 => some (.lui rd (sext 32 (bitsOf w 12 20 * 4096)))
  | 0x17 => some (.auipc rd (sext 32 (bitsOf w 12 20 * 4096)))
  | 0x6F =>
    some (.jal rd (sext 21 (bitsOf w 31 1 * 2 ^ 20 + bitsOf w 12 8 * 2 ^ 12 + bitsOf w 20 1 * 2 ^ 11 + bitsOf w 21 10 * 2)))
  | 0x67 => if f3 = 0 then some (.jalr rd rs1 (sext 12 (bitsOf w 20 12))) else none
  | 0x63 =>
    if f3 = 2 || f3 = 3 then none
    else some (.branch f3 rs1 rs2
      (sext 13 (bitsOf w 31 1 * 2 ^ 12 + bitsOf w 7 1 * 2 ^ 11 + bitsOf w 25 6 * 2 ^ 5 + bitsOf w 8 4 * 2)))
  | 0x03 => (rvLoad f3).map (fun k => .load k.1 k.2 rd rs1 (sext 12 (bitsOf w 20 12)))
  | 0x23 => if f3 < 4 then some (.store (2 ^ f3) rs1 rs2 (sext 12 (f7 * 32 + rd))) else none
  | 0x13 => rvOpImm false f3 rd rs1 (bitsOf w 20 12)
  | 0x1B => rvOpImm true f3 rd rs1 (bitsOf w 20 12)
  | 0x33 => (rvOp false f7 f3).map (fun f => .alu f false rd rs1 rs2)
  | 0x3B => (rvOp true f7 f3).map (fun f => .alu f true rd rs1 rs2)
  | 0x0F => if f3 = 0 then some .fence else none
  | 0x73 => if w = 0x00100073 then some .ebreak else csrRead f3 rd rs1 (bitsOf w 20 12)
  | _ => none

/-- Quadrant 0 of the compressed instructions. -/
def decodeC0 (w : Nat) : Option Rv :=
  let rs1 := 8 + bitsOf w 7 3
  let r2 := 8 + bitsOf w 2 3
  let word := BitVec.ofNat 64 (bitsOf w 10 3 * 8 + bitsOf w 6 1 * 4 + bitsOf w 5 1 * 64)
  let long := BitVec.ofNat 64 (bitsOf w 10 3 * 8 + bitsOf w 5 2 * 64)
  match bitsOf w 13 3 with
  | 0 =>
    let v := bitsOf w 11 2 * 16 + bitsOf w 7 4 * 64 + bitsOf w 6 1 * 4 + bitsOf w 5 1 * 8
    if v = 0 then none else some (.aluImm .add false r2 2 (BitVec.ofNat 64 v))
  | 2 => some (.load 4 true r2 rs1 word)
  | 3 => some (.load 8 true r2 rs1 long)
  | 6 => some (.store 4 rs1 r2 word)
  | 7 => some (.store 8 rs1 r2 long)
  | _ => none

/-- Quadrant 1. -/
def decodeC1 (w : Nat) : Option Rv :=
  let rd := bitsOf w 7 5
  let r1 := 8 + bitsOf w 7 3
  let r2 := 8 + bitsOf w 2 3
  let six := bitsOf w 12 1 * 32 + bitsOf w 2 5
  let imm := sext 6 six
  let near := sext 9 (bitsOf w 12 1 * 256 + bitsOf w 10 2 * 8 + bitsOf w 5 2 * 64 + bitsOf w 3 2 * 2 + bitsOf w 2 1 * 32)
  match bitsOf w 13 3 with
  | 0 => some (.aluImm .add false rd rd imm)
  | 1 => if rd = 0 then none else some (.aluImm .add true rd rd imm)
  | 2 => some (.aluImm .add false rd 0 imm)
  | 3 =>
    if six = 0 then none
    else if rd = 2 then
      some (.aluImm .add false 2 2 (sext 10 (bitsOf w 12 1 * 512 + bitsOf w 6 1 * 16 + bitsOf w 5 1 * 64 + bitsOf w 3 2 * 128 +
        bitsOf w 2 1 * 32)))
    else some (.lui rd (sext 18 (six * 4096)))
  | 4 =>
    match bitsOf w 10 2, bitsOf w 12 1, bitsOf w 5 2 with
    | 0, _, _ => some (.aluImm .srl false r1 r1 (BitVec.ofNat 64 six))
    | 1, _, _ => some (.aluImm .sra false r1 r1 (BitVec.ofNat 64 six))
    | 2, _, _ => some (.aluImm .and false r1 r1 imm)
    | _, 0, 0 => some (.alu .sub false r1 r1 r2)
    | _, 0, 1 => some (.alu .xor false r1 r1 r2)
    | _, 0, 2 => some (.alu .or false r1 r1 r2)
    | _, 0, _ => some (.alu .and false r1 r1 r2)
    | _, _, 0 => some (.alu .sub true r1 r1 r2)
    | _, _, 1 => some (.alu .add true r1 r1 r2)
    | _, _, _ => none
  | 5 =>
    some (.jal 0 (sext 12 (bitsOf w 12 1 * 2048 + bitsOf w 11 1 * 16 + bitsOf w 9 2 * 256 + bitsOf w 8 1 * 1024 +
      bitsOf w 7 1 * 64 + bitsOf w 6 1 * 128 + bitsOf w 3 3 * 2 + bitsOf w 2 1 * 32)))
  | 6 => some (.branch 0 r1 0 near)
  | _ => some (.branch 1 r1 0 near)

/-- Quadrant 2. -/
def decodeC2 (w : Nat) : Option Rv :=
  let rd := bitsOf w 7 5
  let rs2 := bitsOf w 2 5
  match bitsOf w 13 3 with
  | 0 => some (.aluImm .sll false rd rd (BitVec.ofNat 64 (bitsOf w 12 1 * 32 + rs2)))
  | 2 =>
    if rd = 0 then none
    else some (.load 4 true rd 2 (BitVec.ofNat 64 (bitsOf w 12 1 * 32 + bitsOf w 4 3 * 4 + bitsOf w 2 2 * 64)))
  | 3 =>
    if rd = 0 then none
    else some (.load 8 true rd 2 (BitVec.ofNat 64 (bitsOf w 12 1 * 32 + bitsOf w 5 2 * 8 + bitsOf w 2 3 * 64)))
  | 4 =>
    if bitsOf w 12 1 = 0 then
      if rs2 = 0 then (if rd = 0 then none else some (.jalr 0 rd 0)) else some (.alu .add false rd 0 rs2)
    else if rs2 = 0 then (if rd = 0 then some .ebreak else some (.jalr 1 rd 0))
    else some (.alu .add false rd rd rs2)
  | 6 => some (.store 4 2 rs2 (BitVec.ofNat 64 (bitsOf w 9 4 * 4 + bitsOf w 7 2 * 64)))
  | 7 => some (.store 8 2 rs2 (BitVec.ofNat 64 (bitsOf w 10 3 * 8 + bitsOf w 7 3 * 64)))
  | _ => none

/-- Bytes of an instruction: two when its low bits are not 11. -/
def rvLength (w : BitVec 32) : Nat := if w.toNat % 4 = 3 then 4 else 2

/-- A standard instruction. -/
def decodeRv (w : BitVec 32) : Option Rv :=
  let n := w.toNat % 2 ^ 16
  match n % 4 with
  | 0 => decodeC0 n
  | 1 => decodeC1 n
  | 2 => decodeC2 n
  | _ => decodeRv32 w

/-- A number narrowed to 64 bits. -/
def wordOfInt (z : Int) : Word := BitVec.ofInt 64 z

/-- Signed division toward zero, with the results RISC-V gives a zero divisor and an overflow. -/
def rvDiv (a b lowest : Int) : Int := if b = 0 then -1 else if a = lowest && b = -1 then a else Int.tdiv a b
def rvRem (a b lowest : Int) : Int := if b = 0 then a else if a = lowest && b = -1 then 0 else Int.tmod a b

/-- 64-bit operations. -/
def rvAlu64 (f : RvAlu) (a b : Word) : Word :=
  let sh := b.toNat % 64
  match f with
  | .add => a + b
  | .sub => a - b
  | .sll => a <<< sh
  | .slt => if a.toInt < b.toInt then 1 else 0
  | .sltu => if a.toNat < b.toNat then 1 else 0
  | .xor => a ^^^ b
  | .srl => a >>> sh
  | .sra => a.sshiftRight sh
  | .or => a ||| b
  | .and => a &&& b
  | .mul => a * b
  | .mulh => wordOfInt (a.toInt * b.toInt / 2 ^ 64)
  | .mulhsu => wordOfInt (a.toInt * (b.toNat : Int) / 2 ^ 64)
  | .mulhu => BitVec.ofNat 64 (a.toNat * b.toNat / 2 ^ 64)
  | .div => wordOfInt (rvDiv a.toInt b.toInt (-2 ^ 63))
  | .divu => if b = 0 then BitVec.allOnes 64 else BitVec.ofNat 64 (a.toNat / b.toNat)
  | .remS => wordOfInt (rvRem a.toInt b.toInt (-2 ^ 63))
  | .remu => if b = 0 then a else BitVec.ofNat 64 (a.toNat % b.toNat)

/-- 32-bit operations; the result is sign-extended. -/
def rvAlu32 (f : RvAlu) (a b : BitVec 32) : BitVec 32 :=
  let sh := b.toNat % 32
  match f with
  | .add => a + b
  | .sub => a - b
  | .sll => a <<< sh
  | .srl => a >>> sh
  | .sra => a.sshiftRight sh
  | .mul => a * b
  | .div => BitVec.ofInt 32 (rvDiv a.toInt b.toInt (-2 ^ 31))
  | .divu => if b = 0 then BitVec.allOnes 32 else BitVec.ofNat 32 (a.toNat / b.toNat)
  | .remS => BitVec.ofInt 32 (rvRem a.toInt b.toInt (-2 ^ 31))
  | .remu => if b = 0 then a else BitVec.ofNat 32 (a.toNat % b.toNat)
  | f => (rvAlu64 f (a.signExtend 64) (b.signExtend 64)).setWidth 32

def rvAlu (f : RvAlu) (w32 : Bool) (a b : Word) : Word :=
  if w32 then sext32 (rvAlu32 f (a.setWidth 32) (b.setWidth 32)) else rvAlu64 f a b

/-- The condition of a branch by funct3. -/
def rvTaken (cond : Nat) (a b : Word) : Bool :=
  match cond with
  | 0 => a == b
  | 1 => a != b
  | 4 => decide (a.toInt < b.toInt)
  | 5 => decide (b.toInt ≤ a.toInt)
  | 6 => decide (a.toNat < b.toNat)
  | _ => decide (b.toNat ≤ a.toNat)

end Sys2Proof.Machine
end

