-- ==== Sys2Proof/Machine/SideCores.lean ====
section
/-!
DEFINITION. The peel and rack cores (09 R239 to R242; 14 R404 to R408): fetch, the address map, the standard and the custom
instructions, exceptions.
-/

namespace Sys2Proof.Machine

/-! ### A step of a side core -/

/-- The agent of a side-core step. -/
structure SideAgent where
  w : Who
  rack : Bool
  k : Side

/-- INFO of a side-core trap: the side core's PC, bit 62, the core (09 R242). -/
def sideInfo (rack : Bool) (pc : Word) : Word :=
  BitVec.ofNat 64 (pc.toNat % 2 ^ 56 + 2 ^ 62 + bitAt 63 rack)

/-- An exception: the side core stops with its PC held, HALT is set, and the trap waits for the task's next boundary. After
ebreak the held PC is the next instruction's, where RUN = 1 continues (09 R242). -/
def sideHalt (s : State) (w : Who) (rack : Bool) (code : Trap) (n : Nat) : State :=
  let pc := (sideOf (bankOf s w.core w.bank) rack).pc
  let resume := if code = .break_ then pc + BitVec.ofNat 64 n else pc
  let s := updSide s w.core w.bank rack (fun k => { k with run := false, halt := true, pc := resume })
  postTrap s w.core w.bank .sideCore code (some (sideInfo rack pc))

/-- A restartable miss of an issued copy: the device handles it at the task's boundary, and the side core stays at its own. -/
def sideMiss (s : State) (w : Who) (m : Miss) : State :=
  updBank s w.core w.bank (fun k => { k with pend := k.pend ++
    [{ src := .sideCore, code := .translation, info := none, pc := k.regs.pc, miss := some m }] })

/-- A side core of the running task may take its next instruction. -/
def sideRuns (s : State) (w : Who) (rack : Bool) : Bool :=
  let b := bankOf s w.core w.bank
  enginesRun s && !b.frozen && b.miss.isNone && b.pend.all (fun p => p.miss.isNone) && (sideOf b rack).run

/-- One instruction of `n` bytes. The body answers where control goes, if not to the next instruction. -/
def sideStep (n : Nat) (s : State) (body : SideAgent → Act (Option Word)) : Host.Outcome State Fault Refusal :=
  match s.actor with
  | .side c rack =>
    match whoRuns s c with
    | none => .refused (.notEnabled "no task runs on the core")
    | some w =>
      if !sideRuns s w rack then .next s
      else
        match (body { w := w, rack := rack, k := sideOf (bankOf s c w.bank) rack }).go s with
        | (.ok t, s') => .next (updSide s' c w.bank rack (fun k =>
            { k with pc := t.getD (k.pc + BitVec.ofNat 64 n), instret := k.instret + 1 }))
        | (.error .wait, s') => .next s'
        | (.error (.trap t _), s') => .next (sideHalt s' w rack t n)
        | (.error (.miss m), s') => .next (sideMiss s' w m)
        | (.error (.cannot why), _) => .refused (.notEnabled why)
  | _ => .refused (.notEnabled "a side-core instruction needs a side core to act")

/-- An illegal instruction (09 R242). -/
def illegal {α : Type} : Act α := trapOpen .illegalOpcode

def legal (ok : Bool) : Act Unit := if ok then pure () else illegal

/-! ### Registers and the address map (09 R240, Table 6) -/

/-- x0 reads 0 and takes nothing. -/
def xOf (k : Side) (n : Nat) : Word := if n = 0 then 0 else sget 0 k.x n
def setX (a : SideAgent) (n : Nat) (v : Word) : Act Unit :=
  if n = 0 then pure ()
  else change (fun s => updSide s a.w.core a.w.bank a.rack (fun k => { k with x := sset 0 k.x n v }))

/-- A place of the side-core address map. -/
inductive SidePlace where
  | istore (o : Nat) | dstore (o : Nat) | s (o : Nat)
deriving DecidableEq, Repr

/-- The agent code of side cores (06 R160). -/
def sideAgentCode : Nat := 0x102

/-- An access of `n` bytes: aligned, within the map, to an engine-owned slot of S (09 R229, R240, R242; 06 R161). -/
def sidePlace (a : SideAgent) (va n : Nat) (write : Bool) : Act SidePlace := do
  requireOpen (va % n == 0) .alignment
  if va + n ≤ 0x8000 then do
    requireOpen (!write) .protection
    pure (.istore va)
  else if 0x10000 ≤ va && va + n ≤ 0x14000 then pure (.dstore (va - 0x10000))
  else if 0x100000 ≤ va then do
    let s ← state
    let p := partOf s a.w
    let o := va - 0x100000
    requireOpen (o + n ≤ 2048 * p.sn) .protection
    requireOpen (slotOf s a.w.core (p.s0 + o / 2048)).owner .ownerViolation
    raceCheck a.w sideAgentCode (coreOf s a.w.core).phase o n write
    pure (.s o)
  else trapOpen .protection

/-- The stores of a side core. -/
def istoreOf (s : State) (c : Nat) (rack : Bool) : Sparse Byte :=
  if rack then (coreOf s c).rackI else (coreOf s c).peelI
def dstoreOf (s : State) (c : Nat) (rack : Bool) : Sparse Byte :=
  if rack then (coreOf s c).rackD else (coreOf s c).peelD
def updDstore (s : State) (c : Nat) (rack : Bool) (f : Sparse Byte → Sparse Byte) : State :=
  updCore s c (fun k => if rack then { k with rackD := f k.rackD } else { k with peelD := f k.peelD })

/-- A load: zero- or sign-extended little-endian bytes. -/
def sideLoad (a : SideAgent) (va : Word) (n : Nat) (signed : Bool) : Act Word := do
  let p ← sidePlace a va.toNat n false
  let s ← state
  let bs := match p with
    | .istore o => sgetAll 0 (istoreOf s a.w.core a.rack) o n
    | .dstore o => sgetAll 0 (dstoreOf s a.w.core a.rack) o n
    | .s o => readS s a.w.core (partOf s a.w) o n
  pure (if signed then sext (8 * n) (leNat bs) else leWord bs)

/-- A store. -/
def sideStore (a : SideAgent) (va : Word) (n : Nat) (v : Word) : Act Unit := do
  let p ← sidePlace a va.toNat n true
  let bs := leBytes n v.toNat
  match p with
  | .istore _ => pure ()
  | .dstore o => change (fun s => updDstore s a.w.core a.rack (fun m => ssetAll 0 m o bs))
  | .s o => change (fun s => writeS s a.w.core (partOf s a.w) o bs)

/-! ### Fetch -/

/-- The instruction at a side core's PC: a fetch outside the instruction store is a protection fault (09 R240); a compressed
instruction has zeros above its 16 bits. -/
def fetchSide (s : State) (w : Who) (rack : Bool) : Except Trap Instr :=
  let pc := (sideOf (bankOf s w.core w.bank) rack).pc.toNat
  let store := istoreOf s w.core rack
  let half := fun (o : Nat) => leNat (sgetAll 0 store o 2)
  if pc % 2 != 0 then .error .alignment
  else if 0x8000 < pc + 2 then .error .protection
  else
    let lo := half pc
    if lo % 4 = 3 && 0x8000 < pc + 4 then .error .protection
    else
      let word := BitVec.ofNat 32 (if lo % 4 = 3 then lo + 2 ^ 16 * half (pc + 2) else lo)
      match decodeSide word with
      | .ok i => .ok i
      | .error e => .error (decodeTrap e)

/-! ### Standard instructions (09 R239) -/

/-- The value of a CSR: cycle is the device's own count, a free value; time is the gang tick. -/
def csrValue (a : SideAgent) (n : Nat) : Act Word := do
  if n = 0xC00 then drawWord
  else if n = 0xC01 then pure (← state).gang.tick
  else if n = 0xC02 then pure a.k.instret
  else pure (BitVec.ofNat 64 (2 * a.w.core + bitAt 0 a.rack))

/-- One standard instruction of `n` bytes. -/
def runRv (a : SideAgent) (n : Nat) (i : Rv) : Act (Option Word) := do
  let x := fun (r : Nat) => xOf a.k r
  let after := a.k.pc + BitVec.ofNat 64 n
  match i with
  | .lui rd v => do
    setX a rd v
    pure none
  | .auipc rd v => do
    setX a rd (a.k.pc + v)
    pure none
  | .jal rd off => do
    setX a rd after
    pure (some (a.k.pc + off))
  | .jalr rd rs1 off => do
    setX a rd after
    pure (some ((x rs1 + off) &&& ~~~1))
  | .branch cond rs1 rs2 off => pure (if rvTaken cond (x rs1) (x rs2) then some (a.k.pc + off) else none)
  | .load size signed rd rs1 off => do
    let v ← sideLoad a (x rs1 + off) size signed
    setX a rd v
    pure none
  | .store size rs1 rs2 off => do
    sideStore a (x rs1 + off) size (x rs2)
    pure none
  | .aluImm f w32 rd rs1 v => do
    setX a rd (rvAlu f w32 (x rs1) v)
    pure none
  | .alu f w32 rd rs1 rs2 => do
    setX a rd (rvAlu f w32 (x rs1) (x rs2))
    pure none
  | .fence => pure none
  | .ebreak => trapOpen .break_
  | .csr rd c => do
    setX a rd (← csrValue a c)
    pure none

/-- A standard instruction; an encoding outside RV64IMC and Zicsr is illegal (09 R239, R242). -/
def execRv64imcInstruction (w : BitVec 32) (s : State) : Host.Outcome State Fault Refusal :=
  sideStep (rvLength w) s (fun a => do
    match decodeRv w with
    | none => illegal
    | some i => runRv a (rvLength w) i)

/-! ### Custom instructions (14 R404 to R408) -/

/-- The ring that a register names, which must be enabled. -/
def sideRing (a : SideAgent) (v : Word) : Act (Nat × Word) := do
  legal (v.toNat ≤ 7)
  let r := ringOf (← state) a.w.core a.w.bank v.toNat
  legal (ringEn r)
  pure (v.toNat, r)

/-- A tile count within the ring's capacity. -/
def tileCount (r : Word) (v : Word) : Act Nat := do
  legal (1 ≤ v.toNat && v.toNat ≤ ringCap r)
  pure v.toNat

/-- Feeds in flight on a ring (09 R233). -/
def feedsOn (s : State) (a : SideAgent) (ring : Nat) : Nat :=
  ((queueOf s a.w.core a.w.bank 2).filter (fun m => m.started && feedsRing ring m)).length

/-- rpush: TAIL advances by n once the ring has room for n tiles beside the feeds in flight; every earlier S store of the side
core has performed, since they perform in program order (14 R405). -/
def execRpush (rs1 rs2 : BitVec 5) (s : State) : Host.Outcome State Fault Refusal :=
  sideStep 4 s (fun a => do
    let (n, r) ← sideRing a (xOf a.k rs1.toNat)
    let count ← tileCount r (xOf a.k rs2.toNat)
    let s ← state
    waitUntil (ringOcc r + feedsOn s a n + count ≤ ringCap r)
    change (fun s => setRing s a.w.core a.w.bank n (ringPushed r count))
    pure none)

/-- rwait on tiles held; mode 3 then advances HEAD (14 R406). -/
def waitTiles (rd rs1 rs2 : BitVec 5) (pop : Bool) (s : State) : Host.Outcome State Fault Refusal :=
  sideStep 4 s (fun a => do
    let (n, r) ← sideRing a (xOf a.k rs1.toNat)
    let count ← tileCount r (xOf a.k rs2.toNat)
    waitUntil (count ≤ ringOcc r)
    setX a rd.toNat (BitVec.ofNat 64 (ringHead r))
    if pop then change (fun s => popRing s a.w.core a.w.bank n count)
    pure none)

/-- rwait mode 0: the ring holds at least rs2 tiles; rd receives HEAD. -/
def execRwaitTiles (rd rs1 rs2 : BitVec 5) (s : State) : Host.Outcome State Fault Refusal := waitTiles rd rs1 rs2 false s

/-- rwait mode 1: at least rs2 tiles are free, feeds in flight counted as used. -/
def execRwaitFree (rd rs1 rs2 : BitVec 5) (s : State) : Host.Outcome State Fault Refusal :=
  sideStep 4 s (fun a => do
    let (n, r) ← sideRing a (xOf a.k rs1.toNat)
    let count ← tileCount r (xOf a.k rs2.toNat)
    waitUntil (ringOcc r + feedsOn (← state) a n + count ≤ ringCap r)
    setX a rd.toNat (BitVec.ofNat 64 (ringHead r))
    pure none)

/-- rwait mode 2: trigger counter rs1 of the die is at least rs2; rd receives the counter. -/
def execRwaitCounter (rd rs1 rs2 : BitVec 5) (s : State) : Host.Outcome State Fault Refusal :=
  sideStep 4 s (fun a => do
    let n := (xOf a.k rs1.toNat).toNat
    let d := coreDie a.w.core
    let s ← state
    requireOpen (n < 64 && counterGranted s a.w.ctx d n) .protection
    let v := (ctrOf s d n).toNat
    waitUntil ((xOf a.k rs2.toNat).toNat ≤ v)
    setX a rd.toNat (BitVec.ofNat 64 v)
    pure none)

/-- rwait mode 3: as mode 0, after which HEAD advances by rs2. -/
def execRwaitPop (rd rs1 rs2 : BitVec 5) (s : State) : Host.Outcome State Fault Refusal := waitTiles rd rs1 rs2 true s

/-- The issuer code of a side core (14 R407). -/
def sideIssuer (rack : Bool) : BitVec 2 := if rack then 2 else 1

/-- xiss: a copy command whose bits are rs1 and rs2<31:0> enters the copy queue, checked as one of the side core (14 R380,
R407). -/
def execXiss (rs1 rs2 : BitVec 5) (s : State) : Host.Outcome State Fault Refusal :=
  sideStep 4 s (fun a => do
    let lo := xOf a.k rs1.toNat
    let hi := xOf a.k rs2.toNat
    legal (fld hi 32 32 == 0)
    let op := fld lo 26 6
    legal (1 ≤ op && op ≤ 9)
    let cmd : BitVec 96 := hi.setWidth 32 ++ lo
    match decodeCommand 2 cmd with
    | .error e => trapOpen (decodeTrap e)
    | .ok i =>
      match specOf i with
      | none => illegal
      | some sp => do
        let r := regsOf (← state) a.w.core a.w.bank
        dispatchCmd a.w sp (newCmd i (r.rm.setWidth 3) a.k.pc (sideIssuer a.rack) false r.route)
        pure none)

/-- A command of an issuer names a token word. -/
def namesToken (issuer : BitVec 2) (n : Nat) (m : Cmd) : Bool :=
  m.issuer == issuer && m.tok == n && (match m.instr with
    | .xPref _ => false
    | _ => true)

/-- tkrd: waits until no queued command of the side core names the token word, and reads the word (14 R408). -/
def execTkrd (rd rs1 : BitVec 5) (s : State) : Host.Outcome State Fault Refusal :=
  sideStep 4 s (fun a => do
    let n := (xOf a.k rs1.toNat).toNat
    legal (n < 64)
    let s ← state
    let b := bankOf s a.w.core a.w.bank
    let who := sideIssuer a.rack
    waitUntil (!(queueOf s a.w.core a.w.bank 2).any (namesToken who n) &&
      !b.tokens.any (fun t => t.issuer == who && t.reg == n))
    setX a rd.toNat (leWord (sgetAll 0 (dstoreOf s a.w.core a.rack) (0x3E00 + 8 * n) 8))
    pure none)

/-- SIDE_CORE_EXCEPTION: the fetch of a side core of the core fails; the exceptions of the instructions themselves lie in
their own steps (09 R240, R242). -/
def execSideCoreException (core : BitVec 8) (s : State) : Host.Outcome State Fault Refusal :=
  let c := core.toNat
  match whoRuns s c with
  | none => .refused (.notEnabled "no task runs on the core")
  | some w =>
    let fails := fun (rack : Bool) =>
      if sideRuns s w rack then (match fetchSide s w rack with
        | .error t => some t
        | .ok _ => none)
      else none
    match fails false, fails true with
    | some t, _ => .next (sideHalt s w false t 4)
    | none, some t => .next (sideHalt s w true t 4)
    | none, none => .refused (.notEnabled "no side core of the core fails")

end Sys2Proof.Machine
end

