-- ==== Sys2Proof/Machine/ContextBlock.lean ====
section
/-!
DEFINITION. The context block (09 R246, R247, Tables 9 and 10; 06 R150; 07 Table 9; 08 R206): its 4,096 bytes from a bank and a
bank from its bytes.
-/

namespace Sys2Proof.Machine

/-! ### Writing a block -/

/-- The region of a bank restarts: it has uncommitted stores, or its abort is in progress (04 R87; 09 R235, R247). -/
def Bank.restarts (k : Bank) : Bool := !k.storeBuf.isEmpty || k.miss.isSome || k.leaving

/-- The registers a block holds (09 R247). -/
def blockRegs (k : Bank) : Regs := if k.restarts then k.restart else k.regs

/-- Header words (09 Table 10). -/
def headerWords (s : State) (k : Bank) (t : Nat) : List Word :=
  match taskOf s t with
  | none => List.replicate 8 0
  | some q =>
    let dom := match ctxOf s q.ctx with
      | some x => x.domain.toNat
      | none => 0
    [BitVec.ofNat 64 (0x4358424B + 2 ^ 32 + q.ctx * 2 ^ 40 + dom * 2 ^ 48 + bitAt 52 (k.restarts || k.rstart) + bitAt 53 true),
     q.record.wid, q.recAddr, q.weight, BitVec.ofNat 64 (partBits k.part),
     BitVec.ofNat 64 ((taskTag s q).toNat + q.prio * 2 ^ 32), sideWord k.peel, sideWord k.rack]

/-- PC, predicates, RB and SY_RM, SY_ROUTE, SY_EVEC, SY_ESTAT, the trap stack. -/
def regWords (r : Regs) : List Word :=
  [r.pc, r.p, BitVec.ofNat 64 (r.rb.toNat + r.rm.toNat % 8 * 256), r.route, r.evec, estatWord r, r.epc0, r.epc1]

/-- An operand-queue entry: its value, or for a pending one what its load is reissued from: the address, with the class in
<59:56> and log2 of the size in <61:60> (log 32). -/
def queueWord (e : QEntry) : Word :=
  if e.wait = 0 then e.v
  else BitVec.ofNat 64 (e.va.toNat % 2 ^ 56 + e.cls.toNat * 2 ^ 56 + Nat.log2 e.size * 2 ^ 60)

def queueWords (r : Regs) : List Word :=
  (List.range 4).flatMap (fun n => (List.range 16).map (fun i =>
    match (sget [] r.q n)[i]? with
    | some e => queueWord e
    | none => 0))

def queueHeads (r : Regs) : List Word :=
  (List.range 8).map (fun n =>
    let q := sget [] r.q n
    let pend := (q.zipIdx.map (fun e => bitAt (16 + e.2) (e.1.wait != 0))).sum
    if n < 4 then BitVec.ofNat 64 (q.length % 32 + pend) else 0)

/-- Micro-PC, ACTIVE and continuation of an engine: the running value of v.scan, zeros otherwise (13 R338). -/
def engineWords (k : Bank) (e : Nat) : List Word :=
  match (sget [] k.queues e).head? with
  | none => [0, 0, 0, 0]
  | some m =>
    let scan := match m.instr with
      | .vScan _ => m.cont
      | _ => 0
    [BitVec.ofNat 64 (m.upc % 65536 + bitAt 16 m.started), scan, 0, 0]

/-- The physical g registers that wait for a token. -/
def tokenMask (k : Bank) : Word :=
  let mine := fun (id : Nat) => k.queues.any (fun e => e.2.any (fun m => m.id == id)) || k.tokens.any (fun t => t.id == id)
  BitVec.ofNat 64 (((blockRegs k).gWait.map (fun e => bitAt e.1 (mine e.2))).sum)

/-- A queued command (09 Table 9; 14 R407). -/
def commandWords (m : Option Cmd) : List Word :=
  match m with
  | none => [0, 0]
  | some m =>
    [m.bits.setWidth 64,
     BitVec.ofNat 64 (m.bits.toNat / 2 ^ 64 + m.mode.toNat * 2 ^ 32 + m.issuer.toNat * 2 ^ 35 + bitAt 63 true)]

/-- A cursor's 96 bytes (06 Table 8). SETPOS is the index of the SET; all ones stand for none performed in the iteration (log 30). -/
def cursorBytes (c : Option Cursor) : List Byte :=
  match c with
  | none => List.replicate 96 0
  | some c =>
    let six := fun (l : List Nat) => (List.range 6).flatMap (fun i => leBytes 4 (l.getD i 0))
    wordBytes (c.body ||| 1) ++ leBytes 4 c.task ++ leBytes 4 c.iter ++ leBytes 8 c.version.toNat ++ six c.pos ++
      six c.markPos ++ six (c.setPos.map (fun n => (n + 2 ^ 32 - 1) % 2 ^ 32))

/-- A ticket-table entry (07 Table 9): a piece stands for its whole access. -/
def ticketWords (k : Bank) (n : Nat) : List Word :=
  match aget k.tickets n with
  | none => [0, 0]
  | some t =>
    let dest := ((k.loads.find? (fun l => l.id == t.acc.id)).map (fun l => l.spec)).getD 0
    [BitVec.ofNat 64 ((t.acc.va - t.acc.off) % 2 ^ 56),
     BitVec.ofNat 64 (Nat.log2 t.acc.size * 2 ^ 10 + dest * 2 ^ 13 + t.kind.toNat * 2 ^ 19 + t.acc.cls.toNat * 2 ^ 23 +
       t.seq.toNat * 2 ^ 27 + bitAt 43 t.disc + t.state.toNat * 2 ^ 44 + t.owner.toNat * 2 ^ 46 + t.ticket.toNat * 2 ^ 48)]

/-- Route counts of a context (08 R206; 09 Table 9). -/
def routeBytes (s : State) (c x : Nat) : List Byte :=
  (List.range 64).flatMap (fun i => (List.range 4).flatMap (fun r =>
    leBytes 2 (sget 0 (coreOf s c).routeN (4 * remoteKey x (BitVec.ofNat 4 (i / 4)) (i % 4) + r)).toNat))

/-- PC and x1 to x31 of a side core. -/
def sideBytes (k : Side) : List Byte := wordBytes k.pc ++ (List.range 31).flatMap (fun n => wordBytes (sget 0 k.x (n + 1)))

/-- The context block of a task of core `c` whose context stands in bank contents `k`. -/
def contextBlock (s : State) (c : Nat) (k : Bank) (t : Nat) : List Byte :=
  let r := blockRegs k
  let x := match taskOf s t with
    | some q => q.ctx
    | none => 0
  let words := fun (l : List Word) => l.flatMap wordBytes
  words (headerWords s k t) ++ words (regWords r) ++ words ((List.range 32).map (fun n => if n = 0 then 0 else sget 0 r.g n)) ++
    words ((List.range 16).map (fun n => match r.h[n]? with
      | some e => e.v
      | none => 0)) ++
    words (queueWords r) ++ words (queueHeads r) ++ words ((List.range 8).map (sget 0 k.rings)) ++
    words (engineWords k 0 ++ engineWords k 1 ++ engineWords k 2 ++ [tokenMask k, 0, 0, 0]) ++
    words ((List.range 4).flatMap (fun e => (List.range 16).flatMap (fun i => commandWords (sget [] k.queues e)[i]?))) ++
    cursorBytes k.cursor ++ List.replicate 32 0 ++ words ((List.range 32).flatMap (ticketWords k)) ++ routeBytes s c x ++
    sideBytes k.peel ++ sideBytes k.rack ++ List.replicate 128 0

/-! ### Reading a block -/

/-- The registers of a block over those the bank kept: what the block does not show (marks, loads in flight) stays. Reserved bits read
as zero (00 R3). -/
def regsFrom (bs : List Byte) (r : Regs) : Regs :=
  let estat := blockWord bs 0x68
  { r with
    pc := blockWord bs 0x40, p := blockWord bs 0x48, rb := BitVec.ofNat 3 (fieldAt bs 0x50 1),
    rm := BitVec.ofNat 64 (fieldAt bs 0x51 1 % 8), route := routeTaken (blockWord bs 0x58), evec := blockWord bs 0x60 &&& ~~~31,
    depth := BitVec.ofNat 2 (fld estat 0 2), cause0 := BitVec.ofNat 8 (fld estat 8 8),
    cause1 := BitVec.ofNat 8 (fld estat 16 8), epc0 := blockWord bs 0x70, epc1 := blockWord bs 0x78,
    g := (List.range 32).foldl (fun m n => if n = 0 then m else sset 0 m n (blockWord bs (0x80 + 8 * n))) [],
    h := (List.range 16).map (fun i =>
      match r.h[i]? with
      | some e => { e with v := blockWord bs (0x180 + 8 * i) }
      | none => { v := blockWord bs (0x180 + 8 * i), wait := 0, mark := .clean }) }

/-- x1 to x31 and PC of a side core. -/
def sideFrom (bs : List Byte) (off : Nat) (ctl : Word) (k : Side) : Side :=
  { k with pc := blockWord bs off, x := (List.range 31).foldl (fun m n => sset 0 m (n + 1) (blockWord bs (off + 8 * (n + 1)))) [],
           run := ctl.getLsbD 63, halt := ctl.getLsbD 61, len := BitVec.ofNat 6 (fld ctl 52 6),
           img := BitVec.ofNat 44 (fld ctl 0 44) }

/-- A bank with the block's registers, rings and side-core registers. -/
def bankFrom (bs : List Byte) (k : Bank) : Bank :=
  let r := regsFrom bs k.regs
  { k with regs := r, restart := r, part := partOfBits (fieldAt bs 0x20 8),
           rings := (List.range 8).foldl (fun m n => sset 0 m n (ringTaken (blockWord bs (0x440 + 8 * n)))) [],
           peel := sideFrom bs 0xD80 (blockWord bs 0x30) k.peel, rack := sideFrom bs 0xE80 (blockWord bs 0x38) k.rack }

/-- The operand queues of a block that no bank stands behind: the entries that are not pending, and those that are, with the
loads to be reissued: queue, address, class, size. -/
def queuesFrom (bs : List Byte) : Sparse (List QEntry) :=
  (List.range 4).foldl (fun m n =>
    let head := blockWord bs (0x400 + 8 * n)
    let q := (List.range (fld head 0 5 % 17)).map (fun i =>
      let w := blockWord bs (0x200 + 128 * n + 8 * i)
      if head.getLsbD (16 + i) then
        ({ v := 0, wait := 1, va := BitVec.ofNat 64 (fld w 0 56), size := 2 ^ fld w 60 2, cls := BitVec.ofNat 4 (fld w 56 4) } : QEntry)
      else { v := w, wait := 0, va := 0, size := 8, cls := 0 })
    sset [] m n q) []

/-- An entry of a block's ticket table (07 Table 9). -/
structure Parked where
  kind : Nat
  dest : Nat
  va : Nat
  cls : BitVec 4
  size : Nat
  disc : Bool
deriving DecidableEq, Repr

/-- The entries in use of a block's ticket table. -/
def parkedFrom (bs : List Byte) : List Parked :=
  (List.range 32).filterMap (fun i =>
    let w := blockWord bs (0x980 + 16 * i + 8)
    if fld w 44 2 != 0 then
      some { kind := fld w 19 4, dest := fld w 13 6, va := fieldAt bs (0x980 + 16 * i) 7, cls := BitVec.ofNat 4 (fld w 23 4),
             size := 2 ^ fld w 10 3, disc := w.getLsbD 43 }
    else none)

/-- The cursor of a block, with the guards that its task entry still has to pass; the shape and health guards are behind a
block whose streams have moved. -/
def cursorFrom (x : Nat) (bs : List Byte) : Act (Option Cursor) := do
  let w := blockWord bs 0x900
  if !w.getLsbD 0 then pure none
  else do
    let body := w &&& ~~~63
    let six := fun (o : Nat) => (List.range 6).map (fun i => fieldAt bs (o + 4 * i) 4)
    let task := fieldAt bs 0x908 4
    let iter := fieldAt bs 0x90C 4
    let version := BitVec.ofNat 16 (fieldAt bs 0x910 2)
    match ← bodyHead x body with
    | none => pure none
    | some h =>
      match ← bodyTask x body h task with
      | none => pure none
      | some k => do
        let c ← cursorAt x body version h k task iter
        let moved := six 0x918 != k.strm
        pure (some { c with pos := six 0x918, markPos := six 0x930, setPos := (six 0x948).map (fun n => (n + 1) % 2 ^ 32),
                            shapeOk := c.shapeOk || moved, healthOk := c.healthOk || moved })

end Sys2Proof.Machine
end

