-- ==== Sys2Proof/Machine/Arrivals.lean ====
section
/-!
DEFINITION. What the copy engines' work brings from outside a core's own steps: images from other cores (02 R34; 14 R391; 06 R160,
R161), landing or held at the destination die's engine, and the tokens of finished copies (14 R381).
-/

namespace Sys2Proof.Machine

/-- The context that holds slot `n` of a core: the one that runs, else the newest shadow with the slot in its partition. -/
def slotHolder (s : State) (c n : Nat) : Option Nat :=
  (residents s c).find? (fun b =>
    let p := (bankOf s c b).part
    p.s0 ≤ n && n < p.s0 + p.sn)

/-- What becomes of an image at its destination. -/
inductive Landing where
  | hold
  /-- beyond the partition of the context that holds its first slot (14 R391) -/
  | beyond
  | land (bank : Nat)
deriving DecidableEq, Repr

/-- 02 R34; 14 R391: an image of bytes `off` on lands in the partition that holds its slots, when all of them belong to the
engines and the partition is in place. -/
def landingOf (s : State) (a : Arrival) : Landing :=
  match slotHolder s a.core (a.off / 2048) with
  | none => .hold
  | some b =>
    let p := (bankOf s a.core b).part
    if 2048 * (p.s0 + p.sn) < a.off + a.bytes.length then (if a.rsw then .beyond else .hold)
    else if inPlace s a.core b && (slotsOf a.off a.bytes.length).all (fun i => (slotOf s a.core i).owner) then .land b
    else .hold

/-- An image's bytes after the arithmetic of MODE 1: FP32 sums, one rounding to nearest each (02 R34). -/
def arrivedBytes (old new : List Byte) : List Byte :=
  let a := decodeBlock 0 1 false (new.length / 4) old
  let b := decodeBlock 0 1 false (new.length / 4) new
  encodeBlock 1 false (noSr 0) (List.zipWith (combine 0 (noSr 0)) a b)

/-- The command of an x.rsw changes at its sender, whose context may be streamed out. -/
def updRsw (s : State) (a : Arrival) (f : Cmd → Cmd) (trap : Option PendTrap) : State :=
  let bank := fun (k : Bank) =>
    let q := sget [] k.queues 2
    if q.any (fun m => m.id == a.cmd) then
      { k with queues := sset [] k.queues 2 (q.map (fun m => if m.id = a.cmd then f m else m)), pend := k.pend ++ trap.toList }
    else k
  let s := (List.range bankCount).foldl (fun s b => updBank s a.fromCore b bank) s
  updCore s a.fromCore (fun q => { q with streamed := q.streamed.map (fun e =>
    let saved := e.saved.map bank
    if saved = e.saved then e else { e with saved := saved, pend := e.pend ++ trap.toList }) })

/-- A bank that holds the acknowledged x.rsw: the command retires, and its token is due (14 R381, R391). -/
def ackBank (a : Arrival) (k : Bank) : Bank :=
  match (sget [] k.queues 2).find? (fun m => m.id == a.cmd) with
  | none => k
  | some m =>
    let due : TokenDue := { id := m.id, reg := m.tok, issuer := m.issuer, value := BitVec.ofNat 64 (rswLen m.block) }
    { k with queues := supd [] k.queues 2 (fun l => l.filter (fun o => o.id != m.id)), tokens := k.tokens ++ [due] }

/-- The same in the block of a context that has streamed out: the copy engine's words and queue change (09 R236, Table 9). -/
def ackStreamed (a : Arrival) (s : State) (e : Streamed) : State :=
  match e.saved with
  | none => s
  | some k =>
    let n := ackBank a k
    if n = k then s
    else
      let base := switchPos s a.fromCore e.pos
      let bs := contextBlock s a.fromCore n e.task
      let part := fun (s : State) (o l : Nat) => writeBytes s (base + o) ((bs.drop o).take l)
      let s := part (part s 0x4C0 0x20) 0x700 0x100
      updCore s a.fromCore (fun q => { q with streamed := q.streamed.map (fun o =>
        if o.task = e.task then { o with saved := some n } else o) })

/-- The acknowledgement of an x.rsw image reaches its sender, wherever its context is (14 R391). -/
def ackRsw (s : State) (a : Arrival) : State :=
  if a.rsw then
    let s := (List.range bankCount).foldl (fun s b => updBank s a.fromCore b (ackBank a)) s
    (coreOf s a.fromCore).streamed.foldl (ackStreamed a) s
  else s

/-- An x.rsw image beyond the partition: the sender raises PROTECTION at execution (14 R391; 13 R337). -/
def refuseRsw (s : State) (a : Arrival) : State :=
  let bank := bankOf s a.fromCore a.fromBank
  let m := (sget [] bank.queues 2).find? (fun m => m.id == a.cmd)
  let pc := match m with
    | some m => if m.starter then 0 else m.pc
    | none => 0
  updRsw s a (fun m => { m with halted := true })
    (some { src := .engine, code := .protection, info := some (BitVec.ofNat 64 (3 * 2 ^ 60 + a.off % 2 ^ 44)), pc := pc,
            miss := none })

/-- An image lands whole: race checks in the name of its sender, bytes, tags, then its counter (02 R34; 06 R160, R161). A race
is the trap of the task that holds the slots, and nothing lands. -/
def landArrival (a : Arrival) (b : Nat) : Act Unit := do
  let s ← state
  let c := a.core
  let k := bankOf s c b
  let rel := a.off - 2048 * k.part.s0
  let n := a.bytes.length
  match k.task.bind (fun t => (taskOf s t).map (fun q => (t, q))) with
  | none => pure ()
  | some (t, q) => do
    let w : Who := { core := c, bank := b, task := t, ctx := q.ctx, launch := q.launch }
    let ok ← tryCatch (do
      raceCheck w (a.fromCore % 256) a.phase rel n true
      pure true) (fun e =>
        match e with
        | .trap code info => do
          change (fun s => postTrap s c b .remote code info)
          pure false
        | e => throw e)
    if ok then
      let old := readS (← state) c k.part rel n
      change (fun s => writeS s c k.part rel (if a.add then arrivedBytes old a.bytes else a.bytes))
      change (fun s => ((slotsOf a.off n).zip a.tags).foldl (fun s e =>
        setSlot s c e.1 { slotOf s c e.1 with fmt := e.2.1, geo := e.2.2 }) s)
      if a.cen then change (fun s => addCtr s (coreDie c) a.ctr 1)
    change (fun s => ackRsw (answerImage s a) a)

/-- The k-th image under way of a kind. -/
def findArrival (s : State) (rsw : Bool) (k : Nat) : Option (Arrival × Nat) :=
  (s.net.arrivals.zipIdx.filter (fun e => e.1.rsw == rsw))[k]?

/-- The k-th epi.send or x.rsw image arrives: it lands, is discarded, or is held; with 32 held it stays on its way. -/
def arriveImage (rsw : Bool) (k : Nat) : Act Unit := do
  let s ← state
  let (a, i) ← need (findArrival s rsw k) "no such image is under way"
  waitUntil (enginesRun s)
  let gone := change (fun s => { s with net := { s.net with arrivals := removeAt s.net.arrivals i } })
  match landingOf s a with
  | .land b => do
    gone
    landArrival a b
  | .beyond => do
    gone
    change (fun s => refuseRsw (answerImage s a) a)
  | .hold => do
    waitUntil ((dieOf s (coreDie a.core)).held.length < 32)
    gone
    change (fun s => updDie s (coreDie a.core) (fun d => { d with held := d.held ++ [a] }))

/-! ### COPY_TOKEN_WRITE (14 R381; 09 R236; 14 R408) -/

/-- A token value in a data store's token word. -/
def tokenWord (t : TokenDue) (m : Sparse Byte) : Sparse Byte := ssetAll 0 m (0x3E00 + 8 * t.reg) (wordBytes t.value)

/-- A token value in what a context's bank holds: its register, in the active and the restart state, or the token word of a data
store kept in the bank. The token is no longer due. -/
def tokenBank (t : TokenDue) (k : Bank) : Bank :=
  let x : Val := ⟨t.value, .derived⟩
  let kept := fun (o : Option (Sparse Byte × Sparse Byte)) => o.map (fun e => (e.1, tokenWord t e.2))
  let k := { k with tokens := k.tokens.filter (fun o => o.id != t.id) }
  match t.issuer.toNat with
  | 0 => { k with regs := k.regs.fill t.id x, restart := k.restart.fill t.id x }
  | 1 => { k with peelSave := kept k.peelSave }
  | _ => { k with rackSave := kept k.rackSave }

/-- A token value reaches its context on the core: its bank, or the data store that its side core has in use. -/
def writeToken (s : State) (c b : Nat) (t : TokenDue) : State :=
  let k := bankOf s c b
  let s := updBank s c b (tokenBank t)
  match t.issuer.toNat with
  | 0 => s
  | 1 => if k.peelSave.isSome then s else updCore s c (fun q => { q with peelD := tokenWord t q.peelD })
  | _ => if k.rackSave.isSome then s else updCore s c (fun q => { q with rackD := tokenWord t q.rackD })

/-- A token value reaches the saved block of a streamed-out context: its register's word, with the pending bit cleared there, or its
token word in the position's data-store image (09 R236, R249). -/
def writeBlockToken (s : State) (c : Nat) (e : Streamed) (t : TokenDue) : State :=
  let base := switchPos s c e.pos
  let s := updCore s c (fun q => { q with streamed := q.streamed.map (fun o =>
    if o.task = e.task then { o with saved := o.saved.map (tokenBank t) } else o) })
  match t.issuer.toNat with
  | 0 =>
    let mask := readWord s (base + 0x4E0)
    if mask.getLsbD t.reg then
      writeBytes (writeBytes s (base + 0x80 + 8 * t.reg) (wordBytes t.value)) (base + 0x4E0)
        (wordBytes (mask &&& ~~~((1 : Word) <<< t.reg)))
    else s
  | n => writeBytes s (base + 0x481000 + 16384 * (n - 1) + 0x3E00 + 8 * t.reg) (wordBytes t.value)

/-- The bank and place of the k-th token due on a core, those of resident contexts first. -/
def findToken (s : State) (c k : Nat) : Option (Nat × TokenDue) :=
  ((List.range bankCount).flatMap (fun b => (bankOf s c b).tokens.map (fun t => (b, t))))[k]?

/-- The k-th token due among the contexts of a core that have streamed out. -/
def findBlockToken (s : State) (c k : Nat) : Option (Streamed × TokenDue) :=
  ((coreOf s c).streamed.flatMap (fun e => (e.saved.toList.flatMap (fun b => b.tokens)).map (fun t => (e, t))))[k]?

/-- Tokens due in the banks of a core. -/
def tokensDue (s : State) (c : Nat) : Nat := ((List.range bankCount).map (fun b => (bankOf s c b).tokens.length)).sum

/-- The k-th token due on a core is written; units that capture the core's time from dispatch to token take a sample (03 R79). -/
def execCopyTokenWrite (core : BitVec 8) (k : Nat) (s : State) : Host.Outcome State Fault Refusal :=
  asStep (do
    let c := core.toNat
    let s ← state
    match findToken s c k with
    | some (b, t) => change (fun s => writeToken s c b t)
    | none => do
      let (e, t) ← need (findBlockToken s c (k - tokensDue s c)) "no token is due"
      change (fun s => writeBlockToken s c e t)
    change (fun s => monFree s (coreDie c) 0 (some (coreLocal c)))) s

/-! ### Arrivals -/

/-- An epi.send tile arrives (02 R34). -/
def execEpiSendArrival (k : Nat) (s : State) : Host.Outcome State Fault Refusal := asStep (arriveImage false k) s

/-- An x.rsw image arrives (14 R391). -/
def execRswArrival (k : Nat) (s : State) : Host.Outcome State Fault Refusal := asStep (arriveImage true k) s

/-- The k-th held image of a die lands once its slots belong to the engines and its partition is in place. -/
def execHeldArrivalRelease (die : BitVec 2) (k : Nat) (s : State) : Host.Outcome State Fault Refusal :=
  asStep (do
    let s ← state
    let d := die.toNat
    let a ← need (dieOf s d).held[k]? "no such image is held"
    waitUntil (enginesRun s)
    let gone := change (fun s => updDie s d (fun q => { q with held := removeAt q.held k }))
    match landingOf s a with
    | .hold => waitHere
    | .land b => do
      gone
      landArrival a b
    | .beyond => do
      gone
      change (fun s => refuseRsw s a)) s

end Sys2Proof.Machine
end

