-- ==== Sys2Proof/Machine/Switching.lean ====
section
/-!
DEFINITION. Switching (09 R226, R243, R246 to R250; 05 R109, R124): what passes between contexts of a core, streaming to and
from the switch area, the start of a task and the resumption of a context.
-/

namespace Sys2Proof.Machine

/-! ### Slots and tiles that a newer context takes (05 R124; 09 R248) -/

/-- The words of a tile. -/
def tileWords (s : State) (c n : Nat) : Sparse (BitVec 32) :=
  (coreOf s c).cWords.filter (fun e => 16384 * n ≤ e.1 && e.1 < 16384 * (n + 1))

/-- The slots and tiles of a context's partition, its shadow slots with them. -/
def bankSlots (s : State) (c b : Nat) : List Nat := (bankOf s c b).part.slots (bankRaced s c b)
def bankTiles (s : State) (c b : Nat) : List Nat := (bankOf s c b).part.tiles

/-- A slot, or a tile, as it stands is kept for the context that holds it, unless that is kept already. -/
def keepSlot (c o : Nat) (s : State) (n : Nat) : State :=
  if (aget (bankOf s c o).overS n).isSome then s
  else
    let bytes := sgetAll 0 (coreOf s c).sBytes (2048 * n) 2048
    updBank s c o (fun b => { b with overS := b.overS ++ [(n, (slotOf s c n, sget 0 (coreOf s c).slotDom n, bytes))] })

def keepTile (c o : Nat) (s : State) (n : Nat) : State :=
  if (aget (bankOf s c o).overC n).isSome then s
  else updBank s c o (fun b => { b with overC := b.overC ++ [(n, (sget 0 (coreOf s c).tileDom n, tileWords s c n))] })

/-- The resident contexts of a core but one. -/
def othersOn (s : State) (c b : Nat) : List Nat := (heldBanks s c).filter (· != b)

/-- Whatever other contexts hold live in the units of a context is kept for them. -/
def evictFor (s : State) (c b : Nat) : State :=
  let slots := bankSlots s c b
  let tiles := bankTiles s c b
  (othersOn s c b).foldl (fun s o =>
    let s := ((bankSlots s c o).filter slots.contains).foldl (keepSlot c o) s
    ((bankTiles s c o).filter tiles.contains).foldl (keepTile c o) s) s

/-- What was kept for a context comes back. -/
def bringBack (s : State) (c b : Nat) : State :=
  let k := bankOf s c b
  let s := k.overS.foldl (fun s e => updCore s c (fun q =>
    { q with slots := sset Slot.reset q.slots e.1 e.2.1, slotDom := sset 0 q.slotDom e.1 e.2.2.1,
             sBytes := ssetAll 0 q.sBytes (2048 * e.1) e.2.2.2 })) s
  let s := k.overC.foldl (fun s e => updCore s c (fun q =>
    let bare := q.cWords.filter (fun w => !(16384 * e.1 ≤ w.1 && w.1 < 16384 * (e.1 + 1)))
    { q with tileDom := sset 0 q.tileDom e.1 e.2.1, cWords := e.2.2.foldl (fun m w => sset 0 m w.1 w.2) bare })) s
  updBank s c b (fun k => { k with overS := [], overC := [] })

/-- The side-core stores kept for a context come back; those of the context that used them are kept in turn (09 R243). -/
def bringStores (s : State) (c b : Nat) (rack : Bool) : State :=
  let k := bankOf s c b
  match if rack then k.rackSave else k.peelSave with
  | none => s
  | some (i, d) =>
    let dom := match (k.task.bind (taskOf s)).bind (fun q => ctxOf s q.ctx) with
      | some x => x.domain.toNat
      | none => 0
    let s := keepStores s c b rack
    let s := updCore s c (fun q => setStores q rack { inst := i, data := d, hold := some b, dom := dom })
    updBank s c b (fun k => if rack then { k with rackSave := none } else { k with peelSave := none })

/-- The data-error flags and logs of a core go when a task of another domain runs on it (09 R226, R238). -/
def errorsFor (s : State) (c dom : Nat) : State :=
  updCore s c (fun k => if k.errDom = dom then k else { k with errDom := dom, derr := 0, elog := [] })

/-- The context of a bank runs on the core again (09 R248 steps 4 and 5). -/
def resumeBank (s : State) (c b : Nat) : State :=
  let s := bringBack (evictFor s c b) c b
  let s := bringStores (bringStores s c b false) c b true
  let s := errorsFor s c (bankOf s c b).domain
  let s := updBank s c b (fun k => { k with rstart := false, checked := false })
  let s := updCore s c (fun k => { k with active := some b, chosen := none, shadows := k.shadows.filter (· != b) })
  match (bankOf s c b).task with
  | some t => updTask s t (fun q => { q with place := .running, core := c, bank := b })
  | none => s

/-! ### The start of a task (05 R109; 09 R226; 06 R160) -/

/-- The slots and tiles of a context that another domain held are zeroed. -/
def clearUnits (s : State) (c b dom : Nat) : State :=
  let slot := fun (s : State) (n : Nat) =>
    if sget 0 (coreOf s c).slotDom n = dom then s
    else updCore s c (fun q =>
      { q with slots := sset Slot.reset q.slots n Slot.reset, slotDom := sset 0 q.slotDom n dom,
               sBytes := ssetAll 0 q.sBytes (2048 * n) (List.replicate 2048 0) })
  let tile := fun (s : State) (n : Nat) =>
    if sget 0 (coreOf s c).tileDom n = dom then s
    else updCore s c (fun q =>
      { q with tileDom := sset 0 q.tileDom n dom,
               cWords := q.cWords.filter (fun w => !(16384 * n ≤ w.1 && w.1 < 16384 * (n + 1))) })
  (bankTiles s c b).foldl tile ((bankSlots s c b).foldl slot s)

/-- A bank of another domain is zeroed before a task starts in it. -/
def clearBank (k : Bank) (dom : Nat) : Bank :=
  if k.domain = dom then k
  else
    let z := fun (r : Regs) =>
      { r with g := [], gWait := [], gMark := [], h := [], q := [], p := 0, pMark := [], depth := 0, cause0 := 0, cause1 := 0,
               epc0 := 0, epc1 := 0 }
    { k with domain := dom, regs := z k.regs, restart := z k.restart }

/-- The cursor of a task that starts from the starter, with the FAILPC of a forked variant's first entry if its control
program starts there (06 R141, R147). -/
def startCursor (l : Nat) (k : Task) : Act (Option (Cursor × Option Word)) := do
  if k.repEntry = 0 then pure none
  else
    match launchOf (← state) l with
    | none => pure none
    | some q =>
      match q.replay with
      | none => pure none
      | some r =>
        match ← bodyHead q.ctx r.body with
        | none => pure none
        | some h =>
          match ← bodyTask q.ctx r.body h (k.repEntry - 1) with
          | none => pure none
          | some e => do
            let c ← cursorAt q.ctx r.body r.version h e (k.repEntry - 1) k.repIter
            let mut fail : Option Word := none
            if e.tail && e.live then
              for i in List.range e.gcnt do
                match ← bodyGuard q.ctx r.body h (e.gfirst + i) with
                | some g => if g.kind = 2 && fail.isNone then fail := some g.failPc
                | none => pure ()
            pure (some (c, fail))

/-- A queued task starts on a core in a free bank with a partition (05 R109, R120); its die's monitors sample how long it was ready (03
R79). -/
def startTask (t c b : Nat) (p : Part) : Act Unit := do
  match taskOf (← state) t with
  | none => pure ()
  | some k => do
    let dom := match ctxOf (← state) k.ctx with
      | some x => x.domain.toNat
      | none => 0
    change (fun s => updBank s c b (fun q => { clearBank q.freed dom with part := p, task := some t }))
    change (fun s => evictFor s c b)
    change (fun s => clearUnits s c b dom)
    change (fun s => clearPartShadow s c b)
    change (fun s => errorsFor s c dom)
    let id ← newId
    change (fun s => updTask s t (fun q => { q with place := .running, core := c, bank := b, start := id }))
    let cur ← match k.launch with
      | some l => startCursor l k
      | none => pure none
    let r := startRegs (regsOf (← state) c b) k.record k.recAddr
    match cur with
    | none => change (fun s => beginRegs s c b r)
    | some (q, fail) => do
      let r := match fail with
        | some pc => { r with pc := enterAt pc }
        | none => r
      change (fun s => beginRegs s c b r)
      change (fun s => updBank s c b (fun k => { k with cursor := some q }))
    change (fun s => updCore s c (fun q => { q with active := some b, chosen := none }))
    change (fun s => recStart s t c p false)
    change (fun s => monFree s k.die 6 none)
    match k.launch with
    | none => pure ()
    | some l =>
      if k.index != 0 && k.place != .pool then
        match launchOf (← state) l with
        | none => pure ()
        | some q =>
          match ← writeStateEntry q (k.index - 1) 0 2 with
          | .ok _ => pure ()
          | .error e => deviceFailEnds l e
    refill k.die

/-! ### Streaming (09 R247 to R250; 18 R417) -/

/-- A shadow's block may stream out: every access of its task to local pages has performed, every load of another die's page has its
data or is parked, and no request is in flight (18 R417; 07 R191). -/
def mayStreamOut (s : State) (c b : Nat) : Bool :=
  let k := bankOf s c b
  k.inflight.all (fun a => isOrphan s k a || a.kind.isBarrier || (a.remote && (a.kind == .store || a.kind == .stf))) &&
    k.tickets.all (fun e => e.2.state != 1)

/-- Bytes of a tile. -/
def tileBytes (s : State) (c n : Nat) : List Byte :=
  (List.range 16384).flatMap (fun i => leBytes 4 (sget (0 : BitVec 32) (coreOf s c).cWords (16384 * n + i)).toNat)

/-- The bytes of a partition's slots and tiles as its context has them. -/
def partSlots (s : State) (c : Nat) (k : Bank) : List Byte :=
  (List.range k.part.sn).flatMap (fun i =>
    let n := k.part.s0 + i
    match aget k.overS n with
    | some e => e.2.2
    | none => sgetAll 0 (coreOf s c).sBytes (2048 * n) 2048)

def partTiles (s : State) (c : Nat) (k : Bank) : List Byte :=
  (List.range k.part.cn).flatMap (fun i =>
    let n := k.part.c0 + i
    match aget k.overC n with
    | some e => (List.range 16384).flatMap (fun j => leBytes 4 (sget (0 : BitVec 32) e.2 (16384 * n + j)).toNat)
    | none => tileBytes s c n)

/-- The data stores of the side cores of a context. -/
def dataBytes (s : State) (c b : Nat) (rack : Bool) : List Byte :=
  let k := bankOf s c b
  let m := match if rack then k.rackSave else k.peelSave with
    | some x => x.2
    | none => (storesOf (coreOf s c) rack).data
  sgetAll 0 m 0 16384

/-- Everything that a context holds in S, C and the side-core stores is kept in its bank. -/
def keepAll (s : State) (c b : Nat) : State :=
  let s := (bankTiles s c b).foldl (keepTile c b) ((bankSlots s c b).foldl (keepSlot c b) s)
  let side := fun (s : State) (rack : Bool) =>
    let x := storesOf (coreOf s c) rack
    if x.hold = some b then
      let s := updBank s c b (fun k =>
        if rack then { k with rackSave := some (x.inst, x.data) } else { k with peelSave := some (x.inst, x.data) })
      updCore s c (fun q => setStores q rack { x with hold := none })
    else s
  side (side s false) true

/-- A shadow's context streams to a free position: block, S image, C image, data stores (09 R249). -/
def streamOut (s : State) (c b pos : Nat) : State :=
  let k := bankOf s c b
  match k.task with
  | none => s
  | some t =>
    let base := switchPos s c pos
    let s := writeBytes s base (contextBlock s c k t)
    let s := writeBytes s (base + 0x1000) (partSlots s c k)
    let s := writeBytes s (base + 0x81000) (partTiles s c k)
    let s := writeBytes s (base + 0x481000) (dataBytes s c b false ++ dataBytes s c b true)
    let s := keepAll s c b
    let kept := bankOf s c b
    let e : Streamed :=
      { pos := pos, task := t, awaiting := kept.awaiting, awaitOuter := kept.awaitOuter, waitDesc := kept.waitDesc,
        pend := kept.pend, mustTgt := kept.mustTgt,
        saved := some { kept with inflight := kept.inflight.filter (fun a => a.remote && !isOrphan s kept a) } }
    let s := updBank s c b (fun k => { k with inflight := kept.inflight.filter (isOrphan s kept) })
    let s := updTask s t (fun q => { q with place := .streamedOut })
    let s := freeBank s c b
    updCore s c (fun q => { q with streamed := q.streamed ++ [e] })

/-- The bank of a context as its block in memory gives it: over what its bank held, or alone for a block that was loaded. -/
def blockBank (e : Streamed) (bs : List Byte) : Bank :=
  let k := bankFrom bs (e.saved.getD Bank.reset)
  { k with pend := e.pend, awaiting := e.awaiting, awaitOuter := e.awaitOuter, waitDesc := e.waitDesc, mustTgt := e.mustTgt,
           restartTgt := e.mustTgt, task := some e.task }

/-- S, C and data-store images of a position, kept for its context until it runs: a slot's tag and owner are those it had, or for a
context that was loaded those that its domain last held there (09 R226). Shadow slots have no image: what was kept of them stays, and a
loaded context of a race-check launch starts with none. -/
def imagesOf (s : State) (c base : Nat) (race : Bool) (k : Bank) : Bank :=
  let slot := fun (i : Nat) =>
    let n := k.part.s0 + i
    let here := if sget 0 (coreOf s c).slotDom n = k.domain then slotOf s c n else Slot.reset
    let old := (aget k.overS n).getD (here, k.domain, [])
    (n, (old.1, old.2.1, readBytes s (base + 0x1000 + 2048 * i) 2048))
  let shadow := fun (i : Nat) =>
    let n := k.part.s0 + i + 128
    (n, (aget k.overS n).getD (Slot.reset, k.domain, (List.replicate 512 (leBytes 4 shadowNone.toNat)).flatten))
  let tile := fun (i : Nat) =>
    let n := k.part.c0 + i
    let dom := ((aget k.overC n).map (fun e => e.1)).getD k.domain
    let words := (List.range 16384).foldl (fun m j =>
      sset (0 : BitVec 32) m (16384 * n + j) (BitVec.ofNat 32 (leNat (readBytes s (base + 0x81000 + 65536 * i + 4 * j) 4)))) []
    (n, (dom, words))
  let data := fun (rack : Bool) => ssetAll (0 : Byte) [] 0 (readBytes s (base + 0x481000 + (if rack then 16384 else 0)) 16384)
  let used := fun (k : Side) => k.len != 0
  { k with overS := (List.range k.part.sn).map slot ++ (if race then (List.range k.part.sn).map shadow else []),
           overC := (List.range k.part.cn).map tile,
           peelSave := if used k.peel then some ((k.peelSave.map (fun x => x.1)).getD [], data false) else k.peelSave,
           rackSave := if used k.rack then some ((k.rackSave.map (fun x => x.1)).getD [], data true) else k.rackSave }

/-- The instruction store of a loaded block's side core is filled from IMG (09 R243). -/
def reloadImage (w : Who) (rack : Bool) : Act Unit := do
  let k := bankOf (← state) w.core w.bank
  let d := sideOf k rack
  match if rack then k.rackSave else k.peelSave with
  | none => pure ()
  | some x =>
    let img ← tryCatch (reachBytes w (BitVec.ofNat 64 (d.img.toNat * 4096)) (1024 * d.len.toNat) 0 .rd) (fun _ => pure [])
    let y := (ssetAll (0 : Byte) [] 0 img, x.2)
    change (fun s => updBank s w.core w.bank (fun k =>
      if rack then { k with rackSave := some y } else { k with peelSave := some y }))

/-- The entries of a stream that the commands still queued come from: the last CMD entries before its position (06 R150). -/
def entriesBefore (x : Nat) (cur : Cursor) (k n : Nat) : Act (List Nat) := do
  match ← bodyHead x cur.body with
  | none => pure []
  | some h =>
    let mut out : List Nat := []
    let pos := cur.pos.getD k 0
    for i in List.range pos do
      if out.length < n then
        match ← streamEntry x cur.body h (pos - 1 - i) with
        | some e => if entryKind e = 0 then out := (pos - 1 - i) :: out
        | none => pure ()
    pure out

/-- The queued commands of a loaded block are dispatched again in their saved order, with their modes; the heads go on at their
micro-PCs (09 R237). The block keeps no order between its queues: the matrix queue comes first, then vector, copy and collective (log 89).
A trap of such a dispatch is the command's engine trap. A command whose dispatch waits, or misses a page, stands in its queue until its
engine can dispatch it. -/
def redispatch (w : Who) (bs : List Byte) : Act Unit := do
  for q in List.range 4 do
    let cmds := commandsFrom bs q
    let cur := (bankOf (← state) w.core w.bank).cursor.filter (fun c => !c.live)
    let mut entries : List (List Nat) := []
    for n in List.range 3 do
      let issuer := BitVec.ofNat 2 n
      let count := (cmds.filter (fun c => c.2.2 == issuer)).length
      let l ← match cur with
        | some c => entriesBefore w.ctx c (recStream q issuer) count
        | none => pure []
      entries := entries ++ [l]
    for e in cmds.zipIdx do
      let (bits, mode, issuer) := e.1
      let mine := entries.getD issuer.toNat []
      entries := changeAt (fun l => l.drop 1) entries issuer.toNat
      let post := fun (t : Trap) (info : Option Word) => change (fun s => updBank s w.core w.bank (fun k =>
        { k with pend := k.pend ++ [{ src := .engine, code := t, info := info, pc := 0, miss := none }] }))
      match decodeCommand q bits with
      | .error f => post (decodeTrap f) none
      | .ok i =>
        match specOf i with
        | none => post .illegalOpcode none
        | some sp => do
          let r := regsOf (← state) w.core w.bank
          let ctl := blockWord bs (0x480 + 32 * q)
          let m := { newCmd i mode 0 issuer cur.isSome r.route with entry := mine.headD 0 }
          tryCatch (dispatchCmd w sp m) (fun x =>
            match x with
            | .trap t info => post t info
            | .cannot y => cannot y
            | .wait | .miss _ => do
              let id ← newId
              change (fun s => setQueue s w.core w.bank q (queueOf s w.core w.bank q ++ [{ m with id := id, raw := true }])))
          if e.2 = 0 && q < 3 && ctl.getLsbD 16 then
            change (fun s => setQueue s w.core w.bank q ((queueOf s w.core w.bank q).map (fun m =>
              { m with started := true, upc := fld ctl 0 16, cont := if q = 1 then blockWord bs (0x488 + 32 * q) else 0 })))

/-- An access of a loaded block is issued again (04 R87; 07 R191): placed as a new one, it leaves when the device lets it. A trap of
it waits for the task's next boundary. The answer is its number. -/
def reissue (w : Who) (kind : AccKind) (dkind : BitVec 4) (right : Right) (cls : BitVec 4) (va n : Nat)
    (fill : Access → Act Access) (back : Option (Nat → Load)) (keep : Nat → Act Unit) : Act Unit :=
  tryCatch (do
    let id ← newId
    let placed ← placePieces w id kind dkind right cls (pieces va n)
    let mut l : List Access := []
    for a in placed do l := l ++ [{ (← fill a) with size := n }]
    let all := l
    change (fun s => updBank s w.core w.bank (fun k =>
      { k with inflight := k.inflight ++ all, loads := k.loads ++ (match back with
          | some f => [f id]
          | none => []) }))
    keep id
    pump w.core w.bank) (fun x =>
      match x with
      | .miss y => change (fun s => sideMiss s w y)
      | .trap t info => change (fun s => postTrap s w.core w.bank .remote t info)
      | _ => pure ())

/-- What a reissued load brings back. -/
def backOf (size : Nat) (signed : Bool) (dest : Dest) (spec id : Nat) : Load :=
  { id := id, size := size, signed := signed, dest := dest, spec := spec, got := List.replicate size none }

/-- The pending operand-queue entries of a loaded block are reissued as loads, in queue order (09 Table 9). -/
def reissueQueues (w : Who) (bs : List Byte) : Act Unit := do
  let qs := queuesFrom bs
  change (fun s => updRegs s w.core w.bank (fun r => { r with q := qs }))
  for n in List.range 4 do
    for e in (sget [] qs n).zipIdx do
      if e.1.wait != 0 then
        let named := fun (id : Nat) (l : List QEntry) => changeAt (fun x => ({ x with wait := id } : QEntry)) l e.2
        reissue w .load 0 .rd e.1.cls e.1.va.toNat e.1.size pure (some (backOf e.1.size false .regs (48 + n)))
          (fun id => change (fun s => updRegs s w.core w.bank (fun r => { r with q := supd [] r.q n (named id) })))

/-- An access parked in the ticket table of a loaded block is issued again (04 R87). The block shows neither the data of a store or an
atomic, nor whether a load extends its sign, nor the S bytes of a sector: each is a free value (log 53). The entries of operand queues
are reissued with those. -/
def reissueParked (w : Who) (p : Parked) : Act Unit := do
  let k := bankOf (← state) w.core w.bank
  let waits := fun (id : Nat) =>
    if !p.disc && 1 ≤ p.dest && p.dest ≤ 31 then
      change (fun s => updRegs s w.core w.bank (fun r => { r with gWait := sset 0 r.gWait (physOf r.rb p.dest) id }))
    else pure ()
  let room := 64 * k.part.sn
  let off := 32 * (← drawIndex room)
  let back := fun (signed sector : Bool) =>
    some (backOf p.size signed (if p.disc || (sector && room = 0) then .none else if sector then .sBytes off else .regs) p.dest)
  match p.kind with
  | 0 =>
    if p.dest < 48 || p.disc then do
      let signed ← drawBool
      reissue w .load 0 .rd p.cls p.va p.size pure (back signed (p.dest = 0 && p.size = 32)) waits
  | 1 | 2 =>
    reissue w (if p.kind = 1 then .store else .stf) 1 .w p.cls p.va p.size
      (fun a => do pure { a with data := ← drawBytes a.len }) none (fun _ => pure ())
  | 3 => do
    let aop ← drawWord
    let b ← drawWord
    let d ← drawWord
    let op := aop.setWidth 3
    reissue w .atomic 2 .rdw p.cls p.va p.size (fun a => pure { a with aop := op, opB := b, opD := d })
      (back (op = 5 || op = 6) false) waits
  | 4 => do
    let data ← drawBytes 64
    reissue w .casSec 2 .rdw p.cls p.va 32 (fun a => pure { a with data := data }) (back false true) (fun _ => pure ())
  | _ => pure ()

/-- A streamed-out context whose block was loaded, as it returns: its replay entry, side-core images, loads, parked accesses and queued
commands (09 R237, R243, R250; 04 R87). Its region begins here. -/
def adopt (w : Who) (bs : List Byte) : Act Unit := do
  let cur ← cursorFrom w.ctx bs
  change (fun s => updBank s w.core w.bank (fun k => { k with cursor := cur }))
  reloadImage w false
  reloadImage w true
  reissueQueues w bs
  for p in parkedFrom bs do reissueParked w p
  redispatch w bs
  change (fun s => updBank s w.core w.bank (fun k =>
    { k with region := s.nextId, restart := k.regs, restartTgt := k.mustTgt }))

/-- The engines' words of a block as they should be: those of the bank behind it, or fitting its commands (09 R246). -/
def engineWordsOk (e : Streamed) (bs : List Byte) : Bool :=
  match e.saved with
  | some k => (List.range 3).all (fun n =>
      (List.range 4).map (fun i => blockWord bs (0x480 + 32 * n + 8 * i)) == engineWords k n)
  | none => continuationOk bs

/-- A streamed-out context returns as a shadow to a free bank of its core (05 R124, 09 R248, R250). A region begins with the state its
block holds, so what it had dispatched before stays. A block whose engine words do not
match the engines' state is a DATA_ERROR of its task (09 R246). -/
def streamIn (c b : Nat) (e : Streamed) : Act Unit := do
  let s ← state
  match taskOf s e.task with
  | none => pure ()
  | some t => do
    let base := switchPos s c e.pos
    let bs := readBytes s base 4096
    let dom := match ctxOf s t.ctx with
      | some x => x.domain.toNat
      | none => 0
    let left := match e.saved with
      | some k => k.left
      | none => s.nextId
    let trap : List PendTrap :=
      if engineWordsOk e bs then [] else [{ src := .engine, code := .dataError, info := none, pc := 0, miss := none }]
    change (fun s => { updCore s c (fun q => { q with streamed := q.streamed.filter (fun o => o.task != e.task) }) with
      nextId := s.nextId + 1 })
    change (fun s =>
      let k := imagesOf s c base (taskRaced s t) { blockBank e bs with domain := dom }
      setBank s c b { k with left := left, pend := k.pend ++ trap, region := s.nextId })
    change (fun s => updTask s e.task (fun q => { q with place := .shadow, core := c, bank := b }))
    change (fun s => addShadow s c b)
    if e.saved.isNone then
      adopt { core := c, bank := b, task := e.task, ctx := t.ctx, launch := t.launch } bs

end Sys2Proof.Machine
end

