-- ==== Sys2Proof/Machine/Placement.lean ====
section
/-!
DEFINITION. The shepherd's choices (05 R119 to R124): PLACEMENT, STEAL_REQUEST, PRE_EMPTION_VICTIM, PREEMPT.
-/

namespace Sys2Proof.Machine

/-- The shepherds place tasks: RUN, and no supply loss (01 Table 3; 04 R83). -/
def shepherdsRun (s : State) : Bool := s.pm.st == .run && !s.pm.hup

/-- The streamed-out contexts of a core that can resume. -/
def streamedTasks (s : State) (c : Nat) : List (Nat × Task) :=
  (coreOf s c).streamed.filterMap (fun e => if e.waitDesc.isNone then (taskOf s e.task).map (fun k => (e.task, k)) else none)

/-- A free bank of a core: which of several the manual does not say. -/
def pickBank (c : Nat) : Act Nat := do
  let s ← state
  let free := (List.range bankCount).filter (fun b => (bankOf s c b).task.isNone)
  needs (!free.isEmpty) "no bank of the core is free"
  let i ← drawIndex free.length
  pure (free.getD i 0)

/-! ### PLACEMENT (05 R119, R120, R124, Table 5) -/

/-- The oldest shadow of a core streams out where a task needs a bank and none is free (09 R248 step 3). -/
def freeABank (c : Nat) : Act Unit := do
  let s ← state
  if (freeBankOf s c).isNone then
    match (coreOf s c).shadows.head?, freePos s c with
    | some o, some pos => do
      waitUntil (mayStreamOut s c o)
      change (fun s => streamOut s c o pos)
    | _, _ => waitHere

/-- A core takes its next task: a shadow resumes, a queued task starts, or a streamed-out context that comes first
returns as a shadow. A core that a yield has left to a candidate takes that one (05 R125). -/
def execPlacement (core : BitVec 8) (s : State) : Host.Outcome State Fault Refusal :=
  asStep (do
    let c := core.toNat
    let s ← state
    needs (shepherdsRun s) "the shepherds place no task"
    refill (coreDie c)
    let s ← state
    let k := coreOf s c
    let room := k.shadows.length < 2 && (freeBankOf s c).isSome
    let shadows := shadowTasks s c
    let queued := if bankFrees s c then queuedFor s c (heldBanks s c) else []
    let out := if room then streamedTasks s c else []
    let left := (shadows ++ queued).filter (fun e => k.chosen == some e.1)
    match bestOf s c (if left.isEmpty then shadows ++ queued ++ out else left) with
    | none => cannot "the core has no candidate"
    | some (t, q) =>
      if q.place = .streamedOut then
        match k.streamed.find? (fun e => e.task == t) with
        | none => cannot "the context is not streamed out"
        | some e => do
          let b ← pickBank c
          streamIn c b e
      else do
        needs k.active.isNone "a task runs on the core"
        change (fun s => updCore s c (fun k => { k with preReq := none }))
        if q.place = .shadow then change (fun s => resumeBank s c q.bank)
        else
          match partitionFor s c (heldBanks s c) q with
          | none => cannot "no partition fits"
          | some p => do
            freeABank c
            let b ← pickBank c
            startTask t c b p) s

/-! ### Stealing (05 R122, Table 7) -/

/-- The queued tasks of a cluster that a core of its die may steal. -/
def stealable (s : State) (c cluster : Nat) : List (Nat × Task) :=
  s.tasks.filter (fun e =>
    let k := e.2
    (k.place == .pool || k.place == .keeperEntry) && k.die == coreDie c && !chosenElsewhere s c e.1 && k.cluster == cluster && !k.record.noSteal && !k.record.pin &&
      (partitionFor s c (heldBanks s c) k).isSome)

/-- The victim cluster of a core: the highest priority, then the first in the order own + 1, own + 2, … -/
def victimOf (s : State) (c : Nat) : Option Nat :=
  let order := (List.range 7).map (fun i => (coreCluster c + 1 + i) % 8)
  let best := fun (v : Nat) => (stealable s c v).foldl (fun b e => Nat.max b (e.2.prio + 1)) 0
  order.foldl (fun b v =>
    if best v = 0 then b
    else match b with
      | none => some v
      | some u => if best u < best v then some v else some u) none

/-- A core is eligible for no queued task, and has no shadow to resume, but a bank for a task. -/
def steals (s : State) (c : Nat) : Bool :=
  (coreOf s c).active.isNone && bankFrees s c && (shadowTasks s c).isEmpty && (queuedFor s c (heldBanks s c)).isEmpty

/-- What a requester would take from a victim, where a forced log gives this occurrence to its cluster or to none (06 R159). -/
def stealFor (d v c : Nat) : Act (Option (Nat × Task)) := do
  let s ← state
  match bestOf s c (stealable s c v) with
  | none => pure none
  | some e =>
    match e.2.launch with
    | none => pure (some e)
    | some l =>
      match ← forcedWinner l 1 d v with
      | none => pure (some e)
      | some w => pure (if w = coreCluster c then some e else none)

/-- Of the requests that reach a victim's queue controller in one cycle one is granted, in rotating order of requesting
cluster. Which requests meet in a cycle is the device's timing. -/
def execStealRequest (die : BitVec 2) (victim : BitVec 3) (s : State) : Host.Outcome State Fault Refusal :=
  asStep (do
    let d := die.toNat
    let v := victim.toNat
    needs (shepherdsRun (← state)) "the shepherds place no task"
    refill d
    let s ← state
    let thieves := ((List.range 64).map (64 * d + ·)).filter (fun c => steals s c && victimOf s c == some v)
    needs (!thieves.isEmpty) "no core requests a steal from the cluster"
    let mut here : List (Nat × Nat × Task) := []
    for c in thieves do
      if (← drawBool) then
        match ← stealFor d v c with
        | some (t, k) => here := here ++ [(c, t, k)]
        | none => pure ()
    let last := sget 0 (dieOf s d).stealLast v
    let order := (List.range 8).map (fun i => (last + 1 + i) % 8)
    match order.find? (fun q => here.any (fun e => coreCluster e.1 == q)) with
    | none => pure ()
    | some q => do
      let mine := here.filter (fun e => coreCluster e.1 == q)
      let i ← drawIndex mine.length
      match mine[i]? with
      | none => pure ()
      | some (c, t, k) =>
        match partitionFor s c (heldBanks s c) k with
        | none => pure ()
        | some p => do
          freeABank c
          change (fun s => updDie s d (fun x => { x with stealLast := sset 0 x.stealLast v q }))
          match k.launch with
          | some l => logChoice l 1 d v q
          | none => pure ()
          let b ← pickBank c
          startTask t c b p) s

/-! ### Pre-emption (05 R123, R124, Table 8) -/

/-- An eligible idle core of the die can take the task through Table 5 or Table 7. -/
def takenElsewhere (s : State) (t : Nat) (k : Task) : Bool :=
  ((List.range 64).map (64 * k.die + ·)).any (fun c =>
    (coreOf s c).active.isNone &&
      ((queuedFor s c (heldBanks s c)).any (fun e => e.1 == t) ||
        (List.range 8).any (fun v => v != coreCluster c && (stealable s c v).any (fun e => e.1 == t))))

/-- The lowest run of `n` free units that overlaps the fewest of the victim's. -/
def leastRun (held victim : Nat → Bool) (n total : Nat) : Option Nat :=
  let cost := fun (a : Nat) => ((List.range n).filter (fun i => victim (a + i))).length
  ((List.range (total + 1)).filter (fun a => a + n ≤ total && (List.range n).all (fun i => !held (a + i)))).foldl (fun b a =>
    match b with
    | none => some a
    | some x => if cost a < cost x then some a else some x) none

/-- The partition an incoming task gets at a victim, whose other shadows `keep` theirs, and its overlap with the victim's. -/
def incomingPart (s : State) (c b : Nat) (keep : List Nat) (k : Task) : Option (Part × Nat) :=
  let race := taskRaced s k
  let v := (bankOf s c b).part
  let held := fun (n : Nat) => slotHeld s c keep n || (race && slotHeld s c keep (n + 128))
  let count := fun (p : Part) => ((p.slots false).filter v.hasSlot).length + (p.tiles.filter v.hasTile).length
  match k.fixed with
  | some p => if partFree s c keep race p then some (p, count p) else none
  | none =>
    match leastRun held v.hasSlot k.sdem (if race then 128 else 256), leastRun (tileHeld s c keep) v.hasTile k.cdem 64 with
    | some a, some e =>
      let p : Part := { s0 := a, sn := k.sdem, c0 := e, cn := k.cdem }
      some (p, count p)
    | _, _ => none

/-- A candidate victim: its core, its key by Table 8, the incoming partition. -/
def victimAt (s : State) (k : Task) (c : Nat) : Option (List Nat × Nat × Part) :=
  match (coreOf s c).active with
  | none => none
  | some b =>
    match (bankOf s c b).task.bind (taskOf s) with
    | none => none
    | some v =>
      let full := (freeBankOf s c).isNone
      let shadows := (coreOf s c).shadows
      let keep := if full then shadows.drop 1 else shadows
      let drawn := match drawnCore s k with
        | some n => n == coreLocal c
        | none => true
      if v.prio < k.prio && onCore k c && drawn && !(bankOf s c b).window && (coreOf s c).preReq.isNone &&
          (!full || (freePos s c).isSome) then
        (incomingPart s c b keep k).map (fun q => ([v.prio, if full then 1 else 0, q.2, s.nextId - v.start, c], c, q.1))
      else none

/-- PRE_EMPTION_VICTIM: a ready task that no core can take asks for PREEMPT at the best victim. -/
def execPreEmptionVictim (t : Nat) (s : State) : Host.Outcome State Fault Refusal :=
  asStep (do
    needs (shepherdsRun (← state)) "the shepherds place no task"
    let die := ((taskOf (← state) t).map (fun k => k.die)).getD 0
    refill die
    let s ← state
    let k ← need (taskOf s t) "no such task"
    needs (isQueued k && !takenElsewhere s t k) "the task does not pre-empt"
    let asked := ((List.range 64).map (64 * k.die + ·)).any (fun c => (coreOf s c).preReq.any (fun r => r.1 == t))
    needs (!asked) "a victim has been asked for already"
    let all := ((List.range 64).map (64 * k.die + ·)).filterMap (victimAt s k)
    match all.foldl (fun b e =>
        match b with
        | none => some e
        | some f => if e.1 < f.1 then some e else some f) (none : Option (List Nat × Nat × Part)) with
    | none => cannot "no victim: the task waits"
    | some (_, c, p) => change (fun s => updCore s c (fun q => { q with preReq := some (t, p) }))) s

/-- The incoming task starts beside the shadow that its victim has become, where the units it gets are still free of the core's other
shadows. -/
def startIncoming (c b t : Nat) (p : Part) : Act Unit := do
  let s ← state
  change (fun s => updCore s c (fun q => { q with preReq := none }))
  match taskOf s t with
  | none => pure ()
  | some k =>
    if isQueued k && partFree s c ((heldBanks s c).filter (· != b)) (taskRaced s k) p then do
      let n ← pickBank c
      startTask t c n p

/-- PREEMPT at the core's instruction boundary, after the traps due there and those of the instruction itself: the engines stop, the victim becomes a
resident shadow, the older shadow streams out where its bank is needed, and the incoming task starts (05 R124; 09 R245, R248). -/
def execPreempt (core : BitVec 8) (s : State) : Host.Outcome State Fault Refusal :=
  asStep (do
    let c := core.toNat
    let s ← state
    let k := coreOf s c
    let b ← need k.active "no task runs on the core"
    let q := bankOf s c b
    needs (q.leaving || k.preReq.isSome) "no PREEMPT is requested"
    let ends := match q.task with
      | some t => taskEnds s t
      | none => false
    waitUntil (enginesRun s && q.miss.isNone && (q.leaving || (q.pend.isEmpty && q.checked && !q.window && !s.pm.hup && !ends)))
    stopCopies c b
    match k.preReq with
    | none => leaveCore c b
    | some (t, p) => do
      freeABank c
      leaveCore c b
      if (coreOf (← state) c).active.isNone then startIncoming c b t p) s

end Sys2Proof.Machine
end

