-- ==== Sys2Proof/Machine/Guards.lean ====
section
/-!
DEFINITION. The guards of a replayed task (06 R148, R149): GUARD_SHAPE, GUARD_HEALTH, GUARD_BRANCH.
-/

namespace Sys2Proof.Machine

/-- A task that replays an entry, with its launch. -/
structure Guarded where
  w : Who
  cur : Cursor
  l : Nat
deriving DecidableEq, Repr

def guardedTask (c : Nat) : Act Guarded := do
  let s ← state
  let w ← need (whoRuns s c) "no task runs on the core"
  let b := bankOf s c w.bank
  let cur ← need b.cursor "the task replays no entry"
  waitUntil (enginesRun s && !b.frozen && b.miss.isNone && b.pend.isEmpty && !b.leaving)
  pure { w := w, cur := cur, l := w.launch.getD 0 }

/-- The guard slots of the task: number and slot, none for one that cannot be read. -/
def guardSlots (g : Guarded) : Act (Option (BodyHead × List (Nat × Option BodyGuard))) := do
  match ← bodyHead g.w.ctx g.cur.body with
  | none => pure none
  | some h =>
    match ← bodyTask g.w.ctx g.cur.body h g.cur.task with
    | none => pure none
    | some k => do
      let mut r : List (Nat × Option BodyGuard) := []
      for i in List.range k.gcnt do
        r := r ++ [(k.gfirst + i, ← bodyGuard g.w.ctx g.cur.body h (k.gfirst + i))]
      pure (some (h, r))

def setCursor (g : Guarded) (f : Cursor → Cursor) : Act Unit := change (fun s => updCursor s g.w f)

/-- GUARD_SHAPE: before the first entry issues, the hash of the objects that the task's CMD entries name is compared with
GVAL; a slot of a reserved kind, or that cannot be read, fails (06 R148, R149). -/
def execGuardShape (core : BitVec 8) (s : State) : Host.Outcome State Fault Refusal :=
  asStep (do
    let g ← guardedTask core.toNat
    needs (!g.cur.shapeOk) "the shape guard has passed"
    match ← guardSlots g with
    | none => guardFailsEarly g.l g.w.task 0xFFFF
    | some (_, slots) => do
      let hash ← shapeHash g.w.ctx (objectsOf (← wholeOf g.w.ctx g.cur))
      let bad := slots.find? (fun e =>
        match e.2 with
        | none => true
        | some k => (k.kind == 1 && hash != some k.gval) || k.kind == 0 || 4 ≤ k.kind)
      match bad with
      | some e => guardFailsEarly g.l g.w.task e.1
      | none => setCursor g (fun q => { q with shapeOk := true })) s

/-- The engine health mask of a core: sticky data errors, or failed marks (06 R148). -/
def healthMask (s : State) (c : Nat) : BitVec 3 := (coreOf s c).derr.setWidth 3 ||| (coreOf s c).failed

/-- GUARD_HEALTH: before the first entry issues, no engine that the task uses is marked in the health mask. -/
def execGuardHealth (core : BitVec 8) (s : State) : Host.Outcome State Fault Refusal :=
  asStep (do
    let g ← guardedTask core.toNat
    needs (!g.cur.healthOk) "the health guard has passed"
    match ← guardSlots g with
    | none => guardFailsEarly g.l g.w.task 0xFFFF
    | some (_, slots) => do
      let mask := healthMask (← state) g.w.core
      let bad := slots.find? (fun e =>
        match e.2 with
        | some k => k.kind == 3 && (mask &&& k.gval.setWidth 3) != 0
        | none => false)
      match bad with
      | some e => guardFailsEarly g.l g.w.task e.1
      | none => setCursor g (fun q => { q with healthOk := true })) s

/-- Every entry of the task before END has retired. -/
def beforeEnd (g : Guarded) : Act Bool := do
  let s ← state
  let b := bankOf s g.w.core g.w.bank
  match ← restOf g.w.ctx g.cur with
  | none => pure false
  | some qs =>
    pure (qs.all (fun q => match q.head? with
      | some e => entryKind e == 5
      | none => false) && b.queues.isEmpty && b.tokens.isEmpty && (programsOf s g.w.task).isEmpty)

/-- The value a branch guard loads: bytes of memory, or of S in the partition. -/
def guardValue (g : Guarded) (k : BodyGuard) : Act Word := do
  let n := k.gw.toNat % 16
  let bs ← if k.gw.getLsbD 7 then do
      let p := partOf (← state) g.w
      requireOpen (k.addr.toNat + n ≤ 2048 * p.sn) .protection
      pure (readS (← state) g.w.core p k.addr.toNat n)
    else reachBytes g.w k.addr n 0 .rd
  pure (if k.gw.getLsbD 5 then sext (8 * n) (leNat bs) else BitVec.ofNat 64 (leNat bs))

/-- The guard's compare comes out as it did in the recording. -/
def branchHolds (k : BodyGuard) (v : Word) : Bool :=
  let c := BitVec.ofNat 3 k.cond
  (if k.gw.getLsbD 6 then condHolds c k.gval v else condHolds c v k.gval) == k.gw.getLsbD 4

/-- The task's control program starts at FAILPC in the state of a task start (05 R109; 06 R149 step 2). -/
def runLive (g : Guarded) (pc : Word) (cur : Option Cursor) : Act Unit := do
  match taskOf (← state) g.w.task with
  | none => pure ()
  | some k => do
    change (fun s =>
      beginRegs s g.w.core g.w.bank { startRegs (regsOf s g.w.core g.w.bank) k.record k.recAddr with pc := enterAt pc })
    change (fun s => updBank s g.w.core g.w.bank (fun b => { b with cursor := cur }))

/-- The first entry of a variant's body, when it is the tail that the running task now runs live. -/
def tailCursor (l : Nat) : Act (Option Cursor) := do
  match launchOf (← state) l with
  | none => pure none
  | some q =>
    match q.replay with
    | none => pure none
    | some r =>
      match ← bodyHead q.ctx r.body with
      | none => pure none
      | some h =>
        match ← bodyTask q.ctx r.body h 0 with
        | none => pure none
        | some e => do
          let c ← cursorAt q.ctx r.body r.version h e 0 0
          pure (if e.tail then some { c with live := true, shapeOk := true, healthOk := true, branchOk := true } else none)

/-- A branch guard has failed: the recorded retirement is discarded and the task runs live from FAILPC; replay goes on in the
forked variant, from which the tasks that wait for their place go on and the others become ready from the next retirement on, or the remainder passes to the shepherd and is recorded from the
task's tail on (06 R149). -/
def guardFailsLate (g : Guarded) (slot : Nat) (pc : Word) : Act Unit := do
  leaveLoaded g.l g.cur.body
  match ← variantFor g.l slot with
  | some e => do
    moveVariant g.l g.w.task e []
    let cur ← tailCursor g.l
    if cur.isSome then
      noteStarted g.l 0
      change (fun s => updTask s g.w.task (fun k => { k with repEntry := 1 }))
    runLive g pc cur
  | none => do
    passRemainder g.l slot
    runLive g pc none
    change (fun s => updTask s g.w.task (fun k => { k with repEntry := 0 }))
    change (fun s => recStart s g.w.task g.w.core (bankOf s g.w.core g.w.bank).part true)

/-- GUARD_BRANCH: once every entry before END has retired, the loaded value is compared under COND with GVAL and the outcome
with the recorded one. A load that misses or traps is the starter's (13 R337; 06 R151). -/
def execGuardBranch (core : BitVec 8) (s : State) : Host.Outcome State Fault Refusal :=
  asStep (do
    let g ← guardedTask core.toNat
    needs (!g.cur.branchOk && !g.cur.live) "the task has no branch guard to pass"
    waitUntil (← beforeEnd g)
    match ← guardSlots g with
    | none => guardFailsEarly g.l g.w.task 0xFFFF
    | some (_, slots) => do
      let m : Strm := { w := g.w, cur := g.cur, l := g.l, k := 0, pos := 0 }
      let check := do
        let mut bad : Option (Nat × Word) := none
        for e in slots do
          match e.2 with
          | some k =>
            if k.kind = 2 && bad.isNone then
              let v ← guardValue g k
              if !branchHolds k v then bad := some (e.1, k.failPc)
          | none => pure ()
        match bad with
        | some (slot, pc) => guardFailsLate g slot pc
        | none => setCursor g (fun q => { q with branchOk := true })
      tryCatch check (fun x =>
        match x with
        | .trap t info => starterTrap m t info none
        | .miss y => starterTrap m .translation none (some y)
        | x => throw x)) s

end Sys2Proof.Machine
end

