-- ==== Sys2Proof/Machine/Power.lean ====
section
/-!
DEFINITION. Power states (01 R15 to R22), reset and configuration (03 R56, R57; 01 R14), power fail and the hold-up save (04 R83 to
R97).
-/

namespace Sys2Proof.Machine

/-! ### PM_CMD (01 R16 to R18; 03 R56; 04 R96) -/

/-- The fields of PM_CMD (01 Table 5). -/
def pmTag (w : Word) : BitVec 16 := w.extractLsb' 16 16
def pmClk (w : Word) : BitVec 8 := w.extractLsb' 8 8
def pmTarget (w : Word) : Nat := fld w 0 3

/-- The state a target code names. -/
def targetState : Nat → PState
  | 0 => .run
  | 1 => .idle
  | 2 => .hold
  | _ => .off

/-- The transitions of 01 Table 4. -/
def allowed : PState → PState → Bool
  | .run, .run | .run, .idle | .idle, .run | .idle, .hold | .hold, .idle => true
  | .idle, .off | .hold, .off | .trip, .idle | .trip, .off => true
  | _, _ => false

/-- The result code a PM_CMD write is refused with, none when its transition starts. -/
def pmRefusal (s : State) (w : Word) : Option (BitVec 3) :=
  let p := s.pm
  let dst := targetState (pmTarget w)
  if p.hup then some 5
  else if !s.host.cfgd then some 1
  else if p.busy then some 3
  else if fld w 32 32 != 0 || fld w 3 5 != 0 || 3 < pmTarget w || (dst == .run && 17 < (pmClk w).toNat) then some 2
  else if !allowed p.st dst then some 1
  else if p.st == .trip && dst == .idle && p.tcause.getLsbD 7 then some 4
  else none

/-- A write of PM_CMD. -/
def pmCommand (w : Word) (s : State) : State :=
  match pmRefusal s w with
  | some r => { s with pm := { s.pm with ltag := pmTag w, res := r } }
  | none => { s with pm := { s.pm with busy := true, pend := some (targetState (pmTarget w), pmClk w, pmTag w) } }

/-- A PM_CMD write with TGT 0 (01 R16). -/
def execPmCmdRun (w : Word) (s : State) : Host.Outcome State Fault Refusal := .next (pmCommand w s)

/-- TGT 1. -/
def execPmCmdIdle (w : Word) (s : State) : Host.Outcome State Fault Refusal := .next (pmCommand w s)

/-- TGT 2. -/
def execPmCmdHold (w : Word) (s : State) : Host.Outcome State Fault Refusal := .next (pmCommand w s)

/-- TGT 3. -/
def execPmCmdOff (w : Word) (s : State) : Host.Outcome State Fault Refusal := .next (pmCommand w s)

/-! ### What is lost and what stays (01 Table 3; 03 R56) -/

/-- Memory after a loss of state: the near tier is gone, a byte of the second tier holds its value or any other, the hold-up store, host
memory and the fabric pool stay. -/
def wipeMemory (n : Nat) (m : List Host.Cell) : List Host.Cell :=
  let near := fun (k : Nat) =>
    match rowOf k with
    | some (.near _) => true
    | _ => false
  ((Config.freeCells n).filter (fun e => rowOf e.1 == some .second)).foldl (fun m e => sset unlistedByte m e.1 e.2)
    (m.filter (fun e => !near e.1))

/-- Everything but the hold-up store and what lies outside the device is at its reset value. The agenda and the count of free values
are the model's own and go on (log 1, log 5). -/
def wipe (s : State) : State :=
  { State.reset with mem := wipeMemory s.fresh s.mem, fresh := s.fresh + 1, agenda := s.agenda, actor := s.actor, raised := s.raised }

/-- The device in OFF (01 Table 3). -/
def powerOff (s : State) : State := { wipe s with pm := { Power.reset with st := .off, supply := s.pm.supply } }

/-! ### Transitions (01 R13, R14, R16, R17) -/

/-- Every copy of every core stands at a micro-step boundary, or where its write phase stalls (14 R393). -/
def copiesAtBoundary (s : State) : Bool :=
  s.cores.all (fun e => e.2.banks.all (fun b => (sget [] b.2.queues 2).all (copyStopped s e.1 b.2)))

/-- A commanded transition completes. Units of monitors are reset through OFF with the rest (03 R81). -/
def execPowerTransitionComplete (s : State) : Host.Outcome State Fault Refusal :=
  asStep (do
    let s ← state
    let (dst, clk, tag) ← need s.pm.pend "no transition is in progress"
    waitUntil (dst == .run || copiesAtBoundary s)
    if dst == .off then change powerOff
    else change (fun s => { s with pm :=
      { s.pm with st := dst, clk := if dst == .run then clk else s.pm.clk, ltag := tag, res := 0, busy := false, pend := none } })) s

/-- The device enters TRIP, and abandons a transition in progress with result 4; a limit reached during the hold-up sequence interrupts
nothing (01 R15, R17, R19, R22). -/
def execTripEntry (cause : BitVec 7) (s : State) : Host.Outcome State Fault Refusal :=
  asStep (do
    let p := (← state).pm
    needs (cause != 0) "nothing has reached a limit"
    if p.hup || p.st == .off then pure ()
    else
      let old := if p.st == .trip then p.tcause else 0
      let p := match p.pend with
        | some (_, _, tag) => { p with ltag := tag, res := 4, busy := false, pend := none }
        | none => p
      change (fun s => { s with pm := { p with st := .trip, tcause := old ||| cause.setWidth 8 ||| 0x80 } })) s

/-- The limit that caused a trip is kept again (01 R19). -/
def execTripCauseCleared (s : State) : Host.Outcome State Fault Refusal :=
  asStep (do
    let p := (← state).pm
    needs (p.tcause.getLsbD 7) "no trip cause is present"
    change (fun s => { s with pm := { p with tcause := p.tcause &&& 0x7F } })) s

/-! ### Supply loss and the finalisation windows (01 R22; 04 R83 to R86) -/

/-- A checkpoint or restore in progress is abandoned (04 R86). -/
def abandonCkpt (k : Ckpt) : Ckpt := if k.busy then { k with busy := false, res := 4, pending := [] } else k

/-- Supply loss is detected: HUP, the hold-up sequence begins, a transition in progress is abandoned (01 R22). A loss once the supply
has come back only takes it away again. -/
def execSupplyLoss (s : State) : Host.Outcome State Fault Refusal :=
  asStep (do
    let p := (← state).pm
    needs (p.st != .off && p.supply) "the device has no supply"
    if p.st == .holdUp then change (fun s => { s with pm := { p with supply := false } })
    else do
      change (fun s => { s with pm :=
        { p with hup := true, st := .holdUp, lossState := p.st, supply := false, busy := false, pend := none, quiesced := false,
                 saved := false } })
      change (fun s => { s with ctxs := s.ctxs.map (fun e => (e.1, { e.2 with ckpt := abandonCkpt e.2.ckpt })) })) s

/-- POWER_FAIL is to be delivered to the context that runs on a core: none has been since the loss in RUN, and no switch or region
abort is in progress (04 R83). A keeper task that runs at HUP is such a context: 'keeper tasks are not run' is read of their start (log
90). -/
def powerFailDue (s : State) (c : Nat) : Option Nat :=
  if s.pm.st == .holdUp && s.pm.lossState == .run && !s.pm.quiesced then
    match (coreOf s c).active with
    | some b =>
      let k := bankOf s c b
      if k.task.isSome && !k.window && !k.frozen && !k.leaving && k.miss.isNone then some b else none
    | none => none
  else none

/-- POWER_FAIL is taken at the boundary, ahead of any other pending trap: the window opens, and the handler is entered where one is
set (04 R83, R84; 09 R244). -/
def takePowerFail (c b : Nat) : Act Unit := do
  let pc := (regsOf (← state) c b).pc
  takeTrap c b .powerFail (some 0) pc pc

/-- POWER_FAIL at a core (04 R83). -/
def execPowerFail (core : BitVec 8) (s : State) : Host.Outcome State Fault Refusal :=
  asStep (do
    let b ← need (powerFailDue (← state) core.toNat) "no POWER_FAIL is due on the core"
    takePowerFail core.toNat b) s

/-- The 20,000 cycles of a window are over (04 R84): which moment that is among the steps is free, since no cycle is counted. Engines
stop at their micro-step boundaries, and a region abort in progress ends there (R86). -/
def execFinalisationWindowEnd (core : BitVec 8) (s : State) : Host.Outcome State Fault Refusal :=
  asStep (do
    let c := core.toNat
    let s ← state
    let b ← need ((List.range bankCount).find? (fun b => (bankOf s c b).window)) "no window is open on the core"
    needs (s.pm.st == .holdUp) "the hold-up sequence does not run"
    stopCopies c b
    change (fun s => closeWindow s c b)) s

/-- A switch or a region abort is in progress on a core: it ends within the quiesce (04 R83). -/
def switching (k : Core) : Bool :=
  match k.active with
  | some b =>
    let q := sget Bank.reset k.banks b
    q.leaving || q.miss.isSome
  | none => false

/-- A window is open on some core, or still to be opened. -/
def windowsLeft (s : State) : Bool :=
  s.cores.any (fun e => (powerFailDue s e.1).isSome || e.2.banks.any (fun b => b.2.window) ||
    (s.pm.lossState == .run && switching e.2))

/-- Some context holds an admitted must-save set (04 R93). -/
def anySaveSet (s : State) : Bool := s.ctxs.any (fun e => e.2.save != [])

/-- What cores have issued has performed as far as it can: local accesses that nothing holds back, requests but for an stf or a logged
atomic that may wait for its turn, responses and tokens (04 R87; log 86). -/
def drained (s : State) : Bool :=
  let still := fun (c b : Nat) => (bankOf s c b).inflight.zipIdx.any (fun e => !e.1.remote && !e.1.log && mayPerform s c b e.2)
  s.net.resps.isEmpty && s.net.reqs.all (fun r => r.acc.log || r.kind == 2) &&
    s.cores.all (fun e => (List.range bankCount).all (fun b => !still e.1 b && (bankOf s e.1 b).tokens.isEmpty) &&
      e.2.streamed.all (fun x => x.saved.all (fun k => k.tokens.isEmpty)))

/-- An access that has not performed takes an entry of the ticket table as a parked one, so that the block shows it and it is issued
again (04 R87; log 86); a load for an operand queue is shown there. -/
def parkUnsent (k : Bank) (a : Access) : Bank :=
  let queued := k.loads.any (fun l => l.id == a.id && 48 ≤ l.spec)
  if !a.kind.ordered || queued || k.tickets.any (fun e => e.2.acc.id == a.id) then k
  else
    match freeTicket k with
    | none => k
    | some n =>
      let t : Ticket :=
        { ticket := 0, owner := BitVec.ofNat 2 (targetDie a.target), state := 2, disc := false, seq := 0, kind := requestKind a.kind,
          acc := a, orte := 0, cnt := [], replaying := false, busy := false }
      { k with tickets := aset k.tickets n t }

/-- The bank of a context as the save finds it. -/
def Bank.quiet (k : Bank) : Bank :=
  if k.task.isNone then k
  else
    let k := if k.frozen then k else k.freeze
    k.inflight.foldl parkUnsent k

/-- The quiesce ends: every context's state is frozen, in whatever state the loss came; collectives stop without a completion record;
with no must-save set there is nothing to save (04 R84, R86, R87, R93). -/
def execQuiesceEnd (s : State) : Host.Outcome State Fault Refusal :=
  asStep (do
    let s ← state
    needs (s.pm.st == .holdUp && !s.pm.quiesced) "no quiesce is in progress"
    waitUntil (!windowsLeft s && copiesAtBoundary s && drained s)
    change (fun s => { s with cores := s.cores.map (fun e =>
      (e.1, { e.2 with banks := e.2.banks.map (fun b => (b.1, b.2.quiet)) })) })
    change (fun s => { s with programs := [], pm := { s.pm with quiesced := true, saved := !anySaveSet s } })) s

/-! ### The save (04 R89, R91 to R95) -/

/-- First byte of the hold-up store, and of its records (04 R91). -/
def storeBase : Nat := 0xF000000000000
def recordBase : Nat := 0x100000

/-- A record to write: its place in the order of 04 R92, its header fields, its data, whether all of it translated. -/
structure SaveRec where
  order : List Nat
  ctx : Nat
  entry : Nat
  kind : Nat
  core : Nat
  source : Word
  data : List (Option Byte)
  whole : Bool
deriving DecidableEq, Repr

/-- The tasks of a context that run or are held in a resident shadow, in ascending core index, the running one first (04 R89). -/
def savedTasks (s : State) (x : Nat) : List (Nat × Nat × Nat) :=
  s.cores.flatMap (fun e =>
    let banks := match e.2.active with
      | some b => b :: e.2.shadows
      | none => e.2.shadows
    banks.filterMap (fun b =>
      match (bankOf s e.1 b).task with
      | some t =>
        match taskOf s t with
        | some k => if k.ctx = x then some (e.1, b, t) else none
        | none => none
      | none => none))

/-- `n` bytes of a list from `from_`, zero bytes beyond its end (04 R89). -/
def padded (l : List Byte) (from_ n : Nat) : List Byte :=
  let x := (l.drop from_).take n
  x ++ List.replicate (n - x.length) 0

/-- The data of a record of kind 1 to 3. -/
def taskData (s : State) (e : SaveEntry) (c b t : Nat) : List Byte :=
  let k := bankOf s c b
  if e.kind = 1 then contextBlock s c (bankOf s c b) t
  else if e.kind = 2 then padded (partSlots s c k) (2048 * e.first) (2048 * e.count)
  else padded (partTiles s c k) (65536 * e.first) (65536 * e.count)

/-- The 64 KiB granules of a range; fuel bounds their number. -/
def granules (fuel va n : Nat) : List (Nat × Nat) :=
  match fuel with
  | 0 => []
  | fuel + 1 =>
    if n = 0 then []
    else
      let len := Nat.min n (65536 - va % 65536)
      (va, len) :: granules fuel (va + len) (n - len)

/-- The bytes of a kind-4 entry; a granule that does not translate gives none (04 R95; 07 R162 from 2^56 on). -/
def rangeData (x : Nat) (k : Context) : List (Nat × Nat) → Act (List (Option Byte))
  | [] => pure []
  | (va, len) :: r => do
    let none_ := List.replicate len none
    let here ← if 2 ^ 56 ≤ va then pure none_ else
      match ← translate none 0 none x k va .rd with
      | .leaf l => do
        let s ← state
        pure ((readBytes s l.pa len).map some)
      | _ => pure none_
    pure (here ++ (← rangeData x k r))

/-- The records of one entry. -/
def entryRecords (x : Nat) (k : Context) (i : Nat) (e : SaveEntry) : Act (List SaveRec) := do
  let s ← state
  let at_ := fun (core j : Nat) => [7 - e.prio.toNat, x, i, core, j]
  if e.kind = 4 then do
    let d ← rangeData x k (granules (e.length / 65536 + 2) e.va e.length)
    pure [{ order := at_ 0 0, ctx := x, entry := i, kind := 4, core := 0, source := BitVec.ofNat 64 e.va, data := d,
            whole := d.all Option.isSome }]
  else
    pure (((savedTasks s x).take e.ntask).zipIdx.map (fun q =>
      let (c, b, t) := q.1
      let wid := match taskOf s t with
        | some k => k.record.wid
        | none => 0
      { order := at_ c q.2, ctx := x, entry := i, kind := e.kind.toNat, core := c, source := wid,
        data := (taskData s e c b t).map some, whole := true }))

def contextRecords (x : Nat) (k : Context) : List (SaveEntry × Nat) → Act (List SaveRec)
  | [] => pure []
  | e :: r => do
    let here ← entryRecords x k e.2 e.1
    pure (here ++ (← contextRecords x k r))

def allRecords : List (Nat × Context) → Act (List SaveRec)
  | [] => pure []
  | e :: r => do
    let here ← contextRecords e.1 e.2 e.2.save.zipIdx
    pure (here ++ (← allRecords r))

/-- A record takes its place in the order of 04 R92. -/
def insertRec (a : SaveRec) : List SaveRec → List SaveRec
  | [] => [a]
  | b :: r => if a.order < b.order then a :: b :: r else b :: insertRec a r

def sortRecs : List SaveRec → List SaveRec
  | [] => []
  | a :: r => insertRec a (sortRecs r)

/-- Bytes of a record in the store: header, data, commit word, rounded up to 32 (04 R91, R90). -/
def recSize (r : SaveRec) : Nat := (r.data.length + 40 + 31) / 32 * 32

/-- The records with their offsets in the store. -/
def placed : Nat → List SaveRec → List (Nat × SaveRec)
  | _, [] => []
  | o, r :: rs => (o, r) :: placed (o + recSize r) rs

/-- EPOCH: word 0 <63:32> of the directory (04 R94). -/
def epochOf (s : State) : Nat := fld (readWord s storeBase) 32 32

/-- Word 0 of the directory and of a record's header (04 R94). -/
def dirWord (epoch : Nat) : Word := BitVec.ofNat 64 (0x48495244 + epoch * 2 ^ 32)
def recWord (epoch : Nat) : Word := BitVec.ofNat 64 (0x48555052 + epoch * 2 ^ 32)

/-- A directory entry (04 R94). -/
def dirEntry (o : Nat) (r : SaveRec) : List Byte :=
  [BitVec.ofNat 8 r.ctx, BitVec.ofNat 8 r.entry, BitVec.ofNat 8 r.kind, BitVec.ofNat 8 r.core, 0, 0, 0, 0] ++ leBytes 8 o ++
    leBytes 8 r.data.length ++ List.replicate 8 0

/-- The directory with its commit word (04 R93, R94). -/
def directory (epoch : Nat) (l : List (Nat × SaveRec)) : List Byte :=
  wordBytes (dirWord epoch) ++ leBytes 8 l.length ++ List.replicate 40 0 ++ wordBytes (~~~(dirWord epoch)) ++
    l.flatMap (fun e => dirEntry e.1 e.2)

/-- A record's header (04 Table 3). -/
def recHeader (epoch : Nat) (r : SaveRec) : List Byte :=
  wordBytes (recWord epoch) ++ leBytes 8 (r.ctx + r.entry * 2 ^ 8 + r.kind * 2 ^ 16 + r.core * 2 ^ 24) ++ wordBytes r.source ++
    leBytes 8 r.data.length

/-- A record is written: header, data, then its commit word when all its data has been. -/
def writeRec (epoch : Nat) (s : State) (e : Nat × SaveRec) : State :=
  let a := storeBase + e.1
  let s := writeBytes s a (recHeader epoch e.2)
  let s := writeMasked s (a + 32) e.2.data
  if e.2.whole then writeWord s (a + 32 + e.2.data.length) (~~~(recWord epoch)) else s

/-- The save engine: EPOCH, the directory, the records in order (04 R93). -/
def execHoldUpSave (s : State) : Host.Outcome State Fault Refusal :=
  asStep (do
    let s ← state
    needs (s.pm.st == .holdUp && s.pm.quiesced && !s.pm.saved) "the save engine has nothing to do"
    let recs ← allRecords s.ctxs
    let l := placed recordBase (sortRecs recs)
    let epoch := (epochOf s + 1) % 2 ^ 32
    change (fun s => writeBytes s storeBase (directory epoch l))
    change (fun s => l.foldl (writeRec epoch) s)
    change (fun s => { s with pm := { s.pm with saved := true } })) s

/-- The sequence ends: SPENT with supply present, its management window still answering, OFF without (04 R96). -/
def execHoldUpSequenceEnd (s : State) : Host.Outcome State Fault Refusal :=
  asStep (do
    let s ← state
    needs (s.pm.st == .holdUp && s.pm.quiesced && s.pm.saved) "the hold-up sequence has not ended"
    if s.pm.supply then
      change (fun s => { wipe s with pm := { s.pm with st := .spent }, host := { s.host with ctxBusy := false, ctxPending := none } })
    else change powerOff) s

/-- Supply returns during the sequence, which goes on (04 R96). -/
def execSupplyRecovery (s : State) : Host.Outcome State Fault Refusal :=
  asStep (do
    let p := (← state).pm
    needs (p.st == .holdUp && !p.supply) "the device does not run on its reserve"
    change (fun s => { s with pm := { p with supply := true } })) s

/-! ### Reset and configuration (03 R56, R57) -/

/-- A reset: every register at its reset value, contexts, launches, near tier, S and C discarded, the hold-up store kept (03 R56). -/
def resetDevice (s : State) : State := wipe s

def execFundamentalReset (s : State) : Host.Outcome State Fault Refusal := .next (resetDevice s)

def execHotReset (s : State) : Host.Outcome State Fault Refusal := .next (resetDevice s)

def execFunctionLevelReset (s : State) : Host.Outcome State Fault Refusal := .next (resetDevice s)

/-- A write of CFG_CMD: with GO = 1 the check starts; while one runs or after acceptance it is ignored (03 R57,
Table 1a; 00 R3). -/
def cfgCommand (w : Word) (s : State) : State :=
  if s.host.cfgBusy || s.host.cfgd || !w.getLsbD 63 then s
  else { s with host := { s.host with cfgBusy := true, cfgLen := w.extractLsb' 0 27 } }

def execCfgCmdGo (w : Word) (s : State) : Host.Outcome State Fault Refusal := .next (cfgCommand w s)

/-- STATUS of the record a directory entry plans (04 R97): 1 whole, 2 torn, 3 absent. -/
def recStatus (s : State) (epoch off len : Nat) : Byte :=
  let a := storeBase + off
  if readWord s a != recWord epoch then 3
  else if readWord s (a + 24) == BitVec.ofNat 64 len && readWord s (a + 32 + len) == ~~~(recWord epoch) then 1
  else 2

/-- The classification of the current save (04 R97). -/
def classify (s : State) : State :=
  let w0 := readWord s storeBase
  if readWord s (storeBase + 56) != ~~~w0 then writeWord s (storeBase + 8) 0
  else
    let n := Nat.min (readWord s (storeBase + 8)).toNat 32766
    (List.range n).foldl (fun q i =>
      let e := storeBase + 64 + 32 * i
      let status := recStatus s (epochOf s) (readWord s (e + 8)).toNat (readWord s (e + 16)).toNat
      writeByte q (e + 4) status) s

/-- The image check finishes with the verdict of signature, format and stepping, or 3 for a length outside 1 to 2^26 (03 R57). -/
def execConfigurationCheckComplete (verdict : BitVec 4) (s : State) : Host.Outcome State Fault Refusal :=
  asStep (do
    let h := (← state).host
    let len := h.cfgLen.toNat
    let v := if 1 ≤ len && len ≤ 2 ^ 26 then verdict else 3
    needs (h.cfgBusy && !(← state).pm.hup) "no image is being checked"
    needs (1 ≤ v.toNat && v.toNat ≤ 4) "no such verdict"
    change (fun s => { s with host := { h with cfgBusy := false, cfgRes := v, cfgd := v == 1 } })
    if v = 1 then
      change (fun s => { s with pm := { s.pm with st := .idle, clk := 17 } })
      change classify) s

/-- The gang links have trained: the time base realigns, and the device has its place in the gang (01 R14; 03 R56, R57; 06 R156). -/
def execGangLinkTrainingComplete (tick : Word) (gidx : BitVec 6) (gsize : BitVec 7) (s : State) :
    Host.Outcome State Fault Refusal :=
  asStep (do
    let s ← state
    needs (s.host.cfgd && !s.gang.linksUp) "no links train"
    needs (2 ≤ gsize.toNat && gsize.toNat ≤ 64 && gidx.toNat < gsize.toNat) "no such place in a gang"
    change (fun s => { s with gang := { tick := tick, gidx := gidx, gsize := gsize, linksUp := true } })) s

end Sys2Proof.Machine
end

