-- ==== Sys2Proof/Machine/LaunchRead.lean ====
section
/-!
DEFINITION. The life of a launch: the header and the shape descriptor as the device reads and checks them (03 R64 to R66; 05 R106,
R107, R110 to R112, R126; 06 R135 to R139, R147, R158; 03 R422), and its completion (05 R130; 03 R67; 06 R138).
-/

namespace Sys2Proof.Machine

/-! ### The header (03 R65, R66) -/

/-- A launch header (03 Table 5). -/
structure Header where
  shape : Word
  seed : Word
  root : Word
  caddr : Word
  prio : BitVec 8
  policy : BitVec 8
  flags : BitVec 8
  vec : BitVec 8
  spart : Nat
  cpart : Nat
  widths : List (BitVec 8)
  tag : BitVec 32
  /-- the bytes not listed are zero -/
  clean : Bool
deriving DecidableEq, Repr

def headerOf (bs : List Byte) : Header :=
  let w := fun o => BitVec.ofNat 64 (fieldAt bs o 8)
  { shape := w 0, seed := w 8, root := w 0x10, caddr := w 0x18, prio := bs.getD 0x20 0, policy := bs.getD 0x21 0,
    flags := bs.getD 0x22 0, vec := bs.getD 0x23 0, spart := fieldAt bs 0x24 2, cpart := fieldAt bs 0x26 1,
    widths := (bs.drop 0x28).take 6, tag := BitVec.ofNat 32 (fieldAt bs 0x30 4),
    clean := fieldAt bs 0x27 1 == 0 && fieldAt bs 0x2E 2 == 0 && (bs.drop 0x34).all (· == 0) }

/-- Vector VEC is granted to the context. -/
def vecGranted (k : Context) (h : Header) : Bool := h.vec.toNat < 32 && k.vecMask.getLsbD h.vec.toNat

/-- The reasons 1 to 6 of 03 R66, the lowest that holds; a race-check launch has at most 128 slots a task (06 R160). -/
def headerReason (k : Context) (h : Header) : Option Nat :=
  if !h.clean || 7 < h.prio.toNat || 3 < h.policy.toNat || 7 < h.flags.toNat then some 1
  else if h.widths.any (fun w => 32 < w.toNat) || 64 < (h.widths.map BitVec.toNat).sum then some 2
  else if h.spart = 0 || k.maxS < h.spart || k.maxC < h.cpart || (h.flags.getLsbD 1 && 128 < h.spart) then some 3
  else if k.ceiling.toNat < h.prio.toNat then some 4
  else if h.flags.getLsbD 2 && !vecGranted k h then some 5
  else if h.shape.toNat % 64 != 0 || h.root.toNat % 64 != 0 || h.caddr.toNat % 16 != 0 then some 6
  else none

/-! ### The shape descriptor (05 R110, 06 R135) -/

structure Shape where
  ntask : Nat
  ovfq : Word
  ovflog : Nat
  stateArr : Word
  extp : Word
  next : Nat
  olog : Word
  ologn : Nat
  recmax : Word
deriving DecidableEq, Repr

def shapeOf (bs : List Byte) : Shape :=
  let w := fun o => BitVec.ofNat 64 (fieldAt bs o 8)
  { ntask := fieldAt bs 0 4, ovfq := w 8, ovflog := fieldAt bs 0x10 1, stateArr := w 0x18, extp := w 0x40,
    next := fieldAt bs 0x48 1, olog := w 0x50, ologn := fieldAt bs 0x58 1, recmax := w 0x60 }

/-- No reserved bit, no value out of range, no misaligned address (05 R111, 06 R135). -/
def shapeOk (bs : List Byte) : Bool :=
  let s := shapeOf bs
  1 ≤ s.ntask && s.ntask ≤ 65536 && fieldAt bs 4 4 == 0 && s.ovfq.toNat % 64 == 0 && s.ovflog < 32 &&
    (s.ovfq == 0 || (4 ≤ s.ovflog && s.ovflog ≤ 20)) && fieldAt bs 0x11 7 == 0 && s.stateArr.toNat % 4 == 0 &&
    fieldAt bs 0x20 32 == 0 && s.extp.toNat % 8 == 0 && s.next ≤ 8 && (s.next != 0 || s.extp == 0) && fieldAt bs 0x49 7 == 0 &&
    s.olog.toNat % 8 == 0 && s.ologn < 32 && (s.olog == 0 || (8 ≤ s.ologn && s.ologn ≤ 24)) && fieldAt bs 0x59 7 == 0 &&
    s.recmax.toNat % 64 == 0 && fieldAt bs 0x68 24 == 0

/-- The shape descriptor and its extent words; none is reason 7 (05 R111). -/
def readShape (x : Nat) (h : Header) : Act (Option (Shape × List Word)) := do
  match ← devRead x h.shape.toNat 128 with
  | .error _ => pure none
  | .ok bs =>
    let s := shapeOf bs
    if !shapeOk bs then pure none
    else
      let n := s.next * s.ntask
      let ext ← if n = 0 then pure (.ok []) else devRead x s.extp.toNat (8 * n)
      match ext with
      | .error _ => pure none
      | .ok es =>
        let a ← devBoth x s.stateArr.toNat (4 * s.ntask)
        let b ← if s.ovfq = 0 then pure true else devBoth x s.ovfq.toNat (64 * 2 ^ s.ovflog)
        let c ← if s.olog = 0 then pure true else devBoth x s.olog.toNat (8 + 8 * 2 ^ s.ologn)
        if a && b && c then pure (some (s, (List.range n).map (fun i => leWord ((es.drop (8 * i)).take 8)))) else pure none

/-- A static record with its successor list; none is reason 8 (05 R111). -/
def readStatic (x : Nat) (k : Context) (h : Header) (s : Shape) (i : Nat) : Act (Option (Record × List Nat)) := do
  match ← devRead x (h.root.toNat + 64 * i) 64 with
  | .error _ => pure none
  | .ok bs =>
    let r := recordOf bs
    if !recordOk bs || (i = 0 && r.depcnt != 0) || k.maxS < recordS r h.spart || k.maxC < recordC r h.cpart then pure none
    else if r.nsucc = 0 then pure (some (r, []))
    else
      match ← devRead x r.dlist.toNat (2 * r.nsucc) with
      | .error _ => pure none
      | .ok ls =>
        let ss := (List.range r.nsucc).map (fun j => fieldAt ls (2 * j) 2)
        if ss.all (fun j => j < s.ntask) then pure (some (r, ss)) else pure none

def readStatics (x : Nat) (k : Context) (h : Header) (s : Shape) : List Nat → Act (Option (List (Record × List Nat)))
  | [] => pure (some [])
  | i :: r => do
    match ← readStatic x k h s i with
    | none => pure none
    | some e =>
      match ← readStatics x k h s r with
      | none => pure none
      | some es => pure (some (e :: es))

/-- The shape hash (06 R136). -/
def launchHash (h : Header) (s : Shape) (rs : List (Record × List Nat)) (ext : List Word) : Word :=
  let n := fun (v : Nat) => BitVec.ofNat 64 v
  let h0 := sieve 0 (n (s.ntask + s.next * 2 ^ 32))
  let widths := (h.widths.zipIdx.map (fun e => e.1.toNat * 2 ^ (8 * e.2))).sum
  let h1 := sieve h0 (n (widths + (h.spart - 1) * 2 ^ 48 + h.cpart * 2 ^ 56))
  rs.zipIdx.foldl (fun v e =>
    let r := e.1.1
    let first := [r.entry, r.arg, n (r.depcnt + r.nsucc * 2 ^ 16 + r.sdem.toNat * 2 ^ 32 + r.cdem.toNat * 2 ^ 48 + r.prio.toNat * 2 ^ 56),
      r.flags.setWidth 64]
    let words := first ++ e.1.2.map n ++ (ext.drop (s.next * e.2)).take s.next
    words.foldl sieve v) h1

/-! ### The launch -/

/-- A launch as its header, shape descriptor and records give it. -/
def newLaunch (x seq : Nat) (k : Context) (h : Header) (s : Shape) (rs : List (Record × List Nat)) (hash : Word) : Launch :=
  { ctx := x, seq := seq, shape := h.shape, seed := h.seed, root := h.root, caddr := h.caddr, prio := h.prio.setWidth 3,
    policy := h.policy, determ := h.flags.getLsbD 0, race := h.flags.getLsbD 1, notify := h.flags.getLsbD 2 && vecGranted k h,
    vec := h.vec.setWidth 5, spart := h.spart, cpart := h.cpart, widths := h.widths, tag := h.tag, ntask := s.ntask,
    ovfq := s.ovfq, ovflog := s.ovflog, stateArr := s.stateArr, extp := s.extp, next := s.next, olog := s.olog, ologn := s.ologn,
    recmax := s.recmax.toNat, hash := hash, loans := 0, returned := 0, ending := none, ovfTail := 0, logCount := 0,
    logs := false, forceCount := 0, forceAt := s.olog + 8, occ := [], recording := none, replay := none, loaded := [], statics := rs.map (·.1),
    succs := rs.map (·.2) }

/-- A launch of which only the header is known: rejected, or aborted before it is read. -/
def headerLaunch (x seq : Nat) (k : Context) (h : Header) : Launch :=
  newLaunch x seq k h { ntask := 0, ovfq := 0, ovflog := 0, stateArr := 0, extp := 0, next := 0, olog := 0, ologn := 0, recmax := 0 } [] 0

/-- A launch is rejected: it runs no task (03 R66). -/
def rejectLaunch (x seq : Nat) (k : Context) (h : Header) (reason : Nat) : Act Unit :=
  completionRecord (headerLaunch x seq k h) 2 (BitVec.ofNat 8 reason)

/-- Address of a queued header (03 R63). -/
def headerAddr (k : Context) (seq : Nat) : Nat := k.sqBase.toNat + 256 * (seq % 2 ^ k.sqLog)

/-- The state array at launch: DEPCNT and state 0 in every entry (05 R112). -/
def initStates (q : Launch) : Act (Except DevFail Unit) :=
  devWrite q.ctx q.stateArr.toNat (q.statics.flatMap (fun r => stateWord r.depcnt 0))

/-- The order log is logged, or the first COUNT entries of an earlier run are forced (06 R158). -/
def startLog (l : Nat) : Act Unit := do
  match launchOf (← state) l with
  | none => pure ()
  | some q =>
    if q.determ && q.olog != 0 then
      match ← devReadWord q.ctx q.olog.toNat with
      | .error e => deviceFailEnds l e
      | .ok n => change (fun s => updLaunch s l (fun q =>
          { q with logs := n == 0, forceCount := Nat.min n.toNat (2 ^ q.ologn) }))

/-- The root variant of a hash (06 R137). -/
def rootVariant (hash : Word) (es : List StarterEntry) : Option StarterEntry :=
  es.find? (fun e => e.valid && e.hash == hash && !e.forked)

/-- Every entry of the hash becomes invalid, each by a whole-sector store (06 R137, R138). -/
def invalidateHash (q : Launch) (k : Context) (es : List StarterEntry) : Act Unit := do
  for e in es.zipIdx do
    if e.1.valid && e.1.hash == q.hash then
      match ← devRead q.ctx (starterAddr k q.hash e.2) 32 with
      | .error _ => pure ()
      | .ok bs =>
        let _ ← devWrite q.ctx (starterAddr k q.hash e.2) (bs.take 8 ++ wordBytes (e.1.body &&& ~~~1) ++ bs.drop 16)

/-- Replay starts with an entry: USERS rises, the body's order log is forced, in place of the launch's own where it has entries (06 R147;
log 80). It answers whether it did. -/
def startReplay (l : Nat) (q : Launch) (e : StarterEntry) : Act Bool := do
  match ← bodyHead q.ctx e.bodyAddr with
  | none => pure false
  | some h => do
    addUsers q.ctx e.bodyAddr 1
    let r : Replay :=
      { body := e.bodyAddr, version := e.version, variant := e.var.setWidth 3, sems := [], started := [], retired := [], passed := false,
        earlier := [] }
    change (fun s => updLaunch s l (fun q => { q with replay := some r }))
    if q.determ && h.determ && h.nl != 0 then
      change (fun s => updLaunch s l (fun q =>
        { q with forceCount := h.nl, forceAt := e.bodyAddr + BitVec.ofNat 64 (logOff h) }))
    pure true

/-- What the policy makes of the launch (06 R138): it answers whether the launch replays. -/
def startPolicy (l : Nat) (k : Context) : Act Bool := do
  match launchOf (← state) l with
  | none => pure false
  | some q =>
    if q.policy = 0 then pure false
    else do
      let set ← starterSet q.ctx q.hash
      let root := set.bind (rootVariant q.hash)
      let replays ← match root with
        | some e => if q.policy = 1 then pure false else startReplay l q e
        | none => pure false
      if replays then pure true
      else do
        if q.policy = 1 && root.isSome then invalidateHash q k (set.getD [])
        if q.policy != 2 then startRecording l false 0 0
        pure false

/-- The static tasks without predecessors become ready (05 R112, R114). -/
def startStatics (l : Nat) (rs : List (Record × List Nat)) : Act Unit := do
  for e in rs.zipIdx do
    if e.1.1.depcnt = 0 then
      let _ ← readyStatic l e.2 (e.2 % 4) (e.2 / 4 % 8)

/-- Where the body of a replay proved unreadable at launch start, the static tasks without predecessors that it has not started
become ready as in a dynamic run (06 R148, R149 step 4). -/
def startLeft (l : Nat) (rs : List (Record × List Nat)) : Act Unit := do
  for e in rs.zipIdx do
    match launchOf (← state) l with
    | none => pure ()
    | some q =>
      if q.replay.any (fun r => r.passed) && e.1.1.depcnt = 0 then
        match ← readStateEntry q e.2 with
        | .ok (_, 0) =>
          let _ ← readyStatic l e.2 (e.2 % 4) (e.2 / 4 % 8)
        | .ok _ => pure ()
        | .error f => deviceFailEnds l f

/-- A launch that passed every check starts. -/
def startLaunch (k : Context) (q : Launch) (rs : List (Record × List Nat)) : Act Unit := do
  let l ← newId
  change (fun s => { s with launches := aset s.launches l q })
  match ← initStates q with
  | .error e => deviceFailEnds l e
  | .ok _ => do
    startLog l
    if (← startPolicy l k) then do
      readyEntries l none
      startLeft l rs
    else startStatics l rs

/-- The first queued header of a context is read, checked, and the launch starts or is rejected. A header that cannot be read
runs no task and writes no completion record (03 R64, R66, R422; 05 R111; 06 R137). -/
def execLaunchRead (ctx : BitVec 6) (s : State) : Host.Outcome State Fault Refusal :=
  asStep (do
    let x := ctx.toNat
    let s ← state
    waitUntil (shepherdsRun s)
    let k ← need (ctxOf s x) "the context is not live"
    let seq ← need k.queued.head? "no launch is queued"
    change (fun s => updCtx s x (fun k => { k with queued := k.queued.drop 1 }))
    match ← devRead x (headerAddr k seq) 256 with
    | .error e => do
      change (fun s => updCtx s x (fun k => { k with freed := k.freed + 1 }))
      devFaultRecord x 0 e
    | .ok bs =>
      let h := headerOf bs
      match headerReason k h with
      | some r => rejectLaunch x seq k h r
      | none =>
        match ← readShape x h with
        | none => rejectLaunch x seq k h 7
        | some (sh, ext) =>
          match ← readStatics x k h sh (List.range sh.ntask) with
          | none => rejectLaunch x seq k h 8
          | some rs =>
            if h.policy != 0 && (k.sstore == 0 || (h.policy != 2 && k.arena == 0)) then rejectLaunch x seq k h 9
            else startLaunch k (newLaunch x seq k h sh rs (launchHash h sh rs ext)) rs) s

/-! ### Completion (05 R130; 03 R67; 06 R138, R147) -/

/-- The weight a launch has out (05 R126, R130). -/
def fullWeight (q : Launch) : Nat := 2 ^ 63 + q.loans.toNat * 2 ^ 32

/-- The returned total has reached the whole weight: STATUS 0, then the recording is published. -/
def execLaunchComplete (l : Nat) (s : State) : Host.Outcome State Fault Refusal :=
  asStep (do
    let s ← state
    waitUntil (shepherdsRun s)
    let q ← need (launchOf s l) "no such launch"
    needs (q.returned = fullWeight q) "the launch has weight out"
    change (fun s => (launchTasks s l).foldl dropTask s)
    leaveBody l
    completionRecord q 0 0
    publish l
    change (fun s => { s with launches := adel s.launches l })) s

end Sys2Proof.Machine
end

