-- ==== Sys2Proof/Machine/Contexts.lean ====
section
/-!
DEFINITION. Contexts (03 R58 to R61), the must-save declaration and its admission (04 R88, R90), CTX_CMD.
-/

namespace Sys2Proof.Machine

/-! ### The descriptor (03 Table 2) -/

/-- Two addresses lie in one row of 07 Table 1: the near tier of all dies is one, and each I/O die's second tier one. -/
def sameRow (a b : Nat) : Bool :=
  ((nearDie a).isSome && (nearDie b).isSome) ||
    ((rowOf a).isSome && rowOf a == rowOf b && (rowOf a != some .second || (a < 0x120000000000) == (b < 0x120000000000)))

/-- The heap window's fields (07 R166). -/
def heapOk (base limit off hat : Word) : Bool :=
  let b := base.toNat
  let n := limit.toNat
  b % 0x200000 == 0 && n % 0x200000 == 0 && off.toNat % 0x200000 == 0 && n ≤ 2 ^ 46 && b + n ≤ 2 ^ 56 &&
    hat.toNat % 4096 == 0 && hat.toNat < 2 ^ 52 &&
    (n == 0 || sameRow ((b + off.toNat) % 2 ^ 64) ((b + off.toNat + n - 1) % 2 ^ 64))

/-- The notification page lies in the near tier, the second tier or host memory (03 R75). -/
def npageOk (p : Word) : Bool :=
  p.toNat % 4096 == 0 && (match rowOf p.toNat with
    | some (.near _) | some .second | some .host => true
    | _ => false)

/-- The 512 bytes of a descriptor hold no reserved bit and no value out of range (03 R58, R60; 06 R137, R139; 13 R375). -/
def descriptorOk (bs : List Byte) : Bool :=
  let w := fun o => BitVec.ofNat 64 (fieldAt bs o 8)
  let aligned := fun (o n : Nat) => (w o).toNat % n == 0
  fld (w 0) 8 56 == 0 && aligned 0x08 4096 && (w 0x08).toNat < 2 ^ 52 && heapOk (w 0x10) (w 0x18) (w 0x20) (w 0x28) &&
    aligned 0x30 128 && 1 ≤ (w 0x38).toNat && (w 0x38).toNat ≤ 65536 && aligned 0x40 256 && 4 ≤ (w 0x48).toNat &&
    (w 0x48).toNat ≤ 16 && aligned 0x50 32 && 4 ≤ (w 0x58).toNat && (w 0x58).toNat ≤ 16 && npageOk (w 0x60) &&
    fld (w 0x68) 32 32 == 0 && aligned 0xB8 64 && aligned 0xC0 32768 && aligned 0xC8 64 && fld (w 0xD0) 9 7 == 0 &&
    fld (w 0xD0) 23 41 == 0 && fld (w 0xD0) 0 9 ≤ 256 && fld (w 0xD0) 16 7 ≤ 64 && aligned 0xD8 64 &&
    (bs.drop 0xE0).all (· == 0)

/-- A new context of a descriptor, with no must-save set yet: last accepted TAIL and launch sequence number 0 (03 R63). -/
def contextOf (bs : List Byte) : Context :=
  let w := fun o => BitVec.ofNat 64 (fieldAt bs o 8)
  { domain := (w 0).setWidth 4, ceiling := BitVec.ofNat 3 (fld (w 0) 4 3), keeper := (w 0).getLsbD 7, ptRoot := w 0x08,
    heapBase := w 0x10, heapLimit := w 0x18, heapOff := w 0x20, hat := w 0x28, objBase := w 0x30, objCnt := (w 0x38).toNat,
    sqBase := w 0x40, sqLog := (w 0x48).toNat, fqBase := w 0x50, fqLog := (w 0x58).toNat, npage := w 0x60,
    vecMask := (w 0x68).setWidth 32, foldMask := BitVec.ofNat 256 (fieldAt bs 0x70 32), ctrMask := BitVec.ofNat 256 (fieldAt bs 0x90 32),
    monMask := w 0xB0, seqTab := w 0xB8, sstore := w 0xC0, arena := w 0xD8, maxS := fld (w 0xD0) 0 9, maxC := fld (w 0xD0) 16 7,
    save := [], lastTail := 0, launchSeq := 0, freed := 0, queued := [], ckpt := Ckpt.reset }

/-! ### The must-save declaration (04 R88, R90) -/

/-- An entry of the declaration. -/
def saveEntryOf (bs : List Byte) : SaveEntry :=
  { kind := BitVec.ofNat 3 (fieldAt bs 0 1 % 8), prio := BitVec.ofNat 3 (fieldAt bs 0 1 / 16), ntask := fieldAt bs 2 2,
    first := fieldAt bs 4 2, count := fieldAt bs 6 2, va := fieldAt bs 8 8, length := fieldAt bs 16 8 }

/-- An entry is well formed: no reserved bit, and what its kind does not use is zero (04 Table 2). -/
def saveEntryOk (k : Context) (bs : List Byte) : Bool :=
  let e := saveEntryOf bs
  let tasks := 1 ≤ e.ntask && e.ntask ≤ 256 && e.va == 0 && e.length == 0
  let body :=
    if e.kind = 1 then tasks && e.first == 0 && e.count == 0
    else if e.kind = 2 then tasks && e.first ≤ 255 && 1 ≤ e.count && e.count ≤ 256 && e.first + e.count ≤ k.maxS
    else if e.kind = 3 then tasks && e.first ≤ 63 && 1 ≤ e.count && e.count ≤ 64 && e.first + e.count ≤ k.maxC
    else if e.kind = 4 then
      e.ntask == 0 && e.first == 0 && e.count == 0 && e.va % 32 == 0 && e.length % 32 == 0 && 32 ≤ e.length &&
        e.length ≤ 1700 * 2 ^ 20
    else false
  fieldAt bs 0 1 / 8 % 2 == 0 && fieldAt bs 0 1 < 128 && fieldAt bs 1 1 == 0 && fieldAt bs 24 8 == 0 && body

/-- The declaration at create: its entries, or none where it is malformed or cannot be read (04 R88). The context stands in the
state while its own translation reads it. -/
def readDeclaration (x : Nat) (k : Context) (va : Nat) : Act (Option (List SaveEntry)) := do
  if va = 0 then pure (some [])
  else
    match ← devRead x va 16 with
    | .error _ => pure none
    | .ok hd =>
      let n := fieldAt hd 0 2
      if fieldAt hd 2 14 != 0 || n = 0 || 64 < n then pure none
      else
        match ← devRead x (va + 16) (32 * n) with
        | .error _ => pure none
        | .ok bs =>
          let es := (List.range n).map (fun i => (bs.drop (32 * i)).take 32)
          pure (if es.all (saveEntryOk k) then some (es.map saveEntryOf) else none)

/-- Data bytes of one record of an entry (04 R89). -/
def entryBytes (e : SaveEntry) : Nat :=
  if e.kind = 1 then 4096 else if e.kind = 2 then 2048 * e.count else if e.kind = 3 then 65536 * e.count else e.length

/-- Records an entry can have, and its charge in granules of 1 MiB (04 R90). -/
def entryCount (e : SaveEntry) : Nat := if e.kind = 4 then 1 else e.ntask
def entryCharge (e : SaveEntry) : Nat := (entryCount e * (entryBytes e + 40) + 0xFFFFF) / 2 ^ 20

/-- All admitted sets with the new one stay within the caps (04 R90). -/
def admitted (s : State) (es : List SaveEntry) : Bool :=
  let all := es ++ s.ctxs.flatMap (fun e => e.2.save)
  (all.map entryCharge).sum ≤ 1700 && (all.map entryCount).sum ≤ 32766

/-! ### Grants (03 R58, R61; 02 R30) -/

/-- Counters that a context did not hold before are set to 0. -/
def clearCounters (s : State) (old new : BitVec 256) : State :=
  (List.range 256).foldl (fun s i =>
    if new.getLsbD i && !old.getLsbD i then updDie s (i / 64) (fun d => { d with ctr := sset 0 d.ctr (i % 64) 0 }) else s) s

/-- Route and arrival counts of a context are cleared at its create (08 R206). -/
def clearCounts (s : State) (x : Nat) : State :=
  let s := s.cores.foldl (fun s e => updCore s e.1 (fun q => { q with routeN := q.routeN.filter (fun r => r.1 / 256 != x) })) s
  s.dies.foldl (fun s e => updDie s e.1 (fun d => { d with arr := d.arr.filter (fun r => r.1 / 64 % 64 != x) })) s

/-! ### CTX_CMD (03 R59 to R61) -/

/-- Fields of CTX_CMD (03 Table 3). -/
def cmdCtx (w : Word) : Nat := fld w 0 6
def cmdOp (w : Word) : Nat := fld w 6 2
def cmdAddr (w : Word) : Nat := fld w 12 40 * 4096

/-- A command is refused outright: before configuration, in the hold-up sequence and after it, while another runs (03 R56, R60; 04
R96). -/
def ctxRefused (s : State) : Bool := !s.host.cfgd || s.pm.hup || s.host.ctxBusy

/-- Create: the result code, with the context created at 0. -/
def createContext (x pa : Nat) : Act (BitVec 3) := do
  let s ← state
  if (ctxOf s x).isSome then pure 1
  else if !reachable s pa then pure 2
  else
    let bs := readBytes s pa 512
    if !descriptorOk bs then pure 2
    else do
      let k := contextOf bs
      change (fun s => { s with ctxs := aset s.ctxs x k })
      let drop := change (fun s => { s with ctxs := adel s.ctxs x })
      match ← readDeclaration x k (fieldAt bs 0xC8 8) with
      | none => do
        drop
        pure 2
      | some es =>
        if !admitted (← state) es then do
          drop
          pure 3
        else do
          change (fun s => updCtx s x (fun k => { k with save := es }))
          change (fun s => clearCounts (clearCounters s 0 k.ctrMask) x)
          let _ ← devWrite x k.fqBase.toNat (List.replicate 32 0)
          pure 0

/-- A launch that was queued and not yet read is aborted: its completion record goes where its header says (03 R61, R63). -/
def abortQueued (x : Nat) (k : Context) : List Nat → Act Unit
  | [] => pure ()
  | seq :: r => do
    match ← devRead x (headerAddr k seq) 256 with
    | .error e => devFaultRecord x 0 e
    | .ok bs => completionRecord (headerLaunch x seq k (headerOf bs)) 3 0
    abortQueued x k r

/-- Remove: every unfinished launch ends with STATUS 3, tasks and shadows are gone, windows and chains close (03 R61; 07 R191; 08 R208;
14 R399). -/
def removeContext (x : Nat) : Act (BitVec 3) := do
  let s ← state
  match ctxOf s x with
  | none => pure 4
  | some k => do
    for e in s.launches.filter (fun e => e.2.ctx == x) do endLaunch e.1 (fun _ _ => false) [] 3 0
    change (fun s => ((s.tasks.filter (fun e => e.2.ctx == x)).map (fun e => e.1)).foldl dropTask s)
    abortQueued x k k.queued
    change (fun s => (List.range 4).foldl (fun s d => updDie s d (fun q =>
      { q with chains := q.chains.filter (fun c => c.ctx != x), windows := q.windows.filter (fun w => w.ctx != x),
               heldStf := q.heldStf.filter (fun r => r.acc.ctx != x) })) s)
    change (fun s => { s with
      net := { s.net with
        notices := s.net.notices.filter (fun n => n.ctx != x)
        reqs := s.net.reqs.filter (fun r => !(r.kind == 7 && r.acc.ctx == x)) }
      cores := s.cores.map (fun e => (e.1, { e.2 with holds := e.2.holds.filter (fun h => h.ctx != x) })) })
    change (fun s => { s with ctxs := adel s.ctxs x })
    pure 0

/-- Reload grants: the masks at 0x068 to 0x0B7 of a descriptor that is legal as a whole (03 R60, R61). -/
def reloadGrants (x pa : Nat) : Act (BitVec 3) := do
  let s ← state
  match ctxOf s x with
  | none => pure 4
  | some k =>
    let bs := readBytes s pa 512
    if !reachable s pa || !descriptorOk bs then pure 2
    else do
      let n := contextOf bs
      change (fun s => clearCounters s k.ctrMask n.ctrMask)
      change (fun s => updCtx s x (fun k =>
        { k with vecMask := n.vecMask, foldMask := n.foldMask, ctrMask := n.ctrMask, monMask := n.monMask }))
      pure 0

/-- A write of CTX_CMD: refused with result 1, or carried out with its result to be reported at its completion (03 R59, R60). -/
def ctxCommand (w : Word) : Act Unit := do
  if ctxRefused (← state) then change (fun s => { s with host := { s.host with ctxRes := 1 } })
  else do
    let res ←
      if fld w 52 12 != 0 || fld w 8 4 != 0 then pure 2
      else
        match cmdOp w with
        | 0 => createContext (cmdCtx w) (cmdAddr w)
        | 1 => removeContext (cmdCtx w)
        | 2 => reloadGrants (cmdCtx w) (cmdAddr w)
        | _ => pure 2
    change (fun s => { s with host := { s.host with ctxBusy := true, ctxPending := some (w, res) } })

/-- CTX_CMD with OP 0 (03 R58). -/
def execCtxCmdCreate (w : Word) (s : State) : Host.Outcome State Fault Refusal := asStep (ctxCommand w) s

/-- OP 1 (03 R61). -/
def execCtxCmdRemove (w : Word) (s : State) : Host.Outcome State Fault Refusal := asStep (ctxCommand w) s

/-- OP 2 (03 R61). -/
def execCtxCmdReloadGrants (w : Word) (s : State) : Host.Outcome State Fault Refusal := asStep (ctxCommand w) s

/-- The command finishes: CTX_STAT reports its result (03 R60). -/
def execCtxCmdComplete (s : State) : Host.Outcome State Fault Refusal :=
  asStep (do
    let h := (← state).host
    let (_, res) ← need h.ctxPending "no context command runs"
    change (fun s => { s with host := { h with ctxBusy := false, ctxRes := res, ctxPending := none } })) s

end Sys2Proof.Machine
end

