-- ==== Sys2Proof/Machine/HostWindow.lean ====
section
/-!
DEFINITION. The management window and the aperture (03 R53 to R55, R57), the doorbell (R62, R63), pool decoders (07 R164), threshold
registrations (R77, R78, R82), monitor units (R79 to R81).
-/

namespace Sys2Proof.Machine

/-! ### The doorbell (03 R62, R63, R56; 04 R83, R96) -/

/-- A doorbell write is discarded; the first one is recorded in DB_ERR. -/
def discardBell (s : State) (x cause : Nat) : State :=
  if s.host.dbErr.getLsbD 63 then s
  else { s with host := { s.host with dbErr := BitVec.ofNat 64 (2 ^ 63 + cause * 2 ^ 8 + x) } }

/-- Free entries of a submission queue: an entry frees when its launch has ended (03 R63). -/
def freeEntries (k : Context) : Nat := 2 ^ k.sqLog - (k.launchSeq - k.freed)

/-- A write of DOORBELL. -/
def ringBell (w : Word) (s : State) : State :=
  let x := fld w 0 6
  let tail : BitVec 32 := w.extractLsb' 32 32
  if !s.host.cfgd || s.pm.hup then discardBell s x 1
  else
    match ctxOf s x with
    | none => discardBell s x (if fld w 6 26 != 0 then 2 else 1)
    | some k =>
      let d := (tail - k.lastTail).toNat
      if d = 0 then s
      else if fld w 6 26 != 0 then discardBell s x 2
      else if freeEntries k < d then discardBell s x 3
      else
        updCtx s x (fun k => { k with lastTail := tail, launchSeq := k.launchSeq + d,
                                      queued := k.queued ++ (List.range d).map (k.launchSeq + ·) })

/-- DOORBELL (03 R63). -/
def execDoorbell (w : Word) (s : State) : Host.Outcome State Fault Refusal := .next (ringBell w s)

/-! ### The aperture (03 R54, R57; 04 R102) -/

/-- The physical address of an aperture offset. -/
def aperturePa (s : State) (off : Nat) : Nat := fld s.host.aptBase 36 16 * 2 ^ 36 + off

/-- One byte through BAR 2: the configuration buffer before configuration, else memory; all ones where the map has none of it. What
the buffer's window holds beyond its 64 MiB the manual does not say. -/
def apertureByte (off : Nat) : Act Byte := do
  let s ← state
  if 2 ^ 36 ≤ off then pure 0xFF
  else if !s.host.cfgd then
    if off < 0x4000000 then pure (sget 0 s.host.cfgBuf off)
    else do
      let v ← drawWord
      pure (v.setWidth 8)
  else
    match rowOf (aperturePa s off) with
    | some (.near _) | some .second | some .holdUp => pure (readByte s (aperturePa s off))
    | _ => pure 0xFF

def apertureBytes : Nat → Nat → Act (List Byte)
  | _, 0 => pure []
  | off, n + 1 => do
    let b ← apertureByte off
    pure (b :: (← apertureBytes (off + 1) n))

/-- One byte written through BAR 2; what lies in no writable row is discarded. -/
def aperturePut (s : State) (off : Nat) (v : Byte) : State :=
  if 2 ^ 36 ≤ off then s
  else if !s.host.cfgd then
    if off < 0x4000000 then { s with host := { s.host with cfgBuf := sset 0 s.host.cfgBuf off v } } else s
  else
    match rowOf (aperturePa s off) with
    | some (.near _) | some .second => writeByte s (aperturePa s off) v
    | _ => s

def aperturePuts (s : State) (off : Nat) : List Byte → State
  | [] => s
  | v :: r => aperturePuts (aperturePut s off v) (off + 1) r

/-- A host read through BAR 2. -/
def execHostApertureRead (off : BitVec 36) (n : Nat) (s : State) : Host.Outcome State Fault Refusal :=
  asStep (do
    let bs ← apertureBytes off.toNat n
    change (fun s => { s with host := { s.host with lastRead := bs } })) s

/-- A host write through BAR 2; it stalls on a granule pending for a checkpoint. -/
def execHostApertureWrite (off : BitVec 36) (bytes : List (BitVec 8)) (s : State) : Host.Outcome State Fault Refusal :=
  asStep (do
    let s ← state
    waitUntil (!(s.host.cfgd && (List.range bytes.length).any (fun i => ckptPending s (aperturePa s (off.toNat + i)))))
    change (fun s => aperturePuts s off.toNat bytes)) s

/-! ### Pool decoders (07 R164) -/

/-- The word at +8 of a decoder's register over its word at +0. -/
def decWith (lo hi : Word) : BitVec 128 := hi ++ lo

def decLow (d : BitVec 128) : Word := d.extractLsb' 0 64

/-- A decoder may be enabled: its fields are legal and its range lies in the pool row and meets no other enabled one. -/
def decOk (s : State) (n : Nat) (d : BitVec 128) : Bool :=
  let lo := decBase d * 2 ^ 28
  let hi := (decBase d + decSize d) * 2 ^ 28
  decSize d != 0 && decIw d != 3 && decPort d + 2 ^ decIw d - 1 ≤ 3 && d.extractLsb' 116 11 == 0 && d.extractLsb' 36 28 == 0 &&
    rowOf lo == some .pool && rowOf (hi - 1) == some .pool &&
    (List.range 8).all (fun m =>
      let e := poolDecOf s m
      m == n || !decEn e || hi ≤ decBase e * 2 ^ 28 || (decBase e + decSize e) * 2 ^ 28 ≤ lo)

def setDec (s : State) (n : Nat) (d : BitVec 128) : State :=
  { s with host := { s.host with poolDec := sset 0 s.host.poolDec n d } }

/-- A write of the word at +0: ignored while the decoder is enabled. -/
def decWriteLow (s : State) (n : Nat) (w : Word) : State :=
  let d := poolDecOf s n
  if decEn d then s else setDec s n (decWith w (d.extractLsb' 64 64))

/-- A write of the word at +8: it checks and enables the decoder, or is ignored; with EN = 0 it starts the drain of an enabled
one, whose accesses go through it as it stood. -/
def decWriteHigh (s : State) (n : Nat) (w : Word) : State :=
  let d := poolDecOf s n
  let new := decWith (decLow d) w
  if decEn d then
    if w.getLsbD 63 then s
    else
      let at_ := ((aget s.host.poolDrain n).map (fun e => e.1)).getD s.nextId
      { s with host := { s.host with poolDrain := aset s.host.poolDrain n (at_, w) } }
  else if w.getLsbD 63 && !decOk s n new then s
  else setDec s n new

/-- A write of the word at +8 with EN = 1. -/
def execPoolDecoderEnable (n : BitVec 3) (w : Word) (s : State) : Host.Outcome State Fault Refusal :=
  .next (if s.host.cfgd then decWriteHigh s n.toNat (w ||| 0x8000000000000000) else s)

/-- A write of the word at +8 with EN = 0. -/
def execPoolDecoderDisable (n : BitVec 3) (w : Word) (s : State) : Host.Outcome State Fault Refusal :=
  .next (if s.host.cfgd then decWriteHigh s n.toNat (w &&& 0x7FFFFFFFFFFFFFFF) else s)

/-- What a bank has issued, or its queued commands have captured, still goes through the decoder. -/
def bankThrough (s : State) (d : BitVec 128) (k : Bank) : Bool :=
  k.inflight.any (fun a => decCovers d (seen s a).pa) || k.tickets.any (fun e => decCovers d (seen s e.2.acc).pa) ||
    k.queues.any (fun q => q.2.any (fun m => m.pages.any (fun p => decCovers d p.pa)))

/-- An access that has been issued still goes through the decoder. -/
def decBusy (s : State) (d : BitVec 128) : Bool :=
  s.cores.any (fun e => e.2.banks.any (fun b => bankThrough s d b.2) || e.2.streamed.any (fun o => o.saved.any (bankThrough s d))) ||
    s.net.reqs.any (fun r => decCovers d (seen s r.acc).pa) || s.dies.any (fun e => e.2.heldStf.any (fun r => decCovers d r.acc.pa))

/-- The decoder's register as the host reads it; while it drains the word at +8 is the one written, with EN 1. -/
def decShown (s : State) (n : Nat) : BitVec 128 :=
  let d := poolDecOf s n
  (match aget s.host.poolDrain n with
    | some e => decWith (decLow d) (e.2 ||| 0x8000000000000000)
    | none => d) &&& 0x800FFFFFFFFFFFFF0000000FFFFFFFFF

/-- Every access through a disabled decoder has performed: EN reads 0. -/
def execPoolDecoderDrained (n : BitVec 3) (s : State) : Host.Outcome State Fault Refusal :=
  asStep (do
    let s ← state
    let k := n.toNat
    let d := poolDecOf s k
    let e ← need (aget s.host.poolDrain k) "the decoder does not drain"
    waitUntil (!decBusy s d)
    change (fun s => setDec s k (decWith (decLow d) (e.2 &&& 0x7FFFFFFFFFFFFFFF)))
    change (fun s => { s with host := { s.host with poolDrain := adel s.host.poolDrain k } })) s

/-! ### Tasks of no launch (16 R420) -/

/-- A task of a record that belongs to no launch: weight 0, SDEM 0 for 1 slot, CDEM<7> for no tile. -/
def looseTask (x : Nat) (r : Record) (addr : Word) (prio die cluster : Nat) : Task :=
  { ctx := x, launch := none, index := 0, recAddr := addr, record := r, weight := 0, prio := prio, sdem := recordS r 1,
    cdem := recordC r 0, place := .pool, die := die, cluster := cluster, ready := 0, entry := 0, core := 0, bank := 0, start := 0,
    iid := 0, spawns := 0, keeperOf := none, thr := 0, repEntry := 0, recEntry := 0, ancestors := [], waits := [], recPred := 0,
    recBy := 0, repIter := 0, noRec := true, fixed := none, ring := 0 }

/-- The record of such a task: aligned, legal, with DEPCNT 0 and a demand within the context's maximum (05 R127); none where it
cannot be read. -/
def looseRecord (x : Nat) (addr : Word) : Act (Option Record) := do
  match ctxOf (← state) x with
  | none => pure none
  | some k =>
    if addr.toNat % 64 != 0 then pure none
    else
      match ← devRead x addr.toNat 64 with
      | .error _ => pure none
      | .ok bs =>
        let r := recordOf bs
        pure (if recordOk bs && r.depcnt == 0 && recordS r 1 ≤ k.maxS && recordC r 0 ≤ k.maxC then some r else none)

/-! ### Threshold registrations (03 R77, R78, R82) -/

def thrOf (s : State) (n : Nat) : Threshold := sget Threshold.reset s.host.thr n
def setThr (s : State) (n : Nat) (t : Threshold) : State :=
  { s with host := { s.host with thr := sset Threshold.reset s.host.thr n t } }

/-- A write of the word at +0 arms or disarms the registration; one that is not valid is ignored and leaves EN at 0. -/
def thrWriteLow (s : State) (n : Nat) (w : Word) : State :=
  let t := thrOf s n
  let ok := fld w 48 5 ≤ 5 && (match ctxOf s (fld w 53 6) with
    | some k => fld w 60 3 ≤ k.ceiling.toNat
    | none => false) && t.hi.toNat % 64 == 0
  if ok then setThr s n { t with lo := w, fired := false, seen := false }
  else setThr s n { t with lo := t.lo &&& 0x7FFFFFFFFFFFFFFF }

/-- A write of the word at +8: ignored while EN = 1. -/
def thrWriteHigh (s : State) (n : Nat) (w : Word) : State :=
  let t := thrOf s n
  if t.lo.getLsbD 63 then s else setThr s n { t with hi := w }

/-- A host write of the word at +0 of a registration. -/
def execThresholdArm (n : BitVec 6) (w : Word) (s : State) : Host.Outcome State Fault Refusal :=
  .next (if s.host.cfgd then thrWriteLow s n.toNat w else s)

/-- The value of a registration's source: pool counts and monitor maxima as they stand; what the silicon measures is free. A SEL from 16 on
names no monitor unit of the die, and the rules do not say what is sampled: the model takes unit SEL mod 16 (log 19). -/
def thrValue (n : Nat) (t : Threshold) : Act (BitVec 32) := do
  let s ← state
  let d := n / 16
  let sel := fld t.lo 40 8
  match fld t.lo 48 5 with
  | 2 => pure (BitVec.ofNat 32 ((poolTasks s d).filter (fun e => e.2.prio == sel)).length)
  | 3 => pure (BitVec.ofNat 32 (poolTasks s d).length)
  | 4 => pure (sget Monitor.reset s.host.mon (16 * d + sel % 16)).mx
  | _ => do
    let v ← drawWord
    pure (v.setWidth 32)

/-- A release is dropped and counted (03 R78). -/
def dropRelease (s : State) (d : Nat) : State :=
  { s with host := { s.host with thrDrop := supd 0 s.host.thrDrop d (· + 1) } }

/-- A registration fires: a copy of its record becomes ready, unless an earlier one is pending or running (03 R78; 05 R114, R116; 16
R420). -/
def release (n : Nat) (t : Threshold) : Act Unit := do
  let s ← state
  let d := n / 16
  let x := fld t.lo 53 6
  if (t.task.bind (taskOf s)).isSome then change (fun s => dropRelease s d)
  else
    match ← looseRecord x t.hi, ctxOf s x with
    | some r, some k => do
      let prio := recordPrio r (fld t.lo 60 3) k.ceiling.toNat
      let q := { looseTask x r t.hi prio (readyDie r d) (readyCluster r 0) with thr := n + 1 }
      match ← enrol .threshold q with
      | .yes id => change (fun s => setThr s n { thrOf s n with task := some id })
      | _ => change (fun s => dropRelease s d)
    | _, _ => pure ()

/-- The value passes the threshold in the registration's direction. -/
def crosses (t : Threshold) (v : BitVec 32) : Bool :=
  let thr := fld t.lo 0 32
  t.seen && (if t.lo.getLsbD 59 then thr < t.last.toNat && v.toNat ≤ thr else t.last.toNat < thr && thr ≤ v.toNat)

/-- A fired registration re-arms: the value has returned past the threshold by HYST. -/
def rearms (t : Threshold) (v : BitVec 32) : Bool :=
  let thr := fld t.lo 0 32
  let hyst := fld t.lo 32 8
  if t.lo.getLsbD 59 then thr < v.toNat && thr + hyst ≤ v.toNat else v.toNat < thr && v.toNat + hyst ≤ thr

/-- One registration tests its value. -/
def sampleThr (n : Nat) : Act Unit := do
  let t := thrOf (← state) n
  let v ← thrValue n t
  let fires := !t.fired && crosses t v
  let t' := { t with last := v, seen := true, fired := if t.fired then !rearms t v else fires }
  change (fun s => setThr s n t')
  if fires then release n t'

/-- A sampling period elapses: every microsecond, or every 4,096 cycles for SRC 0. -/
def execThresholdSample (src0 : Bool) (s : State) : Host.Outcome State Fault Refusal :=
  asStep (do
    let s ← state
    needs (s.host.cfgd && !s.pm.hup && (!src0 || s.pm.st == .run)) "nothing is sampled"
    for n in List.range 64 do
      let t := thrOf (← state) n
      if t.lo.getLsbD 63 && ((fld t.lo 48 5 == 0) == src0) then sampleThr n) s

/-! ### Monitor units (03 R79, R80) -/

/-- CLR: the registers as a capture begins with them. -/
def Monitor.cleared (m : Monitor) : Monitor := { m with mn := 0xFFFFFFFF, mx := 0, count := 0, bins := [] }

/-- A write of MON_CFG: ignored when it sets EN with a reserved SRC or a non-zero reserved field; CLR clears first. -/
def monWrite (s : State) (n : Nat) (w : Word) : State :=
  let m := sget Monitor.reset s.host.mon n
  if w.getLsbD 63 && (6 < fld w 48 8 || fld w 56 6 != 0 || fld w 37 2 != 0) then s
  else
    let m := if w.getLsbD 62 then m.cleared else m
    setMon s n { m with cfg := w &&& 0x80FFFF9FFFFFFFFF }

def execMonCfgWrite (n : BitVec 6) (w : Word) (s : State) : Host.Outcome State Fault Refusal :=
  .next (if s.host.cfgd then monWrite s n.toNat w else s)

/-- A capturing unit takes a sample of its die's power or temperature, which the silicon measures; the other sources are sampled at
their events (03 R79). -/
def execMonitorSample (n : BitVec 6) (v : BitVec 32) (s : State) : Host.Outcome State Fault Refusal :=
  asStep (do
    let s ← state
    let m := sget Monitor.reset s.host.mon n.toNat
    needs (s.host.cfgd && m.cfg.getLsbD 63 && (fld m.cfg 48 8 == 4 || fld m.cfg 48 8 == 5)) "the unit takes no such sample"
    waitUntil (enginesRun s)
    change (fun s => setMon s n.toNat (m.take v))) s

/-! ### MSI-X structures (03 R55) -/

/-- A message whose vector is unmasked is sent if it is pending. -/
def sendPending (s : State) (v : Nat) : State :=
  let e := sget msixReset s.host.msixTable v
  if s.host.msixPba.getLsbD v && !e.getLsbD 96 && !s.host.msixMask then
    sendVector { s with host := { s.host with msixPba := s.host.msixPba &&& ~~~(BitVec.ofNat 32 (2 ^ v)) } } v
  else s

/-- The host writes MSI-X Enable and the function mask: messages that no mask holds any more are sent (03 R55). -/
def msixControl (enable mask : Bool) (s : State) : State :=
  (List.range 32).foldl sendPending { s with host := { s.host with msixEnable := enable, msixMask := mask } }

/-- A write of `n` bytes of a table entry at byte `o` of it. -/
def msixPut (e : BitVec 128) (o n : Nat) (w : Word) : BitVec 128 :=
  let m : BitVec 128 := BitVec.ofNat 128 ((2 ^ (8 * n) - 1) * 2 ^ (8 * o))
  (e &&& ~~~m) ||| ((w.setWidth 128 <<< (8 * o)) &&& m)

/-- A write to the MSI-X table, of 4 or 8 aligned bytes; the pending bits are read-only. -/
def msixWrite (s : State) (off n : Nat) (w : Word) : State :=
  if (n == 4 || n == 8) && off % n == 0 && off < 0x8200 then
    let v := (off - 0x8000) / 16
    let e := msixPut (sget msixReset s.host.msixTable v) (off % 16) n w
    sendPending { s with host := { s.host with msixTable := sset msixReset s.host.msixTable v e } } v
  else s

/-! ### The window as a whole (03 R53, R56) -/

/-- A write to the management window (03 Table 1). A 1 in bit 63 of DB_ERR clears that bit; context and cause stay as they read (log 78). -/
def windowWrite (off n : Nat) (w : Word) : Act Unit := do
  let s ← state
  if 0x8000 ≤ off && off < 0x9008 then change (fun s => msixWrite s off n w)
  else if n != 8 || off % 8 != 0 then pure ()
  else if off = 0x10 then change (cfgCommand w)
  else if off = 0x100 then change (pmCommand w)
  else if off = 0x200 then change (ringBell w)
  else if off = 0x300 then ctxCommand w
  else if !s.host.cfgd then pure ()
  else if off = 0x208 then
    if w.getLsbD 63 then change (fun s => { s with host := { s.host with dbErr := s.host.dbErr &&& 0x7FFFFFFFFFFFFFFF } })
  else if off = 0x400 then change (fun s => { s with host := { s.host with aptBase := w &&& 0x000FFFF000000000 } })
  else if 0x500 ≤ off && off < 0x580 then
    if off % 16 = 0 then change (fun s => decWriteLow s ((off - 0x500) / 16) w)
    else change (fun s => decWriteHigh s ((off - 0x500) / 16) w)
  else if 0x2000 ≤ off && off < 0x2400 then
    if off % 16 = 0 then change (fun s => thrWriteLow s ((off - 0x2000) / 16) w)
    else change (fun s => thrWriteHigh s ((off - 0x2000) / 16) w)
  else if 0x4000 ≤ off && off < 0x8000 && off % 256 = 0 then change (fun s => monWrite s ((off - 0x4000) / 256) w)
  else pure ()

/-- PM_STAT (01 Table 6). -/
def pmStat (p : Power) : Word :=
  let st := match p.st with
    | .run => 0 | .idle => 1 | .hold => 2 | .off => 3 | .trip => 4 | .holdUp => 5 | .spent => 6
  BitVec.ofNat 64 (p.tcause.toNat * 2 ^ 32 + p.ltag.toNat * 2 ^ 16 + p.clk.toNat * 2 ^ 8 + p.res.toNat * 2 ^ 5 + bitAt 4 p.busy +
    bitAt 3 p.hup + st)

/-- What a host read of the window returns (03 Table 1; 00 R3): before configuration only some registers answer, PM_STAT
with the live power state (log 78). The value of DEV_ID the manual does not give (log 5). -/
def windowRead (s : State) (off n : Nat) : Word :=
  if 0x8000 ≤ off && off < 0x8200 then
    if (n == 4 || n == 8) && off % n == 0 then
      ((sget msixReset s.host.msixTable ((off - 0x8000) / 16)) >>> (8 * (off % 16))).setWidth (8 * n) |>.setWidth 64
    else 0
  else if off = 0x9000 && (n == 4 || n == 8) then s.host.msixPba.setWidth 64
  else if n != 8 || off % 8 != 0 then 0
  else if off = 0 then Config.deviceId
  else if off = 0x18 then BitVec.ofNat 64 (s.host.cfgRes.toNat * 16 + bitAt 1 s.host.cfgd + bitAt 0 s.host.cfgBusy)
  else if off = 0x108 then pmStat s.pm
  else if off = 0x308 then BitVec.ofNat 64 (s.host.ctxRes.toNat + bitAt 3 s.host.ctxBusy)
  else if !s.host.cfgd then 0
  else if off = 0x208 then s.host.dbErr
  else if off = 0x400 then s.host.aptBase
  else if 0x500 ≤ off && off < 0x580 then
    (decShown s ((off - 0x500) / 16)).extractLsb' (64 * (off / 8 % 2)) 64
  else if 0x2000 ≤ off && off < 0x2400 then
    let t := thrOf s ((off - 0x2000) / 16)
    if off % 16 = 0 then t.lo else t.hi
  else if 0x2F00 ≤ off && off < 0x2F20 then sget 0 s.host.thrDrop ((off - 0x2F00) / 8)
  else if 0x4000 ≤ off && off < 0x8000 then
    let i := off % 256 / 8
    if i < 20 then monWord (sget Monitor.reset s.host.mon ((off - 0x4000) / 256)) i else 0
  else 0

/-- A write to a register: of the window by the host, or of SY register `addr` by the task that runs on the acting core (00 R3; 12
R332). -/
def execRegisterWrite (sy : Bool) (addr : BitVec 16) (size : BitVec 4) (w : Word) (s : State) : Host.Outcome State Fault Refusal :=
  if sy then issue { en := false, neg := false, pred := 0 } 1 (fun a => writeSyFrom a addr.toNat (pure ⟨w, .clean⟩)) s
  else asStep (windowWrite addr.toNat size.toNat w) s

end Sys2Proof.Machine
end

