-- ==== Sys2Proof/Machine/Checkpoint.lean ====
section
/-!
DEFINITION. Background checkpoint and restore (04 R99 to R105).
-/

namespace Sys2Proof.Machine

/-! ### Memory of the checkpoint engine -/

def ckptOf (s : State) (x : Nat) : Option Ckpt := (ctxOf s x).map (·.ckpt)
def updCkpt (s : State) (x : Nat) (f : Ckpt → Ckpt) : State := updCtx s x (fun k => { k with ckpt := f k.ckpt })

/-- The leaf of a byte the engine reaches, walked by the die of the core that started it (log 6). -/
def ckptLeaf (x : Nat) (q : Ckpt) (va : Nat) (right : Right) : Act Leaf := do
  requireOpen (va < 2 ^ 56) .protection
  match ctxOf (← state) x with
  | none => trapOpen .protection
  | some k =>
    let die := coreDie q.core
    match ← translate none die none x k va right with
    | .bad _ => trapOpen .protection
    | .remote _ => trapOpen .protection
    | .miss n => throw (.miss { die := die, va := va, kind := if right.writes then 5 else 4, level := BitVec.ofNat 4 n })
    | .leaf l => do
      requireOpen (l.allows right) .protection
      pure l

/-- A range in pieces of one page each: physical address, place in the range, length. -/
def ckptPieces (x : Nat) (q : Ckpt) (right : Right) : Nat → List (Nat × Nat) → Act (List (Nat × Nat × Nat))
  | _, [] => pure []
  | off, (va, len) :: r => do
    let l ← ckptLeaf x q va right
    pure ((l.pa, off, len) :: (← ckptPieces x q right (off + len) r))

def ckptRange (x : Nat) (q : Ckpt) (right : Right) (va n : Nat) : Act (List (Nat × Nat × Nat)) :=
  ckptPieces x q right 0 (granules (n / 65536 + 2) va n)

def ckptRead (x : Nat) (q : Ckpt) (va n : Nat) : Act (List Byte) := do
  let ps ← ckptRange x q .er va n
  let s ← state
  pure (ps.flatMap (fun p => readBytes s p.1 p.2.2))

def ckptWrite (x : Nat) (q : Ckpt) (va : Nat) (bs : List Byte) : Act Unit := do
  let ps ← ckptRange x q .ew va bs.length
  change (fun s => ps.foldl (fun s p => writeBytes s p.1 ((bs.drop p.2.1).take p.2.2)) s)

/-- The operation ends with a result. -/
def ckptEnd (x : Nat) (res : BitVec 3) : Act Unit :=
  change (fun s => updCkpt s x (fun q => { q with busy := false, res := res, pending := [] }))

/-- The engine waits for a page: it joins or makes a descriptor once (04 R99; 07 R180). A die without a keeper ends the issuing
task's launch (07 R182). -/
def ckptMiss (x : Nat) (q : Ckpt) (m : Miss) : Act Unit := do
  let s ← state
  if !keeperOn s m.die then do
    ckptEnd x 3
    match taskOf s q.task with
    | none => pure ()
    | some k => endByTrap q.task k.core .translation (taskPc s q.task k) (BitVec.ofNat 64 m.va)
  else
    match findDesc s m.die x m.va with
    | some d =>
      if d.joined.contains (.ckpt x) then pure ()
      else change (fun s => (joinDesc s m.die x m.va m.kind m.level q.core false 0 (.ckpt x)).1)
    | none => change (fun s => (joinDesc s m.die x m.va m.kind m.level q.core false 0 (.ckpt x)).1)

/-- A step of the engine: a missing right ends the operation with RES 3, a miss waits for the keeper (04 R99). -/
def ckptStep (x : Nat) (q : Ckpt) (m : Act Unit) : Act Unit :=
  tryCatch m (fun e =>
    match e with
    | .trap _ _ => ckptEnd x 3
    | .miss y => ckptMiss x q y
    | e => throw e)

/-! ### The descriptor (04 R99, R100) -/

/-- NSHARD of word 1, when the word is legal. -/
def shardCount (w : Word) : Option Nat := if 1 ≤ w.toNat && w.toNat ≤ 64 then some w.toNat else none

/-- A shard entry: source, destination, length; none where it is not legal. -/
def shardOf (bs : List Byte) : Option (Nat × Nat × Nat) :=
  let src := fieldAt bs 0 8
  let dst := fieldAt bs 8 8
  let len := fieldAt bs 16 8
  if src % 65536 == 0 && dst % 64 == 0 && len % 65536 == 0 && 65536 ≤ len && len ≤ 2 ^ 40 && fieldAt bs 24 8 == 0 then
    some (src, dst, len)
  else none

/-- STEP and the shards; none for a bad descriptor. -/
def ckptDesc (x : Nat) (q : Ckpt) : Act (Option (Word × List (Nat × Nat × Nat))) := do
  let a := q.opDesc.toNat * 64
  let hd ← ckptRead x q a 16
  match shardCount (BitVec.ofNat 64 (fieldAt hd 8 8)) with
  | none => pure none
  | some n => do
    let bs ← ckptRead x q (a + 64) (32 * n)
    let l := (List.range n).filterMap (fun i => shardOf ((bs.drop (32 * i)).take 32))
    pure (if l.length = n then some (BitVec.ofNat 64 (fieldAt hd 0 8), l) else none)

/-- Word 0 of a shard header. -/
def shardWord (complete : Bool) : Word := BitVec.ofNat 64 (0x53485244 + bitAt 32 complete)

/-- The header of shard `j` of `n`, COMPLETE = 0. -/
def shardHeader (step : Word) (j n : Nat) (e : Nat × Nat × Nat) : List Byte :=
  wordBytes (shardWord false) ++ wordBytes step ++ leBytes 8 (j + n * 2 ^ 8) ++ leBytes 8 e.2.2 ++ leBytes 8 e.1 ++
    List.replicate 24 0

/-- The granules of every shard in order, with the physical address of each on the source side. -/
def shardGranules (x : Nat) (q : Ckpt) (right : Right) : List ((Nat × Nat × Nat) × Nat) → Act (List (Nat × Nat × Nat))
  | [] => pure []
  | (e, j) :: r => do
    let ps ← ckptRange x q right e.1 e.2.2
    pure (ps.zipIdx.map (fun p => (j, p.2, p.1.1)) ++ (← shardGranules x q right r))

/-- Header and data of every shard on the other side translate with a right. -/
def shardsReach (x : Nat) (q : Ckpt) (right : Right) : List (Nat × Nat × Nat) → Act Unit
  | [] => pure ()
  | e :: r => do
    let _ ← ckptRange x q right e.2.1 (64 + e.2.2)
    shardsReach x q right r

/-! ### The engine's steps -/

/-- Every earlier access of the context has performed at package scope (04 R101). -/
def earlierDone (s : State) (x since : Nat) : Bool :=
  let done := fun (b : Bank) (t : Option Nat) =>
    b.inflight.all (fun a => a.ctx != x || since ≤ a.id) && b.tickets.all (fun t => t.2.acc.ctx != x || since ≤ t.2.acc.id) &&
      (match t.bind (taskOf s) with
        | some k => k.ctx != x || b.queues.all (fun q => q.2.all (fun m => since ≤ m.id || m.phase != 2))
        | none => true)
  s.cores.all (fun e => e.2.banks.all (fun b => done b.2 b.2.task) &&
    e.2.streamed.all (fun o => o.saved.all (fun k => done k (some o.task))))

/-- A checkpoint begins: the descriptor and every page are checked before anything is written; the source granules are pending; the
headers are written (04 R99, R101). -/
def beginCheckpoint (x : Nat) (q : Ckpt) : Act Unit := do
  waitUntil (earlierDone (← state) x q.since)
  match ← ckptDesc x q with
  | none => ckptEnd x 2
  | some (step, l) => do
    let gs ← shardGranules x q .er l.zipIdx
    shardsReach x q .ew l
    change (fun s => updCkpt s x (fun q => { q with step := step, shards := l, pending := gs, phase := 1 }))
    for e in l.zipIdx do ckptWrite x q e.1.2.1 (shardHeader step e.2 l.length e.1)

/-- The header of a shard passes the checks of a restore (04 R104). -/
def shardPasses (step : Word) (n : Nat) (hd : List Byte) (e : (Nat × Nat × Nat) × Nat) : Bool :=
  fieldAt hd 0 4 == 0x53485244 && fieldAt hd 4 1 % 2 == 1 && fieldAt hd 8 8 == step.toNat && fieldAt hd 16 1 == e.2 &&
    fieldAt hd 17 1 == n && fieldAt hd 24 8 == e.1.2.2

/-- A restore begins: every header is read, then each shard is checked; with one that fails nothing is copied (04 R104). It does not wait for
earlier accesses of the context: the model reads 04 R101's wait as a checkpoint's (log 58). -/
def beginRestore (x : Nat) (q : Ckpt) : Act Unit := do
  match ← ckptDesc x q with
  | none => ckptEnd x 2
  | some (step, l) => do
    let gs ← shardGranules x q .ew l.zipIdx
    shardsReach x q .er l
    let mut bad : List Nat := []
    for e in l.zipIdx do
      let hd ← ckptRead x q e.1.2.1 64
      if !shardPasses step l.length hd e then bad := bad ++ [e.2]
    let failed := bad
    change (fun s => updCkpt s x (fun q =>
      { q with step := step, shards := l, pending := if failed.isEmpty then gs else [], complete := failed,
               phase := if failed.isEmpty then 1 else 4 }))

/-- One pending granule is copied: source to destination, in a restore the other way (04 R101, R104). -/
def copyGranule (x : Nat) (q : Ckpt) (k : Nat) : Act Unit := do
  match q.pending[k]? with
  | none => cannot "no such granule is pending"
  | some (j, g, pa) =>
    match q.shards[j]? with
    | none => cannot "no such shard"
    | some e => do
      let far := e.2.1 + 64 + 65536 * g
      if q.restore then do
        let bs ← ckptRead x q far 65536
        change (fun s => writeBytes s pa bs)
      else do
        let s ← state
        ckptWrite x q far (readBytes s pa 65536)
      change (fun s => updCkpt s x (fun q => { q with pending := removeAt q.pending k }))

/-- COMPLETE = 1 in the next shard's word 0, once all data has performed (04 R101). -/
def completeShard (x : Nat) (q : Ckpt) : Act Unit := do
  match (q.shards.zipIdx).find? (fun e => !q.complete.contains e.2) with
  | none => change (fun s => updCkpt s x (fun q => { q with phase := 3 }))
  | some (e, j) => do
    ckptWrite x q e.2.1 (wordBytes (shardWord true))
    change (fun s => updCkpt s x (fun q => { q with complete := q.complete ++ [j] }))

/-- One step of the checkpoint engine of a context. -/
def execCheckpointEngineRun (ctx : BitVec 6) (s : State) : Host.Outcome State Fault Refusal :=
  asStep (do
    let x := ctx.toNat
    let s ← state
    let q ← need (ckptOf s x) "the context is not live"
    needs q.busy "no checkpoint or restore runs"
    waitUntil (enginesRun s)
    ckptStep x q
      (if q.phase = 0 then if q.restore then beginRestore x q else beginCheckpoint x q
      else if q.phase = 1 then
        if q.pending.isEmpty then
          if q.restore then waitHere else change (fun s => updCkpt s x (fun q => { q with phase := 2 }))
        else copyGranule x q 0
      else if q.phase = 2 then completeShard x q
      else waitHere)) s

/-- A pending granule is copied ahead of turn (04 R102). -/
def execGranuleCopyAhead (ctx : BitVec 6) (k : Nat) (s : State) : Host.Outcome State Fault Refusal :=
  asStep (do
    let x := ctx.toNat
    let s ← state
    let q ← need (ckptOf s x) "the context is not live"
    needs (q.busy && !q.restore && q.phase == 1 && k < q.pending.length) "no such granule is pending"
    waitUntil (enginesRun s)
    ckptStep x q (copyGranule x q k)) s

/-- Every shard write has performed: BUSY 0 with RES 0 (04 R103). -/
def execCheckpointComplete (ctx : BitVec 6) (s : State) : Host.Outcome State Fault Refusal :=
  asStep (do
    let x := ctx.toNat
    let q ← need (ckptOf (← state) x) "the context is not live"
    needs (q.busy && !q.restore && q.phase == 3) "no checkpoint has written its last word"
    ckptEnd x 0) s

/-- Bit `j` for each failing shard. -/
def failMask (l : List Nat) : Word := BitVec.ofNat 64 ((l.map (2 ^ ·)).sum)

/-- A restore ends: its data has been copied, or RES 5 and RESTORE_STEP for the issuing context (04 R104). -/
def execRestoreComplete (ctx : BitVec 6) (s : State) : Host.Outcome State Fault Refusal :=
  asStep (do
    let x := ctx.toNat
    let q ← need (ckptOf (← state) x) "the context is not live"
    needs (q.busy && q.restore) "no restore runs"
    if q.phase = 4 then do
      ckptEnd x 5
      change (fun s => postTaskTrap s q.task .remote .restoreStep (some (failMask q.complete)))
    else do
      waitUntil (q.phase == 1 && q.pending.isEmpty)
      ckptEnd x 0) s

end Sys2Proof.Machine
end

