-- ==== Sys2Proof/Machine/ControlArith.lean ====
section
/-!
DEFINITION. Integer, logical, packed and bit-field instructions, moves, compares and predicates of the control core (12 R303 to
R310, R334 nop).
-/

namespace Sys2Proof.Machine

/-- D := f(A, B) (12 R303). -/
def aluAB (g : Guard) (d a b : Spec) (f : Word → Word → Word) (s : State) : Host.Outcome State Fault Refusal :=
  issue g 1 (fun w => do
    let x ← readSrc w a
    let y ← readSrc w b
    writeD w d ⟨f x.v y.v, markOf [x.mark, y.mark]⟩
    pure .next) s

/-- D := f(A, IMM), IMM sign-extended (12 R303). -/
def aluImm (g : Guard) (d a : Spec) (imm : BitVec 32) (f : Word → Word → Word) (s : State) :
    Host.Outcome State Fault Refusal :=
  issue g 2 (fun w => do
    let x ← readSrc w a
    writeD w d ⟨f x.v (sext32 imm), markOf [x.mark]⟩
    pure .next) s

/-- D := f(D, A) in an instruction of n slices (12 R304 to R306). -/
def aluDA (g : Guard) (n : Nat) (d a : Spec) (f : Word → Word → Word) (s : State) : Host.Outcome State Fault Refusal :=
  issue g n (fun w => do
    let x ← readSrc w d
    let y ← readSrc w a
    writeD w d ⟨f x.v y.v, markOf [x.mark, y.mark]⟩
    pure .next) s

/-- D := D op A where a zero A raises DIVIDE and leaves D (12 R304). -/
def divide (g : Guard) (d a : Spec) (f : Word → Word → Word) (s : State) : Host.Outcome State Fault Refusal :=
  issue g 1 (fun w => do
    let x ← readSrc w d
    let y ← readSrc w a
    requireOpen (y.v != 0) .divide
    writeD w d ⟨f x.v y.v, markOf [x.mark, y.mark]⟩
    pure .next) s

/-- D := f(A) in an instruction of n slices. -/
def unary (g : Guard) (n : Nat) (d a : Spec) (f : Word → Word) (s : State) : Host.Outcome State Fault Refusal :=
  issue g n (fun w => do
    let x ← readSrc w a
    writeD w d ⟨f x.v, markOf [x.mark]⟩
    pure .next) s

/-- pD := cond(A, B) (12 R309). -/
def compare (g : Guard) (d a b : Spec) (c : BitVec 3) (s : State) : Host.Outcome State Fault Refusal :=
  issue g 1 (fun w => do
    let x ← readSrc w a
    let y ← readSrc w b
    setRegsAct w (fun r => setPred r d.toNat (condHolds c x.v y.v) (compareMark c x y))
    pure .next) s

/-- pD := f(pA, pB) (12 R310). -/
def predAB (g : Guard) (d a b : Spec) (f : Bool → Bool → Bool) (s : State) : Host.Outcome State Fault Refusal :=
  issue g 1 (fun w => do
    setRegsAct w (fun r =>
      setPred r d.toNat (f (r.p.getLsbD a.toNat) (r.p.getLsbD b.toNat))
        (predMark [sget .clean r.pMark a.toNat, sget .clean r.pMark b.toNat]))
    pure .next) s

/-- pD := f(pA) (12 R310). -/
def predA (g : Guard) (d a : Spec) (f : Bool → Bool) (s : State) : Host.Outcome State Fault Refusal :=
  issue g 1 (fun w => do
    setRegsAct w (fun r => setPred r d.toNat (f (r.p.getLsbD a.toNat)) (predMark [sget .clean r.pMark a.toNat]))
    pure .next) s

/-- nop has no effect (12 R334). -/
def execNop (g : Guard) (s : State) : Host.Outcome State Fault Refusal := issue g 1 (fun _ => pure .next) s

/-- D := A + X (12 R303) -/
def execAdd (g : Guard) (d a b : Spec) (s : State) : Host.Outcome State Fault Refusal := aluAB g d a b (· + ·) s

/-- D := A + X (12 R303), X the immediate -/
def execAddImmediate (g : Guard) (d a : Spec) (imm : BitVec 32) (s : State) : Host.Outcome State Fault Refusal := aluImm g d a imm (· + ·) s

/-- D := A - X (12 R303) -/
def execSub (g : Guard) (d a b : Spec) (s : State) : Host.Outcome State Fault Refusal := aluAB g d a b (· - ·) s

/-- D := A - X (12 R303), X the immediate -/
def execSubImmediate (g : Guard) (d a : Spec) (imm : BitVec 32) (s : State) : Host.Outcome State Fault Refusal := aluImm g d a imm (· - ·) s

/-- D := low 64 bits of A x X (12 R303) -/
def execMul (g : Guard) (d a b : Spec) (s : State) : Host.Outcome State Fault Refusal := aluAB g d a b (· * ·) s

/-- D := low 64 bits of A x X (12 R303), X the immediate -/
def execMulImmediate (g : Guard) (d a : Spec) (imm : BitVec 32) (s : State) : Host.Outcome State Fault Refusal := aluImm g d a imm (· * ·) s

/-- D := bitwise and (12 R303) -/
def execAnd (g : Guard) (d a b : Spec) (s : State) : Host.Outcome State Fault Refusal := aluAB g d a b (· &&& ·) s

/-- D := bitwise and (12 R303), X the immediate -/
def execAndImmediate (g : Guard) (d a : Spec) (imm : BitVec 32) (s : State) : Host.Outcome State Fault Refusal := aluImm g d a imm (· &&& ·) s

/-- D := bitwise or (12 R303) -/
def execOr (g : Guard) (d a b : Spec) (s : State) : Host.Outcome State Fault Refusal := aluAB g d a b (· ||| ·) s

/-- D := bitwise or (12 R303), X the immediate -/
def execOrImmediate (g : Guard) (d a : Spec) (imm : BitVec 32) (s : State) : Host.Outcome State Fault Refusal := aluImm g d a imm (· ||| ·) s

/-- D := bitwise xor (12 R303) -/
def execXor (g : Guard) (d a b : Spec) (s : State) : Host.Outcome State Fault Refusal := aluAB g d a b (· ^^^ ·) s

/-- D := bitwise xor (12 R303), X the immediate -/
def execXorImmediate (g : Guard) (d a : Spec) (imm : BitVec 32) (s : State) : Host.Outcome State Fault Refusal := aluImm g d a imm (· ^^^ ·) s

/-- D := shift left by the whole of X (12 R303, 10 R273) -/
def execShl (g : Guard) (d a b : Spec) (s : State) : Host.Outcome State Fault Refusal := aluAB g d a b (shiftLeft 64) s

/-- D := shift left by the whole of X (12 R303, 10 R273), X the immediate -/
def execShlImmediate (g : Guard) (d a : Spec) (imm : BitVec 32) (s : State) : Host.Outcome State Fault Refusal := aluImm g d a imm (shiftLeft 64) s

/-- D := logical shift right (12 R303, 10 R273) -/
def execShrN (g : Guard) (d a b : Spec) (s : State) : Host.Outcome State Fault Refusal := aluAB g d a b (shiftRightL 64) s

/-- D := logical shift right (12 R303, 10 R273), X the immediate -/
def execShrNImmediate (g : Guard) (d a : Spec) (imm : BitVec 32) (s : State) : Host.Outcome State Fault Refusal := aluImm g d a imm (shiftRightL 64) s

/-- D := arithmetic shift right (12 R303, 10 R273) -/
def execShrS (g : Guard) (d a b : Spec) (s : State) : Host.Outcome State Fault Refusal := aluAB g d a b (shiftRightA 64) s

/-- D := arithmetic shift right (12 R303, 10 R273), X the immediate -/
def execShrSImmediate (g : Guard) (d a : Spec) (imm : BitVec 32) (s : State) : Host.Outcome State Fault Refusal := aluImm g d a imm (shiftRightA 64) s

/-- D := high 64 bits of D x A, signed (12 R304) -/
def execMulhS (g : Guard) (d a : Spec) (s : State) : Host.Outcome State Fault Refusal := aluDA g 1 d a mulhS s

/-- D := high 64 bits of D x A, unsigned (12 R304) -/
def execMulhN (g : Guard) (d a : Spec) (s : State) : Host.Outcome State Fault Refusal := aluDA g 1 d a mulhN s

/-- D := D / A, signed, truncating (12 R304) -/
def execDivS (g : Guard) (d a : Spec) (s : State) : Host.Outcome State Fault Refusal := divide g d a divS s

/-- D := D / A, unsigned (12 R304) -/
def execDivN (g : Guard) (d a : Spec) (s : State) : Host.Outcome State Fault Refusal := divide g d a divN s

/-- D := remainder of D / A, signed (12 R304) -/
def execRemS (g : Guard) (d a : Spec) (s : State) : Host.Outcome State Fault Refusal := divide g d a remS s

/-- D := remainder of D / A, unsigned (12 R304) -/
def execRemN (g : Guard) (d a : Spec) (s : State) : Host.Outcome State Fault Refusal := divide g d a remN s

/-- D := the smaller, signed (12 R304) -/
def execMinS (g : Guard) (d a : Spec) (s : State) : Host.Outcome State Fault Refusal := aluDA g 1 d a (fun x y => if x.sle y then x else y) s

/-- D := the smaller, unsigned (12 R304) -/
def execMinN (g : Guard) (d a : Spec) (s : State) : Host.Outcome State Fault Refusal := aluDA g 1 d a (fun x y => if x.ule y then x else y) s

/-- D := the larger, signed (12 R304) -/
def execMaxS (g : Guard) (d a : Spec) (s : State) : Host.Outcome State Fault Refusal := aluDA g 1 d a (fun x y => if x.sle y then y else x) s

/-- D := the larger, unsigned (12 R304) -/
def execMaxN (g : Guard) (d a : Spec) (s : State) : Host.Outcome State Fault Refusal := aluDA g 1 d a (fun x y => if x.ule y then y else x) s

/-- D := D and not A (12 R304) -/
def execAndn (g : Guard) (d a : Spec) (s : State) : Host.Outcome State Fault Refusal := aluDA g 1 d a (fun x y => x &&& ~~~y) s

/-- D := not A (12 R304) -/
def execNot (g : Guard) (d a : Spec) (s : State) : Host.Outcome State Fault Refusal := unary g 1 d a (~~~·) s

/-- D := 0 - A (12 R304) -/
def execNeg (g : Guard) (d a : Spec) (s : State) : Host.Outcome State Fault Refusal := unary g 1 d a (0 - ·) s

/-- Packed padd (12 R305, Table 3) -/
def execPadd (g : Guard) (d a : Spec) (lane : BitVec 2) (s : State) : Host.Outcome State Fault Refusal := aluDA g 1 d a (packed lane .add) s

/-- Packed psub (12 R305, Table 3) -/
def execPsub (g : Guard) (d a : Spec) (lane : BitVec 2) (s : State) : Host.Outcome State Fault Refusal := aluDA g 1 d a (packed lane .sub) s

/-- Packed padds (12 R305, Table 3) -/
def execPadds (g : Guard) (d a : Spec) (lane : BitVec 2) (s : State) : Host.Outcome State Fault Refusal := aluDA g 1 d a (packed lane .adds) s

/-- Packed psubs (12 R305, Table 3) -/
def execPsubs (g : Guard) (d a : Spec) (lane : BitVec 2) (s : State) : Host.Outcome State Fault Refusal := aluDA g 1 d a (packed lane .subs) s

/-- Packed pmin (12 R305, Table 3) -/
def execPmin (g : Guard) (d a : Spec) (lane : BitVec 2) (s : State) : Host.Outcome State Fault Refusal := aluDA g 1 d a (packed lane .min) s

/-- Packed pmax (12 R305, Table 3) -/
def execPmax (g : Guard) (d a : Spec) (lane : BitVec 2) (s : State) : Host.Outcome State Fault Refusal := aluDA g 1 d a (packed lane .max) s

/-- Packed pshl (12 R305, Table 3) -/
def execPshl (g : Guard) (d a : Spec) (lane : BitVec 2) (s : State) : Host.Outcome State Fault Refusal := aluDA g 1 d a (packed lane .shl) s

/-- Packed pshr (12 R305, Table 3) -/
def execPshr (g : Guard) (d a : Spec) (lane : BitVec 2) (s : State) : Host.Outcome State Fault Refusal := aluDA g 1 d a (packed lane .shr) s

/-- D := leading zeros of A (12 R306) -/
def execClz (g : Guard) (d a : Spec) (s : State) : Host.Outcome State Fault Refusal := unary g 1 d a (fun x => BitVec.ofNat 64 (leadingZeros x 64)) s

/-- D := trailing zeros of A (12 R306) -/
def execCtz (g : Guard) (d a : Spec) (s : State) : Host.Outcome State Fault Refusal := unary g 1 d a (fun x => BitVec.ofNat 64 (trailingZeros x)) s

/-- D := one bits of A (12 R306) -/
def execPopc (g : Guard) (d a : Spec) (s : State) : Host.Outcome State Fault Refusal := unary g 1 d a (fun x => BitVec.ofNat 64 (oneBits x)) s

/-- D := bits of A reversed (12 R306) -/
def execBrev (g : Guard) (d a : Spec) (s : State) : Host.Outcome State Fault Refusal := unary g 1 d a bitReverse s

/-- D := bytes of A reversed (12 R306) -/
def execBswap (g : Guard) (d a : Spec) (s : State) : Host.Outcome State Fault Refusal := unary g 1 d a byteSwap s

/-- Sign-extended field (12 R306) -/
def execExtS (g : Guard) (d a : Spec) (pos wm1 : BitVec 6) (s : State) : Host.Outcome State Fault Refusal := unary g 2 d a (fun x => extractS x pos.toNat (wm1.toNat + 1)) s

/-- Zero-extended field (12 R306) -/
def execExtN (g : Guard) (d a : Spec) (pos wm1 : BitVec 6) (s : State) : Host.Outcome State Fault Refusal := unary g 2 d a (fun x => extractN x pos.toNat (wm1.toNat + 1)) s

/-- Field of D replaced by the low bits of A (12 R306) -/
def execIns (g : Guard) (d a : Spec) (pos wm1 : BitVec 6) (s : State) : Host.Outcome State Fault Refusal := aluDA g 2 d a (fun x y => insertField x y pos.toNat (wm1.toNat + 1)) s

/-- D := A (12 R307) -/
def execMov (g : Guard) (d a : Spec) (s : State) : Host.Outcome State Fault Refusal := unary g 1 d a (fun x => x) s

/-- D := IMM, sign-extended (12 R307). -/
def execLi (g : Guard) (d : Spec) (imm : BitVec 32) (s : State) : Host.Outcome State Fault Refusal :=
  issue g 2 (fun w => do
    writeD w d ⟨sext32 imm, .clean⟩
    pure .next) s

/-- D := IMM in <63:32>, D<31:0> kept (12 R307). -/
def execLih (g : Guard) (d : Spec) (imm : BitVec 32) (s : State) : Host.Outcome State Fault Refusal :=
  issue g 2 (fun w => do
    let x ← readSrc w d
    writeD w d ⟨imm ++ x.v.extractLsb' 0 32, markOf [x.mark]⟩
    pure .next) s

/-- D := A + (B << sh) + displacement; no access and no check (12 R308). -/
def execLea (g : Guard) (d a b : Spec) (sh : BitVec 4) (disp : BitVec 28) (s : State) : Host.Outcome State Fault Refusal :=
  issue g 2 (fun w => do
    let x ← readSrc w a
    let y ← readSrc w b
    writeD w d ⟨x.v + (y.v <<< sh.toNat) + disp.signExtend 64, markOf [x.mark, y.mark]⟩
    pure .next) s

/-- pD := condition 0 of A and B (12 R309, 11 R287) -/
def execCmpEq (g : Guard) (d a b : Spec) (s : State) : Host.Outcome State Fault Refusal := compare g d a b 0 s

/-- pD := condition 1 of A and B (12 R309, 11 R287) -/
def execCmpNe (g : Guard) (d a b : Spec) (s : State) : Host.Outcome State Fault Refusal := compare g d a b 1 s

/-- pD := condition 2 of A and B (12 R309, 11 R287) -/
def execCmpLtS (g : Guard) (d a b : Spec) (s : State) : Host.Outcome State Fault Refusal := compare g d a b 2 s

/-- pD := condition 3 of A and B (12 R309, 11 R287) -/
def execCmpGeS (g : Guard) (d a b : Spec) (s : State) : Host.Outcome State Fault Refusal := compare g d a b 3 s

/-- pD := condition 4 of A and B (12 R309, 11 R287) -/
def execCmpLtN (g : Guard) (d a b : Spec) (s : State) : Host.Outcome State Fault Refusal := compare g d a b 4 s

/-- pD := condition 5 of A and B (12 R309, 11 R287) -/
def execCmpGeN (g : Guard) (d a b : Spec) (s : State) : Host.Outcome State Fault Refusal := compare g d a b 5 s

/-- pD := condition 6 of A and B (12 R309, 11 R287) -/
def execCmpAny (g : Guard) (d a b : Spec) (s : State) : Host.Outcome State Fault Refusal := compare g d a b 6 s

/-- pD := condition 7 of A and B (12 R309, 11 R287) -/
def execCmpNone (g : Guard) (d a b : Spec) (s : State) : Host.Outcome State Fault Refusal := compare g d a b 7 s

/-- pD := cond(A, IMM), IMM sign-extended (12 R309). -/
def execCmpi (g : Guard) (d a : Spec) (cond : BitVec 3) (imm : BitVec 32) (s : State) : Host.Outcome State Fault Refusal :=
  issue g 2 (fun w => do
    let x ← readSrc w a
    let y : Val := ⟨sext32 imm, .clean⟩
    setRegsAct w (fun r => setPred r d.toNat (condHolds cond x.v y.v) (compareMark cond x y))
    pure .next) s

/-- pand of predicates (12 R310) -/
def execPand (g : Guard) (d a b : Spec) (s : State) : Host.Outcome State Fault Refusal := predAB g d a b (· && ·) s

/-- por of predicates (12 R310) -/
def execPor (g : Guard) (d a b : Spec) (s : State) : Host.Outcome State Fault Refusal := predAB g d a b (· || ·) s

/-- pxor of predicates (12 R310) -/
def execPxor (g : Guard) (d a b : Spec) (s : State) : Host.Outcome State Fault Refusal := predAB g d a b xor s

/-- pandn of predicates (12 R310) -/
def execPandn (g : Guard) (d a b : Spec) (s : State) : Host.Outcome State Fault Refusal := predAB g d a b (fun x y => x && !y) s

/-- pD := 1 (12 R310). -/
def execPset (g : Guard) (d : Spec) (s : State) : Host.Outcome State Fault Refusal :=
  issue g 1 (fun w => do
    setRegsAct w (fun r => setPred r d.toNat true .clean)
    pure .next) s

/-- pD := 0 (12 R310). -/
def execPclr (g : Guard) (d : Spec) (s : State) : Host.Outcome State Fault Refusal :=
  issue g 1 (fun w => do
    setRegsAct w (fun r => setPred r d.toNat false .clean)
    pure .next) s

/-- pD := not pA (12 R310). -/
def execPnot (g : Guard) (d a : Spec) (s : State) : Host.Outcome State Fault Refusal := predA g d a (!·) s

/-- pD := pA (12 R310). -/
def execPmov (g : Guard) (d a : Spec) (s : State) : Host.Outcome State Fault Refusal := predA g d a (fun x => x) s

/-- D := p63 to p0 (12 R310). -/
def execRdp (g : Guard) (d : Spec) (s : State) : Host.Outcome State Fault Refusal :=
  issue g 1 (fun w => do
    let r ← regsAct w
    writeD w d ⟨r.p, if r.pMark.isEmpty then .clean else .derived⟩
    pure .next) s

/-- pn := A<n> for every n (12 R310). -/
def execWrp (g : Guard) (a : Spec) (s : State) : Host.Outcome State Fault Refusal :=
  issue g 1 (fun w => do
    let x ← readSrc w a
    let m : PMark := if x.mark.isDerived then .derived else .clean
    setRegsAct w (fun r => { r with p := x.v, pMark := ssetAll .clean [] 0 (List.replicate 64 m) })
    pure .next) s

end Sys2Proof.Machine
end

