-- ==== Sys2Proof/Machine/ControlFlow.lean ====
section
/-!
DEFINITION. Transfers of control (12 R311 to R314), rotation, and the trap group (12 R334).
-/

namespace Sys2Proof.Machine

/-- The PC of the acting task. -/
def pcAct (w : Who) : Act Word := do
  let r ← regsAct w
  pure r.pc

/-- The line a B-form or L-form transfer goes to (11 R286). -/
def relTarget (pc : Word) (off : Word) : Word := lineAddr pc + 32 * off

/-- The recorder's view of a branch: a data-derived predicate makes the task live unless the branch qualifies as the
task's one branch guard, with FAILPC the path not taken (06 R144, R145). -/
def noteBranch (w : Who) (g : Guard) (failPc : Option Word) (s : State) : State :=
  if !g.en then s
  else
    let r := regsOf s w.core w.bank
    match sget PMark.clean r.pMark g.pred.toNat, failPc with
    | .clean, _ => s
    | .guard c size sg inS addr other second, some fp =>
      let gw : BitVec 8 := BitVec.ofNat 8 (size % 16 + bitAt 4 (r.p.getLsbD g.pred.toNat) + bitAt 5 sg + bitAt 6 second +
        bitAt 7 inS)
      recUpd s w.task (fun k =>
        if k.branched then { k with live := true }
        else { k with branched := true, branch := some (gw, c, other, addr, fp) })
    | _, _ => recLive s w.task

/-- The line of the fall-through path of an instruction of `n` slices at `pc`, when that path begins a line: the instruction ends its line, or
only padding stands after it there (06 R145; 11 R279, 12 R300). -/
def fallLine (w : Who) (pc : Word) (n : Nat) (s : State) : Option Word :=
  let next := nextPc pc n
  if sliceNum next = 1 then some (lineAddr next)
  else
    match (fetchLine w (lineAddr next)).go s with
    | (.ok line, _) => if (nextFull line (sliceNum next)).isNone then some (lineAddr next + 32) else none
    | _ => none

/-- The recorder's view of a branch of `n` slices at `pc` whose other path falls through. -/
def noteFall (w : Who) (g : Guard) (pc : Word) (n : Nat) (s : State) : State := noteBranch w g (fallLine w pc n s) s

/-- A transfer of `n` slices to the line that `target` computes. -/
def branchTo (g : Guard) (n : Nat) (target : Who → Act Word) (link : Bool) (s : State) :
    Host.Outcome State Fault Refusal :=
  let squash := fun (w : Who) (s : State) =>
    match (target w).go s with
    | (.ok t, _) => noteBranch w g (some t) s
    | _ => noteBranch w g none s
  issueWith g n squash (fun w => do
    let pc ← pcAct w
    let t ← target w
    require (t &&& 31 == 0) .alignment t
    let f ← transfer w t
    if link then writeNoPush w 31 ⟨lineAddr pc + 32, .clean⟩
    change (noteFall w g pc n)
    pure f) s

/-- The target of br and call. -/
def offTarget (off : Word) (w : Who) : Act Word := do
  let pc ← pcAct w
  pure (relTarget pc off)

/-- The target of jr and callr; a data-derived address makes the task live (06 R144). -/
def regTarget (a : Spec) (w : Who) : Act Word := do
  let x ← readSrc w a
  noteAddress w x
  pure x.v

/-- br: to the line at the instruction's line + 32 x OFF (12 R311). -/
def execBr (g : Guard) (off : BitVec 18) (s : State) : Host.Outcome State Fault Refusal :=
  branchTo g 1 (offTarget (off.signExtend 64)) false s

/-- br in two slices. -/
def execBrLong (g : Guard) (off : BitVec 32) (s : State) : Host.Outcome State Fault Refusal :=
  branchTo g 2 (offTarget (off.signExtend 64)) false s

/-- call: as br, and g31 := the following line (12 R311). -/
def execCall (g : Guard) (off : BitVec 18) (s : State) : Host.Outcome State Fault Refusal :=
  branchTo g 1 (offTarget (off.signExtend 64)) true s

/-- call in two slices. -/
def execCallLong (g : Guard) (off : BitVec 32) (s : State) : Host.Outcome State Fault Refusal :=
  branchTo g 2 (offTarget (off.signExtend 64)) true s

/-- jr: to the line A addresses (12 R312). -/
def execJr (g : Guard) (a : Spec) (s : State) : Host.Outcome State Fault Refusal := branchTo g 1 (regTarget a) false s

/-- callr: reads A, g31 := the next line, then transfers (12 R312). -/
def execCallr (g : Guard) (a : Spec) (s : State) : Host.Outcome State Fault Refusal := branchTo g 1 (regTarget a) true s

/-- ret: to g31 (12 R312). -/
def execRet (g : Guard) (s : State) : Host.Outcome State Fault Refusal := branchTo g 1 (regTarget 31) false s

/-- rotw: RB := the field (12 R313). -/
def execRotw (g : Guard) (rb : BitVec 3) (s : State) : Host.Outcome State Fault Refusal :=
  issue g 1 (fun w => do
    setRegsAct w (fun r => { r with rb := rb })
    pure .next) s

/-- The rotate-and-branch loop (12 R314). -/
def loopTo (g : Guard) (n : Nat) (cnt : Spec) (off : Word) (s : State) : Host.Outcome State Fault Refusal :=
  let squash := fun (w : Who) (s : State) =>
    let pc := (regsOf s w.core w.bank).pc
    match (readG w cnt.toNat).go s with
    | (.ok x, _) => if x.v.toNat ≥ 2 then noteBranch w g (some (relTarget pc off)) s else noteFall w g pc n s
    | _ => noteBranch w g none s
  issueWith g n squash (fun w => do
    let pc ← pcAct w
    let x ← readG w cnt.toNat
    if x.v.toNat ≥ 2 then
      let f ← transfer w (relTarget pc off)
      writeNoPush w cnt.toNat ⟨x.v - 1, markOf [x.mark]⟩
      setRegsAct w (fun r => { r with rb := r.rb + 7 })
      change (noteFall w g pc n)
      pure f
    else do
      writeNoPush w cnt.toNat ⟨0, markOf [x.mark]⟩
      change (noteFall w g pc n)
      pure .next) s

def execLoop (g : Guard) (cnt : Spec) (off : BitVec 12) (s : State) : Host.Outcome State Fault Refusal :=
  loopTo g 1 cnt (off.signExtend 64) s

def execLoopLong (g : Guard) (cnt : Spec) (off : BitVec 32) (s : State) : Host.Outcome State Fault Refusal :=
  loopTo g 2 cnt (off.signExtend 64) s

/-- brk raises BREAK with the next instruction as its resume point (12 R334, 09 R244). -/
def execBrk (g : Guard) (s : State) : Host.Outcome State Fault Refusal := issue g 1 (fun _ => trapOpen .break_) s

/-- rti returns from the handler; at depth 0 it raises ILLEGAL_OPCODE (12 R334, 09 R244). -/
def execRti (g : Guard) (s : State) : Host.Outcome State Fault Refusal :=
  issue g 1 (fun w => do
    let r ← regsAct w
    match returnFrom r with
    | none => trapOpen .illegalOpcode
    | some r' => do
      setRegsAct w (fun _ => r')
      change (fun s => updBank s w.core w.bank Bank.fromHandler)
      pure .gone) s

/-- trap enters the handler exactly as brk does; without a handler, or in one, it ends the task with code 0x11 and INFO A
(12 R334, 03 R69). Where A names an operand queue and the handler is entered, the head stays in the queue: the rules do not say whether it
is popped (log 92). -/
def execTrap (g : Guard) (a : Spec) (s : State) : Host.Outcome State Fault Refusal :=
  issue g 1 (fun w => do
    let x ← readSrc w a
    let r ← regsAct w
    if r.evec != 0 && r.depth == 0 then trapOpen .break_
    else do
      endByTrap w.task w.core .break_ r.pc x.v
      change (fun s => { s with raised := true })
      pure .gone) s

end Sys2Proof.Machine
end

