-- ==== Sys2Proof/Machine/Delivery.lean ====
section
/-!
DEFINITION. Traps that are delivered at an instruction boundary (09 R244, R245; 03 R69; 13 R337; 02 R42; 07 R178), fault descriptors
(07 R180, R182), page walks (R174, R175) and the end of an invalidation (R176).
-/

namespace Sys2Proof.Machine

/-! ### Delivery at the boundary (09 R245) -/

/-- The bank whose pending traps a core delivers at its boundary, when no POWER_FAIL is due before them. -/
def boundaryBank (s : State) (c : Nat) : Option Nat :=
  match (coreOf s c).active with
  | some b =>
    if controlRuns s c b && (bankOf s c b).miss.isNone && !(bankOf s c b).leaving && (powerFailDue s c).isNone then some b else none
  | none => none

/-- The pending trap taken first at a core's boundary, where it meets a condition. -/
def deliverIf (c : Nat) (ok : PendTrap → Bool) : Act Unit := do
  let s ← state
  let b ← need (boundaryBank s c) "no boundary takes a trap"
  let (p, rest) ← need (firstPend (bankOf s c b).pend) "no trap is pending"
  needs (ok p) "another trap comes first"
  deliver c b p rest

/-- A trap that ends its task (03 R69). -/
def Trap.terminates : Trap → Bool
  | .break_ | .powerFail | .preempt => false
  | _ => true

/-- A terminating trap ends the task and its launch (03 R69). -/
def execTerminatingTrap (core : BitVec 8) (s : State) : Host.Outcome State Fault Refusal :=
  asStep (deliverIf core.toNat (fun p => p.miss.isNone && p.code.terminates)) s

/-- A collective's fault reaches its task (02 R42). -/
def execCollectiveFault (core : BitVec 8) (s : State) : Host.Outcome State Fault Refusal :=
  asStep (deliverIf core.toNat (fun p => p.src == .collective)) s

/-- A trap an engine raised after dispatch reaches the control core (13 R337). -/
def execEngineTrapDelivery (core : BitVec 8) (s : State) : Host.Outcome State Fault Refusal :=
  asStep (deliverIf core.toNat (fun p => p.src == .engine)) s

/-- BREAK or POWER_FAIL enters the handler at SY_EVEC (09 R244). -/
def execTrapEntry (core : BitVec 8) (s : State) : Host.Outcome State Fault Refusal :=
  asStep (do
    let c := core.toNat
    let s ← state
    match powerFailDue s c with
    | some b => do
      needs ((regsOf s c b).evec != 0) "no handler is set"
      takePowerFail c b
    | none => do
      let b ← need (boundaryBank s c) "no boundary takes a trap"
      let r := regsOf s c b
      needs (r.evec != 0 && r.depth == 0) "no handler is entered"
      deliverIf c (fun p => p.code == .break_)) s

/-- A local miss: its abort is completed, or one that an engine raised is taken (07 R178). -/
def execTranslation (core : BitVec 8) (s : State) : Host.Outcome State Fault Refusal :=
  asStep (do
    let c := core.toNat
    let s ← state
    let b ← need (coreOf s c).active "no task runs on the core"
    if (bankOf s c b).miss.isSome then finishMiss c b else deliverIf c (fun p => p.miss.isSome)) s

/-! ### Fault descriptors (07 R180, R182) -/

/-- The 32 bytes of a descriptor. -/
def descBytes (k : Desc) : List Byte :=
  leBytes 8 (k.va % 2 ^ 56 + k.kind.toNat * 2 ^ 56 + k.level.toNat * 2 ^ 60) ++
    leBytes 8 (k.ctx % 64 + k.core % 256 * 2 ^ 8 + bitAt 16 k.remote + k.ticket.toNat * 2 ^ 32) ++ leBytes 8 k.id.toNat ++
    leBytes 8 0

/-- RING of SY_KEEPER (07 Table 6). -/
def keeperRing (w : Word) : Nat := fld w 6 50 * 64

/-- The descriptor is counted as written. -/
def markWritten (s : State) (d : Nat) (id : BitVec 32) : State :=
  updDie s d (fun q => { q with descs := q.descs.map (fun k => if k.id = id then { k with written := true } else k) })

/-- A copy of the keeper's record becomes ready at priority 7, unless one is pending or running; where none can, the accesses that
joined the descriptor end as on a die without a keeper (07 R180, R182; 05 R114; 16 R420). -/
def keeperCopy (d : Nat) (id : BitVec 32) (addr : Word) : Act Unit := do
  let s ← state
  let x := (dieOf s d).keeperCtx
  if ((dieOf s d).keeperTask.bind (taskOf s)).isSome then pure ()
  else
    match ← looseRecord x addr with
    | none => settleDesc d id (some .translation)
    | some r => do
      let q := { looseTask x r addr 7 d (readyCluster r 0) with keeperOf := some d }
      match ← enrol .keeper q with
      | .yes t => change (fun s => updDie s d (fun k => { k with keeperTask := some t }))
      | _ => pure ()

/-- The oldest descriptor that is not written goes to the keeper's ring, once the ring has room, and a copy of the keeper's record is
made ready. -/
def execFaultDescriptorWrite (die : BitVec 2) (id : BitVec 32) (s : State) : Host.Outcome State Fault Refusal :=
  asStep (do
    let d := die.toNat
    let s ← state
    let k ← need ((dieOf s d).descs.find? (fun k => !k.written)) "no descriptor waits to be written"
    needs (k.id == id) "another descriptor comes first"
    waitUntil (shepherdsRun s)
    let x := (dieOf s d).keeperCtx
    let ring := keeperRing (dieOf s d).keeper
    let lost := do
      change (fun s => markWritten s d id)
      settleDesc d id (some .translation)
    if !keeperOn s d then lost
    else
      match ← devRead x ring 24 with
      | .error _ => lost
      | .ok hd => do
        let prod := leWord ((hd.drop 8).take 8)
        let cons := leWord ((hd.drop 16).take 8)
        waitUntil ((prod - cons).toNat < 256)
        match ← devWrite x (ring + 64 + 32 * (prod.toNat % 256)) (descBytes k) with
        | .error _ => lost
        | .ok _ => do
          let _ ← devWriteWord x (ring + 8) (prod + 1)
          change (fun s => markWritten s d id)
          keeperCopy d id (leWord (hd.take 8))) s

/-! ### Page walks (07 R169 to R175) -/

/-- The right an access needs on its page (07 R172). -/
def AccKind.right : AccKind → Right
  | .load | .barrier _ => .rd
  | .store | .stf => .w
  | .atomic | .casSec => .rdw
  | .copyRead => .er
  | .copyWrite _ => .ew

/-- The rights that accesses of a bank ask for at an address: those it has issued and that have not performed, and pages of its queued
commands. -/
def walkRights (s : State) (c b x va : Nat) : List Right :=
  let k := bankOf s c b
  let accs := (k.inflight ++ k.tickets.map (fun e => e.2.acc)).filter (fun a => a.ctx == x && a.va ≤ va && va < a.va + a.len)
  let pages := k.queues.flatMap (fun q => q.2.flatMap (fun m => m.pages.filter (fun p => p.vpn == va / 0x10000)))
  accs.map (fun a => a.kind.right) ++ pages.map (fun p => if p.write then .ew else .er)

/-- A walk for an access of the task that runs on a core, before it performs: it fills the caches and sets A, and D for a write
(07 R174, R175). -/
def execPageWalk (core : BitVec 8) (va : Word) (write : Bool) (s : State) : Host.Outcome State Fault Refusal :=
  asStep (do
    let s ← state
    let w ← need (whoRuns s core.toNat) "no task runs on the core"
    let k ← need (ctxOf s w.ctx) "the context is not live"
    waitUntil (enginesRun s)
    let right ← need ((walkRights s w.core w.bank w.ctx va.toNat).find? (fun r => r.writes == write)) "no access of the task waits there"
    let die := coreDie w.core
    let _ ← translate (some w.core) die (some die) w.ctx k va.toNat right) s

/-! ### The end of an invalidation (07 R176) -/

/-- Fields of SY_XINV (07 Table 5). -/
structure Xinv where
  package : Bool
  kind : Nat
  ctx : Nat
  vpn : Nat
deriving DecidableEq, Repr

def xinvOf (w : Word) : Xinv := { package := fld w 60 2 == 1, kind := fld w 57 3, ctx := fld w 51 6, vpn := fld w 0 40 }

/-- An address of a context is covered; `heap` tells whether it lies in the heap window. -/
def Xinv.covers (v : Xinv) (x va : Nat) (heap : Bool) : Bool :=
  v.kind == 3 || (v.ctx == x && (v.kind == 1 || (v.kind == 0 && va / 0x10000 == v.vpn) || (v.kind == 2 && heap)))

/-- The address lies in its context's heap window. -/
def heapVa (s : State) (x va : Nat) : Bool :=
  match ctxOf s x with
  | some k => inHeap k va
  | none => false

/-- A cached entry of a level covers the invalidated page. -/
def spans (level a b : Nat) : Bool := a / 2 ^ levelShift level == b / 2 ^ levelShift level

/-- The covered entries of a core's caches go. -/
def Xinv.dropCore (v : Xinv) (k : Core) : Core :=
  { k with tlb := k.tlb.filter (fun e =>
             !(v.kind == 3 || (v.ctx == e.ctx && (v.kind == 1 || (v.kind == 0 && spans e.level (e.vpn * 0x10000) (v.vpn * 0x10000)))))),
           hatCache := k.hatCache.filter (fun e => !(v.kind == 3 || (v.ctx == e.1 && v.kind != 0))) }

/-- The covered entries of a die's walk cache go. -/
def Xinv.dropDie (v : Xinv) (d : Die) : Die :=
  { d with walkCache := d.walkCache.filter (fun e =>
      !(v.kind == 3 || (v.ctx == e.1 && (v.kind == 1 || (v.kind == 0 && e.2.2.1 == v.vpn * 0x10000 / 2 ^ levelShift e.2.1))))) }

/-- The levels at which an entry covers the invalidated page: those of the entries that TLBs and walk caches hold, and of the leaf in
memory. -/
def Xinv.levels (s : State) (v : Xinv) : List Nat :=
  let va := v.vpn * 0x10000
  4 :: s.cores.flatMap (fun e => (e.2.tlb.filter (fun t => t.covers v.ctx va)).map (fun t => t.level)) ++
    s.dies.flatMap (fun e => (e.2.walkCache.filter (fun t => t.1 == v.ctx && t.2.2.1 == va / 2 ^ levelShift t.2.1)).map (fun t => t.2.1)) ++
    (match (ctxOf s v.ctx).bind (fun k => peekFrom s va 4 1 k.ptRoot) with
      | some e => [e.1]
      | none => [])

/-- An address of a context used an entry that is covered: KIND 0 covers every address under an entry of its page. -/
def Xinv.used (s : State) (v : Xinv) (x va : Nat) : Bool :=
  v.covers x va (heapVa s x va) ||
    (v.kind == 0 && v.ctx == x && (v.levels s).any (fun l => spans l va (v.vpn * 0x10000)))

/-- What a bank has issued, parked or not, or its queued commands have captured, used a covered entry. A request that a ticket answered has
used the entries by which its own die found the owner (07 R183). -/
def Xinv.bankUses (s : State) (v : Xinv) (x : Nat) (k : Bank) : Bool :=
  k.inflight.any (fun a => v.used s a.ctx a.va) || k.tickets.any (fun e => v.used s e.2.acc.ctx e.2.acc.va) ||
    k.queues.any (fun q => q.2.any (fun m => m.pages.any (fun p => v.used s x (p.vpn * 0x10000))))

/-- A page that a checkpoint or restore has captured was translated by a covered entry. -/
def Xinv.ckptUses (s : State) (v : Xinv) (x : Nat) (q : Ckpt) : Bool :=
  q.pending.any (fun p => (q.shards[p.1]?).any (fun e => v.used s x (e.1 + 65536 * p.2.1)))

/-- The context of a task. -/
def ctxNumber (s : State) (t : Nat) : Nat :=
  match taskOf s t with
  | some k => k.ctx
  | none => 64

/-- An access that used a covered entry has still to perform: one in flight or parked, a page that a queued command or a checkpoint has
captured, a request on its way, an stf that its owner holds. -/
def xinvBusy (s : State) (v : Xinv) (inScope : Nat → Bool) : Bool :=
  s.cores.any (fun e => inScope (coreDie e.1) &&
    (e.2.banks.any (fun b => v.bankUses s ((b.2.task.map (ctxNumber s)).getD 64) b.2) ||
      e.2.streamed.any (fun o => o.saved.any (v.bankUses s (ctxNumber s o.task))))) ||
    s.net.reqs.any (fun r => (inScope (coreDie r.req) || inScope r.owner) && v.used s r.acc.ctx r.acc.va) ||
    s.ctxs.any (fun e => inScope (coreDie e.2.ckpt.core) && v.ckptUses s e.1 e.2.ckpt) ||
    s.dies.any (fun e => e.2.heldStf.any (fun r => (inScope (coreDie r.req) || inScope e.1) && v.used s r.acc.ctx r.acc.va))

/-- No cache in SCOPE holds a covered entry any more and every access that used one has performed: BUSY clears. -/
def execXinvComplete (die : BitVec 2) (s : State) : Host.Outcome State Fault Refusal :=
  asStep (do
    let d := die.toNat
    let s ← state
    let w ← need (dieOf s d).xinv "no invalidation runs"
    let v := xinvOf w
    let inScope := fun (n : Nat) => v.package || n == d
    waitUntil (!xinvBusy s v inScope)
    change (fun s => s.cores.foldl (fun s e => if inScope (coreDie e.1) then updCore s e.1 v.dropCore else s) s)
    change (fun s => s.dies.foldl (fun s e => if inScope e.1 then updDie s e.1 v.dropDie else s) s)
    change (fun s => updDie s d (fun k => { k with xinv := none }))) s

end Sys2Proof.Machine
end

