-- ==== Sys2Proof/Machine/Dispatch.lean ====
section
/-!
DEFINITION. exec: one arm per constructor of Instr, each one direct call of its meaning.
-/

namespace Sys2Proof.Machine

def exec (i : Instr) (s : State) : Host.Outcome State Fault Refusal :=
  match i with
  | .streamCmd opnd cmd => Sys2Proof.Machine.execStreamCmd opnd cmd s
  | .streamSet opnd cmd => Sys2Proof.Machine.execStreamSet opnd cmd s
  | .streamWait opnd cmd => Sys2Proof.Machine.execStreamWait opnd cmd s
  | .streamFlip opnd cmd => Sys2Proof.Machine.execStreamFlip opnd cmd s
  | .streamMark opnd cmd => Sys2Proof.Machine.execStreamMark opnd cmd s
  | .streamEnd opnd cmd => Sys2Proof.Machine.execStreamEnd opnd cmd s
  | .streamRoute opnd cmd => Sys2Proof.Machine.execStreamRoute opnd cmd s
  | .nop g => Sys2Proof.Machine.execNop g s
  | .add g d a b => Sys2Proof.Machine.execAdd g d a b s
  | .sub g d a b => Sys2Proof.Machine.execSub g d a b s
  | .mul g d a b => Sys2Proof.Machine.execMul g d a b s
  | .and g d a b => Sys2Proof.Machine.execAnd g d a b s
  | .or g d a b => Sys2Proof.Machine.execOr g d a b s
  | .xor g d a b => Sys2Proof.Machine.execXor g d a b s
  | .shl g d a b => Sys2Proof.Machine.execShl g d a b s
  | .shrN g d a b => Sys2Proof.Machine.execShrN g d a b s
  | .shrS g d a b => Sys2Proof.Machine.execShrS g d a b s
  | .addImmediate g d a imm => Sys2Proof.Machine.execAddImmediate g d a imm s
  | .subImmediate g d a imm => Sys2Proof.Machine.execSubImmediate g d a imm s
  | .mulImmediate g d a imm => Sys2Proof.Machine.execMulImmediate g d a imm s
  | .andImmediate g d a imm => Sys2Proof.Machine.execAndImmediate g d a imm s
  | .orImmediate g d a imm => Sys2Proof.Machine.execOrImmediate g d a imm s
  | .xorImmediate g d a imm => Sys2Proof.Machine.execXorImmediate g d a imm s
  | .shlImmediate g d a imm => Sys2Proof.Machine.execShlImmediate g d a imm s
  | .shrNImmediate g d a imm => Sys2Proof.Machine.execShrNImmediate g d a imm s
  | .shrSImmediate g d a imm => Sys2Proof.Machine.execShrSImmediate g d a imm s
  | .mulhS g d a => Sys2Proof.Machine.execMulhS g d a s
  | .mulhN g d a => Sys2Proof.Machine.execMulhN g d a s
  | .divS g d a => Sys2Proof.Machine.execDivS g d a s
  | .divN g d a => Sys2Proof.Machine.execDivN g d a s
  | .remS g d a => Sys2Proof.Machine.execRemS g d a s
  | .remN g d a => Sys2Proof.Machine.execRemN g d a s
  | .minS g d a => Sys2Proof.Machine.execMinS g d a s
  | .minN g d a => Sys2Proof.Machine.execMinN g d a s
  | .maxS g d a => Sys2Proof.Machine.execMaxS g d a s
  | .maxN g d a => Sys2Proof.Machine.execMaxN g d a s
  | .andn g d a => Sys2Proof.Machine.execAndn g d a s
  | .not g d a => Sys2Proof.Machine.execNot g d a s
  | .neg g d a => Sys2Proof.Machine.execNeg g d a s
  | .padd g d a lane => Sys2Proof.Machine.execPadd g d a lane s
  | .psub g d a lane => Sys2Proof.Machine.execPsub g d a lane s
  | .padds g d a lane => Sys2Proof.Machine.execPadds g d a lane s
  | .psubs g d a lane => Sys2Proof.Machine.execPsubs g d a lane s
  | .pmin g d a lane => Sys2Proof.Machine.execPmin g d a lane s
  | .pmax g d a lane => Sys2Proof.Machine.execPmax g d a lane s
  | .pshl g d a lane => Sys2Proof.Machine.execPshl g d a lane s
  | .pshr g d a lane => Sys2Proof.Machine.execPshr g d a lane s
  | .clz g d a => Sys2Proof.Machine.execClz g d a s
  | .ctz g d a => Sys2Proof.Machine.execCtz g d a s
  | .popc g d a => Sys2Proof.Machine.execPopc g d a s
  | .brev g d a => Sys2Proof.Machine.execBrev g d a s
  | .bswap g d a => Sys2Proof.Machine.execBswap g d a s
  | .extS g d a pos wm1 => Sys2Proof.Machine.execExtS g d a pos wm1 s
  | .extN g d a pos wm1 => Sys2Proof.Machine.execExtN g d a pos wm1 s
  | .ins g d a pos wm1 => Sys2Proof.Machine.execIns g d a pos wm1 s
  | .mov g d a => Sys2Proof.Machine.execMov g d a s
  | .li g d imm => Sys2Proof.Machine.execLi g d imm s
  | .lih g d imm => Sys2Proof.Machine.execLih g d imm s
  | .cmpEq g d a b => Sys2Proof.Machine.execCmpEq g d a b s
  | .cmpNe g d a b => Sys2Proof.Machine.execCmpNe g d a b s
  | .cmpLtS g d a b => Sys2Proof.Machine.execCmpLtS g d a b s
  | .cmpGeS g d a b => Sys2Proof.Machine.execCmpGeS g d a b s
  | .cmpLtN g d a b => Sys2Proof.Machine.execCmpLtN g d a b s
  | .cmpGeN g d a b => Sys2Proof.Machine.execCmpGeN g d a b s
  | .cmpAny g d a b => Sys2Proof.Machine.execCmpAny g d a b s
  | .cmpNone g d a b => Sys2Proof.Machine.execCmpNone g d a b s
  | .cmpi g d a cond imm => Sys2Proof.Machine.execCmpi g d a cond imm s
  | .pand g d a b => Sys2Proof.Machine.execPand g d a b s
  | .por g d a b => Sys2Proof.Machine.execPor g d a b s
  | .pxor g d a b => Sys2Proof.Machine.execPxor g d a b s
  | .pandn g d a b => Sys2Proof.Machine.execPandn g d a b s
  | .pset g d => Sys2Proof.Machine.execPset g d s
  | .pclr g d => Sys2Proof.Machine.execPclr g d s
  | .pnot g d a => Sys2Proof.Machine.execPnot g d a s
  | .pmov g d a => Sys2Proof.Machine.execPmov g d a s
  | .rdp g d => Sys2Proof.Machine.execRdp g d s
  | .wrp g a => Sys2Proof.Machine.execWrp g a s
  | .lea g d a b sh disp => Sys2Proof.Machine.execLea g d a b sh disp s
  | .br g off => Sys2Proof.Machine.execBr g off s
  | .brLong g off => Sys2Proof.Machine.execBrLong g off s
  | .call g off => Sys2Proof.Machine.execCall g off s
  | .callLong g off => Sys2Proof.Machine.execCallLong g off s
  | .jr g a => Sys2Proof.Machine.execJr g a s
  | .callr g a => Sys2Proof.Machine.execCallr g a s
  | .ret g => Sys2Proof.Machine.execRet g s
  | .rotw g rb => Sys2Proof.Machine.execRotw g rb s
  | .loop g cnt off => Sys2Proof.Machine.execLoop g cnt off s
  | .loopLong g cnt off => Sys2Proof.Machine.execLoopLong g cnt off s
  | .ldS g d a c q => Sys2Proof.Machine.execLdS g d a c q s
  | .ldSDisp g d a c q disp => Sys2Proof.Machine.execLdSDisp g d a c q disp s
  | .ldN g d a c q => Sys2Proof.Machine.execLdN g d a c q s
  | .ldNDisp g d a c q disp => Sys2Proof.Machine.execLdNDisp g d a c q disp s
  | .st g d a c q => Sys2Proof.Machine.execSt g d a c q s
  | .stDisp g d a c q disp => Sys2Proof.Machine.execStDisp g d a c q disp s
  | .ldSSpaceS g d a c q => Sys2Proof.Machine.execLdSSpaceS g d a c q s
  | .ldSSpaceSDisp g d a c q disp => Sys2Proof.Machine.execLdSSpaceSDisp g d a c q disp s
  | .ldNSpaceS g d a c q => Sys2Proof.Machine.execLdNSpaceS g d a c q s
  | .ldNSpaceSDisp g d a c q disp => Sys2Proof.Machine.execLdNSpaceSDisp g d a c q disp s
  | .stSpaceS g d a c q => Sys2Proof.Machine.execStSpaceS g d a c q s
  | .stSpaceSDisp g d a c q disp => Sys2Proof.Machine.execStSpaceSDisp g d a c q disp s
  | .ldSec g d a c => Sys2Proof.Machine.execLdSec g d a c s
  | .ldSecDisp g d a c disp => Sys2Proof.Machine.execLdSecDisp g d a c disp s
  | .stSec g d a c => Sys2Proof.Machine.execStSec g d a c s
  | .stSecDisp g d a c disp => Sys2Proof.Machine.execStSecDisp g d a c disp s
  | .ldq g d a c q => Sys2Proof.Machine.execLdq g d a c q s
  | .ldqDisp g d a c q disp => Sys2Proof.Machine.execLdqDisp g d a c q disp s
  | .stf g d a c q => Sys2Proof.Machine.execStf g d a c q s
  | .stfDisp g d a c q disp => Sys2Proof.Machine.execStfDisp g d a c q disp s
  | .atomAdd g d a b sz log c => Sys2Proof.Machine.execAtomAdd g d a b sz log c s
  | .atomAnd g d a b sz log c => Sys2Proof.Machine.execAtomAnd g d a b sz log c s
  | .atomOr g d a b sz log c => Sys2Proof.Machine.execAtomOr g d a b sz log c s
  | .atomXor g d a b sz log c => Sys2Proof.Machine.execAtomXor g d a b sz log c s
  | .atomSwap g d a b sz log c => Sys2Proof.Machine.execAtomSwap g d a b sz log c s
  | .atomMinS g d a b sz log c => Sys2Proof.Machine.execAtomMinS g d a b sz log c s
  | .atomMaxS g d a b sz log c => Sys2Proof.Machine.execAtomMaxS g d a b sz log c s
  | .atomCas g d a b sz log c => Sys2Proof.Machine.execAtomCas g d a b sz log c s
  | .casSec g d a c => Sys2Proof.Machine.execCasSec g d a c s
  | .casSecDisp g d a c disp => Sys2Proof.Machine.execCasSecDisp g d a c disp s
  | .fence g scope mask => Sys2Proof.Machine.execFence g scope mask s
  | .iflush g scope => Sys2Proof.Machine.execIflush g scope s
  | .isync g => Sys2Proof.Machine.execIsync g s
  | .ownT g a n => Sys2Proof.Machine.execOwnT g a n s
  | .ownE g a n => Sys2Proof.Machine.execOwnE g a n s
  | .tkwait g => Sys2Proof.Machine.execTkwait g s
  | .foldSet g a n => Sys2Proof.Machine.execFoldSet g a n s
  | .foldArr g d n => Sys2Proof.Machine.execFoldArr g d n s
  | .foldWait g a n => Sys2Proof.Machine.execFoldWait g a n s
  | .foldAw g n => Sys2Proof.Machine.execFoldAw g n s
  | .spawn g a => Sys2Proof.Machine.execSpawn g a s
  | .exit g => Sys2Proof.Machine.execExit g s
  | .exitSucc g a => Sys2Proof.Machine.execExitSucc g a s
  | .commit g => Sys2Proof.Machine.execCommit g s
  | .wloan g => Sys2Proof.Machine.execWloan g s
  | .yield g => Sys2Proof.Machine.execYield g s
  | .sysrd g d n => Sys2Proof.Machine.execSysrd g d n s
  | .syswr g n a => Sys2Proof.Machine.execSyswr g n a s
  | .brk g => Sys2Proof.Machine.execBrk g s
  | .rti g => Sys2Proof.Machine.execRti g s
  | .trap g a => Sys2Proof.Machine.execTrap g a s
  | .mMma m => Sys2Proof.Machine.execMMma m s
  | .mMmaz m => Sys2Proof.Machine.execMMmaz m s
  | .mMmv m => Sys2Proof.Machine.execMMmv m s
  | .mMmvz m => Sys2Proof.Machine.execMMmvz m s
  | .mPerm m => Sys2Proof.Machine.execMPerm m s
  | .mAzero acc cnt value => Sys2Proof.Machine.execMAzero acc cnt value s
  | .mAcopy acc cnt src => Sys2Proof.Machine.execMAcopy acc cnt src s
  | .mAload off rows acc => Sys2Proof.Machine.execMAload off rows acc s
  | .mAstore off rows acc => Sys2Proof.Machine.execMAstore off rows acc s
  | .mEpi m => Sys2Proof.Machine.execMEpi m s
  | .mEpiSend m => Sys2Proof.Machine.execMEpiSend m s
  | .mBind off ring => Sys2Proof.Machine.execMBind off ring s
  | .vAdd v => Sys2Proof.Machine.execVAdd v s
  | .vSub v => Sys2Proof.Machine.execVSub v s
  | .vMul v => Sys2Proof.Machine.execVMul v s
  | .vFma v => Sys2Proof.Machine.execVFma v s
  | .vMin v => Sys2Proof.Machine.execVMin v s
  | .vMax v => Sys2Proof.Machine.execVMax v s
  | .vAbs v => Sys2Proof.Machine.execVAbs v s
  | .vNeg v => Sys2Proof.Machine.execVNeg v s
  | .vAnd v => Sys2Proof.Machine.execVAnd v s
  | .vOr v => Sys2Proof.Machine.execVOr v s
  | .vXor v => Sys2Proof.Machine.execVXor v s
  | .vShl v => Sys2Proof.Machine.execVShl v s
  | .vShr v => Sys2Proof.Machine.execVShr v s
  | .vCmp v => Sys2Proof.Machine.execVCmp v s
  | .vSel v => Sys2Proof.Machine.execVSel v s
  | .vCvt v => Sys2Proof.Machine.execVCvt v s
  | .vQmx v => Sys2Proof.Machine.execVQmx v s
  | .vDqmx v => Sys2Proof.Machine.execVDqmx v s
  | .vExp2 v => Sys2Proof.Machine.execVExp2 v s
  | .vExp v => Sys2Proof.Machine.execVExp v s
  | .vLog2 v => Sys2Proof.Machine.execVLog2 v s
  | .vRcp v => Sys2Proof.Machine.execVRcp v s
  | .vRsqrt v => Sys2Proof.Machine.execVRsqrt v s
  | .vSqrt v => Sys2Proof.Machine.execVSqrt v s
  | .vTanh v => Sys2Proof.Machine.execVTanh v s
  | .vRsum v => Sys2Proof.Machine.execVRsum v s
  | .vRmax v => Sys2Proof.Machine.execVRmax v s
  | .vRmin v => Sys2Proof.Machine.execVRmin v s
  | .vArgmax v => Sys2Proof.Machine.execVArgmax v s
  | .vScan v => Sys2Proof.Machine.execVScan v s
  | .vTopk v => Sys2Proof.Machine.execVTopk v s
  | .vIota v => Sys2Proof.Machine.execVIota v s
  | .vFill v => Sys2Proof.Machine.execVFill v s
  | .vRand v => Sys2Proof.Machine.execVRand v s
  | .vGather v => Sys2Proof.Machine.execVGather v s
  | .vScatter v => Sys2Proof.Machine.execVScatter v s
  | .vMov v => Sys2Proof.Machine.execVMov v s
  | .vSample v => Sys2Proof.Machine.execVSample v s
  | .vVerify v => Sys2Proof.Machine.execVVerify v s
  | .vKvroll v => Sys2Proof.Machine.execVKvroll v s
  | .gkvApp v => Sys2Proof.Machine.execGkvApp v s
  | .xLd x => Sys2Proof.Machine.execXLd x s
  | .xSt x => Sys2Proof.Machine.execXSt x s
  | .xFeed x => Sys2Proof.Machine.execXFeed x s
  | .xKvg x => Sys2Proof.Machine.execXKvg x s
  | .xScat x => Sys2Proof.Machine.execXScat x s
  | .xFill x => Sys2Proof.Machine.execXFill x s
  | .xMcpy x => Sys2Proof.Machine.execXMcpy x s
  | .xPref pb => Sys2Proof.Machine.execXPref pb s
  | .xRsw x => Sys2Proof.Machine.execXRsw x s
  | .lRun l => Sys2Proof.Machine.execLRun l s
  | .lCav l => Sys2Proof.Machine.execLCav l s
  | .lArm ca thr cb inc => Sys2Proof.Machine.execLArm ca thr cb inc s
  | .lCtrSet ctr value => Sys2Proof.Machine.execLCtrSet ctr value s
  | .lCtrAdd ctr value => Sys2Proof.Machine.execLCtrAdd ctr value s
  | .lCtrRd dreg ctr => Sys2Proof.Machine.execLCtrRd dreg ctr s
  | .lFence dreg fold => Sys2Proof.Machine.execLFence dreg fold s
  | .lFenceAll dreg => Sys2Proof.Machine.execLFenceAll dreg s
  | .stepSend t => Sys2Proof.Machine.execStepSend t s
  | .stepRecv t => Sys2Proof.Machine.execStepRecv t s
  | .stepRecvReduceSend t => Sys2Proof.Machine.execStepRecvReduceSend t s
  | .stepCopy t => Sys2Proof.Machine.execStepCopy t s
  | .stepWait t => Sys2Proof.Machine.execStepWait t s
  | .stepLoop t => Sys2Proof.Machine.execStepLoop t s
  | .rpush rs1 rs2 => Sys2Proof.Machine.execRpush rs1 rs2 s
  | .rwaitTiles rd rs1 rs2 => Sys2Proof.Machine.execRwaitTiles rd rs1 rs2 s
  | .rwaitFree rd rs1 rs2 => Sys2Proof.Machine.execRwaitFree rd rs1 rs2 s
  | .rwaitCounter rd rs1 rs2 => Sys2Proof.Machine.execRwaitCounter rd rs1 rs2 s
  | .rwaitPop rd rs1 rs2 => Sys2Proof.Machine.execRwaitPop rd rs1 rs2 s
  | .xiss rs1 rs2 => Sys2Proof.Machine.execXiss rs1 rs2 s
  | .tkrd rd rs1 => Sys2Proof.Machine.execTkrd rd rs1 s
  | .rv64imcInstruction w => Sys2Proof.Machine.execRv64imcInstruction w s
  | .pmCmdRun w => Sys2Proof.Machine.execPmCmdRun w s
  | .pmCmdIdle w => Sys2Proof.Machine.execPmCmdIdle w s
  | .pmCmdHold w => Sys2Proof.Machine.execPmCmdHold w s
  | .pmCmdOff w => Sys2Proof.Machine.execPmCmdOff w s
  | .powerTransitionComplete => Sys2Proof.Machine.execPowerTransitionComplete s
  | .tripEntry cause => Sys2Proof.Machine.execTripEntry cause s
  | .supplyLoss => Sys2Proof.Machine.execSupplyLoss s
  | .powerFail core => Sys2Proof.Machine.execPowerFail core s
  | .finalisationWindowEnd core => Sys2Proof.Machine.execFinalisationWindowEnd core s
  | .syHupDone g a => Sys2Proof.Machine.execSyHupDone g a s
  | .quiesceEnd => Sys2Proof.Machine.execQuiesceEnd s
  | .holdUpSave => Sys2Proof.Machine.execHoldUpSave s
  | .holdUpSequenceEnd => Sys2Proof.Machine.execHoldUpSequenceEnd s
  | .supplyRecovery => Sys2Proof.Machine.execSupplyRecovery s
  | .fundamentalReset => Sys2Proof.Machine.execFundamentalReset s
  | .hotReset => Sys2Proof.Machine.execHotReset s
  | .functionLevelReset => Sys2Proof.Machine.execFunctionLevelReset s
  | .cfgCmdGo w => Sys2Proof.Machine.execCfgCmdGo w s
  | .configurationCheckComplete verdict => Sys2Proof.Machine.execConfigurationCheckComplete verdict s
  | .gangLinkTrainingComplete tick gidx gsize => Sys2Proof.Machine.execGangLinkTrainingComplete tick gidx gsize s
  | .hostApertureRead off n => Sys2Proof.Machine.execHostApertureRead off n s
  | .hostApertureWrite off bytes => Sys2Proof.Machine.execHostApertureWrite off bytes s
  | .doorbell w => Sys2Proof.Machine.execDoorbell w s
  | .ctxCmdCreate w => Sys2Proof.Machine.execCtxCmdCreate w s
  | .ctxCmdRemove w => Sys2Proof.Machine.execCtxCmdRemove w s
  | .ctxCmdReloadGrants w => Sys2Proof.Machine.execCtxCmdReloadGrants w s
  | .ctxCmdComplete => Sys2Proof.Machine.execCtxCmdComplete s
  | .poolDecoderEnable n w => Sys2Proof.Machine.execPoolDecoderEnable n w s
  | .poolDecoderDisable n w => Sys2Proof.Machine.execPoolDecoderDisable n w s
  | .poolDecoderDrained n => Sys2Proof.Machine.execPoolDecoderDrained n s
  | .thresholdArm n w => Sys2Proof.Machine.execThresholdArm n w s
  | .thresholdSample src0 => Sys2Proof.Machine.execThresholdSample src0 s
  | .monCfgWrite n w => Sys2Proof.Machine.execMonCfgWrite n w s
  | .monitorSample n v => Sys2Proof.Machine.execMonitorSample n v s
  | .registerWrite sy addr size w => Sys2Proof.Machine.execRegisterWrite sy addr size w s
  | .launchRead ctx => Sys2Proof.Machine.execLaunchRead ctx s
  | .launchComplete l => Sys2Proof.Machine.execLaunchComplete l s
  | .terminatingTrap core => Sys2Proof.Machine.execTerminatingTrap core s
  | .placement core => Sys2Proof.Machine.execPlacement core s
  | .stealRequest die victim => Sys2Proof.Machine.execStealRequest die victim s
  | .preEmptionVictim t => Sys2Proof.Machine.execPreEmptionVictim t s
  | .preempt core => Sys2Proof.Machine.execPreempt core s
  | .collectiveStart core => Sys2Proof.Machine.execCollectiveStart core s
  | .signaturePost k => Sys2Proof.Machine.execSignaturePost k s
  | .collectiveBlockArrival k => Sys2Proof.Machine.execCollectiveBlockArrival k s
  | .stagingResend k => Sys2Proof.Machine.execStagingResend k s
  | .scheduleTickIssue p => Sys2Proof.Machine.execScheduleTickIssue p s
  | .triggerRelease step k => Sys2Proof.Machine.execTriggerRelease step k s
  | .counterChainFire die k => Sys2Proof.Machine.execCounterChainFire die k s
  | .collectiveComplete p => Sys2Proof.Machine.execCollectiveComplete p s
  | .collectiveFault core => Sys2Proof.Machine.execCollectiveFault core s
  | .epiSendArrival k => Sys2Proof.Machine.execEpiSendArrival k s
  | .rswArrival k => Sys2Proof.Machine.execRswArrival k s
  | .heldArrivalRelease die k => Sys2Proof.Machine.execHeldArrivalRelease die k s
  | .checkpointEngineRun ctx => Sys2Proof.Machine.execCheckpointEngineRun ctx s
  | .granuleCopyAhead ctx k => Sys2Proof.Machine.execGranuleCopyAhead ctx k s
  | .checkpointComplete ctx => Sys2Proof.Machine.execCheckpointComplete ctx s
  | .restoreComplete ctx => Sys2Proof.Machine.execRestoreComplete ctx s
  | .translation core => Sys2Proof.Machine.execTranslation core s
  | .faultDescriptorWrite die id => Sys2Proof.Machine.execFaultDescriptorWrite die id s
  | .pageWalk core va write => Sys2Proof.Machine.execPageWalk core va write s
  | .remoteRequest k => Sys2Proof.Machine.execRemoteRequest k s
  | .remoteResponse k => Sys2Proof.Machine.execRemoteResponse k s
  | .remoteResend k => Sys2Proof.Machine.execRemoteResend k s
  | .replayNotice k => Sys2Proof.Machine.execReplayNotice k s
  | .ticketReplay core k => Sys2Proof.Machine.execTicketReplay core k s
  | .stfHeldPerform die k => Sys2Proof.Machine.execStfHeldPerform die k s
  | .xinvComplete die => Sys2Proof.Machine.execXinvComplete die s
  | .copyTokenWrite core k => Sys2Proof.Machine.execCopyTokenWrite core k s
  | .engineTrapDelivery core => Sys2Proof.Machine.execEngineTrapDelivery core s
  | .sideCoreException core => Sys2Proof.Machine.execSideCoreException core s
  | .trapEntry core => Sys2Proof.Machine.execTrapEntry core s
  | .guardShape core => Sys2Proof.Machine.execGuardShape core s
  | .guardHealth core => Sys2Proof.Machine.execGuardHealth core s
  | .guardBranch core => Sys2Proof.Machine.execGuardBranch core s
  | .syElogRead g d => Sys2Proof.Machine.execSyElogRead g d s
  | .syCkptCheckpoint g a => Sys2Proof.Machine.execSyCkptCheckpoint g a s
  | .syCkptRestore g a => Sys2Proof.Machine.execSyCkptRestore g a s
  | .syKeeper g a => Sys2Proof.Machine.execSyKeeper g a s
  | .syKnoteResolve g a => Sys2Proof.Machine.execSyKnoteResolve g a s
  | .syKnoteRefuse g a => Sys2Proof.Machine.execSyKnoteRefuse g a s
  | .syXinvPage g a => Sys2Proof.Machine.execSyXinvPage g a s
  | .syXinvContext g a => Sys2Proof.Machine.execSyXinvContext g a s
  | .syXinvHeap g a => Sys2Proof.Machine.execSyXinvHeap g a s
  | .syXinvAll g a => Sys2Proof.Machine.execSyXinvAll g a s
  | .sySwarea g a => Sys2Proof.Machine.execSySwarea g a s
  | .sySwload g a => Sys2Proof.Machine.execSySwload g a s
  | .syPeelLoadRun g a rack => Sys2Proof.Machine.execSyPeelLoadRun g a rack s
  | .syPeelRun g a rack => Sys2Proof.Machine.execSyPeelRun g a rack s
  | .syPeelStop g a rack => Sys2Proof.Machine.execSyPeelStop g a rack s
  | .tripCauseCleared => Sys2Proof.Machine.execTripCauseCleared s
  | .loadDataArrival core k => Sys2Proof.Machine.execLoadDataArrival core k s
  | .storePerformedAtHome core k => Sys2Proof.Machine.execStorePerformedAtHome core k s
  | .collectiveBlockAcknowledged k => Sys2Proof.Machine.execCollectiveBlockAcknowledged k s
  | .gangTimeBaseTick => Sys2Proof.Machine.execGangTimeBaseTick s

end Sys2Proof.Machine
end

