-- ==== Sys2Proof/Machine/Turns.lean ====
section
/-!
DEFINITION. What one turn of each agent is: the control core at its boundary (09 R217, R245; 11 R276 to R283), an engine, a side core,
a collective program, a replay stream, a step of the device; and the choice of the agent (log 1).
-/

namespace Sys2Proof.Machine

/-! ### The control core -/

/-- What a control core finds at its boundary. -/
inductive Boundary where
  | run (i : Instr)
  /-- nothing but empty slices up to a slice address -/
  | pass (pc : Word)
  /-- no instruction of the control program is due -/
  | hold
deriving DecidableEq, Repr

/-- The control program of the task runs: it replays no entry, or is live and past its leading WAITs (06 R147, R149, R150). -/
def programRuns (w : Who) (cur : Option Cursor) : Act Bool :=
  match cur with
  | none => pure true
  | some q => if q.live then do pure (!(← liveHeld w q)) else pure false

/-- The instruction at the boundary of a task. -/
def atBoundary (w : Who) : Act Boundary := do
  if ← programRuns w (bankOf (← state) w.core w.bank).cursor then
    match ← fetchNext w with
    | .instr i => pure (.run i)
    | .pass pc => pure (.pass pc)
  else pure .hold

/-- The boundary with no instruction to trap: the highest pending trap is taken (09 R245). -/
def takePending (w : Who) (s : State) : State :=
  match firstPend (bankOf s w.core w.bank).pend with
  | some (p, rest) => ((deliver w.core w.bank p rest).go s).2
  | none => s

/-- PREEMPT is requested of the task and may be taken at its boundary (05 R123, R124). -/
def preemptDue (w : Who) (s : State) : Bool :=
  (coreOf s w.core).preReq.isSome && !s.pm.hup && !(bankOf s w.core w.bank).window

/-- The boundary at which no instruction issues: the highest pending trap is taken, or else PREEMPT may be (09 R245). -/
def dueAt (w : Who) (s : State) : State :=
  if (bankOf s w.core w.bank).pend.isEmpty then updBank s w.core w.bank (fun k => { k with checked := preemptDue w s })
  else takePending w s

/-- An instruction at a boundary where traps wait or PREEMPT is due: it is checked as it would issue, and where it raises none, the
highest of those is taken before it issues (09 R245). -/
def issueAt (w : Who) (i : Instr) (s : State) : Host.Outcome State Fault Refusal :=
  match exec i s with
  | .next t => .next (if t.raised || ((bankOf s w.core w.bank).pend.isEmpty && !preemptDue w s) then t else dueAt w s)
  | r => r

/-- A turn of the running task of a core. -/
def turnTask (w : Who) (s : State) : Host.Outcome State Fault Refusal :=
  match (atBoundary w).go s with
  | (.ok (.run i), t) => issueAt w i t
  | (.ok (.pass pc), t) => .next (updRegs t w.core w.bank (fun r => { r with pc := pc }))
  | (.ok .hold, t) => .next (dueAt w t)
  | (.error (.trap code info), t) => .next (raiseNow w 1 code info t)
  | (.error (.miss m), t) => .next ((raiseMiss w.core w.bank m).go t).2
  | (.error .wait, t) => .next (takePending w t)
  | (.error (.cannot why), _) => .refused (.notEnabled why)

/-- A task of a launch that ends stops at this boundary; a terminating trap due here has its own fault record (03 R69). -/
def endAt (w : Who) (s : State) : State :=
  let gone := fun (t : State) => (taskOf t w.task).isNone
  let ended := ((endTask w.task).go s).2
  let pending := fun (t : State) =>
    let u := takePending w t
    if gone u then u else ended
  match (atBoundary w).go s with
  | (.ok (.run i), t) =>
    (match exec i t with
      | .next u => if u.raised then (if gone u then u else ended) else pending t
      | _ => ended)
  | (.error (.trap code info), t) =>
    let u := raiseNow w 1 code info t
    if gone u then u else ended
  | (.error (.miss _), _) => ended
  | (_, t) => pending t

/-- A turn of a control core: POWER_FAIL first, an abort in progress, then the task's next instruction (09 R245; 04 R83). -/
def turnControl (c : Nat) (s : State) : Host.Outcome State Fault Refusal :=
  match powerFailDue s c with
  | some b => asStep (takePowerFail c b) s
  | none =>
    match whoRuns s c with
    | none => .refused (.notEnabled "no task runs on the core")
    | some w =>
      let k := bankOf s c w.bank
      if k.miss.isSome && enginesRun s && !k.frozen && !taskEnds s w.task then asStep (finishMiss c w.bank) s
      else if !controlRuns s c w.bank then .next s
      else if taskEnds s w.task then .next (if k.miss.isSome || k.leaving then ((endTask w.task).go s).2 else endAt w s)
      else if k.miss.isSome || k.leaving then .next s
      else turnTask w (if k.checked then updBank s c w.bank (fun k => { k with checked := false }) else s)

/-! ### The other agents -/

/-- A micro-step of command `k` of engine `e`. -/
def turnEngine (c e k : Nat) (s : State) : Host.Outcome State Fault Refusal :=
  match whoRuns s c with
  | none => .refused (.notEnabled "no task runs on the core")
  | some w =>
    match (queueOf s c w.bank e)[k]? with
    | none => .refused (.notEnabled "the queue holds no such command")
    | some m => exec m.instr s

/-- An instruction of a side core (09 R239, R242). -/
def turnSide (c : Nat) (rack : Bool) (s : State) : Host.Outcome State Fault Refusal :=
  match whoRuns s c with
  | none => .refused (.notEnabled "no task runs on the core")
  | some w =>
    if !sideRuns s w rack then .next s
    else
      match fetchSide s w rack with
      | .ok i => exec i s
      | .error t => .next (sideHalt s w rack t 4)

/-- A collective program reads the step it has reached, and the step moves on (02 R37); after its last step it only completes
(R29). -/
def turnProgram (p : Nat) (s : State) : Host.Outcome State Fault Refusal :=
  match aget s.programs p with
  | none => .refused (.notEnabled "no such program runs")
  | some g =>
    if !enginesRun s then .next s
    else if g.cav then .next (cavDuties p s)
    else
      match g.cur with
      | some i => exec i s
      | none => if g.done then .next s else asStep (latchStep p g) s

/-- The entry at a replay stream (06 R142). -/
def turnStream (c k : Nat) (s : State) : Host.Outcome State Fault Refusal :=
  match (fetchStream c k).go s with
  | (.ok (some i), t) => exec i t
  | (.ok none, t) => .next t
  | (.error .wait, t) => .next t
  | (.error (.cannot why), _) => .refused (.notEnabled why)
  | (.error _, _) => .refused (.notEnabled "no task to take the trap")

/-- An element of the bytes of a collective is zero, with the engine's flag and its offset in the log (02 R45). -/
def collFlaw (s : State) (die off : Nat) : State :=
  updDie s die (fun d => { d with collErr := true, collLog := d.collLog ++ [BitVec.ofNat 64 off] })

/-- The bytes of element `i` in a block of a format: a sweep's values are widened, a step's block is laid out as it was sent (02
R36). -/
def blockPlaces (op : BitVec 4) (fmt : BitVec 6) (mx : Bool) (i : Nat) : List Nat :=
  if mx then (List.range (perElem op)).map (fun j => (elementPlace fmt 1 (perElem op * i + j)).byte)
  else (List.range (elemSize op fmt)).map (fun j => elemSize op fmt * i + j)

/-- Bytes with zeros at some places. -/
def zeroPlaces (ps : List Nat) (bs : List Byte) : List Byte := bs.zipIdx.map (fun x => if ps.contains x.2 then 0 else x.1)

/-- An uncorrectable ECC error strikes (log 74): in an element, where the next engine that reads it finds it; in control state, with
DATA_ERROR (09 R238; 02 R45). -/
def strike (f : Flaw) (s : State) : Host.Outcome State Fault Refusal :=
  match f with
  | .s _ _ | .c _ _ | .mem _ => .next { s with flaws := if s.flaws.contains f then s.flaws else s.flaws ++ [f] }
  | .control c e k =>
    match whoRuns s c with
    | none => .refused (.notEnabled "no task runs on the core")
    | some w =>
      match (queueOf s c w.bank e)[k]? with
      | none => .refused (.notEnabled "the queue holds no such command")
      | some m =>
        let g : Eng := { w := w, e := e, k := k, cmd := m, part := (bankOf s c w.bank).part, key := srKey s w }
        .next (haltCmd s g .dataError (some (engInfo g 0)) none)
  | .program p => .next (failProgram s p .dataError)
  | .staged p k i =>
    match (aget s.programs p).bind (fun g => ((staged s g)[k]?).map (fun b => (g, b.1))) with
    | none => .refused (.notEnabled "no such block is in staging")
    | some (g, b) =>
      let ps := blockPlaces g.op b.fmt b.mx i
      let zero := fun (o : CBlock) => if o = b then { o with bytes := zeroPlaces ps o.bytes } else o
      .next (collFlaw { s with net := { s.net with blocks := s.net.blocks.map zero } } (coreDie g.core) (ps.headD 0))
  | .sweep p key i =>
    match (aget s.programs p).bind (fun g => (aget g.got key).map (fun _ => g)) with
    | none => .refused (.notEnabled "the program holds no such value")
    | some g =>
      let ps := blockPlaces g.op (wideFmt g.fmt) false i
      let got := g.got.map (fun e => if e.1 = key then (key, zeroPlaces ps e.2) else e)
      .next (collFlaw (updProgram s p (fun g => { g with got := got })) (coreDie g.core) (ps.headD 0))

/-- A turn of an agent. -/
def turn (a : Actor) (s : State) : Host.Outcome State Fault Refusal :=
  match a with
  | .control c => turnControl c s
  | .engine c e k => turnEngine c e k s
  | .side c rack => turnSide c rack s
  | .program p => turnProgram p s
  | .stream c k => turnStream c k s
  | .event i => exec i s
  | .flaw f => strike f s
  | .msixControl enable mask => .next (msixControl enable mask s)
  | .idle => .next s

/-! ### Which agent -/

/-- A reset of the device (03 R56), the one thing that happens in OFF. -/
def Actor.inOff : Actor → Bool
  | .event .fundamentalReset | .event .hotReset | .event .functionLevelReset | .idle => true
  | _ => false

/-- A turn that the agenda names. -/
def namedTurn (a : Actor) (s : State) : Host.Outcome State Fault Refusal :=
  if s.pm.st == .off && !a.inOff then .fault .off else turn a { s with actor := a, raised := false }

/-- Where an error strikes that nothing names. -/
def freeFlaw (n : Nat) : Flaw :=
  let v := fun (k : Nat) => Config.freeIndex (n + k)
  match v 1 % 7 with
  | 0 => .s (v 2 % 256) (v 3 % 524288)
  | 1 => .c (v 2 % 256) (v 3 % 1048576)
  | 2 => .mem (v 2)
  | 3 => .control (v 2 % 256) (v 3 % 4) 0
  | 4 => .program (v 2 % 128)
  | 5 => .staged (v 2 % 128) (v 3) (v 0)
  | _ => .sweep (v 2 % 128) (v 3 % 16) (v 0)

/-- The agent that moves where none is named: any of them (log 1). -/
def freeActor (n : Nat) : Actor :=
  let v := fun (k m : Nat) => Config.freeIndex (n + k) % m
  match v 0 8 with
  | 0 => .control (v 1 256)
  | 1 => .engine (v 1 256) (v 2 4) (v 3 64)
  | 2 => .side (v 1 256) (Config.freeBool n)
  | 3 => .program (v 1 128)
  | 4 => .stream (v 1 256) (v 2 6)
  | 5 => .flaw (freeFlaw n)
  | 6 => .msixControl (Config.freeBool n) (Config.freeBool (n + 1))
  | _ => .event (Config.freeEvent n)

/-- A turn of an agent that nothing names. Where that agent has nothing to do, the device stays as it is. -/
def anyTurn (s : State) : Host.Outcome State Fault Refusal :=
  let s := { s with fresh := s.fresh + 4 }
  match namedTurn (freeActor (s.fresh - 4)) s with
  | .next t => .next t
  | _ => .next s

/-! ### A state that runs a given word (log 8) -/

/-- The record of the task that runs the word. -/
def placedRecord : Record :=
  { wid := 0, entry := 0x1000, dlist := 0, depcnt := 0, nsucc := 0, sdem := 0, cdem := 0, prio := 0, hint := 0, flags := 0, arg := 0 }

/-- Task 1 of context 0, of no launch, running in bank 0 of core 0. -/
def placedTask : Task :=
  { ctx := 0, launch := none, index := 0, recAddr := 0, record := placedRecord, weight := 0, prio := 0, sdem := 0, cdem := 0,
    place := .running, die := 0, cluster := 0, ready := 0, entry := 0, core := 0, bank := 0, start := 0, iid := 0, spawns := 0,
    keeperOf := none, thr := 0, repEntry := 0, recEntry := 0, ancestors := [], waits := [], recPred := 0, recBy := 0, repIter := 0,
    noRec := true, fixed := none, ring := 0 }

/-- Context 0 with a heap window over the first 2 MiB of die 0 whose attribute table is at 0x200000. -/
def placedContext : Context :=
  { domain := 0, ceiling := 7, keeper := false, ptRoot := 0, heapBase := 0, heapLimit := 0x200000, heapOff := 0,
    hat := 0x200000, objBase := 0, objCnt := 0, sqBase := 0, sqLog := 6, fqBase := 0, fqLog := 6, npage := 0, vecMask := 0,
    foldMask := 0, ctrMask := 0, monMask := 0, seqTab := 0, sstore := 0, arena := 0, maxS := 0, maxC := 0, save := [],
    lastTail := 0, launchSeq := 0, freed := 0, queued := [], ckpt := Ckpt.reset }

/-- The word is a custom-0 instruction of the side cores and no control instruction (09 R239, 14 R404). -/
def isSideWord (w : Nat) : Bool :=
  w % 128 == 0x0B && (match decodeSlice (lineOfWord (BitVec.ofNat 32 w)) 1 with
    | .ok _ => false
    | .error _ => true)

/-- The attribute entry of the placed heap page: valid, every right, near tier of die 0 (07 R166). -/
def placedHeapEntry : Nat := 0x7C001

/-- A configured device in RUN in which the task runs at the first slice of the line at 0x1000, which holds the word; a word of the
side cores stands at 0 of the peel core's instruction store, and the peel core runs. -/
def placeWord (s : State) (_nbits w : Nat) : State :=
  let line := leBytes 32 (lineOfWord (BitVec.ofNat 32 w)).toNat
  let s := writeBytes (writeBytes s 0x1000 line) 0x200000 (leBytes 4 placedHeapEntry)
  let regs := { Regs.reset with pc := 0x1004 }
  let peel := { Side.reset with run := isSideWord w }
  let bank := { Bank.reset with regs := regs, restart := regs, task := some 1, region := 2, peel := peel }
  let core := { Core.reset with
    active := some 0, banks := [(0, bank)], peelI := if isSideWord w then ssetAll 0 [] 0 (leBytes 4 w) else [] }
  { s with host := { s.host with cfgd := true }, pm := { s.pm with st := .run }, ctxs := aset s.ctxs 0 placedContext,
           tasks := aset s.tasks 1 placedTask, nextId := 2, cores := sset Core.reset s.cores 0 core,
           agenda := [if isSideWord w then .side 0 false else .control 0] }

end Sys2Proof.Machine
end

