-- ==== Sys2Proof/Machine/Step.lean ====
section
/-!
DEFINITION. One step of the device: the agent at the head of the agenda moves, or any agent where none is named (log 1); and the
state in which the next step runs a given instruction.
-/

namespace Sys2Proof.Machine

/-- One step. -/
def step (s : State) : Host.Outcome State Fault Refusal :=
  match s.agenda with
  | [] => anyTurn s
  | a :: r => namedTurn a { s with agenda := r }

/-- The state with an instruction of the opcode table where the next step fetches (log 8). -/
def State.withFetchWord (s : State) (nbits w : Nat) : State := placeWord s nbits w

end Sys2Proof.Machine
end

