-- ==== Sys2Proof/Safety.lean ====
section
/-!
DEFINITION. What a safe run is, and the conditions and effects that statements speak of: an instruction's turn, reading a source,
writing a result, the bytes of memory and S.
-/

namespace Sys2Proof.Safety

open Sys2Proof.Machine

/-! ### Runs -/

/-- A step goes on. -/
def Goes (o : Host.Outcome State Fault Refusal) : Prop := ∃ t, o = .next t

/-- A step does not stop with a fault. -/
def NoFault (o : Host.Outcome State Fault Refusal) : Prop := ∀ f, o ≠ .fault f

/-- A number of steps that all go on, from one state to another. -/
inductive Runs : Nat → State → State → Prop where
  | done (s : State) : Runs 0 s s
  | more {n : Nat} {s t u : State} : step s = .next t → Runs n t u → Runs (n + 1) s u

/-! ### The turn of a control instruction -/

/-- The task of an agent is the one its core runs, its control core acts, and no abort is in progress. -/
structure Acts (w : Who) (s : State) : Prop where
  actor : s.actor = .control w.core
  who : whoRuns s w.core = some w
  runs : controlRuns s w.core w.bank = true
  noMiss : (bankOf s w.core w.bank).miss = none
  stays : (bankOf s w.core w.bank).leaving = false

/-- Its guard passes as well (11 R283). -/
structure Issues (w : Who) (g : Guard) (s : State) : Prop extends Acts w s where
  passes : guardPasses g (regsOf s w.core w.bank).p = true

/-- The guard fails (11 R283). -/
structure Squashed (w : Who) (g : Guard) (s : State) : Prop extends Acts w s where
  fails : guardPasses g (regsOf s w.core w.bank).p = false

/-- The registers of an agent's bank. -/
abbrev regs (w : Who) (s : State) : Regs := regsOf s w.core w.bank

/-- The state with an agent's registers replaced. -/
abbrev withRegs (w : Who) (s : State) (r : Regs) : State := setRegs s w.core w.bank r

/-! ### Operands (09 R219 to R222) -/

/-- A source specifier read: its value and the registers after it; none where it waits or traps. g0 is 0 and h of a queue that is
not full is 0; an operand queue is popped. -/
def source (r : Regs) (a : Spec) : Option (Val × Regs) :=
  let n := a.toNat
  if n < 32 then
    let p := physOf r.rb n
    if sget 0 r.gWait p = 0 then some (⟨if p = 0 then 0 else sget 0 r.g p, sget .clean r.gMark p⟩, r) else none
  else if n < 48 then
    match r.h[n - 32]? with
    | none => some (⟨0, .clean⟩, r)
    | some e => if e.wait = 0 then some (⟨e.v, e.mark⟩, r) else none
  else if n < 52 then
    match sget [] r.q (n - 48) with
    | [] => none
    | e :: rest => if e.wait = 0 then some (⟨e.v, .derived⟩, { r with q := sset [] r.q (n - 48) rest }) else none
  else if n < 63 then
    some (⟨[1, 2, 3, 4, 8, 16, 32, 64, 128, 256].getD (n - 52) (-1), .clean⟩, r)
  else none

/-- A result written to D: the g register, but not g0, and h1, the older entries moving on by one and h16 lost; none where the
register is pending or D names none. -/
def result (r : Regs) (d : Spec) (v : Val) : Option Regs :=
  let p := physOf r.rb d.toNat
  if d.toNat < 32 ∧ sget 0 r.gWait p = 0 then
    let r' := if p = 0 then r else { r with g := sset 0 r.g p v.v, gMark := sset .clean r.gMark p v.mark }
    some { r' with h := (({ v := v.v, wait := 0, mark := v.mark } : HEntry) :: r.h).take 16 }
  else none

/-- The PC moved on by the slices of an instruction. -/
def pcOn (r : Regs) (n : Nat) : Regs := { r with pc := nextPc r.pc n }

/-- What the recorder knows of a value computed from two (06 R144). -/
def mark2 (x y : Val) : Mark := markOf [x.mark, y.mark]
def mark1 (x : Val) : Mark := markOf [x.mark]

/-! ### Engine commands -/

/-- A command as an engine of its task's core holds it: the task runs there, the command is in its queue and has been dispatched, the
engines run, and its turn is the engine's. -/
structure AtEngine (e : Eng) (i : Instr) (sp : CmdSpec) (s : State) : Prop where
  spec : specOf i = some sp
  actor : s.actor = .engine e.w.core e.e e.k
  who : whoRuns s e.w.core = some e.w
  holds : (queueOf s e.w.core e.w.bank e.e)[e.k]? = some e.cmd
  queue : e.e = sp.queue
  same : e.cmd.instr = i
  part : e.part = (bankOf s e.w.core e.w.bank).part
  key : e.key = srKey s e.w
  runs : enginesRun s = true
  open_ : (bankOf s e.w.core e.w.bank).frozen = false
  dispatched : e.cmd.raw = false
  going : e.cmd.halted = false

end Sys2Proof.Safety
end

