-- ==== Sys2Proof/Certificates/Slice0/Obligations.lean ====
section
/-!
DEFINITION. The statements about the model, each a proposition that a docstring ties to a rule of the spec or to the model's own
choice.
-/

namespace Sys2Proof.Claims

open Sys2Proof.Machine Sys2Proof.Safety

/-! ### Forms of statement about control instructions: the whole next state, for every form of every operand -/

/-- D := f(A, B) in one slice. -/
def ComputesAB (mk : Guard → Spec → Spec → Spec → Instr) (f : Word → Word → Word) : Prop :=
  ∀ (w : Who) (g : Guard) (s : State) (d a b : Spec) (x y : Val) (r1 r2 r3 : Regs), Issues w g s →
    source (regs w s) a = some (x, r1) → source r1 b = some (y, r2) → result r2 d ⟨f x.v y.v, mark2 x y⟩ = some r3 →
    exec (mk g d a b) s = .next (withRegs w s (pcOn r3 1))

/-- D := f(A, immediate) in two slices, the immediate sign-extended. -/
def ComputesImm (mk : Guard → Spec → Spec → BitVec 32 → Instr) (f : Word → Word → Word) : Prop :=
  ∀ (w : Who) (g : Guard) (s : State) (d a : Spec) (imm : BitVec 32) (x : Val) (r1 r2 : Regs), Issues w g s →
    source (regs w s) a = some (x, r1) → result r1 d ⟨f x.v (imm.signExtend 64), mark1 x⟩ = some r2 →
    exec (mk g d a imm) s = .next (withRegs w s (pcOn r2 2))

/-- D := f(D, A) in `n` slices, where `ok` holds of A. -/
def ComputesDA (mk : Guard → Spec → Spec → Instr) (n : Nat) (ok : Word → Prop) (f : Word → Word → Word) : Prop :=
  ∀ (w : Who) (g : Guard) (s : State) (d a : Spec) (x y : Val) (r1 r2 r3 : Regs), Issues w g s →
    source (regs w s) d = some (x, r1) → source r1 a = some (y, r2) → ok y.v →
    result r2 d ⟨f x.v y.v, mark2 x y⟩ = some r3 → exec (mk g d a) s = .next (withRegs w s (pcOn r3 n))

/-- D := f(A) in `n` slices. -/
def ComputesA (mk : Guard → Spec → Spec → Instr) (n : Nat) (f : Word → Word) : Prop :=
  ∀ (w : Who) (g : Guard) (s : State) (d a : Spec) (x : Val) (r1 r2 : Regs), Issues w g s →
    source (regs w s) a = some (x, r1) → result r1 d ⟨f x.v, mark1 x⟩ = some r2 →
    exec (mk g d a) s = .next (withRegs w s (pcOn r2 n))

/-- The registers with predicate `n` set to a value, whatever the recorder keeps about it. -/
def predSet (r : Regs) (n : Nat) (v : Bool) (m : PMark) : Regs := setPred r n v m

/-- pD := cond(A, B) in one slice. -/
def ComparesAB (mk : Guard → Spec → Spec → Spec → Instr) (f : Word → Word → Bool) : Prop :=
  ∀ (w : Who) (g : Guard) (s : State) (d a b : Spec) (x y : Val) (r1 r2 : Regs), Issues w g s →
    source (regs w s) a = some (x, r1) → source r1 b = some (y, r2) →
    ∃ (r3 : Regs) (m : Sparse PMark), exec (mk g d a b) s = .next (withRegs w s r3) ∧
      (∀ n < 64, r3.p.getLsbD n = if n = d.toNat then f x.v y.v else (regs w s).p.getLsbD n) ∧
      r3 = { r2 with p := r3.p, pMark := m, pc := nextPc r2.pc 1 }

/-- pD := f(pA, pB) in one slice. -/
def PredicatesAB (mk : Guard → Spec → Spec → Spec → Instr) (f : Bool → Bool → Bool) : Prop :=
  ∀ (w : Who) (g : Guard) (s : State) (d a b : Spec), Issues w g s →
    ∃ (r3 : Regs) (m : Sparse PMark), exec (mk g d a b) s = .next (withRegs w s r3) ∧
      (∀ n < 64, r3.p.getLsbD n = if n = d.toNat then f ((regs w s).p.getLsbD a.toNat) ((regs w s).p.getLsbD b.toNat)
        else (regs w s).p.getLsbD n) ∧
      r3 = { regs w s with p := r3.p, pMark := m, pc := nextPc (regs w s).pc 1 }

/-- A shift's amount is the whole operand (10 R273). -/
def shiftL (x y : Word) : Word := if 64 ≤ y.toNat then 0 else x <<< y.toNat
def shiftRN (x y : Word) : Word := if 64 ≤ y.toNat then 0 else x >>> y.toNat
def shiftRS (x y : Word) : Word := if 64 ≤ y.toNat then (if x.msb then -1 else 0) else x.sshiftRight y.toNat

end Sys2Proof.Claims

open Sys2Proof Sys2Proof.Machine Sys2Proof.Safety Sys2Proof.Claims

/-- 12 R303, Table 1: the two-source arithmetic, its result mod 2^64, its push, and nothing else changed. -/
def Sys2Proof.Claims.AluTwoSources : Prop :=
  ComputesAB .add (fun x y => x + y) ∧ ComputesAB .sub (fun x y => x - y) ∧ ComputesAB .mul (fun x y => x * y) ∧
  ComputesAB .and (fun x y => x &&& y) ∧ ComputesAB .or (fun x y => x ||| y) ∧ ComputesAB .xor (fun x y => x ^^^ y) ∧
  ComputesAB .shl shiftL ∧ ComputesAB .shrN shiftRN ∧ ComputesAB .shrS shiftRS

/-- 12 R303: the same with a sign-extended immediate. -/
def Sys2Proof.Claims.AluImmediate : Prop :=
  ComputesImm .addImmediate (fun x y => x + y) ∧ ComputesImm .subImmediate (fun x y => x - y) ∧
  ComputesImm .mulImmediate (fun x y => x * y) ∧ ComputesImm .andImmediate (fun x y => x &&& y) ∧
  ComputesImm .orImmediate (fun x y => x ||| y) ∧ ComputesImm .xorImmediate (fun x y => x ^^^ y) ∧
  ComputesImm .shlImmediate shiftL ∧ ComputesImm .shrNImmediate shiftRN ∧ ComputesImm .shrSImmediate shiftRS

/-- 12 R304: high products, minimum, maximum, and-not, not, neg. -/
def Sys2Proof.Claims.AluDestination : Prop :=
  ComputesDA .mulhS 1 (fun _ => True) (fun x y => BitVec.ofInt 64 (x.toInt * y.toInt / 2 ^ 64)) ∧
  ComputesDA .mulhN 1 (fun _ => True) (fun x y => BitVec.ofNat 64 (x.toNat * y.toNat / 2 ^ 64)) ∧
  ComputesDA .minS 1 (fun _ => True) (fun x y => if x.toInt ≤ y.toInt then x else y) ∧
  ComputesDA .minN 1 (fun _ => True) (fun x y => if x.toNat ≤ y.toNat then x else y) ∧
  ComputesDA .maxS 1 (fun _ => True) (fun x y => if x.toInt ≤ y.toInt then y else x) ∧
  ComputesDA .maxN 1 (fun _ => True) (fun x y => if x.toNat ≤ y.toNat then y else x) ∧
  ComputesDA .andn 1 (fun _ => True) (fun x y => x &&& ~~~y) ∧
  ComputesA .not 1 (fun x => ~~~x) ∧ ComputesA .neg 1 (fun x => 0 - x)

/-- 12 R304: division by a divisor that is not zero, truncating, the remainder with the dividend's sign. -/
def Sys2Proof.Claims.DivideCompletes : Prop :=
  ComputesDA .divS 1 (· ≠ 0) (fun x y => BitVec.ofInt 64 (x.toInt.tdiv y.toInt)) ∧
  ComputesDA .divN 1 (· ≠ 0) (fun x y => BitVec.ofNat 64 (x.toNat / y.toNat)) ∧
  ComputesDA .remS 1 (· ≠ 0) (fun x y => BitVec.ofInt 64 (x.toInt.tmod y.toInt)) ∧
  ComputesDA .remN 1 (· ≠ 0) (fun x y => BitVec.ofNat 64 (x.toNat % y.toNat))

namespace Sys2Proof.Claims

/-- D := a value that stands in a relation to A, in `n` slices. -/
def RelatesA (mk : Guard → Spec → Spec → Instr) (n : Nat) (rel : Word → Word → Prop) : Prop :=
  ∀ (w : Who) (g : Guard) (s : State) (d a : Spec) (x : Val) (r1 : Regs), Issues w g s →
    source (regs w s) a = some (x, r1) →
    ∃ v, rel x.v v ∧ ∀ r2, result r1 d ⟨v, mark1 x⟩ = some r2 → exec (mk g d a) s = .next (withRegs w s (pcOn r2 n))

/-- D := a value that stands in a relation to D and A, in `n` slices. -/
def RelatesDA (mk : Guard → Spec → Spec → Instr) (n : Nat) (rel : Word → Word → Word → Prop) : Prop :=
  ∀ (w : Who) (g : Guard) (s : State) (d a : Spec) (x y : Val) (r1 r2 : Regs), Issues w g s →
    source (regs w s) d = some (x, r1) → source r1 a = some (y, r2) →
    ∃ v, rel x.v y.v v ∧
      ∀ r3, result r2 d ⟨v, mark2 x y⟩ = some r3 → exec (mk g d a) s = .next (withRegs w s (pcOn r3 n))

/-- v counts the zero bits of x above its highest one bit. -/
def CountsLeading (x v : Word) : Prop :=
  v.toNat ≤ 64 ∧ (∀ n < 64, 64 - v.toNat ≤ n → x.getLsbD n = false) ∧
    (v.toNat < 64 → x.getLsbD (63 - v.toNat) = true)

/-- v counts the zero bits of x below its lowest one bit. -/
def CountsTrailing (x v : Word) : Prop :=
  v.toNat ≤ 64 ∧ (∀ n < v.toNat, x.getLsbD n = false) ∧ (v.toNat < 64 → x.getLsbD v.toNat = true)

/-- The value of a lane of its type. -/
def laneValue (k : Nat) (signed : Bool) (v : BitVec k) : Int := if signed then v.toInt else v.toNat

/-- A lane saturated to its type's range. -/
def saturate (k : Nat) (signed : Bool) (i : Int) : BitVec k :=
  let lo : Int := if signed then -(2 ^ (k - 1) : Nat) else 0
  let hi : Int := if signed then (2 ^ (k - 1) : Nat) - 1 else (2 ^ k : Nat) - 1
  BitVec.ofInt k (max lo (min hi i))

/-- A packed instruction computes each lane of D from the same lane of D and A, by lane type .s8, .n8, .s16, .n16. -/
def Packs (mk : Guard → Spec → Spec → BitVec 2 → Instr) (op : (k : Nat) → Bool → BitVec k → BitVec k → BitVec k) : Prop :=
  ∀ (lane : BitVec 2),
    let k := if lane.toNat < 2 then 8 else 16
    RelatesDA (fun g d a => mk g d a lane) 1 (fun x y v => ∀ i < 64 / k,
      v.extractLsb' (k * i) k = op k (lane.toNat % 2 == 0) (x.extractLsb' (k * i) k) (y.extractLsb' (k * i) k))

end Sys2Proof.Claims

/-- 12 R304, 09 R245: a divisor of zero raises DIVIDE precisely, and no register of the task has changed when the trap is taken. -/
def Sys2Proof.Claims.DivideByZero : Prop :=
  ∀ (mk : Guard → Spec → Spec → Instr), mk ∈ [Instr.divS, .divN, .remS, .remN] →
    ∀ (w : Who) (g : Guard) (s : State) (d a : Spec) (x y : Val) (r1 r2 : Regs), Issues w g s →
      source (regs w s) d = some (x, r1) → source r1 a = some (y, r2) → y.v = 0 →
      ∃ t, (∀ r, withRegs w t r = withRegs w s r) ∧ regs w t = regs w s ∧
        exec (mk g d a) s = .next (raiseNow w 1 .divide none t)

/-- 12 R305, Table 3: the packed operations, lane by lane. -/
def Sys2Proof.Claims.PackedLanes : Prop :=
  Packs .padd (fun _ _ x y => x + y) ∧ Packs .psub (fun _ _ x y => x - y) ∧
  Packs .padds (fun k sg x y => saturate k sg (laneValue k sg x + laneValue k sg y)) ∧
  Packs .psubs (fun k sg x y => saturate k sg (laneValue k sg x - laneValue k sg y)) ∧
  Packs .pmin (fun k sg x y => if laneValue k sg x ≤ laneValue k sg y then x else y) ∧
  Packs .pmax (fun k sg x y => if laneValue k sg x ≤ laneValue k sg y then y else x) ∧
  Packs .pshl (fun k _ x y => if k ≤ y.toNat then 0 else x <<< y.toNat) ∧
  Packs .pshr (fun k sg x y =>
    if sg then (if k ≤ y.toNat then (if x.msb then BitVec.allOnes k else 0) else x.sshiftRight y.toNat)
    else (if k ≤ y.toNat then 0 else x >>> y.toNat))

/-- 12 R306: counts, reversals and bit fields, said bit by bit; a field that leaves the word is refused at decode. -/
def Obligations.BitFields : Prop :=
  RelatesA .clz 1 CountsLeading ∧ RelatesA .ctz 1 CountsTrailing ∧
  RelatesA .popc 1 (fun x v => v.toNat = ((List.range 64).filter (fun n => x.getLsbD n)).length) ∧
  RelatesA .brev 1 (fun x v => ∀ n < 64, v.getLsbD n = x.getLsbD (63 - n)) ∧
  RelatesA .bswap 1 (fun x v => ∀ n < 8, v.extractLsb' (8 * n) 8 = x.extractLsb' (8 * (7 - n)) 8) ∧
  (∀ pos wm1 : BitVec 6, pos.toNat + wm1.toNat + 1 ≤ 64 →
    RelatesA (fun g d a => .extN g d a pos wm1) 2 (fun x v => ∀ n < 64,
      v.getLsbD n = (decide (n ≤ wm1.toNat) && x.getLsbD (pos.toNat + n))) ∧
    RelatesA (fun g d a => .extS g d a pos wm1) 2 (fun x v => ∀ n < 64,
      v.getLsbD n = x.getLsbD (pos.toNat + min n wm1.toNat)) ∧
    RelatesDA (fun g d a => .ins g d a pos wm1) 2 (fun x y v => ∀ n < 64,
      v.getLsbD n = if pos.toNat ≤ n ∧ n ≤ pos.toNat + wm1.toNat then y.getLsbD (n - pos.toNat) else x.getLsbD n)) ∧
  (∀ (g : Guard) (d a pos wm1 : BitVec 6), 64 < pos.toNat + wm1.toNat + 1 →
    ∀ i ∈ [Instr.extN g d a pos wm1, .extS g d a pos wm1, .ins g d a pos wm1], decodeControl (encode i) = .error .reservedField)

/-- 12 R307, R308: mov, li, lih and lea stand in the encodings the rules give, where a non-zero A field of li and lih raises
RESERVED_FIELD; they write D, and lea makes no access and no check; li and then lih load any constant. -/
def Obligations.MovesAndAddresses : Prop :=
  ComputesA .mov 1 (fun x => x) ∧
  (∀ (w : Who) (g : Guard) (s : State) (d : Spec) (imm : BitVec 32) (r : Regs), Issues w g s →
    result (regs w s) d ⟨imm.signExtend 64, .clean⟩ = some r → exec (.li g d imm) s = .next (withRegs w s (pcOn r 2))) ∧
  (∀ (w : Who) (g : Guard) (s : State) (d : Spec) (imm : BitVec 32) (x : Val) (r1 r : Regs), Issues w g s →
    source (regs w s) d = some (x, r1) → result r1 d ⟨imm ++ x.v.extractLsb' 0 32, mark1 x⟩ = some r →
    exec (.lih g d imm) s = .next (withRegs w s (pcOn r 2))) ∧
  (∀ (sh : BitVec 4) (disp : BitVec 28) (w : Who) (g : Guard) (s : State) (d a b : Spec) (x y : Val) (r1 r2 r3 : Regs),
    Issues w g s → source (regs w s) a = some (x, r1) → source r1 b = some (y, r2) →
    result r2 d ⟨x.v + (y.v <<< sh.toNat) + disp.signExtend 64, mark2 x y⟩ = some r3 →
    exec (.lea g d a b sh disp) s = .next (withRegs w s (pcOn r3 2))) ∧
  (∀ (g : Guard) (d a b : Spec) (sh : BitVec 4) (disp : BitVec 28) (imm : BitVec 32),
    ((Instr.mov g d a).wellFormed = true → decodeControl [(0x0F : BitVec 6) ++ g.bits ++ d ++ a ++ (0 : BitVec 6)] = .ok (.mov g d a)) ∧
    ((Instr.li g d imm).wellFormed = true →
      decodeControl [(0x0F : BitVec 6) ++ g.bits ++ d ++ (0 : BitVec 6) ++ (1 : BitVec 6), imm] = .ok (.li g d imm)) ∧
    ((Instr.lih g d imm).wellFormed = true →
      decodeControl [(0x0F : BitVec 6) ++ g.bits ++ d ++ (0 : BitVec 6) ++ (2 : BitVec 6), imm] = .ok (.lih g d imm)) ∧
    ((Instr.lea g d a b sh disp).wellFormed = true →
      decodeControl [(0x1E : BitVec 6) ++ g.bits ++ d ++ a ++ b, disp ++ sh] = .ok (.lea g d a b sh disp)) ∧
    (a ≠ 0 → ∀ f ∈ [(1 : BitVec 6), 2],
      decodeControl [(0x0F : BitVec 6) ++ g.bits ++ d ++ a ++ f, imm] = .error .reservedField)) ∧
  (∀ k : Word, ∃ lo hi : BitVec 32, hi ++ (lo.signExtend 64).extractLsb' 0 32 = k)

/-- 12 R309, 11 R287: the eight conditions set the predicate that D names, every other predicate and all else as it was. -/
def Sys2Proof.Claims.Compares : Prop :=
  ComparesAB .cmpEq (fun x y => x == y) ∧ ComparesAB .cmpNe (fun x y => x != y) ∧
  ComparesAB .cmpLtS (fun x y => decide (x.toInt < y.toInt)) ∧ ComparesAB .cmpGeS (fun x y => decide (y.toInt ≤ x.toInt)) ∧
  ComparesAB .cmpLtN (fun x y => decide (x.toNat < y.toNat)) ∧ ComparesAB .cmpGeN (fun x y => decide (y.toNat ≤ x.toNat)) ∧
  ComparesAB .cmpAny (fun x y => x &&& y != 0) ∧ ComparesAB .cmpNone (fun x y => x &&& y == 0)

/-- 12 R309: cmpi compares with its sign-extended immediate under the condition its field names. -/
def Sys2Proof.Claims.CompareImmediate : Prop :=
  ∀ (cond : BitVec 3) (imm : BitVec 32) (w : Who) (g : Guard) (s : State) (d a : Spec) (x : Val) (r1 : Regs),
    Issues w g s → source (regs w s) a = some (x, r1) →
    let y := imm.signExtend 64
    let holds : Bool := match cond.toNat with
      | 0 => x.v == y
      | 1 => x.v != y
      | 2 => decide (x.v.toInt < y.toInt)
      | 3 => decide (y.toInt ≤ x.v.toInt)
      | 4 => decide (x.v.toNat < y.toNat)
      | 5 => decide (y.toNat ≤ x.v.toNat)
      | 6 => x.v &&& y != 0
      | _ => x.v &&& y == 0
    ∃ (r3 : Regs) (m : Sparse PMark), exec (.cmpi g d a cond imm) s = .next (withRegs w s r3) ∧
      (∀ n < 64, r3.p.getLsbD n = if n = d.toNat then holds else (regs w s).p.getLsbD n) ∧
      r3 = { r1 with p := r3.p, pMark := m, pc := nextPc r1.pc 2 }

/-- 12 R310: operations on predicates. -/
def Sys2Proof.Claims.Predicates : Prop :=
  PredicatesAB .pand (fun x y => x && y) ∧ PredicatesAB .por (fun x y => x || y) ∧
  PredicatesAB .pxor (fun x y => x != y) ∧ PredicatesAB .pandn (fun x y => x && !y) ∧
  PredicatesAB (fun g d _ _ => .pset g d) (fun _ _ => true) ∧ PredicatesAB (fun g d _ _ => .pclr g d) (fun _ _ => false) ∧
  PredicatesAB (fun g d a _ => .pnot g d a) (fun x _ => !x) ∧ PredicatesAB (fun g d a _ => .pmov g d a) (fun x _ => x)

/-- 12 R310: rdp reads and wrp writes all predicates at once. -/
def Sys2Proof.Claims.PredicateWords : Prop :=
  (∀ (w : Who) (g : Guard) (s : State) (d : Spec), Issues w g s →
    ∃ m, ∀ r, result (regs w s) d ⟨(regs w s).p, m⟩ = some r → exec (.rdp g d) s = .next (withRegs w s (pcOn r 1))) ∧
  (∀ (w : Who) (g : Guard) (s : State) (a : Spec) (x : Val) (r1 : Regs), Issues w g s →
    source (regs w s) a = some (x, r1) →
    ∃ m, exec (.wrp g a) s = .next (withRegs w s (pcOn { r1 with p := x.v, pMark := m } 1)))

namespace Sys2Proof.Claims

/-- The launches may differ, in what their recorders hold; nothing else does (06 R144, R145). -/
def Recorded (s t : State) : Prop := ∃ q, t = { s with launches := q }

/-- The recorder sees an address computed from data (06 R144). -/
def noted (w : Who) (x : Val) (s : State) : State := if x.mark.isDerived then recLive s w.task else s

/-- The registers after a transfer to `t`, with or without the link in g31. -/
def transferred (r : Regs) (t : Word) (link : Bool) : Regs :=
  { r with
    pc := t + 4,
    g := if link then sset 0 r.g 31 ((r.pc &&& ~~~31) + 32) else r.g,
    gMark := if link then sset .clean r.gMark 31 .clean else r.gMark }

/-- An instruction transfers to the line at `t`, which carries TGT, from a state whose registers are `r`. -/
def TransfersTo (w : Who) (s : State) (t : Word) (link : Bool) (o : Host.Outcome State Fault Refusal) : Prop :=
  ∀ (line : BitVec 256) (u : State), t &&& 31 = 0 → (fetchLine w t).go s = (.ok line, u) → lineTgt line = true →
    (link = true → sget 0 (regs w s).gWait 31 = 0) →
    ∃ v, o = .next v ∧ Recorded (withRegs w u (transferred (regs w s) t link)) v

/-- A transfer of `n` slices to a line without TGT raises ILLEGAL_LINE before any register changes. -/
def NeedsTgt (w : Who) (n : Nat) (s0 s : State) (t : Word) (o : Host.Outcome State Fault Refusal) : Prop :=
  ∀ (line : BitVec 256) (u : State), t &&& 31 = 0 → (fetchLine w t).go s = (.ok line, u) → lineTgt line = false →
    o = .next (raiseNow w n .illegalLine none (withRegs w u (regs w s0)))

/-- A line without TGT raises ILLEGAL_LINE, and an address that is no line's ALIGNMENT, before any register changes. -/
def TrapsBefore (w : Who) (s0 s : State) (t : Word) (o : Host.Outcome State Fault Refusal) : Prop :=
  (t &&& 31 ≠ 0 → o = .next (raiseNow w 1 .alignment (some t) (withRegs w s (regs w s0)))) ∧ NeedsTgt w 1 s0 s t o

end Sys2Proof.Claims

/-- A fetch reads: it leaves every bank of every core, every task, context, launch and fold, and all but the walker's A bits of
memory as they were (07 R174; 09 R217). -/
def Sys2Proof.Claims.FetchKeeps : Prop :=
  ∀ (w : Who) (va : Word) (s u : State) (r : Except Stop (BitVec 256)), (fetchLine w va).go s = (r, u) →
    (∀ c b, bankOf u c b = bankOf s c b) ∧ u.tasks = s.tasks ∧ u.ctxs = s.ctxs ∧ u.launches = s.launches ∧
    u.folds = s.folds ∧ u.host = s.host ∧ u.pm = s.pm ∧ u.gang = s.gang ∧ u.actor = s.actor ∧ u.agenda = s.agenda

/-- 12 R311: br and call go to the line at the instruction's line + 32 x OFF; call leaves the following line in g31, without a
push. -/
def Sys2Proof.Claims.RelativeTransfers : Prop :=
  ∀ (w : Who) (g : Guard) (s : State), Issues w g s →
    (∀ off : BitVec 18,
      let t := ((regs w s).pc &&& ~~~31) + 32 * off.signExtend 64
      TransfersTo w s t false (exec (.br g off) s) ∧ TransfersTo w s t true (exec (.call g off) s)) ∧
    (∀ off : BitVec 32,
      let t := ((regs w s).pc &&& ~~~31) + 32 * off.signExtend 64
      TransfersTo w s t false (exec (.brLong g off) s) ∧ TransfersTo w s t true (exec (.callLong g off) s))

/-- 12 R312: jr and callr go to the line A addresses, ret to the line in g31; callr reads A before it writes g31. -/
def Sys2Proof.Claims.RegisterTransfers : Prop :=
  ∀ (w : Who) (g : Guard) (s s1 : State) (a : Spec) (x : Val), Issues w g s → (readSrc w a).go s = (.ok x, s1) →
    TransfersTo w (noted w x s1) x.v false (exec (.jr g a) s) ∧
    TransfersTo w (noted w x s1) x.v true (exec (.callr g a) s) ∧
    (a = 31 → TransfersTo w (noted w x s1) x.v false (exec (.ret g) s))

/-- 12 R311, R314, 11 R280: br, call and a loop that goes on need TGT in the line they go to. -/
def Sys2Proof.Claims.RelativeTraps : Prop :=
  ∀ (w : Who) (g : Guard) (s : State), Issues w g s →
    (∀ off : BitVec 18,
      let t := ((regs w s).pc &&& ~~~31) + 32 * off.signExtend 64
      NeedsTgt w 1 s s t (exec (.br g off) s) ∧ NeedsTgt w 1 s s t (exec (.call g off) s)) ∧
    (∀ off : BitVec 32,
      let t := ((regs w s).pc &&& ~~~31) + 32 * off.signExtend 64
      NeedsTgt w 2 s s t (exec (.brLong g off) s) ∧ NeedsTgt w 2 s s t (exec (.callLong g off) s)) ∧
    (∀ cnt : Spec, cnt.toNat < 32 →
      let p := physOf (regs w s).rb cnt.toNat
      sget 0 (regs w s).gWait p = 0 → 2 ≤ (if p = 0 then 0 else sget 0 (regs w s).g p).toNat →
      (∀ off : BitVec 12, NeedsTgt w 1 s s (((regs w s).pc &&& ~~~31) + 32 * off.signExtend 64) (exec (.loop g cnt off) s)) ∧
      (∀ off : BitVec 32, NeedsTgt w 2 s s (((regs w s).pc &&& ~~~31) + 32 * off.signExtend 64) (exec (.loopLong g cnt off) s)))

/-- 12 R312, 11 R280, R286: jr, callr and ret need a line's address and TGT. -/
def Sys2Proof.Claims.RegisterTraps : Prop :=
  ∀ (w : Who) (g : Guard) (s s1 : State) (a : Spec) (x : Val), Issues w g s → (readSrc w a).go s = (.ok x, s1) →
    TrapsBefore w s (noted w x s1) x.v (exec (.jr g a) s) ∧
    TrapsBefore w s (noted w x s1) x.v (exec (.callr g a) s) ∧
    (a = 31 → TrapsBefore w s (noted w x s1) x.v (exec (.ret g) s))

namespace Sys2Proof.Claims

/-- A loop counter at least 2 goes down by one, RB goes back by one, and control goes to the loop's line; a smaller one becomes
0 and control goes on. Neither pushes. -/
def Loops (mk : Guard → Spec → Instr) (n : Nat) (off : Word) : Prop :=
  ∀ (w : Who) (g : Guard) (s : State) (cnt : Spec), Issues w g s → cnt.toNat < 32 →
    let r := regs w s
    let p := physOf r.rb cnt.toNat
    let x := if p = 0 then 0 else sget 0 r.g p
    let m := markOf [sget .clean r.gMark p]
    let wrote := fun (v : Word) => if p = 0 then r else { r with g := sset 0 r.g p v, gMark := sset .clean r.gMark p m }
    sget 0 r.gWait p = 0 →
    (x.toNat < 2 → ∃ v, exec (mk g cnt) s = .next v ∧ Recorded (withRegs w s (pcOn (wrote 0) n)) v) ∧
    (2 ≤ x.toNat → ∀ (line : BitVec 256) (u : State),
      (fetchLine w ((r.pc &&& ~~~31) + 32 * off)).go s = (.ok line, u) → lineTgt line = true →
      ∃ v, exec (mk g cnt) s = .next v ∧
        Recorded (withRegs w u { wrote (x - 1) with rb := r.rb - 1, pc := (r.pc &&& ~~~31) + 32 * off + 4 }) v)

end Sys2Proof.Claims

/-- 12 R314: the rotate-and-branch loop, in one slice and in two. -/
def Sys2Proof.Claims.LoopCounts : Prop :=
  (∀ off : BitVec 12, Loops (fun g cnt => .loop g cnt off) 1 (off.signExtend 64)) ∧
  (∀ off : BitVec 32, Loops (fun g cnt => .loopLong g cnt off) 2 (off.signExtend 64))

/-- 12 R313, R334; 09 R221: rotw sets RB and nop changes nothing; both move the PC on. -/
def Sys2Proof.Claims.RotateAndNop : Prop :=
  ∀ (w : Who) (g : Guard) (s : State), Issues w g s →
    (∀ rb, exec (.rotw g rb) s = .next (withRegs w s (pcOn { regs w s with rb := rb } 1))) ∧
    exec (.nop g) s = .next (withRegs w s (pcOn (regs w s) 1))

namespace Sys2Proof.Claims

/-- The state after a task enters its handler at depth 0 (09 R244): the first pair of the trap stack holds where to resume and why,
the depth is 1, the PC is the handler's, what the task waited for is kept for its return, and the first line of the handler must carry
TGT. How many free values have been used is
the model's own (log 5). -/
def InHandler (w : Who) (s : State) (resume : Word) (cause : BitVec 8) (v : State) : Prop :=
  ∃ n, v = { updBank s w.core w.bank (fun k =>
    { k.toHandler with regs := { k.regs with epc0 := resume, cause0 := cause, depth := 1, pc := enterAt k.regs.evec } }) with fresh := n, raised := true }

end Sys2Proof.Claims

/-- 12 R334, 09 R244: brk and trap enter the handler that SY_EVEC names, with BREAK and the next instruction as the resume point. That
trap leaves the head of an operand queue it names in place is log 92 (the model's). -/
def Sys2Proof.Claims.BreakEntersHandler : Prop :=
  ∀ (w : Who) (g : Guard) (s : State), Issues w g s → (regs w s).evec ≠ 0 → (regs w s).depth = 0 →
    (∃ v, exec (.brk g) s = .next v ∧ InHandler w s (nextPc (regs w s).pc 1) 0x11 v) ∧
    (∀ (a : Spec) (x : Val) (r1 : Regs), source (regs w s) a = some (x, r1) →
      ∃ v, exec (.trap g a) s = .next v ∧ InHandler w s (nextPc (regs w s).pc 1) 0x11 v)

/-- 09 R244, 12 R334: rti restores the PC from the pair of its depth and lowers the depth; at depth 0 it raises ILLEGAL_OPCODE. That the
low bits of a saved PC are dropped and a header's address is read as slice 1 is log 9 (DEDUCED). -/
def Sys2Proof.Claims.ReturnFromHandler : Prop :=
  ∀ (w : Who) (g : Guard) (s : State), Issues w g s →
    let r := regs w s
    let back := fun (r : Regs) => updBank s w.core w.bank (fun k => { k.fromHandler with regs := r })
    (r.depth = 1 → exec (.rti g) s = .next (back { r with depth := 0, pc := enterAt r.epc0 })) ∧
    (r.depth = 2 → exec (.rti g) s = .next (back { r with depth := 1, pc := enterAt r.epc1 })) ∧
    (r.depth = 0 → exec (.rti g) s = .next (raiseNow w 1 .illegalOpcode none (withRegs w s r)))

/-- 09 R244, 03 R70: brk in a handler only goes on; without one the device writes a fault record to the context's queue (code 0x11, core,
launch TAG, work identifier, PC, and an INFO that no rule gives), and the task goes on. That the PC is the brk's own is log 94, and that
INFO is a free value log 5 (both the model's). -/
def Sys2Proof.Claims.BreakElsewhere : Prop :=
  ∀ (w : Who) (g : Guard) (s : State), Issues w g s →
    let next := pcOn (regs w s) 1
    ((regs w s).depth ≠ 0 → ∃ n, exec (.brk g) s = .next { withRegs w s next with fresh := n, raised := true }) ∧
    ((regs w s).depth = 0 → (regs w s).evec = 0 → ∀ q, taskOf s w.task = some q →
      let tag : BitVec 32 := ((q.launch.bind (launchOf s)).map (fun l => l.tag)).getD 0
      let record := [0x11, BitVec.ofNat 8 w.core, 0, 0] ++ leBytes 4 tag.toNat ++ leBytes 8 q.record.wid.toNat ++
        leBytes 8 (regs w s).pc.toNat ++ leBytes 8 (Config.freeValue s.fresh).toNat
      ∃ u, (faultRecord q.ctx record).go { withRegs w s (regs w s) with fresh := s.fresh + 1 } = (.ok (), u) ∧
        exec (.brk g) s = .next { withRegs w u next with raised := true })

/-- 12 R334, 03 R69: trap without a handler, or in one, ends the task with code 0x11 and INFO A; the order in which its end takes effect is
the model's (log 24). -/
def Sys2Proof.Claims.TrapEndsTask : Prop :=
  ∀ (w : Who) (g : Guard) (s s1 : State) (a : Spec) (x : Val), Issues w g s → (readSrc w a).go s = (.ok x, s1) →
    ((regs w s).evec = 0 ∨ (regs w s).depth ≠ 0) →
    ∀ u, (endByTrap w.task w.core .break_ (regs w s).pc x.v).go s1 = (.ok (), u) →
      exec (.trap g a) s = .next { u with raised := true }

namespace Sys2Proof.Claims

/-- The bank of an agent. -/
abbrev bank (w : Who) (s : State) : Bank := bankOf s w.core w.bank

/-- `n` bytes at a partition-relative offset of S may be accessed by the thread: in the partition, aligned, in slots it owns, and no
ld.sec has still to write them (12 R315, R317, R319). -/
structure ThreadBytes (w : Who) (s : State) (o n : Nat) : Prop where
  inside : o + n ≤ 2048 * (bank w s).part.sn
  aligned : o % n = 0
  first : (slotOf s w.core ((bank w s).part.s0 + o / 2048)).owner = false
  last : (slotOf s w.core ((bank w s).part.s0 + (o + n - 1) / 2048)).owner = false
  settled : sWaits s w o n = false

/-- A load of `2 ^ q` bytes from S: D takes them, sign- or zero-extended, at issue. -/
def LoadsFromS (signed : Bool) (n : Nat) (disp : Word) (q : BitVec 2) (i : Guard → Spec → Spec → Instr) : Prop :=
  ∀ (w : Who) (g : Guard) (s s1 u : State) (d a : Spec) (x : Val), Issues w g s → (readSrc w a).go s = (.ok x, s1) →
    let o := (x.v + disp).toNat
    let size := 2 ^ q.toNat
    ThreadBytes w s o size → (raceCheck w 0x100 (coreOf s w.core).phase o size false).go (noted w x s1) = (.ok (), u) →
    let raw := leNat (readS u w.core (bank w s).part o size)
    let v := if signed then (BitVec.ofNat (8 * size) raw).signExtend 64 else BitVec.ofNat 64 raw
    ∃ m, ∀ r, result (regs w s1) d ⟨v, m⟩ = some r → exec (i g d a) s = .next (withRegs w u (pcOn r n))

/-- A store of `2 ^ q` bytes of D to S: those bytes of S and no others, but the shadow words of a race check (06 R160), no memory, no
other register than the PC (and an operand queue that a source pops). -/
def StoresToS (n : Nat) (disp : Word) (q : BitVec 2) (i : Guard → Spec → Spec → Instr) : Prop :=
  ∀ (w : Who) (g : Guard) (s s1 s2 u : State) (d a : Spec) (y x : Val), Issues w g s →
    (readSrc w d).go s = (.ok y, s1) → (readSrc w a).go s1 = (.ok x, s2) →
    let o := (x.v + disp).toNat
    let size := 2 ^ q.toNat
    ThreadBytes w s o size → (raceCheck w 0x100 (coreOf s w.core).phase o size true).go s2 = (.ok (), u) →
    ∃ v, exec (i g d a) s = .next v ∧ regs w v = pcOn (regs w s2) n ∧ v.mem = s.mem ∧
      (∀ k, sByte v w.core k = if 2048 * (bank w s).part.s0 + o ≤ k ∧ k < 2048 * (bank w s).part.s0 + o + size
        then (leBytes size y.v.toNat).getD (k - (2048 * (bank w s).part.s0 + o)) 0 else sByte u w.core k) ∧
      (∀ c b, c ≠ w.core ∨ b ≠ w.bank → bankOf v c b = bankOf s c b)

end Sys2Proof.Claims

/-- 12 R317, 09 R227: the loads from S, with and without a displacement. -/
def Sys2Proof.Claims.ScratchLoads : Prop :=
  ∀ (c : BitVec 4) (q : BitVec 2) (disp : BitVec 32),
    LoadsFromS true 1 0 q (fun g d a => .ldSSpaceS g d a c q) ∧ LoadsFromS false 1 0 q (fun g d a => .ldNSpaceS g d a c q) ∧
    LoadsFromS true 2 (disp.signExtend 64) q (fun g d a => .ldSSpaceSDisp g d a c q disp) ∧
    LoadsFromS false 2 (disp.signExtend 64) q (fun g d a => .ldNSpaceSDisp g d a c q disp)

/-- 12 R317: the stores to S. -/
def Sys2Proof.Claims.ScratchStores : Prop :=
  ∀ (c : BitVec 4) (q : BitVec 2) (disp : BitVec 32),
    StoresToS 1 0 q (fun g d a => .stSpaceS g d a c q) ∧
    StoresToS 2 (disp.signExtend 64) q (fun g d a => .stSpaceSDisp g d a c q disp)

namespace Sys2Proof.Claims

/-- Local accesses of an instruction are in flight, what they bring back is awaited, and memory has not changed by issuing them. -/
def InFlight (w : Who) (u v : State) (accs : List Access) (back : Load) : Prop :=
  (bank w v).loads = (bank w u).loads ++ [back] ∧ v.mem = u.mem ∧
    ∀ a ∈ accs, a.remote = false → a ∈ (bank w v).inflight

/-- Steps 3 and 4 of 12 R315: the pieces of an access are translated and their rights checked, and the ticket table has room for the
remote ones (07 R185, R188, R189). -/
def Places (w : Who) (s : State) (kind : AccKind) (dkind : BitVec 4) (right : Right) (c : BitVec 4) (va : Word) (n : Nat)
    (placed : List Access) (u : State) : Prop :=
  (placePieces w s.nextId kind dkind right c (pieces va.toNat n)).go { s with nextId := s.nextId + 1 } = (.ok placed, u) ∧
    (remoteRoom w va placed).go u = (.ok (), u)

/-- The accesses of a load see the bytes of the task's own buffered stores (08 R201). -/
def forwarded (w : Who) (u : State) (placed : List Access) (va : Word) (n : Nat) : List Access :=
  (placed.zip (pieces va.toNat n)).map (fun e => { e.1 with fwd := bufferedBytes u w.ctx (bank w u) e.2, size := n })

/-- A load from memory makes D pending on it, with its place in the age queue, and goes on. -/
def LoadsPending (signed : Bool) (n : Nat) (disp : Word) (c : BitVec 4) (q : BitVec 2) (i : Guard → Spec → Spec → Instr) : Prop :=
  ∀ (w : Who) (g : Guard) (s s1 u : State) (d a : Spec) (x : Val) (placed : List Access), Issues w g s →
    d.toNat < 32 → sget 0 (regs w s).gWait (physOf (regs w s).rb d.toNat) = 0 → (readSrc w a).go s = (.ok x, s1) →
    let va := x.v + disp
    let size := 2 ^ q.toNat
    va.toNat < 2 ^ 56 → Places w (noted w x s1) .load 0 .rd c va size placed u →
    ∃ v, exec (i g d a) s = .next v ∧
      regs w v = pcOn (pendD (regs w s1) (physOf (regs w s).rb d.toNat) s.nextId) n ∧
      InFlight w u v (forwarded w u placed va size)
        { id := s.nextId, size := size, signed := signed, dest := .regs, spec := d.toNat, got := List.replicate size none }

end Sys2Proof.Claims

/-- 12 R316, 09 R236: the loads from memory. -/
def Sys2Proof.Claims.MemoryLoads : Prop :=
  ∀ (c : BitVec 4) (q : BitVec 2) (disp : BitVec 32),
    LoadsPending true 1 0 c q (fun g d a => .ldS g d a c q) ∧ LoadsPending false 1 0 c q (fun g d a => .ldN g d a c q) ∧
    LoadsPending true 2 (disp.signExtend 64) c q (fun g d a => .ldSDisp g d a c q disp) ∧
    LoadsPending false 2 (disp.signExtend 64) c q (fun g d a => .ldNDisp g d a c q disp)

namespace Sys2Proof.Claims

/-- ldq appends an unfilled entry to the operand queue that D names. -/
def LoadsQueue (n : Nat) (disp : Word) (c : BitVec 4) (q : BitVec 2) (i : Guard → Spec → Spec → Instr) : Prop :=
  ∀ (w : Who) (g : Guard) (s s1 u : State) (d a : Spec) (x : Val) (placed : List Access), Issues w g s →
    (readSrc w a).go s = (.ok x, s1) →
    let va := x.v + disp
    let size := 2 ^ q.toNat
    let qn := d.toNat - 48
    va.toNat < 2 ^ 56 → (sget [] (regs w s1).q qn).length < 16 → Places w (noted w x s1) .load 0 .rd c va size placed u →
    ∃ v, exec (i g d a) s = .next v ∧
      regs w v = pcOn { regs w s1 with
        q := sset [] (regs w s1).q qn
          (sget [] (regs w s1).q qn ++ [{ v := 0, wait := s.nextId, va := va, size := size, cls := c }]) } n ∧
      InFlight w u v (forwarded w u placed va size)
        { id := s.nextId, size := size, signed := false, dest := .regs, spec := d.toNat, got := List.replicate size none }

/-- A store to memory enters the store buffer, one entry for each sector it touches; no byte of memory changes. -/
def StoresBuffered (ordered : Bool) (n : Nat) (disp : Word) (c : BitVec 4) (q : BitVec 2) (i : Guard → Spec → Spec → Instr) :
    Prop :=
  ∀ (w : Who) (g : Guard) (s s1 s2 : State) (d a : Spec) (y x : Val), Issues w g s →
    (readSrc w d).go s = (.ok y, s1) → (readSrc w a).go s1 = (.ok x, s2) →
    let va := x.v + disp
    let size := 2 ^ q.toNat
    let es := bufEntries va.toNat (leBytes size y.v.toNat) c ordered
    va.toNat < 2 ^ 56 → (ordered = true → va.toNat % size = 0) → (bank w s).storeBuf.length + es.length ≤ 128 →
    ∃ v, exec (i g d a) s = .next v ∧
      Recorded (updBank s w.core w.bank (fun k => { k with storeBuf := k.storeBuf ++ es, regs := pcOn (regs w s2) n })) v

end Sys2Proof.Claims

/-- 12 R320, 09 R222: ldq reserves the tail entry of its queue at issue. -/
def Sys2Proof.Claims.QueueLoads : Prop :=
  ∀ (c : BitVec 4) (q : BitVec 2) (disp : BitVec 32),
    LoadsQueue 1 0 c q (fun g d a => .ldq g d a c q) ∧
    LoadsQueue 2 (disp.signExtend 64) c q (fun g d a => .ldqDisp g d a c q disp)

/-- 12 R318, R321: st and stf are buffered. -/
def Sys2Proof.Claims.MemoryStores : Prop :=
  ∀ (c : BitVec 4) (q : BitVec 2) (disp : BitVec 32),
    StoresBuffered false 1 0 c q (fun g d a => .st g d a c q) ∧
    StoresBuffered false 2 (disp.signExtend 64) c q (fun g d a => .stDisp g d a c q disp) ∧
    StoresBuffered true 1 0 c q (fun g d a => .stf g d a c q) ∧
    StoresBuffered true 2 (disp.signExtend 64) c q (fun g d a => .stfDisp g d a c q disp)

namespace Sys2Proof.Claims

/-- A sector opcode's operands: an aligned sector of memory and `n` aligned bytes of one thread-owned slot of S (12 R319, R323). -/
structure SectorBytes (w : Who) (s : State) (va : Word) (o n : Nat) : Prop where
  legal : va.toNat < 2 ^ 56
  sector : va.toNat % 32 = 0
  inside : o + n ≤ 2048 * (bank w s).part.sn
  aligned : o % 32 = 0
  oneSlot : o % 2048 + n ≤ 2048
  owner : (slotOf s w.core ((bank w s).part.s0 + o / 2048)).owner = false
  settled : sWaits s w o n = false

/-- ld.sec, st.sec and cas.sec, in `n` slices with a displacement. -/
def SectorOpcodes (n : Nat) (disp : Word) (ld st cas : Guard → Spec → Spec → Instr) (c : BitVec 4) : Prop :=
  ∀ (w : Who) (g : Guard) (s s1 s2 : State) (d a : Spec) (y x : Val), Issues w g s →
    (readSrc w d).go s = (.ok y, s1) → (readSrc w a).go s1 = (.ok x, s2) →
    let va := x.v + disp
    let o := y.v.toNat
    let phase := (coreOf s w.core).phase
    (∀ (placed : List Access) (u u' v : State) (id : Nat), SectorBytes w s va o 32 →
      Places w s2 .load 0 .rd c va 32 placed u → (issueLoad w va 32 false c (.sBytes o) 0 (sectorOwner w o)).go s2 = (.ok id, v) →
      (raceCheck w 0x100 phase o 32 true).go v = (.ok (), u') →
      ∃ t, exec (ld g d a) s = .next t ∧ regs w t = pcOn (regs w s2) n ∧
        InFlight w u t (forwarded w u placed va 32)
          { id := s.nextId, size := 32, signed := false, dest := .sBytes o, spec := 0, got := List.replicate 32 none }) ∧
    (∀ u, SectorBytes w s va o 32 → (raceCheck w 0x100 phase o 32 false).go s2 = (.ok (), u) →
      (bank w s).storeBuf.length < 128 →
      ∃ t, exec (st g d a) s = .next t ∧ regs w t = pcOn (regs w s2) n ∧ t.mem = s.mem ∧
        (bank w t).storeBuf = (bank w s).storeBuf ++
          [{ va := va.toNat, bytes := readS u w.core (bank w s).part o 32, cls := c, ordered := false, off := 0, size := 32,
             fromS := some o }]) ∧
    (∀ (placed : List Access) (u u1 u2 : State), SectorBytes w s va o 64 → Places w s2 .casSec 2 .rdw c va 32 placed u →
      (∀ e ∈ placed, e.target ≠ .pool ∧ e.target ≠ .host) →
      (raceCheck w 0x100 phase o 64 false).go u = (.ok (), u1) → (raceCheck w 0x100 phase o 32 true).go u1 = (.ok (), u2) →
      ∃ t, exec (cas g d a) s = .next t ∧ regs w t = pcOn (regs w s2) n ∧
        InFlight w u t (placed.map (fun e => { e with data := readS u2 w.core (bank w s).part o 64, size := 32 }))
          { id := s.nextId, size := 32, signed := false, dest := .sBytes o, spec := 0, got := List.replicate 32 none })

end Sys2Proof.Claims

/-- 12 R319, R323: the sector opcodes. -/
def Sys2Proof.Claims.SectorAccesses : Prop :=
  ∀ (c : BitVec 4) (disp : BitVec 32),
    SectorOpcodes 1 0 (fun g d a => .ldSec g d a c) (fun g d a => .stSec g d a c) (fun g d a => .casSec g d a c) c ∧
    SectorOpcodes 2 (disp.signExtend 64) (fun g d a => .ldSecDisp g d a c disp) (fun g d a => .stSecDisp g d a c disp)
      (fun g d a => .casSecDisp g d a c disp) c

/-- 12 R322, R324: an atomic makes D pending on its old value; its access is in flight with its operation and operands. -/
def Sys2Proof.Claims.AtomicsIssue : Prop :=
  ∀ (i : Guard → Spec → Spec → Spec → Bool → Bool → BitVec 4 → Instr) (aop : BitVec 3),
    (i, aop) ∈ [(Instr.atomAdd, 0), (.atomAnd, 1), (.atomOr, 2), (.atomXor, 3), (.atomSwap, 4), (.atomMinS, 5), (.atomMaxS, 6)] →
    ∀ (w : Who) (g : Guard) (s s1 s2 u : State) (d a b : Spec) (sz log : Bool) (c : BitVec 4) (x y : Val)
      (placed : List Access), Issues w g s →
      d.toNat < 32 → sget 0 (regs w s).gWait (physOf (regs w s).rb d.toNat) = 0 →
      (readSrc w a).go s = (.ok x, s1) → (readSrc w b).go s1 = (.ok y, s2) →
      let size := if sz then 8 else 4
      x.v.toNat < 2 ^ 56 → x.v.toNat % size = 0 → Places w s2 .atomic 2 .rdw c x.v size placed u →
      (∀ e ∈ placed, e.target ≠ .pool ∧ (e.target = .host → aop = 0 ∨ aop = 4)) →
      ∃ v, exec (i g d a b sz log c) s = .next v ∧
        regs w v = pcOn (pendD (regs w s2) (physOf (regs w s).rb d.toNat) s.nextId) 2 ∧
        InFlight w u v (placed.map (fun e => { e with aop := aop, opB := y.v, opD := 0, log := log, size := size }))
          { id := s.nextId, size := size, signed := aop = 5 ∨ aop = 6, dest := .regs, spec := d.toNat, got := List.replicate size none }

/-- 12 R322: atom.cas also takes the value of D, to compare with. -/
def Sys2Proof.Claims.CompareAndSwapIssues : Prop :=
  ∀ (w : Who) (g : Guard) (s s0 s1 s2 u : State) (d a b : Spec) (sz log : Bool) (c : BitVec 4) (z x y : Val)
    (placed : List Access), Issues w g s → d.toNat < 32 → (readSrc w d).go s = (.ok z, s0) →
    (readSrc w a).go s0 = (.ok x, s1) → (readSrc w b).go s1 = (.ok y, s2) →
    let size := if sz then 8 else 4
    x.v.toNat < 2 ^ 56 → x.v.toNat % size = 0 → Places w s2 .atomic 2 .rdw c x.v size placed u →
    (∀ e ∈ placed, e.target ≠ .pool) →
    ∃ v, exec (.atomCas g d a b sz log c) s = .next v ∧
      regs w v = pcOn (pendD (regs w s2) (physOf (regs w s).rb d.toNat) s.nextId) 2 ∧
      InFlight w u v (placed.map (fun e => { e with aop := 7, opB := y.v, opD := z.v, log := log, size := size }))
        { id := s.nextId, size := size, signed := false, dest := .regs, spec := d.toNat, got := List.replicate size none }

namespace Sys2Proof.Claims

/-- The k-th access in flight of a core is local, nothing before it holds it back, and no granule of a checkpoint stalls it. -/
structure MayPerform (s : State) (c k b i : Nat) (a : Access) : Prop where
  found : findInflight s c k = some (b, i)
  isIt : (bankOf s c b).inflight[i]? = some a
  isLocal : a.remote = false
  clear : mayPerform s c b i = true
  free : (a.kind.isWrite && writeStalls s a.pa a.len) = false

/-- What an atomic leaves in memory, by operation (12 R322): the sum, and, or, xor, the new value, the smaller, the larger, or the
new value where the old one is the expected one. -/
def atomicResult (aop : BitVec 3) (n : Nat) (old : BitVec (8 * n)) (b d : Word) : BitVec (8 * n) :=
  let y := b.setWidth (8 * n)
  match aop.toNat with
  | 0 => old + y
  | 1 => old &&& y
  | 2 => old ||| y
  | 3 => old ^^^ y
  | 4 => y
  | 5 => if old.toInt < y.toInt then old else y
  | 6 => if old.toInt < y.toInt then y else old
  | _ => if old = d.setWidth (8 * n) then y else old

/-- The bytes of an access are a piece of what its load or atomic waits for. -/
structure PieceOf (s : State) (c b : Nat) (a : Access) (l : Load) : Prop where
  found : (bankOf s c b).loads.find? (fun e => e.id == a.id) = some l
  whole : l.got.length = l.size
  inside : a.off + a.len ≤ l.size

/-- The bytes that have come, the piece among them. -/
def come (l : Load) (a : Access) (bs : List Byte) : List (Option Byte) :=
  (List.range l.size).map (fun j => if a.off ≤ j ∧ j < a.off + a.len then bs[j - a.off]? else l.got.getD j none)

/-- A piece comes back (12 R316, R319, R323). While another is still to come it is kept; once all have come, every register that waits
takes the value, in the active and in the restart state, or the bytes stand in S and nowhere else in it. -/
def Returned (s t : State) (c b : Nat) (a : Access) (l : Load) (bs : List Byte) : Prop :=
  let k := bankOf s c b
  let got := come l a bs
  let all := got.map (fun x => x.getD 0)
  let v := if l.signed then (BitVec.ofNat (8 * l.size) (leNat all)).signExtend 64 else BitVec.ofNat 64 (leNat all)
  (none ∈ got → regsOf t c b = regsOf s c b ∧ (bankOf t c b).restart = k.restart ∧
    (bankOf t c b).loads.find? (fun e => e.id == a.id) = some { l with got := got }) ∧
  (none ∉ got → l.dest = .regs → ∃ m, regsOf t c b = (regsOf s c b).fill l.id ⟨v, m⟩ ∧
    (bankOf t c b).restart = k.restart.fill l.id ⟨v, m⟩) ∧
  (∀ o, none ∉ got → l.dest = .sBytes o → aget k.overS (k.part.s0 + o / 2048) = none →
    regsOf t c b = regsOf s c b ∧ (∀ j < l.size, sByte t c (2048 * k.part.s0 + o + j) = all.getD j 0) ∧
    (∀ p, p < 2048 * k.part.s0 + o ∨ 2048 * k.part.s0 + o + l.size ≤ p → sByte t c p = sByte s c p))

/-- The launch of a bank's task, where it is deterministic. -/
def Deterministic (s : State) (c b l : Nat) : Prop :=
  ∃ t q k, (bankOf s c b).task = some t ∧ taskOf s t = some q ∧ q.launch = some l ∧ launchOf s l = some k ∧ k.determ = true

/-- An atomic has its turn in state `u`: it is not logged, its launch is not deterministic, or the forced log names its core, or none, and
its choice is logged (06 R158, R159). -/
def HasTurn (s : State) (c b : Nat) (a : Access) (u : State) : Prop :=
  let site := a.pa / 32 % 2 ^ 26
  (u = s ∧ (a.log = false ∨ ∀ l, ¬ Deterministic s c b l)) ∨
  (∃ l r x, a.log = true ∧ Deterministic s c b l ∧ (forcedWinner l 2 (targetDie a.target) site).go s = (.ok r, x) ∧
    (r = none ∨ r = some c) ∧ (logChoice l 2 (targetDie a.target) site c).go x = (.ok (), u) ∧ bankOf u c b = bankOf s c b)

end Sys2Proof.Claims

/-- 12 R316, R319, 08 R201: a piece of a load's data arrives: the bytes memory holds, or those of the task's own buffered stores; they go to
the registers or the bytes of S that wait for them, and memory is as it was. -/
def Sys2Proof.Claims.LoadDataArrives : Prop :=
  ∀ (s : State) (c : BitVec 8) (k b i : Nat) (a : Access) (l : Load), MayPerform s c.toNat k b i a → a.kind = .load →
    PieceOf s c.toNat b a l → a.fwd.length = a.len →
    let bytes := (List.range a.len).map (fun j => (a.fwd.getD j none).getD (readByte s (a.pa + j)))
    ∃ t, exec (.loadDataArrival c k) s = .next t ∧ t.mem = s.mem ∧ Returned s t c.toNat b a l bytes

/-- 08 R202, R203: a released store performs at its home: the bytes it stores and no other byte of memory. -/
def Sys2Proof.Claims.StorePerforms : Prop :=
  ∀ (s : State) (c : BitVec 8) (k b i : Nat) (a : Access), MayPerform s c.toNat k b i a → (a.kind = .store ∨ a.kind = .stf) →
    (∀ l ∈ (bankOf s c.toNat b).loads, l.id ≠ a.id) →
    ∃ t, exec (.storePerformedAtHome c k) s = .next t ∧ t.mem = (writeBytes s a.pa a.data).mem ∧
      regsOf t c.toNat b = regsOf s c.toNat b

/-- 12 R322, 06 R158, R159: an atomic that has its turn reads its old value and writes its result as one, in the widths of its bytes, and
the old value goes to the registers that wait for it; one whose turn a forced log gives to another core waits. -/
def Sys2Proof.Claims.AtomicPerforms : Prop :=
  ∀ (s : State) (c : BitVec 8) (k b i : Nat) (a : Access) (l : Load), MayPerform s c.toNat k b i a → a.kind = .atomic →
    (a.len = 4 ∨ a.len = 8) → PieceOf s c.toNat b a l →
    (∀ u, HasTurn s c.toNat b a u →
      let old := BitVec.ofNat (8 * a.len) (leNat (readBytes u a.pa a.len))
      ∃ t, exec (.storePerformedAtHome c k) s = .next t ∧
        (∀ p, readByte t p =
          readByte (writeBytes u a.pa (leBytes a.len (atomicResult a.aop a.len old a.opB a.opD).toNat)) p) ∧
        Returned u t c.toNat b a l (readBytes u a.pa a.len)) ∧
    (∀ q r u, a.log = true → Deterministic s c.toNat b q →
      (forcedWinner q 2 (targetDie a.target) (a.pa / 32 % 2 ^ 26)).go s = (.ok (some r), u) → r ≠ c.toNat →
      exec (.storePerformedAtHome c k) s = .next u)

/-- 12 R323: a sector compare-and-swap compares 32 bytes of memory with those expected, stores the new ones where all are equal, and brings
the old ones back to S. -/
def Sys2Proof.Claims.SectorSwapPerforms : Prop :=
  ∀ (s : State) (c : BitVec 8) (k b i : Nat) (a : Access) (l : Load), MayPerform s c.toNat k b i a → a.kind = .casSec →
    a.log = false → a.len = 32 → a.data.length = 64 → PieceOf s c.toNat b a l →
    ∃ t, exec (.storePerformedAtHome c k) s = .next t ∧
      t.mem = (if readBytes s a.pa 32 = a.data.take 32 then writeBytes s a.pa (a.data.drop 32) else s).mem ∧
      Returned s t c.toNat b a l (readBytes s a.pa 32)

/-- 12 R325, R328, 08 R203, R204: fence and tkwait complete where what they wait for has happened, and otherwise wait with every
register as it was. -/
def Sys2Proof.Claims.FencesComplete : Prop :=
  ∀ (w : Who) (g : Guard) (s : State), Issues w g s →
    (∀ (scope : BitVec 3) (mask : BitVec 16),
      ((mask = 0 ∨ performed (bank w s) mask (scope == 0) = true) →
        ∃ v, exec (.fence g scope mask) s = .next v ∧ regs w v = pcOn (regs w s) 2 ∧ v.mem = s.mem ∧
          (bank w v).storeBuf = (bank w s).storeBuf ∧ (bank w v).loads = (bank w s).loads ∧
          (bank w v).tickets = (bank w s).tickets ∧ (∀ a ∈ (bank w s).inflight, a ∈ (bank w v).inflight)) ∧
      (mask ≠ 0 → performed (bank w s) mask (scope == 0) = false →
        exec (.fence g scope mask) s = .next (withRegs w s (regs w s)))) ∧
    ((bank w s).tickets = [] → exec (.tkwait g) s = .next (withRegs w s (pcOn (regs w s) 1))) ∧
    ((bank w s).tickets ≠ [] → exec (.tkwait g) s = .next (withRegs w s (regs w s)))

/-- 12 R326, 08 R216: iflush drops the fetched lines of every core in its scope, isync those of its own; nothing else changes. -/
def Sys2Proof.Claims.LinesFlushed : Prop :=
  ∀ (w : Who) (g : Guard) (s : State), Issues w g s →
    (∀ scope : BitVec 3, ∃ v, exec (.iflush g scope) s = .next v ∧ regs w v = pcOn (regs w s) 1 ∧ v.mem = s.mem ∧
      ∀ d,
        let within : Prop := match scope.toNat with
          | 0 => d = w.core
          | 1 => d / 8 = w.core / 8
          | 2 => d / 64 = w.core / 64
          | _ => True
        (within → (coreOf v d).icache = []) ∧ (¬ within → (coreOf v d).icache = (coreOf s d).icache)) ∧
    exec (.isync g) s = .next (withRegs w (updCore s w.core (fun k => { k with icache := [] })) (pcOn (regs w s) 1))

namespace Sys2Proof.Claims

/-- What an owner flip of a slot of the partition changes: that slot's owner. -/
def Flipped (w : Who) (s v : State) (slot : Nat) (toEngines : Bool) : Prop :=
  v.mem = s.mem ∧ ∀ n, slotOf v w.core n =
    if n = (bank w s).part.s0 + slot then { slotOf s w.core n with owner := toEngines } else slotOf s w.core n

end Sys2Proof.Claims

/-- 12 R327, 09 R229: own.t and own.e give the slot A + N of the partition to the thread or to the engines, at once where it has that
owner or nothing that touches it is left. -/
def Sys2Proof.Claims.OwnerFlips : Prop :=
  ∀ (w : Who) (g : Guard) (s s1 : State) (a : Spec) (n : BitVec 8) (x : Val), Issues w g s → (readSrc w a).go s = (.ok x, s1) →
    let slot := (x.v.toNat + n.toNat) % 256
    slot < (bank w s).part.sn →
    (ringHolds (bank w s) slot = false →
      ((slotOf s w.core ((bank w s).part.s0 + slot)).owner = false ∨ slotBusy s w.core w.bank slot = false) →
      ∃ v, exec (.ownT g a n) s = .next v ∧ regs w v = pcOn (regs w s1) 1 ∧ Flipped w s v slot false) ∧
    (((slotOf s w.core ((bank w s).part.s0 + slot)).owner = true ∨ sWaits s w (2048 * slot) 2048 = false) →
      ∃ v, exec (.ownE g a n) s = .next v ∧ regs w v = pcOn (regs w s1) 1 ∧ Flipped w s v slot true)

namespace Sys2Proof.Claims

/-- The fold is in the grant mask of the agent's context (05 R131). -/
def Granted (w : Who) (s : State) (f : Nat) : Prop := ∃ k, ctxOf s w.ctx = some k ∧ maskHas k.foldMask f = true

end Sys2Proof.Claims

/-- 05 R132, 12 R329: fold.set takes its 256-bit mask from S. It takes effect at once where the effective mask is 0, and otherwise
waits for the generation to complete. -/
def Sys2Proof.Claims.FoldMaskSet : Prop :=
  ∀ (w : Who) (g : Guard) (s s1 u : State) (a : Spec) (n : BitVec 8) (x : Val), Issues w g s → Granted w s n.toNat →
    (readSrc w a).go s = (.ok x, s1) → ThreadBytes w s x.v.toNat 32 →
    (raceCheck w 0x100 (coreOf s w.core).phase x.v.toNat 32 false).go (noted w x s1) = (.ok (), u) →
    let m := BitVec.ofNat 256 (leNat (readS u w.core (bank w s).part x.v.toNat 32))
    let f := foldOf s n.toNat
    ∃ v, exec (.foldSet g a n) s = .next v ∧ regs w v = pcOn (regs w s1) 1 ∧ v.mem = s.mem ∧
      foldOf v n.toNat = (if f.eff = 0 then { f with eff := m, pend := m, pflag := false } else { f with pend := m, pflag := true }) ∧
      (∀ k, k ≠ n.toNat → foldOf v k = foldOf s k)

/-- 05 R132 to R134, 12 R329: fold.arr commits, arrives once the core's earlier accesses, those of shadows and streamed-out contexts
among them, have performed, and answers the generation;
the last arrival of the effective mask completes the generation and takes a pending mask. -/
def Sys2Proof.Claims.FoldArrival : Prop :=
  ∀ (w : Who) (g : Guard) (s u : State) (d : Spec) (n : BitVec 8), Issues w g s → Granted w s n.toNat →
    d.toNat < 32 → sget 0 (regs w s).gWait (physOf (regs w s).rb d.toNat) = 0 →
    (commitRegion w false).go s = (.ok (), u) → bodyTaskOf u w = none →
    let f := foldOf u n.toNat
    maskHas f.eff w.core = true → maskHas f.arr w.core = false →
    corePerformed u w.core = true →
    let arr := f.arr ||| BitVec.ofNat 256 (2 ^ w.core)
    ∃ v, exec (.foldArr g d n) s = .next v ∧
      regs w v = pcOn (push (gWrite (regs w s) (physOf (regs w s).rb d.toNat) ⟨f.gen.setWidth 64, .clean⟩)
        ⟨f.gen.setWidth 64, .clean⟩) 1 ∧
      (bank w v).restart = regs w v ∧
      foldOf v n.toNat = (if f.eff ≠ 0 ∧ arr = f.eff then
          { f with gen := f.gen + 1, arr := 0, eff := if f.pflag then f.pend else f.eff, pflag := false }
        else { f with arr := arr })

/-- 05 R132, 06 R160, 12 R329: fold.wait returns once the generation has moved on, and the core's fold phase goes up by one; until then
it waits. fold.aw returns so from the arrival it has made. -/
def Sys2Proof.Claims.FoldWaits : Prop :=
  ∀ (w : Who) (g : Guard) (s : State) (n : BitVec 8), Issues w g s → Granted w s n.toNat →
    (∀ (s1 : State) (a : Spec) (x : Val), (readSrc w a).go s = (.ok x, s1) →
      ((foldOf s n.toNat).gen ≠ x.v.setWidth 16 →
        ∃ v, exec (.foldWait g a n) s = .next v ∧ regs w v = pcOn (regs w s1) 1 ∧ v.mem = s.mem ∧
          (coreOf v w.core).phase = (coreOf s w.core).phase + 1 ∧ foldOf v n.toNat = foldOf s n.toNat) ∧
      ((foldOf s n.toNat).gen = x.v.setWidth 16 → exec (.foldWait g a n) s = .next (withRegs w s (regs w s)))) ∧
    (∀ gen, (bank w s).awaiting = some (n.toNat, gen) → (foldOf s n.toNat).gen ≠ gen →
      ∃ v, exec (.foldAw g n) s = .next v ∧ regs w v = pcOn (regs w s) 1 ∧ (bank w v).restart = regs w v ∧
        (bank w v).awaiting = none ∧ (coreOf v w.core).phase = (coreOf s w.core).phase + 1)

namespace Sys2Proof.Claims

/-- Nothing of the region is buffered, parked or in flight. -/
structure Settled (w : Who) (s : State) : Prop where
  stores : (bank w s).storeBuf = []
  tickets : (bank w s).tickets = []
  inflight : (bank w s).inflight = []

/-- The region has been committed with nothing to perform: a new one starts here. -/
def committed (w : Who) (s : State) : State :=
  updBank s w.core w.bank (fun k =>
    { k with storeBuf := [], inflight := [], restart := k.regs, restartTgt := k.mustTgt, region := s.nextId })

/-- Nothing of the task is left to wait for at its end (05 R128). -/
structure Ends (w : Who) (s : State) : Prop extends Settled w s where
  queues : (bank w s).queues = []
  tokens : (bank w s).tokens = []
  collectives : programsOf s w.task = []
  body : bodyTaskOf s w = none

/-- The copies of a bank stand at a micro-step's boundary (14 R409). -/
def CopiesStand (s : State) (c b : Nat) : Prop := ∀ m ∈ queueOf s c b 2, copyStopped s c (bankOf s c b) m = true

/-- What reads ahead is given up and what is half sent starts anew (14 R409). -/
def copiesStopped (s : State) (c b : Nat) : State :=
  updBank s c b (fun k => { dropReads k with
    queues := supd [] (supd [] (dropReads k).queues 2 (fun l => l.map Cmd.abandonRead)) 0 (fun l => l.map Cmd.restartSend) })

end Sys2Proof.Claims

/-- 12 R318, R331, 05 R115: commit translates and checks every buffered store before any leaves; then the buffer is empty, what it held
is on its way, and the state after the instruction is what a restart goes back to. A commit of nothing only begins the new region. -/
def Obligations.CommitReleases : Prop :=
  (∀ (w : Who) (s : State), Settled w s → (commitRegion w false).go s = (.ok (), committed w s)) ∧
  ∀ (w : Who) (g : Guard) (s u : State) (placed : List Access), Issues w g s → (bank w s).tickets = [] →
    (placeStores w 0 (bank w s).storeBuf).go s = (.ok placed, u) →
    (∀ a ∈ placed, a.remote = false → writeStalls u a.pa a.len = false) →
    ∃ v, exec (.commit g) s = .next v ∧ regs w v = pcOn (regs w s) 1 ∧ (bank w v).restart = regs w v ∧
      (bank w v).storeBuf = [] ∧ v.mem = u.mem ∧ (∀ a ∈ placed, a.remote = false → a ∈ (bank w v).inflight)

/-- 05 R127, Table 9, 12 R330: spawn commits, takes the record A names, halves the weight with a child that enters the pool, and
counts the spawn. -/
def Sys2Proof.Claims.SpawnHalvesWeight : Prop :=
  ∀ (w : Who) (g : Guard) (s u u1 u2 u3 : State) (a : Spec) (x : Val) (v : Givens) (r : Record) (t : Nat), Issues w g s →
    (commitRegion w false).go s = (.ok (), u) → accessesDone (bank w u) = true → (readSrc w a).go u = (.ok x, u1) →
    bodyTaskOf (noted w x u1) w = none →
    (givens w).go (noted w x u1) = (.ok v, noted w x u1) → 2 ≤ v.task.weight.toNat →
    (successorRecord w x.v).go (noted w x u1) = (.ok r, u2) → recordS r v.spart ≤ v.maxS → recordC r v.cpart ≤ v.maxC →
    (enrol .spawned (childOf w v r x.v)).go u2 = (.ok (.yes t), u3) → t ≠ w.task → bank w u3 = bank w u1 →
    ∃ z, exec (.spawn g a) s = .next z ∧ regs w z = pcOn (regs w u1) 1 ∧
      (∀ k, taskOf u3 w.task = some k → taskOf z w.task = some { k with
        weight := v.task.weight - BitVec.ofNat 64 (v.task.weight.toNat / 2), spawns := k.spawns + 1 }) ∧
      (recordingOf u3 w.task = none → taskOf z t = taskOf u3 t) ∧ (childOf w v r x.v).weight = BitVec.ofNat 64 (v.task.weight.toNat / 2) ∧
      (childOf w v r x.v).record = r ∧ (childOf w v r x.v).launch = v.task.launch

/-- 05 R127, R128, 12 R330: exit, once its waits are over, gives the weight back and frees the bank; the task is gone. -/
def Sys2Proof.Claims.ExitRetires : Prop :=
  (∀ (w : Who) (s : State), Ends w s → (retireWait w).go s = (.ok (), committed w s)) ∧
  (∀ (w : Who) (g : Guard) (s : State) (k : Task), Issues w g s → Ends w s → taskOf s w.task = some k →
    ∃ u, (retire w k.weight false).go (committed w s) = (.ok (), u) ∧ exec (.exit g) s = .next (dropTask u w.task) ∧
      taskOf (dropTask u w.task) w.task = none) ∧
  (∀ (w : Who) (g : Guard) (s u : State) (k : Task), Issues w g s → (retireWait w).go s = (.ok (), u) →
    bodyTaskOf u w = none → taskOf u w.task = some k →
    ∃ u1, (retire w k.weight false).go u = (.ok (), u1) ∧ exec (.exit g) s = .next (dropTask u1 w.task) ∧
      taskOf (dropTask u1 w.task) w.task = none)

/-- 05 R109, R127, 12 R330: exit.succ retires the task with no weight and starts its successor in the same bank with the partition. -/
def Sys2Proof.Claims.ExitSuccContinues : Prop :=
  ∀ (w : Who) (g : Guard) (s u u1 u2 : State) (a : Spec) (x : Val) (v : Givens) (r : Record),
    Issues w g s → (retireWait w).go s = (.ok (), u) → (readSrc w a).go u = (.ok x, u1) →
    bodyTaskOf (noted w x u1) w = none →
    (givens w).go (noted w x u1) = (.ok v, noted w x u1) → (successorRecord w x.v).go (noted w x u1) = (.ok r, u2) →
    recordS r v.spart ≤ (bank w u2).part.sn → recordC r v.cpart ≤ (bank w u2).part.cn →
    ∃ u3, (retire w 0 true).go u2 = (.ok (), u3) ∧ (taskOf u3 w.task = none → exec (.exitSucc g a) s = .next u3) ∧
      ∀ k, taskOf u3 w.task = some k → ∃ n u4,
        (replaceTask w.core w.bank w.task { succTask u3 k r x.v with sdem := k.sdem, cdem := k.cdem }).go u3 = (.ok n, u4) ∧
        exec (.exitSucc g a) s = .next (beginRegs u4 w.core w.bank (succRegs (regsOf u4 w.core w.bank) r))

/-- 05 R127, 16 R420: wloan adds 2^32 to the task's weight, counted as one loan of its launch where it has one. -/
def Sys2Proof.Claims.WeightLoan : Prop :=
  ∀ (w : Who) (g : Guard) (s u : State) (k : Task), Issues w g s → (commitRegion w false).go s = (.ok (), u) →
    taskOf u w.task = some k →
    (w.launch = none → ∃ v, exec (.wloan g) s = .next v ∧ regs w v = pcOn (regs w s) 1 ∧ (bank w v).restart = regs w v ∧
      taskOf v w.task = some { k with weight := k.weight + 0x100000000 }) ∧
    (∀ l q, w.launch = some l → launchOf u l = some q → q.loans ≠ 0xFFFFFFFF → bodyTaskOf u w = none →
      ∃ v, exec (.wloan g) s = .next v ∧ regs w v = pcOn (regs w s) 1 ∧ (bank w v).restart = regs w v ∧
        taskOf v w.task = some { k with weight := k.weight + 0x100000000 } ∧
        (∃ q', launchOf v l = some q' ∧ q'.loans = q.loans + 1))

/-- 05 R125, R124, 12 R330, 14 R409: yield goes on where no other candidate for the core comes first, and otherwise leaves the core to
it: once its copies stand at a micro-step's boundary, with nothing in its store buffer the task becomes a resident shadow at the next
instruction, and the core is kept for that candidate. -/
def Sys2Proof.Claims.YieldChooses : Prop :=
  ∀ (w : Who) (g : Guard) (s : State), Issues w g s →
    let queued := if bankFrees s w.core = true then queuedFor s w.core (heldBanks s w.core) else []
    let others := if s.pm.hup = true then [] else shadowTasks s w.core ++ queued
    (yieldWinner s w others = none → exec (.yield g) s = .next (withRegs w s (pcOn (regs w s) 1))) ∧
    (∀ t, yieldWinner s w others = some t → (bank w s).storeBuf = [] → CopiesStand s w.core w.bank →
      ∃ v, exec (.yield g) s = .next v ∧ regs w v = pcOn (regs w s) 1 ∧ (coreOf v w.core).active = none ∧
        (coreOf v w.core).chosen = some t ∧ w.bank ∈ (coreOf v w.core).shadows ∧ v.mem = s.mem)

namespace Sys2Proof.Claims

/-- The registers of the device that sysrd answers as they stand (11 Table 6, 12 Table 17), by number. -/
def sysValue (w : Who) (s : State) : Nat → Option Word
  | 0x000 => some (regs w s).rm
  | 0x001 => some (regs w s).route
  | 0x002 => some (regs w s).evec
  | 0x003 => some (if (regs w s).depth = 0 then 0 else if (regs w s).depth = 1 then (regs w s).epc0 else (regs w s).epc1)
  | 0x004 => some (BitVec.ofNat 64 ((regs w s).cause1.toNat * 65536 + (regs w s).cause0.toNat * 256 + (regs w s).depth.toNat))
  | 0x005 => some ((coreOf s w.core).derr.setWidth 64)
  | 0x007 => some (sideWord (bank w s).peel)
  | 0x008 => some (sideWord (bank w s).rack)
  | 0x010 => some s.gang.tick
  | 0x011 => some (s.gang.gidx.setWidth 64)
  | 0x012 => some (s.gang.gsize.setWidth 64)
  | 0x020 => some (dieOf s (w.core / 64)).keeper
  | 0x021 => some 0
  | 0x023 => some (dieOf s (w.core / 64)).swarea
  | 0x024 => some 0
  | _ => none

/-- sysrd puts a word into D and nothing else changes. -/
def ReadsWord (w : Who) (g : Guard) (s : State) (n : BitVec 12) (v : Word) : Prop :=
  ∀ d, ∃ m, ∀ r, result (regs w s) d ⟨v, m⟩ = some r → exec (.sysrd g d n) s = .next (withRegs w s (pcOn r 1))

end Sys2Proof.Claims

/-- 12 R332, Table 17: sysrd answers the register its number names; SY_EPC and SY_ESTAT show the trap stack (09 R244), SY_XINV whether
an invalidation runs, SY_CKPT the context's checkpoint, SY_HUP 0 outside a finalisation window. -/
def Sys2Proof.Claims.SystemReads : Prop :=
  ∀ (w : Who) (g : Guard) (s : State), Issues w g s →
    (∀ (n : BitVec 12) (v : Word), sysValue w s n.toNat = some v → ReadsWord w g s n v) ∧
    ReadsWord w g s 0x022 (if (dieOf s (w.core / 64)).xinv = none then 0 else 0x4000000000000000) ∧
    (∀ x, ctxOf s w.ctx = some x → ReadsWord w g s 0x00A (ckptWord x.ckpt)) ∧
    ((bank w s).window = false → ReadsWord w g s 0x009 0) ∧
    (∀ (k : BitVec 12) (x : Context), 0x400 ≤ k.toNat → k.toNat < 0xC00 → (k.toNat - 0x400) % 32 < 20 → ctxOf s w.ctx = some x →
      x.monMask.getLsbD ((k.toNat - 0x400) / 32) = true →
      ReadsWord w g s k (monWord (sget Monitor.reset s.host.mon ((k.toNat - 0x400) / 32)) ((k.toNat - 0x400) % 32)))

/-- 09 R238, 12 R333: a read of SY_ELOG commits, answers the oldest entry of the core's error log and removes it, 0 where it is empty. -/
def Sys2Proof.Claims.ErrorLogRead : Prop :=
  ∀ (w : Who) (g : Guard) (s u : State) (d : Spec), Issues w g s → d.toNat < 32 →
    sget 0 (regs w s).gWait (physOf (regs w s).rb d.toNat) = 0 → (commitRegion w false).go s = (.ok (), u) →
    let v := (coreOf u w.core).elog.headD 0
    let x : Val := ⟨v, .derived⟩
    ∃ z, exec (.syElogRead g d) s = .next z ∧ exec (.sysrd g d 6) s = .next z ∧
      regs w z = pcOn (push (gWrite (regs w s) (physOf (regs w s).rb d.toNat) x) x) 1 ∧
      (coreOf z w.core).elog = (coreOf u w.core).elog.tail ∧ (bank w z).restart = regs w z

/-- 12 R332, Table 17; 10 Table 5; 02 R33; 09 R244: the registers of the restart state. SY_RM takes a mode 0 to 4, SY_EVEC a line's
address, SY_EPC the pair of the depth; SY_ESTAT takes nothing; SY_ROUTE ignores its reserved bits (00 R3). A mode of SY_RM or SY_ROUTE
out of range, a SY_EVEC that is no line's address and a reserved field of SY_ESTAT raise RESERVED_FIELD. -/
def Obligations.TaskRegisterWrites : Prop :=
  ∀ (w : Who) (g : Guard) (s s1 : State) (a : Spec) (x : Val), Issues w g s → (readSrc w a).go s = (.ok x, s1) →
    let r := regs w s1
    (x.v.toNat ≤ 4 → exec (.syswr g 0 a) s = .next (withRegs w s (pcOn { r with rm := x.v } 1))) ∧
    (4 < x.v.toNat → exec (.syswr g 0 a) s = .next (raiseNow w 1 .reservedField none (withRegs w s (regs w s)))) ∧
    (x.v.getLsbD 49 = false → exec (.syswr g 1 a) s = .next (withRegs w s (pcOn { r with route := x.v &&& 0x80FFFE00FF0000FF } 1))) ∧
    (x.v.getLsbD 49 = true → exec (.syswr g 1 a) s = .next (raiseNow w 1 .reservedField none (withRegs w s (regs w s)))) ∧
    (x.v.toNat % 32 = 0 → ∃ v, exec (.syswr g 2 a) s = .next v ∧ Recorded (withRegs w s (pcOn { r with evec := x.v } 1)) v) ∧
    (x.v.toNat % 32 ≠ 0 → exec (.syswr g 2 a) s = .next (raiseNow w 1 .reservedField none (withRegs w s (regs w s)))) ∧
    (∃ v, exec (.syswr g 3 a) s = .next v ∧ Recorded (withRegs w s (pcOn
      (if r.depth = 1 then { r with epc0 := x.v } else if r.depth = 2 then { r with epc1 := x.v } else r) 1)) v) ∧
    (x.v.extractLsb' 24 40 = 0 → x.v.extractLsb' 2 6 = 0 →
      ∃ v, exec (.syswr g 4 a) s = .next v ∧ Recorded (withRegs w s (pcOn r 1)) v) ∧
    (x.v.extractLsb' 24 40 ≠ 0 ∨ x.v.extractLsb' 2 6 ≠ 0 →
      exec (.syswr g 4 a) s = .next (raiseNow w 1 .reservedField none (withRegs w s (regs w s))))

namespace Sys2Proof.Claims

/-- The state after a write that takes effect once: the effect, the PC moved on, and a new region that starts there (12 R333). -/
def Once (w : Who) (e v : State) : Prop :=
  Recorded (updBank e w.core w.bank (fun k =>
    { k with regs := pcOn k.regs 1, restart := pcOn k.regs 1, restartTgt := false, region := e.nextId })) v

/-- A register outside the restart state is written: the commit, then A is read, then the effect. -/
def WritesOnce (i : Guard → Spec → Instr) (ok : Who → State → Word → Prop) (effect : Who → State → Word → State) : Prop :=
  ∀ (w : Who) (g : Guard) (s u u1 : State) (a : Spec) (x : Val), Issues w g s → (commitRegion w false).go s = (.ok (), u) →
    (readSrc w a).go u = (.ok x, u1) → ok w u1 x.v → ∃ v, exec (i g a) s = .next v ∧ Once w (effect w u1 x.v) v

/-- The agent's context may serve as a keeper. -/
def KeeperContext (w : Who) (s : State) : Prop := ∃ k, ctxOf s w.ctx = some k ∧ k.keeper = true

end Sys2Proof.Claims

/-- 07 R179, Table 6, 12 Table 17: SY_KEEPER makes the task's context the keeper of its die, its reserved bits ignored (00 R3). -/
def Sys2Proof.Claims.KeeperWrite : Prop :=
  ∀ i ∈ [(fun g a => .syswr g 0x020 a : Guard → Spec → Instr), .syKeeper],
    WritesOnce i (fun w u _ => KeeperContext w u)
      (fun w u x => updDie u (w.core / 64) (fun k => { k with keeper := x &&& 0x80FFFFFFFFFFFFC0, keeperCtx := w.ctx }))

/-- 07 R176, R179, R181, 09 R249, R250, 12 Table 17: a write of a keeper's register by a task of a context that may not serve as one raises
PRIVILEGE, with the task's registers as they were and none of its effect. -/
def Sys2Proof.Claims.KeeperPrivilege : Prop :=
  ∀ (w : Who) (g : Guard) (s u u1 : State) (a : Spec) (x : Val), Issues w g s → (commitRegion w false).go s = (.ok (), u) →
    (readSrc w a).go u = (.ok x, u1) → ¬ KeeperContext w u1 →
    ∀ i ∈ [Instr.syKeeper g a, .syKnoteResolve g a, .syKnoteRefuse g a, .syXinvPage g a, .syXinvContext g a, .syXinvHeap g a,
        .syXinvAll g a, .sySwarea g a, .sySwload g a, .syswr g 0x020 a, .syswr g 0x021 a, .syswr g 0x022 a, .syswr g 0x023 a,
        .syswr g 0x024 a],
      exec i s = .next (raiseNow w 1 .privilege none (withRegs w u1 (regs w s)))

/-- 07 R181, R182: SY_KNOTE with GO resolves the descriptor it names, or with REFUSE refuses it, once the task's stores have performed. -/
def Sys2Proof.Claims.KeeperNote : Prop :=
  ∀ (w : Who) (g : Guard) (s u u1 : State) (a : Spec) (x : Val), Issues w g s → (commitRegion w false).go s = (.ok (), u) →
    (readSrc w a).go u = (.ok x, u1) → KeeperContext w u1 → x.v.getLsbD 63 = true → storesDone (bank w u1) = true →
    ∃ u2, (settleDesc (w.core / 64) (x.v.setWidth 32) (if x.v.getLsbD 62 then some .protection else none)).go u1 = (.ok (), u2) ∧
      ∀ i ∈ [Instr.syKnoteResolve g a, .syKnoteRefuse g a, .syswr g 0x021 a],
        ∃ v, exec i s = .next v ∧ ((bank w u2).task = some w.task → Once w u2 v)

/-- 07 R176, Table 5: SY_XINV with GO starts an invalidation of the kind it names on the die, once none runs. -/
def Sys2Proof.Claims.InvalidationStarts : Prop :=
  ∀ i ∈ [Instr.syXinvPage, .syXinvContext, .syXinvHeap, .syXinvAll],
    WritesOnce i (fun w u x => KeeperContext w u ∧ x.getLsbD 63 = true ∧ (x.extractLsb' 60 2).toNat < 2 ∧
        (x.extractLsb' 57 3).toNat < 4 ∧ x.extractLsb' 40 11 = 0 ∧ (dieOf u (w.core / 64)).xinv = none)
      (fun w u x => updDie u (w.core / 64) (fun k => { k with xinv := some x }))

/-- 09 R249, Table 11: SY_SWAREA takes its base and enable while no position of the die is occupied; its reserved bits ignore
the write (00 R3). -/
def Sys2Proof.Claims.SwitchArea : Prop :=
  WritesOnce .sySwarea (fun w u _ => KeeperContext w u)
    (fun w u x => if areaUsed u (w.core / 64) then u else updDie u (w.core / 64) (fun k => { k with swarea := x &&& 0x800FFFFF80000000 }))

namespace Sys2Proof.Claims

/-- The block that SY_SWLOAD names is `bs`, and position `p` of the core takes it: the block is one of this version, of a context that lives
in its domain, and its continuation fits its commands (09 R246, R250). -/
structure BlockTaken (w : Who) (v : Word) (u u2 : State) (c p : Nat) (bs : List Byte) : Prop where
  keeper : KeeperContext w u
  position : freePos u c = some p
  image : (reachBytes w (BitVec.ofNat 64 ((v.extractLsb' 12 44).toNat * 4096)) imageLen 0 .rd).go u = (.ok bs, u2)
  magic : fieldAt bs 0 4 = 0x4358424B
  version : fieldAt bs 4 1 = 1
  lives : ∃ k, ctxOf u2 (fieldAt bs 5 1 % 64) = some k ∧ k.domain.toNat = fieldAt bs 6 1 % 16
  continues : continuationOk bs = true
  task : ∃ q, taskOf u2 w.task = some q
  plain : (blockBody bs).getLsbD 0 = false

end Sys2Proof.Claims

/-- 09 R250: SY_SWLOAD with GO takes a saved block as a streamed-out context of the core it names, in that core's free position; without
GO it does nothing. -/
def Sys2Proof.Claims.SwitchLoad : Prop :=
  ∀ (w : Who) (g : Guard) (s u u1 : State) (a : Spec) (x : Val), Issues w g s → (commitRegion w false).go s = (.ok (), u) →
    (readSrc w a).go u = (.ok x, u1) →
    (x.v.getLsbD 63 = false → KeeperContext w u1 → ∃ v, exec (.sySwload g a) s = .next v ∧ Once w u1 v) ∧
    (x.v.getLsbD 63 = true → ∀ u2 p bs, let c := w.core / 64 * 64 + (x.v.extractLsb' 56 6).toNat
      BlockTaken w x.v u1 u2 c p bs →
      ∃ v e k, exec (.sySwload g a) s = .next v ∧ (coreOf v c).streamed = (coreOf u2 c).streamed ++ [e] ∧ e.pos = p ∧
        taskOf v e.task = some k ∧ k.place = .streamedOut ∧ k.core = c ∧ k.ctx = fieldAt bs 5 1 % 64 ∧ k.weight = 0)

/-- 09 R238: a write of SY_DERR clears the bits that are 1 in it. -/
def Sys2Proof.Claims.DataErrorCleared : Prop :=
  WritesOnce (fun g a => .syswr g 0x005 a) (fun _ _ _ => True)
    (fun w u x => updCore u w.core (fun k => { k with derr := k.derr &&& ~~~(x.setWidth 6) }))

namespace Sys2Proof.Claims

/-- LOAD, LEN and IMG of a write to SY_PEEL or SY_RACK are legal (09 Table 7). -/
def SideFields (x : Word) : Prop :=
  x.extractLsb' 58 3 = 0 ∧ x.extractLsb' 44 8 = 0 ∧
    (x.getLsbD 62 = true → 1 ≤ (x.extractLsb' 52 6).toNat ∧ (x.extractLsb' 52 6).toNat ≤ 32)

/-- The domain of the agent's context. -/
def domainOf (w : Who) (s : State) : Nat :=
  match ctxOf s w.ctx with
  | some x => x.domain.toNat
  | none => 0

/-- The side core of the bank takes LEN and IMG, and starts or stops. -/
def sideSet (w : Who) (rack : Bool) (x : Word) (run : Bool) (fresh : Bool) (s : State) : State :=
  updSide s w.core w.bank rack (fun k =>
    { (if fresh then { k with x := [], pc := 0 } else k) with
      len := x.extractLsb' 52 6, img := x.extractLsb' 0 44, run := run, halt := if run then false else k.halt })

end Sys2Proof.Claims

/-- 09 R241: RUN = 0 stops the side core; RUN = 1 starts one that does not run, from the store as it stands or, with LOAD, from the
start of an image of LEN KiB with its registers 0; on one that runs it does nothing. -/
def Obligations.SideCoreControl : Prop :=
  ∀ rack : Bool,
    WritesOnce (fun g a => .syPeelStop g a rack) (fun _ _ x => SideFields x ∧ x.getLsbD 63 = false)
      (fun w u x => sideSet w rack x false false u) ∧
    WritesOnce (fun g a => .syPeelRun g a rack)
      (fun w u x => SideFields x ∧ x.getLsbD 63 = true ∧ x.getLsbD 62 = false ∧ (sideOf (bank w u) rack).run = false)
      (fun w u x => sideSet w rack x true false (takeStores u w.core w.bank (domainOf w u) rack)) ∧
    (∀ (w : Who) (g : Guard) (s u u1 u2 : State) (a : Spec) (x : Val) (img : List Byte), Issues w g s →
      (commitRegion w false).go s = (.ok (), u) → (readSrc w a).go u = (.ok x, u1) → SideFields x.v → x.v.getLsbD 63 = true →
      x.v.getLsbD 62 = true → (sideOf (bank w u1) rack).run = false →
      (reachBytes w (BitVec.ofNat 64 ((x.v.extractLsb' 0 44).toNat * 4096)) (1024 * (x.v.extractLsb' 52 6).toNat) 0 .rd).go u1 =
        (.ok img, u2) →
      ∃ v, exec (.syPeelLoadRun g a rack) s = .next v ∧
        Once w (sideSet w rack x.v true true (updStore (takeStores u2 w.core w.bank (domainOf w u1) rack) w.core rack
          (fun m => ssetAll 0 m 0 img))) v) ∧
    (∀ i ∈ [fun (g : Guard) (a : Spec) => Instr.syPeelRun g a rack, fun g a => .syPeelLoadRun g a rack],
      WritesOnce i (fun w u x => SideFields x ∧ x.getLsbD 63 = true ∧ (sideOf (bank w u) rack).run = true) (fun _ u _ => u))

/-- 04 R84, R85: in a finalisation window SY_HUP with DONE freezes the task's state for the save; outside one it does nothing. -/
def Sys2Proof.Claims.WindowDone : Prop :=
  ∀ (w : Who) (g : Guard) (s u u1 : State) (a : Spec) (x : Val), Issues w g s → (commitRegion w false).go s = (.ok (), u) →
    (readSrc w a).go u = (.ok x, u1) →
    (((bank w u1).window = false ∨ x.v.getLsbD 0 = false) → ∃ v, exec (.syHupDone g a) s = .next v ∧ Once w u1 v) ∧
    ((bank w u1).window = true → x.v.getLsbD 0 = true → CopiesStand u1 w.core w.bank →
      ∃ v, exec (.syHupDone g a) s = .next v ∧ Once w (closeWindow (copiesStopped u1 w.core w.bank) w.core w.bank) v)

/-- 04 R86, R98, R101, R104: SY_CKPT with GO starts a restore, is refused while one runs; a checkpoint starts and the write completes once
its granules are marked. That GO after supply loss ends the operation at once with RES 4 is the model's reading of R86 (log 93). -/
def Sys2Proof.Claims.CheckpointStarts : Prop :=
  ∀ (w : Who) (g : Guard) (s u u1 : State) (a : Spec) (x : Val) (k : Context), Issues w g s → (bank w s).ckptWait = false →
    (commitRegion w false).go s = (.ok (), u) → (readSrc w a).go u = (.ok x, u1) → (x.v.extractLsb' 61 2).toNat < 2 →
    x.v.getLsbD 56 = false → x.v.extractLsb' 0 6 = 0 → x.v.getLsbD 63 = true → ctxOf u1 w.ctx = some k →
    let begun : Ckpt := { Ckpt.reset with
      desc := x.v.extractLsb' 6 50, opDesc := x.v.extractLsb' 6 50, res := k.ckpt.res, busy := true, restore := decide ((x.v.extractLsb' 61 2).toNat = 1), core := w.core,
      task := w.task, since := u1.nextId }
    (k.ckpt.busy = true → ∀ i ∈ [Instr.syCkptCheckpoint g a, .syCkptRestore g a],
      ∃ v, exec i s = .next v ∧ Once w (updCtx u1 w.ctx (fun k => { k with ckpt := { k.ckpt with res := 1 } })) v) ∧
    (k.ckpt.busy = false → u1.pm.hup = true → ∀ i ∈ [Instr.syCkptCheckpoint g a, .syCkptRestore g a],
      ∃ v, exec i s = .next v ∧ Once w (updCtx u1 w.ctx (fun k => { k with
        ckpt := { k.ckpt with desc := x.v.extractLsb' 6 50, res := 4 } })) v) ∧
    (k.ckpt.busy = false → u1.pm.hup = false → (x.v.extractLsb' 61 2).toNat = 1 →
      ∃ v, exec (.syCkptRestore g a) s = .next v ∧ Once w (updCtx u1 w.ctx (fun k => { k with ckpt := begun })) v) ∧
    (k.ckpt.busy = false → u1.pm.hup = false → (x.v.extractLsb' 61 2).toNat = 0 →
      ∃ v, exec (.syCkptCheckpoint g a) s = .next v ∧ regs w v = regs w s ∧ (bank w v).ckptWait = true ∧
        ctxOf v w.ctx = some { k with ckpt := begun })

/-- 04 R101: the write that started a checkpoint completes once its granules are marked. -/
def Sys2Proof.Claims.CheckpointMarked : Prop :=
  ∀ (w : Who) (g : Guard) (s s1 : State) (a : Spec) (x : Val) (k : Context), Issues w g s → (bank w s).ckptWait = true →
    (readSrc w a).go s = (.ok x, s1) → (x.v.extractLsb' 61 2).toNat < 2 → x.v.getLsbD 56 = false → x.v.extractLsb' 0 6 = 0 →
    ctxOf s w.ctx = some k → (k.ckpt.busy = false ∨ 1 ≤ k.ckpt.phase) →
    ∃ v, exec (.syCkptCheckpoint g a) s = .next v ∧
      Once w (updBank s1 w.core w.bank (fun b => { b with ckptWait := false })) v

/-- 13 R336, 09 R218, R219: an engine command whose queue has room and whose checks pass enters its queue with the mode it captured,
after the commands before it, and the control core goes on behind its slices. It says so of every constructor that `specOf` gives
checks: mMma, mMmaz, mMmv, mMmvz, mPerm, mAcopy, mAload, mAstore, mEpi, mEpiSend, mBind and the other matrix commands, every vector
command (vFma, vAbs, vNeg, vShl, vShr, vCmp, vSel, vCvt, vQmx, vDqmx, vExp2, vExp, vLog2, vRcp, vRsqrt, vSqrt, vTanh, vRsum, vRmax,
vRmin, vArgmax, vScan, vTopk, vIota, vFill, vRand, vGather, vScatter, vMov, vSample, vVerify, vKvroll, ...), gkvApp, every copy command
(xLd, xSt, xFeed, xKvg, xScat, xFill, xMcpy, xRsw, ...) and every collective command (lCtrRd, lFence, lFenceAll, ...). -/
def Sys2Proof.Claims.CommandsEnterQueues : Prop :=
  ∀ (i : Instr) (sp : CmdSpec) (w : Who) (s u u' : State) (m : Cmd), specOf i = some sp → Issues w unguarded s →
    (queueOf s w.core w.bank sp.queue).length < 16 →
    (sp.check w { newCmd i ((regs w s).rm.setWidth 3) (regs w s).pc 0 false (regs w s).route with id := s.nextId }).go
      { s with nextId := s.nextId + 1 } = (.ok m, u) →
    (raceRanges w (coreOf u w.core).phase m.ranges).go u = (.ok (), u') → (bank w u').task = some w.task →
    m.starter = false →
    ∃ v, exec i s = .next v ∧
      queueOf v w.core w.bank sp.queue = queueOf u' w.core w.bank sp.queue ++ [m] ∧
      (∀ q, q ≠ sp.queue → queueOf v w.core w.bank q = queueOf u' w.core w.bank q) ∧
      v.mem = u'.mem ∧ regs w v = pcOn (regs w u') (encode i).length

/-- 09 R218, 12 R302: a command whose queue is full waits at its boundary with every register as it was. -/
def Sys2Proof.Claims.FullQueueWaits : Prop :=
  ∀ (i : Instr) (sp : CmdSpec) (w : Who) (s : State), specOf i = some sp → Issues w unguarded s →
    16 ≤ (queueOf s w.core w.bank sp.queue).length → exec i s = .next (withRegs w s (regs w s))

namespace Sys2Proof.Claims

/-- A micro-step is over and its command stays: one that has not started counts how long a ring or a trigger holds it, where a starter
issued it (06 R153); otherwise the recorder takes the orderings that now hold (06 R143). -/
def stepped (sp : CmdSpec) (e : Eng) (s : State) : State :=
  if stillHeld s e = true then countHeld sp e s else recHolds e.w s

/-- The command has left its queue, and the recorder takes the orderings that now hold (06 R143). -/
def retired (e : Eng) (s : State) : State := recHolds e.w (retireCmd s e.w.core e.w.bank e.e e.cmd.id)

end Sys2Proof.Claims

/-- 13 R337, R338, 09 R237: a started command runs one micro-step at its engine's turn and leaves its queue after its last one; a trap
of a micro-step halts it and waits for the task's next boundary. -/
def Sys2Proof.Claims.MicroSteps : Prop :=
  ∀ (e : Eng) (i : Instr) (sp : CmdSpec) (s u : State), AtEngine e i sp s → e.cmd.started = true →
    mayRun s e.w.core e.w.bank e.e e.k e.cmd = true →
    (∀ last, (sp.micro e).go s = (.ok last, u) →
      exec i s = .next (if last then retired e u else stepped sp e u)) ∧
    (∀ t info, (sp.micro e).go s = (.error (.trap t info), u) →
      exec i s = .next (haltCmd { s with fresh := u.fresh } e t info none))

/-- 09 R234, 13 R338: a command starts when the range checker lets it, and its first micro-step runs at once; until then it waits. -/
def Sys2Proof.Claims.CommandsStart : Prop :=
  ∀ (e : Eng) (i : Instr) (sp : CmdSpec) (s s1 u : State) (last : Bool), AtEngine e i sp s → e.cmd.started = false →
    e.cmd.starter = false →
    (mayStart s e.w.core e.w.bank e.e e.k e.cmd = true → (sp.ready e).go s = (.ok true, s1) →
      let s2 := updCmd s1 e.w.core e.w.bank e.e e.cmd.id (fun m => { m with started := true })
      mayRun s2 e.w.core e.w.bank e.e e.k e.cmd = true → (sp.micro e).go s2 = (.ok last, u) →
      exec i s = .next (if last then retired e u else stepped sp e u)) ∧
    (mayStart s e.w.core e.w.bank e.e e.k e.cmd = false → exec i s = .next (recHolds e.w s))

namespace Sys2Proof.Claims

/-- A vector command over one INT32 element in a device that no ECC error has struck: A, B and D lie aligned in three different slots of the engines, A and B tagged INT32;
neither is tagged anew by the command itself. -/
structure OneInt32 (f : BitVec 6) (e : Eng) (v : V3Args) (s : State) : Prop where
  sound : s.flaws = []
  one : v.n = 1
  wraps : v.x = false
  format : v.f = f
  first : e.cmd.upc = 0
  found : (queueOf s e.w.core e.w.bank e.e).find? (fun m => m.id == e.cmd.id) = some e.cmd
  untouched : e.cmd.tags = [] ∧ e.cmd.stamped = []
  slots : v.a.toNat / 2048 ≠ v.d.toNat / 2048 ∧ v.b.toNat / 2048 ≠ v.d.toNat / 2048 ∧ v.a.toNat / 2048 ≠ v.b.toNat / 2048
  alignedA : v.a.toNat % 4 = 0
  alignedB : v.b.toNat % 4 = 0
  alignedD : v.d.toNat % 4 = 0
  insideA : v.a.toNat + 4 ≤ 2048 * e.part.sn
  insideB : v.b.toNat + 4 ≤ 2048 * e.part.sn
  insideD : v.d.toNat + 4 ≤ 2048 * e.part.sn
  slotA : slotOf s e.w.core (e.part.s0 + v.a.toNat / 2048) = { owner := true, fmt := 8, geo := 0 }
  slotB : slotOf s e.w.core (e.part.s0 + v.b.toNat / 2048) = { owner := true, fmt := 8, geo := 0 }
  slotD : (slotOf s e.w.core (e.part.s0 + v.d.toNat / 2048)).owner = true

/-- Four bytes of S as a signed or plain 32-bit word. -/
def scratchWord (e : Eng) (s : State) (off : Nat) : BitVec 32 := BitVec.ofNat 32 (leNat (readS s e.w.core e.part off 4))

/-- The command computes D := f(A, B), stamps D's slot INT32, leaves every other byte of S and all memory as they were, and retires. -/
def ComputesInt32 (mk : V3Args → Instr) (fmt : BitVec 6) (f : BitVec 32 → BitVec 32 → BitVec 32) : Prop :=
  ∀ (e : Eng) (v : V3Args) (sp : CmdSpec) (s : State), AtEngine e (mk v) sp s → e.cmd.started = true →
    mayRun s e.w.core e.w.bank e.e e.k e.cmd = true → OneInt32 fmt e v s →
    ∃ t, exec (mk v) s = .next t ∧
      scratchWord e t v.d.toNat = f (scratchWord e s v.a.toNat) (scratchWord e s v.b.toNat) ∧
      (∀ n, n < 2048 * e.part.s0 + v.d.toNat ∨ 2048 * e.part.s0 + v.d.toNat + 4 ≤ n → sByte t e.w.core n = sByte s e.w.core n) ∧
      slotOf t e.w.core (e.part.s0 + v.d.toNat / 2048) = { owner := true, fmt := 8, geo := 0 } ∧ t.mem = s.mem ∧
      (∀ m ∈ queueOf t e.w.core e.w.bank 1, m.id ≠ e.cmd.id)

end Sys2Proof.Claims

/-- 13 R357 to R359: on INT32 the vector engine's arithmetic with F INT32 wraps, min and max compare as signed, and the lane operations, whose
F is 0, work on bits. -/
def Sys2Proof.Claims.VectorIntegers : Prop :=
  ComputesInt32 .vAdd 8 (fun x y => x + y) ∧ ComputesInt32 .vSub 8 (fun x y => x - y) ∧ ComputesInt32 .vMul 8 (fun x y => x * y) ∧
  ComputesInt32 .vMin 8 (fun x y => if x.toInt ≤ y.toInt then x else y) ∧
  ComputesInt32 .vMax 8 (fun x y => if x.toInt ≤ y.toInt then y else x) ∧
  ComputesInt32 .vAnd 0 (fun x y => x &&& y) ∧ ComputesInt32 .vOr 0 (fun x y => x ||| y) ∧ ComputesInt32 .vXor 0 (fun x y => x ^^^ y)

/-- 14 R399, R400, 02 R30: l.ctr.set and l.ctr.add change a counter of the core's die and retire; l.arm whose threshold is reached adds
to its second counter, and otherwise leaves a chain. -/
def Sys2Proof.Claims.CounterCommands : Prop :=
  ∀ (e : Eng) (s : State) (sp : CmdSpec), e.cmd.started = true → mayRun s e.w.core e.w.bank e.e e.k e.cmd = true →
    let d := e.w.core / 64
    (∀ ctr value, AtEngine e (.lCtrSet ctr value) sp s →
      exec (.lCtrSet ctr value) s = .next (retired e (setCtr s d ctr.toNat value))) ∧
    (∀ ctr value, AtEngine e (.lCtrAdd ctr value) sp s →
      exec (.lCtrAdd ctr value) s = .next (retired e (addCtr s d ctr.toNat value.toNat))) ∧
    (∀ ca thr cb inc, AtEngine e (.lArm ca thr cb inc) sp s →
      exec (.lArm ca thr cb inc) s = .next (retired e
        (if thr.toNat ≤ (ctrOf s d ca.toNat).toNat then addCtr s d cb.toNat inc.toNat
         else updDie s d (fun k => { k with chains := k.chains ++
           [{ ca := ca.toNat, thr := thr, cb := cb.toNat, inc := inc, ctx := e.w.ctx }] }))))

/-- 13 R347: a micro-step of m.azero fills one tile with the value, a NaN as the canonical one, and touches no other tile. -/
def Sys2Proof.Claims.AccumulatorZero : Prop :=
  ∀ (e : Eng) (s : State) (sp : CmdSpec) (acc cnt : BitVec 6) (value : BitVec 32), AtEngine e (.mAzero acc cnt value) sp s →
    e.cmd.started = true → mayRun s e.w.core e.w.bank e.e e.k e.cmd = true →
    let tile := e.part.c0 + acc.toNat + e.cmd.upc
    ∃ t, exec (.mAzero acc cnt value) s = .next t ∧ t.mem = s.mem ∧
      (∀ row < 128, ∀ col < 128, readC t e.w.core tile row col = canonical32 value) ∧
      (∀ k ≠ tile, ∀ row < 128, ∀ col < 128, readC t e.w.core k row col = readC s e.w.core k row col) ∧
      (∀ n, sByte t e.w.core n = sByte s e.w.core n)

/-- 14 R390: x.pref has no effect on any visible state: the command only leaves its queue. -/
def Sys2Proof.Claims.PrefetchNothing : Prop :=
  ∀ (e : Eng) (s : State) (sp : CmdSpec) (pb : BitVec 14), AtEngine e (.xPref pb) sp s → e.cmd.started = true →
    mayRun s e.w.core e.w.bank e.e e.k e.cmd = true →
    exec (.xPref pb) s = .next (retired e s)

namespace Sys2Proof.Claims

/-- A state and a state that a PM_CMD write may name as its target (01 Table 4). -/
def MayMove (a b : PState) : Prop :=
  (a, b) ∈ [(PState.run, PState.run), (.run, .idle), (.idle, .run), (.idle, .hold), (.hold, .idle), (.idle, .off), (.hold, .off),
    (.trip, .idle), (.trip, .off)]

/-- The target that TGT names. -/
def pmTgt (w : Word) : PState := [PState.run, .idle, .hold, .off].getD (w.extractLsb' 0 3).toNat .off

/-- The fields of a PM_CMD write are in range: reserved bits 0, TGT at most 3, and a clock code of at most 17 for RUN. -/
def PmLegal (w : Word) : Prop :=
  w.extractLsb' 32 32 = 0 ∧ w.extractLsb' 3 5 = 0 ∧ (w.extractLsb' 0 3).toNat ≤ 3 ∧
    (w.extractLsb' 0 3 = 0 → (w.extractLsb' 8 8).toNat ≤ 17)

end Sys2Proof.Claims

/-- 01 R16, R18, 04 R96, Tables 4 to 6: a PM_CMD write starts its transition, or ends at once with the result that tells why. The order of
the tests is the model's choice (log 10). -/
def Obligations.PowerCommands : Prop :=
  ∀ (w : Word) (s : State), ∀ i ∈ [Instr.pmCmdRun w, .pmCmdIdle w, .pmCmdHold w, .pmCmdOff w],
    let answers := fun (r : BitVec 3) => exec i s = .next { s with pm := { s.pm with ltag := w.extractLsb' 16 16, res := r } }
    (s.pm.hup = true → answers 5) ∧
    (s.pm.hup = false → s.host.cfgd = false → answers 1) ∧
    (s.host.cfgd = true → s.pm.hup = false → s.pm.busy = true → answers 3) ∧
    (s.host.cfgd = true → s.pm.hup = false → s.pm.busy = false →
      (¬ PmLegal w → answers 2) ∧
      (PmLegal w → ¬ MayMove s.pm.st (pmTgt w) → answers 1) ∧
      (PmLegal w → s.pm.st = .trip → pmTgt w = .idle → s.pm.tcause.getLsbD 7 = true → answers 4) ∧
      (PmLegal w → MayMove s.pm.st (pmTgt w) → ¬ (s.pm.st = .trip ∧ pmTgt w = .idle ∧ s.pm.tcause.getLsbD 7 = true) →
        exec i s = .next { s with pm := { s.pm with busy := true, pend := some (pmTgt w, w.extractLsb' 8 8, w.extractLsb' 16 16) } }))

/-- 01 R15 to R19, R22: a transition completes with result 0; a trip holds its causes and abandons a transition with result 4; supply loss
begins the hold-up sequence. Causes that accumulate in TRIP, LTAG and RES kept at supply loss, a loss in SPENT, and the wait for copies
before RUN is left are log 11 (DEDUCED). -/
def Sys2Proof.Claims.PowerTransitions : Prop :=
  (∀ (s : State) (dst : PState) (clk : BitVec 8) (tag : BitVec 16), s.pm.pend = some (dst, clk, tag) →
    (dst = .run ∨ copiesAtBoundary s = true) →
    (dst ≠ .off → exec .powerTransitionComplete s = .next { s with pm := { s.pm with
      st := dst, clk := if dst = .run then clk else s.pm.clk, ltag := tag, res := 0, busy := false, pend := none } }) ∧
    (dst = .off → exec .powerTransitionComplete s = .next (powerOff s))) ∧
  (∀ (s : State) (c : BitVec 7), c ≠ 0 → s.pm.hup = false → s.pm.st ≠ .off →
    let cause := (if s.pm.st = .trip then s.pm.tcause else 0) ||| c.setWidth 8 ||| 0x80
    (s.pm.pend = none → exec (.tripEntry c) s = .next { s with pm := { s.pm with st := .trip, tcause := cause } }) ∧
    (∀ dst clk tag, s.pm.pend = some (dst, clk, tag) → exec (.tripEntry c) s = .next { s with pm := { s.pm with
      st := .trip, tcause := cause, ltag := tag, res := 4, busy := false, pend := none } })) ∧
  (∀ s : State, s.pm.tcause.getLsbD 7 = true →
    exec .tripCauseCleared s = .next { s with pm := { s.pm with tcause := s.pm.tcause &&& 0x7F } }) ∧
  (∀ s : State, s.pm.st ≠ .off → s.pm.st ≠ .holdUp → s.pm.supply = true → ∃ t, exec .supplyLoss s = .next t ∧
    t.pm = { s.pm with hup := true, st := .holdUp, lossState := s.pm.st, supply := false, busy := false, pend := none,
                       quiesced := false, saved := false } ∧
    t.mem = s.mem ∧ t.cores = s.cores ∧ t.host = s.host ∧
    (∀ x k, ctxOf s x = some k → ctxOf t x = some { k with ckpt := if k.ckpt.busy then
      { k.ckpt with busy := false, res := 4, pending := [] } else k.ckpt }))

/-- 04 R83 to R86, R93, R96, 01 R22: the hold-up sequence. POWER_FAIL opens a finalisation window, which ends; with every window over the
quiesce ends, the save engine writes its directory and records, and the device goes to SPENT or, without supply, to OFF. Which moment ends
a window is free (log 13); the order of the records and of an empty sequence after a loss in SPENT are logs 14 and 11. -/
def Sys2Proof.Claims.HoldUpSequence : Prop :=
  (∀ (s : State) (c : BitVec 8) (b t : Nat), powerFailDue s c.toNat = some b → (bankOf s c.toNat b).task = some t →
    ((regsOf s c.toNat b).evec ≠ 0 → (regsOf s c.toNat b).depth = 0 →
      exec (.powerFail c) s = .next (updBank s c.toNat b (fun k => { k.toHandler with
        regs := { k.regs with epc0 := k.regs.pc, cause0 := 0x13, depth := 1, pc := enterAt k.regs.evec }, window := true }))) ∧
    ((regsOf s c.toNat b).evec = 0 → exec (.powerFail c) s = .next (closeWindow s c.toNat b))) ∧
  (∀ (s : State) (c : BitVec 8) (b : Nat), b < bankCount → s.pm.st = .holdUp →
    (bankOf s c.toNat b).window = true → (∀ a < b, (bankOf s c.toNat a).window = false) →
    CopiesStand s c.toNat b →
    exec (.finalisationWindowEnd c) s = .next (closeWindow (copiesStopped s c.toNat b) c.toNat b)) ∧
  (∀ s : State, s.pm.st = .holdUp → s.pm.quiesced = false → windowsLeft s = false →
    copiesAtBoundary s = true → drained s = true → exec .quiesceEnd s = .next
    { s with
      cores := s.cores.map (fun e => (e.1, { e.2 with banks := e.2.banks.map (fun b => (b.1, b.2.quiet)) }))
      programs := [], pm := { s.pm with quiesced := true, saved := s.ctxs.all (fun e => e.2.save = []) } }) ∧
  (∀ s : State, s.pm.st = .holdUp → s.pm.quiesced = true → s.pm.saved = false → ∃ recs u,
    (allRecords s.ctxs).go s = (.ok recs, u) ∧
    let l := placed recordBase (sortRecs recs)
    let epoch := (epochOf s + 1) % 2 ^ 32
    let v := l.foldl (writeRec epoch) (writeBytes u storeBase (directory epoch l))
    exec .holdUpSave s = .next { v with pm := { v.pm with saved := true } }) ∧
  (∀ s : State, s.pm.st = .holdUp → s.pm.supply = false →
    exec .supplyRecovery s = .next { s with pm := { s.pm with supply := true } }) ∧
  (∀ s : State, s.pm.st = .holdUp → s.pm.quiesced = true → s.pm.saved = true →
    (s.pm.supply = true → ∃ t, exec .holdUpSequenceEnd s = .next t ∧ t.pm = { s.pm with st := .spent } ∧ t.ctxs = [] ∧
      t.launches = [] ∧ t.tasks = [] ∧ t.cores = []) ∧
    (s.pm.supply = false → exec .holdUpSequenceEnd s = .next (powerOff s)))

/-- 03 R56, 01 R19: each reset puts the device into its state after reset, keeping the hold-up store and what lies outside the device. The
model's own: near-tier bytes that nothing has written read 0 (log 2, DESIGN CHOICE), a reset is allowed in every state (log 11), the
agenda and the count of free values (logs 1, 5). -/
def Sys2Proof.Claims.ResetEffects : Prop :=
  ∀ (s : State), ∀ i ∈ [Instr.fundamentalReset, .hotReset, .functionLevelReset], ∃ m n,
    exec i s = .next { State.reset with mem := m, fresh := n, agenda := s.agenda, actor := s.actor, raised := s.raised } ∧
    (∀ a, rowOf a = some .holdUp → byteAt m a = byteAt s.mem a) ∧
    (∀ a d, rowOf a = some (.near d) → byteAt m a = 0)

/-- 03 R57, 01 R14, 06 R156: configuration starts with GO, ends with the verdict, and on acceptance brings the device to IDLE at clock
code 17; the gang links give the device its place and time base, which counts. That acceptance enters IDLE from any state but the hold-up
sequence and a bad LEN ends as result 3 at completion is log 15 (DEDUCED). -/
def Sys2Proof.Claims.Configuration : Prop :=
  (∀ (w : Word) (s : State),
    (s.host.cfgBusy = false → s.host.cfgd = false → w.getLsbD 63 = true →
      exec (.cfgCmdGo w) s = .next { s with host := { s.host with cfgBusy := true, cfgLen := w.extractLsb' 0 27 } }) ∧
    ((s.host.cfgBusy = true ∨ s.host.cfgd = true ∨ w.getLsbD 63 = false) →
      exec (.cfgCmdGo w) s = .next s)) ∧
  (∀ (v : BitVec 4) (s : State), s.host.cfgBusy = true → s.pm.hup = false →
    let len := s.host.cfgLen.toNat
    let done := fun (r : BitVec 4) => { s with host := { s.host with cfgBusy := false, cfgRes := r, cfgd := decide (r = 1) } }
    ((len = 0 ∨ 2 ^ 26 < len) → exec (.configurationCheckComplete v) s = .next (done 3)) ∧
    (1 ≤ len → len ≤ 2 ^ 26 → 2 ≤ v.toNat → v.toNat ≤ 4 → exec (.configurationCheckComplete v) s = .next (done v)) ∧
    (1 ≤ len → len ≤ 2 ^ 26 → v = 1 → exec (.configurationCheckComplete v) s =
      .next (classify { done 1 with pm := { s.pm with st := .idle, clk := 17 } }))) ∧
  (∀ (tick : Word) (g : BitVec 6) (n : BitVec 7) (s : State), s.host.cfgd = true → s.gang.linksUp = false → 2 ≤ n.toNat → n.toNat ≤ 64 →
    g.toNat < n.toNat → exec (.gangLinkTrainingComplete tick g n) s =
      .next { s with gang := { tick := tick, gidx := g, gsize := n, linksUp := true } }) ∧
  (∀ s : State, s.pm.st ∈ [PState.run, .idle, .hold, .trip] → (enginesRun s = true → ∀ e ∈ s.programs, tickOpen s e.2 = false) →
    exec .gangTimeBaseTick s = .next { s with gang := { s.gang with tick := s.gang.tick + 1 } })

namespace Sys2Proof.Claims

/-- The physical address of an aperture offset (03 R54): BASE of APT_BASE over the offset. -/
def aperturePlace (s : State) (off : Nat) : Nat := (s.host.aptBase.extractLsb' 36 16).toNat * 2 ^ 36 + off

/-- A byte the host reads through the aperture: near tier, second tier and hold-up store answer, all else reads all ones. -/
def apertureValue (s : State) (off : Nat) : BitVec 8 :=
  if 2 ^ 36 ≤ off then 0xFF
  else match rowOf (aperturePlace s off) with
    | some (.near _) | some .second | some .holdUp => readByte s (aperturePlace s off)
    | _ => 0xFF

/-- The host may write the byte. -/
def ApertureWritable (pa : Nat) : Prop := (∃ d, rowOf pa = some (.near d)) ∨ rowOf pa = some .second

/-- DB_ERR holds the first discarded doorbell since it was cleared (03 Table 5). -/
def bellError (s : State) (x cause : Nat) : State :=
  if s.host.dbErr.getLsbD 63 = true then s
  else { s with host := { s.host with dbErr := BitVec.ofNat 64 (2 ^ 63 + cause * 256 + x) } }

/-- MON_CFG holds no reserved source and no reserved bit, or does not enable its unit. -/
def MonLegal (w : Word) : Prop :=
  w.getLsbD 63 = false ∨ ((w.extractLsb' 48 8).toNat ≤ 6 ∧ w.extractLsb' 56 6 = 0 ∧ w.extractLsb' 37 2 = 0)

/-- A threshold registration is enabled and its sampling period is the one that elapses (03 R77). -/
def ThrDue (src0 : Bool) (t : Threshold) : Prop :=
  t.lo.getLsbD 63 = true ∧ (t.lo.extractLsb' 48 5 = 0 ↔ src0 = true)

end Sys2Proof.Claims

/-- 03 R54, R57, 04 R102, 07 R162: what the host reads and writes through the aperture, before configuration and after it; a write into a
granule that a checkpoint has still to copy stalls. That a read beyond the BAR gives all ones is log 18 (DEDUCED). -/
def Obligations.ApertureAccesses : Prop :=
  (∀ (s : State) (off : BitVec 36) (n : Nat), s.host.cfgd = true → exec (.hostApertureRead off n) s =
    .next { s with host := { s.host with lastRead := (List.range n).map (fun i => apertureValue s (off.toNat + i)) } }) ∧
  (∀ (s : State) (off : BitVec 36) (bytes : List (BitVec 8)), s.host.cfgd = true →
    ((∃ i < bytes.length, ckptPending s (aperturePlace s (off.toNat + i)) = true) → exec (.hostApertureWrite off bytes) s = .next s) ∧
    ((∀ i < bytes.length, ckptPending s (aperturePlace s (off.toNat + i)) = false) →
      ∃ m, exec (.hostApertureWrite off bytes) s = .next { s with mem := m } ∧
        (∀ i < bytes.length, off.toNat + i < 2 ^ 36 → ApertureWritable (aperturePlace s (off.toNat + i)) →
          readByte { s with mem := m } (aperturePlace s (off.toNat + i)) = bytes.getD i 0) ∧
        (∀ a, (∀ i < bytes.length, off.toNat + i < 2 ^ 36 → ApertureWritable a → a ≠ aperturePlace s (off.toNat + i)) →
          readByte { s with mem := m } a = readByte s a))) ∧
  (∀ (s : State) (off : BitVec 36) (bytes : List (BitVec 8)), s.host.cfgd = false → off.toNat + bytes.length ≤ 0x4000000 →
    ∃ b, exec (.hostApertureWrite off bytes) s = .next { s with host := { s.host with cfgBuf := b } } ∧
      ∀ o, sget 0 b o = if off.toNat ≤ o ∧ o < off.toNat + bytes.length then bytes.getD (o - off.toNat) 0 else sget 0 s.host.cfgBuf o)

/-- 03 R63, R56: a doorbell write queues the launches up to its TAIL, or is discarded with its cause in DB_ERR: before configuration, in
the hold-up sequence or for a context that is not live 1, for a reserved bit 2, beyond the free entries 3. That a reserved bit is looked
at before a dead context and the overrun, and that a doorbell which changes nothing has no effect whatever its reserved bits, is log 18
(DEDUCED). -/
def Obligations.DoorbellWrites : Prop :=
  ∀ (w : Word) (s : State),
    let x := (w.extractLsb' 0 6).toNat
    ((s.host.cfgd = false ∨ s.pm.hup = true) → exec (.doorbell w) s = .next (bellError s x 1)) ∧
    (s.host.cfgd = true → s.pm.hup = false →
      (ctxOf s x = none → exec (.doorbell w) s = .next (bellError s x (if w.extractLsb' 6 26 = 0 then 1 else 2))) ∧
      (∀ k, ctxOf s x = some k →
        let d := (w.extractLsb' 32 32 - k.lastTail).toNat
        let free := 2 ^ k.sqLog - (k.launchSeq - k.freed)
        (d = 0 → exec (.doorbell w) s = .next s) ∧
        (d ≠ 0 → w.extractLsb' 6 26 ≠ 0 → exec (.doorbell w) s = .next (bellError s x 2)) ∧
        (w.extractLsb' 6 26 = 0 → free < d → exec (.doorbell w) s = .next (bellError s x 3)) ∧
        (w.extractLsb' 6 26 = 0 → d ≠ 0 → d ≤ free → ∃ t, exec (.doorbell w) s = .next t ∧ t.mem = s.mem ∧ t.host = s.host ∧
          ctxOf t x = some { k with lastTail := w.extractLsb' 32 32, launchSeq := k.launchSeq + d,
                                    queued := k.queued ++ (List.range d).map (k.launchSeq + ·) } ∧
          ∀ y ≠ x, ctxOf t y = ctxOf s y)))

/-- 07 R164, 03 R77, Table 1: pool decoders enable, drain and read as disabled; a threshold registration is armed; a register write of the
window is the event its address names. That bit 63 of DB_ERR alone clears is log 78 (DESIGN CHOICE), what a draining decoder waits for log
18 (DEDUCED). -/
def Sys2Proof.Claims.WindowRegisters : Prop :=
  (∀ (n : BitVec 3) (w : Word) (s : State), s.host.cfgd = true → w.getLsbD 63 = true →
    (decEn (poolDecOf s n.toNat) = true → exec (.poolDecoderEnable n w) s = .next s) ∧
    (decEn (poolDecOf s n.toNat) = false → decOk s n.toNat (w ++ (poolDecOf s n.toNat).extractLsb' 0 64) = true →
      exec (.poolDecoderEnable n w) s = .next (setDec s n.toNat (w ++ (poolDecOf s n.toNat).extractLsb' 0 64)))) ∧
  (∀ (n : BitVec 3) (w : Word) (s : State), s.host.cfgd = true → w.getLsbD 63 = false → decEn (poolDecOf s n.toNat) = true →
    exec (.poolDecoderDisable n w) s = .next { s with host := { s.host with
      poolDrain := aset s.host.poolDrain n.toNat (((aget s.host.poolDrain n.toNat).map (fun e => e.1)).getD s.nextId, w) } }) ∧
  (∀ (n : BitVec 3) (s : State), (aget s.host.poolDrain n.toNat).isSome = true → decBusy s (poolDecOf s n.toNat) = false →
    ∃ t, exec (.poolDecoderDrained n) s = .next t ∧ decEn (poolDecOf t n.toNat) = false ∧ aget t.host.poolDrain n.toNat = none ∧
      t.mem = s.mem ∧ ∀ m ≠ n.toNat, poolDecOf t m = poolDecOf s m) ∧
  (∀ (n : BitVec 6) (w : Word) (s : State) (k : Context), s.host.cfgd = true → (w.extractLsb' 48 5).toNat ≤ 5 →
    ctxOf s (w.extractLsb' 53 6).toNat = some k → (w.extractLsb' 60 3).toNat ≤ k.ceiling.toNat →
    (thrOf s n.toNat).hi.toNat % 64 = 0 → exec (.thresholdArm n w) s =
      .next (setThr s n.toNat { thrOf s n.toNat with lo := w, fired := false, seen := false })) ∧
  (∀ (w : Word) (s : State), exec (.registerWrite false 0x10 8 w) s = exec (.cfgCmdGo w) s ∧
    exec (.registerWrite false 0x100 8 w) s = exec (.pmCmdRun w) s ∧ exec (.registerWrite false 0x200 8 w) s = exec (.doorbell w) s ∧
    exec (.registerWrite false 0x300 8 w) s = exec (.ctxCmdCreate w) s ∧
    (s.host.cfgd = true → exec (.registerWrite false 0x400 8 w) s =
      .next { s with host := { s.host with aptBase := w &&& 0x000FFFF000000000 } }) ∧
    (s.host.cfgd = true → w.getLsbD 63 = true →
      exec (.registerWrite false 0x208 8 w) s = .next { s with host := { s.host with dbErr := s.host.dbErr &&& 0x7FFFFFFFFFFFFFFF } }))

namespace Sys2Proof.Claims

/-- The bin of a sample (03 R80). -/
def monitorBin (cfg : Word) (v : BitVec 32) : Nat :=
  let shift := (cfg.extractLsb' 32 5).toNat
  let base := (cfg.extractLsb' 0 32).toNat
  if cfg.getLsbD 39 = false then
    let x := v.toNat / 2 ^ shift
    if x = 0 then 0 else min 31 (Nat.log2 x + 1)
  else if v.toNat < base then 0
  else min 31 ((v.toNat - base) / 2 ^ shift)

/-- A monitor unit with its capture begun anew. -/
def cleared (m : Monitor) : Monitor := { m with mn := 0xFFFFFFFF, mx := 0, count := 0, bins := [] }

end Sys2Proof.Claims

namespace Sys2Proof.Claims

/-- A monitor unit of the device. -/
def unitOf (s : State) (n : Nat) : Monitor := sget Monitor.reset s.host.mon n

/-- A unit once it has taken a sample: minimum, maximum, count and one bin. -/
def Sampled (m : Monitor) (v : BitVec 32) (m' : Monitor) : Prop :=
  m' = { m with
    mn := if v.toNat < m.mn.toNat then v else m.mn
    mx := if m.mx.toNat < v.toNat then v else m.mx
    count := m.count + 1
    bins := m'.bins } ∧
  ∀ k, sget 0 m'.bins k =
    if k = monitorBin m.cfg v ∧ sget 0 m.bins k ≠ 0xFFFFFFFF then sget 0 m.bins k + 1 else sget 0 m.bins k

/-- Unit `n` captures source `src` of core `c` (03 Table 9). -/
def CapturesCore (s : State) (n src c : Nat) : Prop :=
  n < 64 ∧ n / 16 = c / 64 ∧ (unitOf s n).cfg.getLsbD 63 = true ∧ ((unitOf s n).cfg.extractLsb' 48 8).toNat = src ∧
    ((unitOf s n).cfg.extractLsb' 40 8).toNat = c % 64

end Sys2Proof.Claims

/-- 03 R79, R80, 00 R3: a unit that captures power or temperature takes each sample into minimum, maximum, count and the bin that MODE,
BASE and SHIFT choose, and no other bin changes; a write of MON_CFG that sets EN with a reserved source or a reserved bit is ignored;
with CLR the unit clears, then captures. That a write with EN 0 is taken with its reserved bits dropped is the model's reading (log 19). -/
def Sys2Proof.Claims.MonitorRegisters : Prop :=
  (∀ (n : BitVec 6) (v : BitVec 32) (s : State), s.host.cfgd = true → enginesRun s = true →
    let m := unitOf s n.toNat
    m.cfg.getLsbD 63 = true → (m.cfg.extractLsb' 48 8 = 4 ∨ m.cfg.extractLsb' 48 8 = 5) →
    ∃ m', exec (.monitorSample n v) s = .next (setMon s n.toNat m') ∧ Sampled m v m') ∧
  (∀ (n : BitVec 6) (w : Word) (s : State), s.host.cfgd = true →
    let m := unitOf s n.toNat
    (¬ MonLegal w → exec (.monCfgWrite n w) s = .next s) ∧
    (MonLegal w → ∃ c, exec (.monCfgWrite n w) s =
        .next (setMon s n.toNat { (if w.getLsbD 62 = true then cleared m else m) with cfg := c }) ∧
      c.getLsbD 63 = w.getLsbD 63 ∧ c.extractLsb' 0 37 = w.extractLsb' 0 37 ∧ c.getLsbD 39 = w.getLsbD 39 ∧
      c.extractLsb' 40 16 = w.extractLsb' 40 16 ∧ c.extractLsb' 56 7 = 0 ∧ c.extractLsb' 37 2 = 0))

/-- 03 R77, R78: where one enabled registration is due, a sampling period gives it the value of its source, fires it when the value
crosses its threshold, re-arms it past the hysteresis, and releases its task when it fires. That re-arming wants a value strictly beyond,
and what sources count, is log 19 (DEDUCED). -/
def Sys2Proof.Claims.ThresholdSampling : Prop :=
  ∀ (s : State) (src0 : Bool) (k : Nat), s.host.cfgd = true → s.pm.hup = false → (src0 = true → s.pm.st = .run) →
    k < 64 → ThrDue src0 (thrOf s k) → (∀ n < 64, n ≠ k → ¬ ThrDue src0 (thrOf s n)) →
    let t := thrOf s k
    ∃ v s1, (thrValue k t).go s = (.ok v, s1) ∧
    let fires := !t.fired && crosses t v
    let t' := { t with last := v, seen := true, fired := if t.fired then !rearms t v else fires }
    (fires = false → exec (.thresholdSample src0) s = .next (setThr s1 k t')) ∧
    (fires = true → ∃ u z, (release k t').go (setThr s1 k t') = (.ok (), u) ∧ exec (.thresholdSample src0) s = .next z ∧
      ((∀ n ≠ k, (thrOf u n).lo = (thrOf s n).lo) → z = u))

/-- 03 R58 to R61: a CTX_CMD write is refused with result 1 before configuration, in the hold-up sequence and while one runs; else it is
carried out, and CTX_STAT reports its result when it completes. That the effect stands at the write while the result shows at completion,
and the order of the checks, is log 17 (DEDUCED). -/
def Obligations.ContextCommands : Prop :=
  ∀ (w : Word) (s : State),
    (ctxRefused s = true → ∀ i ∈ [Instr.ctxCmdCreate w, .ctxCmdRemove w, .ctxCmdReloadGrants w],
      exec i s = .next { s with host := { s.host with ctxRes := 1 } }) ∧
    (∀ r, s.host.ctxPending = some (w, r) → exec .ctxCmdComplete s =
      .next { s with host := { s.host with ctxBusy := false, ctxRes := r, ctxPending := none } }) ∧
    (ctxRefused s = false → w.extractLsb' 52 12 = 0 → w.extractLsb' 8 4 = 0 →
      let x := (w.extractLsb' 0 6).toNat
      let pa := (w.extractLsb' 12 40).toNat * 4096
      let ends := fun (i : Instr) (u : State) (r : BitVec 3) =>
        exec i s = .next { u with host := { u.host with ctxBusy := true, ctxPending := some (w, r) } }
      (w.extractLsb' 6 2 = 0 → ((ctxOf s x).isSome = true → ends (.ctxCmdCreate w) s 1) ∧
        (ctxOf s x = none → ∃ r u, (createContext x pa).go s = (.ok r, u) ∧ ends (.ctxCmdCreate w) u r ∧
          let bs := readBytes s pa 512
          (reachable s pa = true → descriptorOk bs = true → fieldAt bs 0xC8 8 = 0 → admitted s [] = true →
            r = 0 ∧ ctxOf u x = some (contextOf bs)))) ∧
      (w.extractLsb' 6 2 = 1 → (ctxOf s x = none → ends (.ctxCmdRemove w) s 4) ∧
        ((ctxOf s x).isSome = true → ∃ u, (removeContext x).go s = (.ok 0, u) ∧ ends (.ctxCmdRemove w) u 0 ∧ ctxOf u x = none)) ∧
      (w.extractLsb' 6 2 = 2 → (ctxOf s x = none → ends (.ctxCmdReloadGrants w) s 4) ∧
        ∀ k, ctxOf s x = some k → reachable s pa = true → descriptorOk (readBytes s pa 512) = true →
          let n := contextOf (readBytes s pa 512)
          ends (.ctxCmdReloadGrants w) (updCtx (clearCounters s k.ctrMask n.ctrMask) x (fun k =>
            { k with vecMask := n.vecMask, foldMask := n.foldMask, ctrMask := n.ctrMask, monMask := n.monMask })) 0))

namespace Sys2Proof.Claims

/-- The tasks a core may take next (05 R120): the one that a yield has left the core to (05 R125); else its shadows, the queued tasks it
is eligible for where a bank is or can be made free, and, with a bank free and at most one shadow, its streamed-out contexts. -/
def candidates (s : State) (c : Nat) : List (Nat × Task) :=
  let here := shadowTasks s c ++ if bankFrees s c = true then queuedFor s c (heldBanks s c) else []
  match here.filter (fun e => (coreOf s c).chosen = some e.1) with
  | [] => here ++ if (coreOf s c).shadows.length < 2 ∧ (freeBankOf s c).isSome = true then streamedTasks s c else []
  | l => l

/-- No task waits for an entry of the die's pool (05 R117). -/
def PoolFilled (s : State) (d : Nat) : Prop := ∀ e ∈ s.tasks, e.2.die = d → e.2.place ≠ .overflow ∧ e.2.place ≠ .state1

/-- The free banks of a core, and the one a free choice takes (log 5). -/
def freeBanks (s : State) (c : Nat) : List Nat := (List.range 3).filter (fun b => (bankOf s c b).task.isNone)
def chosenBank (s : State) (c n : Nat) : Nat := (freeBanks s c).getD (Config.freeIndex n % (freeBanks s c).length) 0

/-- The best victim of a task by Table 8. -/
def bestVictim (s : State) (k : Task) : Option (List Nat × Nat × Part) :=
  (((List.range 64).map (64 * k.die + ·)).filterMap (victimAt s k)).foldl (fun b e =>
    match b with
    | none => some e
    | some f => if e.1 < f.1 then some e else some f) none

end Sys2Proof.Claims

/-- 05 R119, R120, R122 to R125, Tables 5, 7, 8: a core takes the candidate that comes first (a shadow resumes, a queued task starts in a
free bank with its partition, a streamed-out context comes back); a steal takes a task of the victim cluster, for a task of a launch
whose forced log gives this occurrence to the requester's cluster or to none (06 R159); a task that no core can take asks for PREEMPT at
its best victim, which leaves its core. The model's own: how a streamed-out context and tasks of two launches rank (log 77), which
steals meet in a cycle (log 55), which free bank is taken (log 52). -/
def Obligations.ShepherdChoices : Prop :=
  (∀ (s : State) (core : BitVec 8) (t : Nat) (q : Task), shepherdsRun s = true →
    let c := core.toNat
    PoolFilled s (c / 64) → bestOf s c (candidates s c) = some (t, q) →
    (q.place = .shadow → (coreOf s c).active = none →
      exec (.placement core) s = .next (resumeBank (updCore s c (fun k => { k with preReq := none })) c q.bank)) ∧
    (q.place ≠ .shadow → q.place ≠ .streamedOut → (coreOf s c).active = none → freeBanks s c ≠ [] →
      ∀ p, partitionFor s c (heldBanks s c) q = some p → ∃ u,
      (startTask t c (chosenBank s c s.fresh) p).go { updCore s c (fun k => { k with preReq := none }) with fresh := s.fresh + 1 } =
        (.ok (), u) ∧ exec (.placement core) s = .next u) ∧
    (q.place = .streamedOut → freeBanks s c ≠ [] → ∀ e, (coreOf s c).streamed.find? (fun e => e.task == t) = some e →
      let s1 := { s with fresh := s.fresh + 1 }
      let m := streamIn c (chosenBank s c s.fresh) e
      (e.saved.isSome = true → ∃ u, m.go s1 = (.ok (), u) ∧ exec (.placement core) s = .next u) ∧
      ∀ u, m.go s1 = (.ok (), u) → exec (.placement core) s = .next u)) ∧
  (∀ (s : State) (die : BitVec 2) (victim : BitVec 3) (c t : Nat) (k : Task) (p : Part), shepherdsRun s = true →
    let d := die.toNat
    let v := victim.toNat
    PoolFilled s d → ((List.range 64).map (64 * d + ·)).filter (fun c => steals s c && victimOf s c == some v) = [c] →
    bestOf s c (stealable s c v) = some (t, k) → partitionFor s c (heldBanks s c) k = some p → freeBanks s c ≠ [] →
    let asked := { s with fresh := s.fresh + 1 }
    let granted := fun (a : State) =>
      { updDie a d (fun x => { x with stealLast := sset 0 x.stealLast v (c % 64 / 8) }) with fresh := a.fresh + 1 }
    (k.launch = none → ∃ u,
      (startTask t c (chosenBank s c (s.fresh + 2)) p).go { granted asked with fresh := s.fresh + 3 } = (.ok (), u) ∧
      exec (.stealRequest die victim) s = .next (if Config.freeBool s.fresh = true then u else asked)) ∧
    (∀ l r a s1 u, k.launch = some l → (forcedWinner l 1 d v).go asked = (.ok r, a) → (r = none ∨ r = some (c % 64 / 8)) →
      freeBanks a c ≠ [] → (logChoice l 1 d v (c % 64 / 8)).go (granted a) = (.ok (), s1) → freeBanks s1 c ≠ [] →
      (startTask t c (chosenBank s1 c s1.fresh) p).go { s1 with fresh := s1.fresh + 1 } = (.ok (), u) →
      exec (.stealRequest die victim) s = .next (if Config.freeBool s.fresh = true then u else asked)) ∧
    (∀ l r a, k.launch = some l → (forcedWinner l 1 d v).go asked = (.ok (some r), a) → r ≠ c % 64 / 8 →
      exec (.stealRequest die victim) s = .next (if Config.freeBool s.fresh = true then a else asked))) ∧
  (∀ (s : State) (t c : Nat) (k : Task) (e : List Nat) (p : Part), shepherdsRun s = true → taskOf s t = some k → PoolFilled s k.die →
    isQueued k = true → takenElsewhere s t k = false → (∀ n < 64, ∀ r, (coreOf s (64 * k.die + n)).preReq = some r → r.1 ≠ t) →
    bestVictim s k = some (e, c, p) →
    exec (.preEmptionVictim t) s = .next (updCore s c (fun q => { q with preReq := some (t, p) }))) ∧
  (∀ (s : State) (core : BitVec 8) (b : Nat), (coreOf s core.toNat).active = some b → enginesRun s = true →
    let q := bankOf s core.toNat b
    let stood := copiesStopped s core.toNat b
    q.miss = none → CopiesStand s core.toNat b →
    ((coreOf s core.toNat).preReq = none → q.leaving = true →
      ∃ u, (leaveCore core.toNat b).go stood = (.ok (), u) ∧ exec (.preempt core) s = .next u) ∧
    (∀ t p, (coreOf s core.toNat).preReq = some (t, p) → q.leaving = false → q.pend = [] → q.checked = true → q.window = false →
      s.pm.hup = false → (∀ k, q.task = some k → taskEnds s k = false) → q.storeBuf = [] → freeBanks s core.toNat ≠ [] →
      ∃ v, (startIncoming core.toNat b t p).go (makeShadow stood core.toNat b) = (.ok (), v) ∧ exec (.preempt core) s = .next v))

/-- 03 R64, R66, R67, 05 R111, R130, 06 R138: the first queued header is read; a launch that fails a check is rejected with its reason,
one that passes starts with its state array; a launch whose weight has come back completes with STATUS 0. That reasons are tried in
ascending order, launches read in RUN alone, and the completion record written before the publication is log 16 (DEDUCED). -/
def Obligations.LaunchesRun : Prop :=
  (∀ (s s1 : State) (ctx : BitVec 6) (k : Context) (seq : Nat) (rest : List Nat) (bs : List (BitVec 8)), shepherdsRun s = true →
    let x := ctx.toNat
    let h := headerOf bs
    ctxOf s x = some k → k.queued = seq :: rest →
    (devRead x (k.sqBase.toNat + 256 * (seq % 2 ^ k.sqLog)) 256).go (updCtx s x (fun k => { k with queued := k.queued.drop 1 })) =
      (.ok (.ok bs), s1) →
    (∀ r, headerReason k h = some r → ∃ u, (completionRecord (headerLaunch x seq k h) 2 (BitVec.ofNat 8 r)).go s1 = (.ok (), u) ∧
      exec (.launchRead ctx) s = .next u) ∧
    (∀ sh ext s2 rs s3, headerReason k h = none → (readShape x h).go s1 = (.ok (some (sh, ext)), s2) →
      (readStatics x k h sh (List.range sh.ntask)).go s2 = (.ok (some rs), s3) →
      (h.policy = 0 ∨ (k.sstore ≠ 0 ∧ (h.policy = 2 ∨ k.arena ≠ 0))) →
      ∃ u, (startLaunch k (newLaunch x seq k h sh rs (launchHash h sh rs ext)) rs).go s3 = (.ok (), u) ∧
      exec (.launchRead ctx) s = .next u)) ∧
  (∀ (s : State) (l : Nat) (q : Launch), shepherdsRun s = true → launchOf s l = some q →
    q.returned = 2 ^ 63 + q.loans.toNat * 2 ^ 32 → ∃ u,
    (do leaveBody l; completionRecord q 0 0; publish l : Act Unit).go ((launchTasks s l).foldl dropTask s) = (.ok (), u) ∧
    exec (.launchComplete l) s = .next { u with launches := adel u.launches l })

/-- 09 R245, 13 R337, 02 R42, 03 R69: at a core's boundary the pending trap that comes first is delivered; a trap other than BREAK,
POWER_FAIL and PREEMPT ends its task; BREAK enters a handler at depth 0. -/
def Sys2Proof.Claims.TrapsDelivered : Prop :=
  ∀ (s : State) (core : BitVec 8) (b : Nat) (p : PendTrap) (rest : List PendTrap), let c := core.toNat
    boundaryBank s c = some b → firstPend (bankOf s c b).pend = some (p, rest) →
    ((p.miss = none ∨ (bankOf s c b).task.isSome = true) → ∃ u, (deliver c b p rest).go s = (.ok (), u) ∧
      (p.miss = none → p.code ≠ .break_ → p.code ≠ .powerFail → p.code ≠ .preempt → exec (.terminatingTrap core) s = .next u) ∧
      (p.src = .collective → exec (.collectiveFault core) s = .next u) ∧
      (p.src = .engine → exec (.engineTrapDelivery core) s = .next u) ∧
      (p.miss.isSome = true → exec (.translation core) s = .next u)) ∧
    (∀ t, (bankOf s c b).task = some t → p.miss = none → p.code = .break_ → (regsOf s c b).evec ≠ 0 → (regsOf s c b).depth = 0 →
      ∃ n, exec (.trapEntry core) s = .next { updBank s c b (fun k => { k.toHandler with
        pend := rest, regs := { k.regs with epc0 := k.regs.pc, cause0 := 0x11, depth := 1, pc := enterAt k.regs.evec } }) with
          fresh := n })

/-- 09 R240, R242: a side core whose fetch leaves its instruction store halts with the trap's INFO naming its PC, and the trap waits for
the task's boundary: the peel core's where its fetch fails, and the rack core's where the peel core's does not. -/
def Sys2Proof.Claims.SideCoreFetchFails : Prop :=
  ∀ (s : State) (core : BitVec 8) (w : Who) (rack : Bool) (t : Trap), whoRuns s core.toNat = some w → w.core = core.toNat →
    sideRuns s w rack = true → fetchSide s w rack = .error t →
    (rack = true → sideRuns s w false = false ∨ ∃ i, fetchSide s w false = .ok i) →
    ∃ v, exec (.sideCoreException core) s = .next v ∧
      sideOf (bankOf v w.core w.bank) rack = { sideOf (bankOf s w.core w.bank) rack with run := false, halt := true } ∧
      sideOf (bankOf v w.core w.bank) (!rack) = sideOf (bankOf s w.core w.bank) (!rack) ∧
      (bankOf v w.core w.bank).pend = (bankOf s w.core w.bank).pend ++
        [{ src := .sideCore, code := t, info := some (sideInfo rack (sideOf (bankOf s w.core w.bank) rack).pc),
           pc := (regsOf s w.core w.bank).pc, miss := none }]

namespace Sys2Proof.Claims

/-- The collective of a core starts as program `p` with its next sequence number on the fold: its command has left the queue, the
program and its signature are there. -/
def started (w : Who) (m : Cmd) (fold p : Nat) (g : Program) (s : State) : State :=
  let u := updCore (retireCmd s w.core w.bank 3 m.id) w.core (fun k =>
    { k with collSeq := sset 0 k.collSeq fold (sget 0 (coreOf s w.core).collSeq fold + 1) })
  cavDuties p (postSig { u with programs := aset u.programs p g } g (some (signatureOf g)))

/-- Program `p` stands at the step and the step may issue: nothing of it is wrong, its trigger has fired and its tick has come. -/
structure AtStep (p : Nat) (i : Instr) (t : StepArgs) (g : Program) (s : State) : Prop where
  actor : s.actor = .program p
  args : stepArgs i = some t
  runs : aget s.programs p = some g
  at_ : g.cur = some i
  engines : enginesRun s = true
  going : g.code = none
  fresh : g.issued = false
  fine : stepFault s g i t = none
  trigger : t.ten = true → g.released ≠ 0 ∧ releasedAhead s (g.core / 64) g.released = false
  tick : g.locked = true → g.ticked = true

/-- A step of program `p` has done its work in `u`: it waits for the acknowledgements of what it sent, or is complete. -/
def stepIssued (p : Nat) (t : StepArgs) (u : State) : State :=
  let v := updProgram u p (fun g => { g with issued := true })
  match aget v.programs p with
  | none => v
  | some g => if unacked v g = true then v else completeStep v p g t none

/-- A block that a step takes from staging: acknowledged where that is still due, and gone (14 R403). -/
def taken (e : CBlock × Nat) (u : State) : State :=
  if e.1.st = 3 then updBlock u e.2 (fun b => { b with st := 4 })
  else { u with net := { u.net with blocks := removeAt u.net.blocks e.2 } }

end Sys2Proof.Claims

/-- 02 R23, R26, R38, 14 R396: the collective at the head of its queue starts once a slot of the die's engine is free and its fold runs no
other collective of the die. -/
def Sys2Proof.Claims.CollectivesStart : Prop :=
  ∀ (s : State) (core : BitVec 8) (w : Who) (m : Cmd) (rest : List Cmd) (l : LcArgs) (p : Nat), whoRuns s core.toNat = some w →
    queueOf s w.core w.bank 3 = m :: rest → enginesRun s = true → (bankOf s w.core w.bank).frozen = false →
    mayStart s w.core w.bank 3 0 m = true → freeProgram s (w.core / 64) = some p →
    let fold := l.fold.toNat
    let seq := sget 0 (coreOf s w.core).collSeq fold
    (∀ e ∈ s.programs, e.2.fold = fold → e.2.core / 64 = w.core / 64 → e.2.core ≠ w.core ∧ e.2.seq = seq) →
    (m.instr = .lRun l →
      exec (.collectiveStart core) s = .next (started w m fold p (newProgram w m false l seq []) s)) ∧
    (m.instr = .lCav l →
      let raw := readS s w.core (bankOf s w.core w.bank).part l.src.toNat
        (elemSize (descOp m.block) (descFmt m.block) * descCount m.block)
      let g := newProgram w m true l seq raw
      exec (.collectiveStart core) s = .next (started w m fold p { g with got := cavEmpty g } s))

/-- 02 R31, R32, R35, R38 to R40, R43, R44, 14 R399: posts, blocks and acknowledgements arrive, held steps and commands are released, the
tick of a locked step comes, chains fire. That a block whose collective has ended is discarded and acknowledged is log 75 (DESIGN CHOICE);
that its place in staging is free and its bytes land at its arrival is log 61 (DEDUCED). -/
def Obligations.CollectiveArrivals : Prop :=
  ∀ s : State, enginesRun s = true →
    (∀ k q, s.net.posts[k]? = some q → q.arrived = false →
      let u := { s with net := { s.net with posts := changeAt (fun q => { q with arrived := true }) s.net.posts k } }
      exec (.signaturePost k) s = .next (cleanPosts (settleVerdict u q.coll) q.coll)) ∧
    (∀ k b, s.net.blocks[k]? = some b → (b.st = 0 ∨ b.st = 1) →
      (programAt s b.dstCore b.fold = none → isPast (sget 0 (coreOf s b.dstCore).collSeq b.fold) b.seq = true →
        exec (.collectiveBlockArrival k) s = .next (answerBlock s k (fun b => { b with st := 4 }))) ∧
      (∀ p g, programAt s b.dstCore b.fold = some (p, g) → g.seq = b.seq →
        (b.sig ≠ signatureOf g → exec (.collectiveBlockArrival k) s =
          .next (mismatch (answerBlock s k (fun b => { b with st := 4 })) g.coll)) ∧
        (b.sig = signatureOf g → g.code = none → b.sweep = none → g.cav = false → b.bytes.length ≤ g.slen.toNat →
          let used := ((staged s g).map (fun e => e.1.bytes.length)).sum
          (g.slen.toNat < used + b.bytes.length →
            exec (.collectiveBlockArrival k) s = .next (updBlock s k (fun b => { b with st := 1 }))) ∧
          (used + b.bytes.length ≤ g.slen.toNat →
            ∀ u ps u1, let va := g.stage.toNat + Config.freeIndex s.fresh % (g.slen.toNat - b.bytes.length + 1)
            (stagingMiss g va b.bytes.length).go { s with fresh := s.fresh + 1 } = (.ok none, u) →
            (destPieces g va b.bytes.length).go u = (.ok ps, u1) → ∃ v, (landStaging p g va b.bytes).go u = (.ok (), v) ∧
            exec (.collectiveBlockArrival k) s =
              .next (answerBlock { v with net := { v.net with blocks := removeAt v.net.blocks k ++ [b] } } (v.net.blocks.length - 1)
                (fun b => { b with st := 3 })))))) ∧
    (∀ k b, s.net.blocks[k]? = some b → (b.st = 5 ∨ (b.st = 7 ∧ (s.net.blocks.filter (fun o => o.st == 2 &&
        o.dstCore / 64 == b.dstCore / 64)).length < 32)) → b.refused = none →
      let u := resendBlock s k
      (programOf s b.src = none → exec (.stagingResend k) s = .next u) ∧
      (∀ p g, programOf s b.src = some (p, g) → exec (.stagingResend k) s = .next (updProgram u p (countLate u)))) ∧
    (∀ k b p g code, s.net.blocks[k]? = some b → b.st = 5 → b.refused = some code → programAt s b.dstCore b.fold = some (p, g) →
      g.seq = b.seq → exec (.stagingResend k) s = .next (failProgram (answerBlock s k (fun b => { b with st := 4 })) p code)) ∧
    (∀ k b, s.net.blocks[k]? = some b → (b.st = 3 ∨ b.st = 4) →
      let u := if b.st = 3 then updBlock s k (fun b => { b with st := 6 })
        else { s with net := { s.net with blocks := removeAt s.net.blocks k } }
      (programOf s b.src = none → exec (.collectiveBlockAcknowledged k) s = .next u) ∧
      (∀ p g t, programOf s b.src = some (p, g) → g.cur.bind stepArgs = some t → exec (.collectiveBlockAcknowledged k) s =
        .next (if g.issued && !unacked u g && g.code.isNone then completeStep u p g t none else u))) ∧
    (∀ p g, aget s.programs p = some g → tickReady s g = true →
      exec (.scheduleTickIssue p) s = .next (updProgram s p (fun g => { countLate s g with ticked := true }))) ∧
    (∀ p g t, aget s.programs p = some g → g.cur.bind stepArgs = some t → t.ten = true → g.released = 0 →
      t.tthr.toNat ≤ (ctrOf s (g.core / 64) t.tctr.toNat).toNat → (∀ n ∈ eligible s (g.core / 64), g.reached ≤ n) →
      exec (.triggerRelease true p) s = .next (updProgram { s with nextId := s.nextId + 1 } p (fun g => { g with released := s.nextId }))) ∧
    (∀ (c k : Nat) (w : Who) (m : Cmd) (x : XoArgs), k < 16 → whoRuns s c = some w → (queueOf s c w.bank 2)[k]? = some m →
      copyTrigger m.instr = some x → m.released = 0 → copyHeld s c w.bank k m = true →
      x.tthr.toNat ≤ (ctrOf s (c / 64) x.tctr.toNat).toNat → (∀ n ∈ eligible s (c / 64), m.id ≤ n) →
      exec (.triggerRelease false (16 * c + k)) s =
        .next (updCmd { s with nextId := s.nextId + 1 } c w.bank 2 m.id (fun m => { m with released := s.nextId }))) ∧
    (∀ (die : BitVec 2) (k : Nat) (h : Chain), (dieOf s die.toNat).chains[k]? = some h →
      h.thr.toNat ≤ (ctrOf s die.toNat h.ca).toNat →
      exec (.counterChainFire die k) s = .next
        (addCtr (updDie s die.toNat (fun q => { q with chains := removeAt q.chains k })) die.toNat h.cb h.inc.toNat))

namespace Sys2Proof.Claims

/-- The completion record of a collective (14 R396): LATE, the lone flag, FAULT, the trap's code and the sequence number, then the gang tick.
`u` is the state once it is written, `s` itself where the collective names no place for it. -/
def RecordWritten (g : Program) (s u : State) : Prop :=
  let fault := (g.code.map (fun t => t.code)).getD 0
  let word0 : BitVec 64 := g.seq ++ fault ++ (0 : BitVec 6) ++ BitVec.ofBool g.code.isSome ++ BitVec.ofBool (g.cav && g.total == 1) ++ g.late
  (g.crec = 0 ∧ u = s) ∨
    (g.crec ≠ 0 ∧ (writeColl g g.crec.toNat (leBytes 8 word0.toNat ++ leBytes 8 s.gang.tick.toNat)).go s = (.ok (), u))

end Sys2Proof.Claims

/-- 14 R396, 02 R42: a collective ends: its completion record, its completion counter, and the trap of one that has failed. That a cavity
waits for the verdict and writes its destination here, and what counts as one collective, are the model's (log 62). -/
def Sys2Proof.Claims.CollectivesComplete : Prop :=
  ∀ (s u : State) (p : Nat) (g : Program), aget s.programs p = some g → enginesRun s = true →
    let counted := fun (u : State) => if g.cdone.getLsbD 6 = true
      then addCtr u (g.core / 64) (g.cdone.extractLsb' 0 6).toNat (g.cdone.extractLsb' 8 8).toNat else u
    let gone := fun (u : State) => cleanPosts (removeProgram u p) g.coll
    (g.code = none → g.cav = false → g.done = true → g.verdict = .matched → unacked s g = false → RecordWritten g s u →
      exec (.collectiveComplete p) s = .next (gone (counted u))) ∧
    (∀ bs b t, g.code = none → g.cav = true → g.verdict = .matched → unacked s g = false → cavResult g = some bs → cavSent g = true →
      g.task = some t → bankHolding s g.core t = some b → inPlace s g.core b = true → RecordWritten g (writeCavity s g.core b g bs) u →
      exec (.collectiveComplete p) s = .next (gone (counted u))) ∧
    (∀ code t, g.code = some code → g.task = some t → RecordWritten g s u → exec (.collectiveComplete p) s =
      .next (gone (postTaskTrap (counted u) t .collective code (some (BitVec.ofNat 64 (g.seq.toNat * 2 ^ 48 + g.fold))))))

/-- 02 R27 to R37, 14 R403: a step issues once its trigger has fired and its tick has come; send, recv, recv-reduce-send and copy do their
work and wait for what they sent, wait only waits, and loop raises its counter and returns to its target below M, else begins it anew. -/
def Obligations.StepPrograms : Prop :=
  ∀ (p : Nat) (t : StepArgs) (g : Program) (s : State),
    let size := g.count * g.size
    let mayLeave := g.locked = true ∨ ∀ c, g.coreAt (peerOf g t t.offout) = some c → sendHeld s (g.core / 64) (c / 64) = false
    (AtStep p (.stepSend t) t g s → ∀ a bs u, mayLeave → (sourceAddr g t).go s = (.ok a, s) →
      (readColl g a size).go s = (.ok bs, u) → exec (.stepSend t) s =
        .next (stepIssued p t (sendBlock u g (g.coreAt (peerOf g t t.offout)) none g.fmt false bs))) ∧
    (AtStep p (.stepRecv t) t g s → ∀ e a u u1 u2, g.verdict = .matched → (takenBlock p g t).go s = (.ok (some e), u) →
      (destAddr g t g.size).go u = (.ok a, u) → (writeColl g a e.1.bytes).go u = (.ok (), u1) →
      (t.arrival = false → u = s ∧ exec (.stepRecv t) s = .next (stepIssued p t (taken e u1))) ∧
      ((takeBlock p g t e).go u1 = (.ok (), u2) → exec (.stepRecv t) s = .next (stepIssued p t u2))) ∧
    (AtStep p (.stepRecvReduceSend t) t g s → ∀ e a own d u u1 u2 u3, (takenBlock p g t).go s = (.ok (some e), u) →
      (t.nodst = false → g.verdict = .matched) → (t.nosend = false → mayLeave) → (sourceAddr g t).go u = (.ok a, u) →
      (readColl g a size).go u = (.ok own, u1) →
      let out := reduceBlocks g t e.1 own
      let f := resultFmt g t
      (t.nodst = true → u2 = u1) → (t.nodst = false → (destAddr g t (elemSize g.op f.1)).go u1 = (.ok d, u1) ∧
        (writeColl g d out).go u1 = (.ok (), u2)) →
      let sent := fun (v : State) =>
        if t.nosend = true then v else sendBlock v g (g.coreAt (peerOf g t t.offout)) none f.1 f.2 out
      (t.arrival = false → exec (.stepRecvReduceSend t) s = .next (stepIssued p t (sent (taken e u2)))) ∧
      ((takeBlock p g t e).go u2 = (.ok (), u3) → exec (.stepRecvReduceSend t) s = .next (stepIssued p t (sent u3)))) ∧
    (AtStep p (.stepCopy t) t g s → ∀ a d bs u u1, g.verdict = .matched → (sourceAddr g t).go s = (.ok a, s) →
      (destAddr g t g.size).go s = (.ok d, s) → (readColl g a size).go s = (.ok bs, u) →
      (writeColl g d bs).go u = (.ok (), u1) → exec (.stepCopy t) s = .next (stepIssued p t u1)) ∧
    (AtStep p (.stepWait t) t g s → exec (.stepWait t) s = .next (stepIssued p t s)) ∧
    (AtStep p (.stepLoop t) t g s → ∃ v, exec (.stepLoop t) s = .next v ∧
      let l := sget 0 g.loops t.lsel.toNat + 1
      ∃ g', aget v.programs p = some g' ∧ g'.cur = none ∧ g'.released = 0 ∧ g'.issued = false ∧
        g'.idx = (if l < t.mul.toNat then t.offin.toNat else g.idx + 1) ∧
        (∀ j, sget 0 g'.loops j = if j = t.lsel.toNat then (if l < t.mul.toNat then l else 0) else sget 0 g.loops j))

/-- 02 R34, 14 R391: an image that arrives lands where its slots belong to the engines, is held at its die otherwise, and lands later; an
x.rsw image beyond the partition is refused to its sender. Which context holds the slot, and what is beyond its partition, is log 63
(DEDUCED). -/
def Sys2Proof.Claims.ImagesArrive : Prop :=
  ∀ s : State, enginesRun s = true →
    (∀ (rsw : Bool) (k : Nat) (a : Arrival) (i : Nat), findArrival s rsw k = some (a, i) →
      let e := if rsw then Instr.rswArrival k else .epiSendArrival k
      let gone := { s with net := { s.net with arrivals := removeAt s.net.arrivals i } }
      (∀ b, landingOf s a = .land b → ∃ u, (landArrival a b).go gone = (.ok (), u) ∧ exec e s = .next u) ∧
      (landingOf s a = .beyond → exec e s = .next (refuseRsw (answerImage gone a) a)) ∧
      (landingOf s a = .hold → (dieOf s (a.core / 64)).held.length < 32 →
        exec e s = .next (updDie gone (a.core / 64) (fun d => { d with held := d.held ++ [a] })))) ∧
    (∀ (die : BitVec 2) (k : Nat) (a : Arrival), (dieOf s die.toNat).held[k]? = some a →
      let gone := updDie s die.toNat (fun q => { q with held := removeAt q.held k })
      (∀ b, landingOf s a = .land b → ∃ u, (landArrival a b).go gone = (.ok (), u) ∧
        exec (.heldArrivalRelease die k) s = .next u) ∧
      (landingOf s a = .hold → exec (.heldArrivalRelease die k) s = .next s))

/-- 02 R34, 06 R160, 14 R391: an image that lands, of an epi.send or an x.rsw, for a task of no race-check launch, puts its bytes into S,
or in MODE 1 the FP32 sums of its elements and those that stood there, each rounded to nearest once (the sum is an FP32 value, and
stands in S as it is); stamps its tags on their slots, whose owner stays; adds 1 to its counter where it names one; and leaves every
other byte and slot of S as it was. Memory stays as it was unless the image answers an x.rsw of a core with a context streamed out, whose
block then changes. That an image lands in the context that holds its first slot, is refused when it passes that partition, and brings the
tags of its source's slots is log 63 (the model's choice). -/
def Sys2Proof.Claims.ImageBytes : Prop :=
  ∀ (s : State) (rsw : Bool) (k i b t : Nat) (a : Arrival) (q : Task), enginesRun s = true → findArrival s rsw k = some (a, i) →
    landingOf s a = .land b → (bankOf s a.core b).task = some t → taskOf s t = some q → q.launch = none →
    let n := a.bytes.length
    let word := fun (u : State) (j : Nat) => leNat ((List.range 4).map (fun l => sByte u a.core (a.off + 4 * j + l)))
    ∃ v, exec (if rsw = true then .rswArrival k else .epiSendArrival k) s = .next v ∧
      (a.add = false → ∀ j < n, sByte v a.core (a.off + j) = a.bytes.getD j 0) ∧
      (a.add = true → ∀ j, 4 * j + 4 ≤ n →
        word v j = fp32.round (noSr 0) false (toFp32 (noSr 0) (addNum false (fp32.value (word s j))
          (fp32.value (leNat ((a.bytes.drop (4 * j)).take 4)))))) ∧
      (∀ m, m < a.off ∨ a.off + n ≤ m → sByte v a.core m = sByte s a.core m) ∧
      (∀ j f, a.tags[j]? = some f → j < (slotsOf a.off n).length →
        let o := slotOf v a.core (a.off / 2048 + j)
        (o.fmt, o.geo) = f ∧ o.owner = (slotOf s a.core (a.off / 2048 + j)).owner) ∧
      (∀ m, m < a.off / 2048 ∨ a.off / 2048 + a.tags.length ≤ m → slotOf v a.core m = slotOf s a.core m) ∧
      (a.cen = true → (ctrOf v (a.core / 64) a.ctr).toNat = Nat.min 0xFFFFFFFF ((ctrOf s (a.core / 64) a.ctr).toNat + 1)) ∧
      (a.cen = false → ∀ d r, ctrOf v d r = ctrOf s d r) ∧
      (a.rsw = false ∨ (coreOf s a.fromCore).streamed = [] → v.mem = s.mem)

/-- 04 R99, R101 to R104: the checkpoint engine reads its descriptor, copies its granules in order or ahead of turn, completes its shards
and ends with result 0; a restore of failing shards ends with result 5 and RESTORE_STEP for the task that began it. That a restore copies
granule by granule, COMPLETE words come after all shards, and RESTORE_STEP ranks as a trap raised after dispatch is log 58 (DEDUCED). -/
def Obligations.CheckpointEngine : Prop :=
  ∀ (s : State) (ctx : BitVec 6) (q : Ckpt), let x := ctx.toNat
    ckptOf s x = some q → q.busy = true → enginesRun s = true →
    (∀ u, q.phase = 0 → q.restore = false → (beginCheckpoint x q).go s = (.ok (), u) → exec (.checkpointEngineRun ctx) s = .next u) ∧
    (∀ u, q.phase = 0 → q.restore = true → (beginRestore x q).go s = (.ok (), u) → exec (.checkpointEngineRun ctx) s = .next u) ∧
    (q.phase = 1 → q.restore = false → q.pending = [] →
      exec (.checkpointEngineRun ctx) s = .next (updCkpt s x (fun q => { q with phase := 2 }))) ∧
    (∀ k j g pa e ps u, q.phase = 1 → q.pending[k]? = some (j, g, pa) → q.shards[j]? = some e →
      (ckptRange x q (if q.restore = true then .er else .ew) (e.2.1 + 64 + 65536 * g) 65536).go s = (.ok ps, u) →
      let copied := if q.restore = true then writeBytes u pa (ps.flatMap (fun p => readBytes u p.1 p.2.2))
        else ps.foldl (fun s p => writeBytes s p.1 (((readBytes s pa 65536).drop p.2.1).take p.2.2)) u
      let v := updCkpt copied x (fun q => { q with pending := removeAt q.pending k })
      (q.restore = false → exec (.granuleCopyAhead ctx k) s = .next v) ∧
      (k = 0 → exec (.checkpointEngineRun ctx) s = .next v)) ∧
    (q.phase = 2 → (∀ j < q.shards.length, j ∈ q.complete) →
      exec (.checkpointEngineRun ctx) s = .next (updCkpt s x (fun q => { q with phase := 3 }))) ∧
    (∀ u, q.phase = 2 → (completeShard x q).go s = (.ok (), u) → exec (.checkpointEngineRun ctx) s = .next u) ∧
    (q.phase = 3 → q.restore = false →
      exec (.checkpointComplete ctx) s = .next (updCkpt s x (fun q => { q with busy := false, res := 0, pending := [] }))) ∧
    (q.phase = 1 → q.restore = true → q.pending = [] →
      exec (.restoreComplete ctx) s = .next (updCkpt s x (fun q => { q with busy := false, res := 0, pending := [] }))) ∧
    (q.phase = 4 → q.restore = true → exec (.restoreComplete ctx) s =
      .next (postTaskTrap (updCkpt s x (fun q => { q with busy := false, res := 5, pending := [] })) q.task .remote .restoreStep
        (some (failMask q.complete))))

namespace Sys2Proof.Claims

/-- What a request finds at its owner: its page, with the right its kind needs, under no open window of its key. -/
structure OwnerReady (r : Request) (k : Context) (l : Leaf) (s u : State) : Prop where
  context : ctxOf s r.acc.ctx = some k
  access : r.kind.toNat < 7
  whole : r.isSector = false
  window : windowOf s r.owner r.req r.acc.ctx r.acc.cls = none
  page : (issuedAt r.acc.id (translate none r.owner none r.acc.ctx k r.acc.va (reqRight r.kind))).go s = (.ok (.leaf l), u)

end Sys2Proof.Claims

/-- 07 R184 to R192, 08 R206, R421: a remote request whose page stands performs at its owner and leaves the fabric, or is refused with
PROTECTION; answers, notices, replays and resends of a request answered busy do what the ticket protocol says. -/
def Obligations.RemoteTraffic : Prop :=
  ∀ (s : State) (k : Nat),
    let without := fun (u : State) => { u with net := { u.net with reqs := removeAt u.net.reqs k } }
    (∀ r u, s.net.reqs[k]? = some r → (ownerArrival r).go s = (.ok (), u) → exec (.remoteRequest k) s = .next (without u)) ∧
    (∀ r x, s.net.reqs[k]? = some r → r.kind = 7 → ctxOf s r.acc.ctx = some x → exec (.remoteRequest k) s =
      .next (without (respond (closeTicketWindow s r.owner r.req r.acc.ctx r.acc.cls) r 0 0 none []))) ∧
    (∀ r x l u, s.net.reqs[k]? = some r → OwnerReady r x l s u →
      let r' : Request := { r with acc := { r.acc with pa := l.pa, target := leafTarget l } }
      (l.allows (reqRight r.kind) = false →
        exec (.remoteRequest k) s = .next (without (respond u r' 3 0 (some .protection) []))) ∧
      (l.allows (reqRight r.kind) = true → (r.kind = 0 ∨ r.kind = 1) → r.acc.kind ≠ .atomic → r.acc.kind ≠ .casSec →
        writeStalls u l.pa r.acc.len = false →
        ∃ v, (performRequest r').go u = (.ok (), v) ∧ exec (.remoteRequest k) s = .next (without v))) ∧
    (∀ a, s.net.resps[k]? = some a → ∃ u,
      (responseArrival a).go { s with net := { s.net with resps := removeAt s.net.resps k } } = (.ok (), u) ∧
      exec (.remoteResponse k) s = .next u) ∧
    (∀ n, s.net.notices[k]? = some n →
      let noted := (List.range 3).foldl (fun s b => updBank s n.req b (noticeBank n))
        { s with net := { s.net with notices := removeAt s.net.notices k } }
      let u := if n.refused = none then updHolds noted n.req n.ctx n.owner n.cls (fun h => some { h with noticed := true }) else noted
      exec (.replayNotice k) s = .next ((coreOf u n.req).streamed.foldl (noticeStreamed n) u)) ∧
    (∀ t, aget (bankOf s (k / 96) (k % 96 / 32)).tickets (k % 32) = some t → t.busy = true →
      exec (.remoteResend k) s = .next (postRequest
        (updBank s (k / 96) (k % 96 / 32) (fun q => { q with tickets := aset q.tickets (k % 32) { t with busy := false } })) false
        (requestOf (k / 96) (k % 96 / 32) (k % 32) t t.replaying (t.replaying && (holdsOf s (k / 96) t.acc.ctx).any
          (fun h => h.owner == t.owner.toNat && h.cls == t.acc.cls && h.finalSent))))) ∧
    (∀ (core : BitVec 8) (b n : Nat) (t : Ticket), let c := core.toNat
      b < 3 → n < 32 → aget (bankOf s c b).tickets n = some t → t.state = 3 → contextRuns s c t.acc.ctx = true →
      let others := (keyEntries s c t.acc.ctx t.owner.toNat t.acc.cls).filter (fun e => e.seq != t.seq)
      (∀ e ∈ others, e.replaying = false ∧ younger t.seq e.seq = false) →
      (∀ e ∈ (bankOf s c b).inflight ++ (bankOf s c b).tickets.map (fun e => e.2.acc), e.id < (seen s t.acc).id →
        stfWaits (seen s e) (seen s t.acc) = false) →
      let closing := if others = [] then
        updHolds s c t.acc.ctx t.owner.toNat t.acc.cls (fun h => some { h with finalSent := true }) else s
      exec (.ticketReplay core (32 * b + n)) s = .next (postRequest
        (updBank closing c b (fun k => { k with tickets := aset k.tickets n { t with state := 1, replaying := true } })) false
        (requestOf c b n t true others.isEmpty))) ∧
    (∀ (core : BitVec 8) (x : Nat) (cls : BitVec 4) (owner : BitVec 2) (h : Hold), let c := core.toNat
      (holdsOf s c x).find? (fun h => h.owner == owner.toNat && h.cls == cls) = some h → h.noticed = true → h.finalSent = false →
      enginesRun s = true → keyEntries s c h.ctx owner.toNat cls = [] → ∃ v, exec (.ticketReplay core (96 + 64 * x + 4 * cls.toNat + owner.toNat)) s = .next v ∧
        v.mem = s.mem ∧ ∃ (r : Request) (rt : BitVec 2), v.net.reqs = s.net.reqs ++ [{ r with route := rt }] ∧ r.kind = 7 ∧ r.final = true ∧ r.req = c ∧
          r.owner = owner.toNat ∧ r.acc.ctx = h.ctx ∧ r.acc.cls = cls) ∧
    (∀ (die : BitVec 2) r, (dieOf s die.toNat).heldStf[k]? = some r → countsReached s r = true →
      r.acc.kind ≠ .atomic → r.acc.kind ≠ .casSec → writeStalls s r.acc.pa r.acc.len = false →
      ∃ u, (performRequest r).go s = (.ok (), u) ∧ exec (.stfHeldPerform die k) s =
        .next (updDie u die.toNat (fun q => { q with heldStf := removeAt q.heldStf k })))

namespace Sys2Proof.Claims

/-- A TLB entry that an invalidation covers (07 R176, Table 5). -/
def TlbCovered (v : Xinv) (e : TlbEntry) : Prop :=
  v.kind = 3 ∨ (e.ctx = v.ctx ∧ (v.kind = 1 ∨ (v.kind = 0 ∧
    e.vpn * 0x10000 / 2 ^ levelShift e.level = v.vpn * 0x10000 / 2 ^ levelShift e.level)))

end Sys2Proof.Claims

/-- 07 R174 to R176, R178, R180, 09 R236: a miss that was raised stops its task; the oldest unwritten descriptor goes to the keeper's ring
and the ring's producer index rises; a page walk sets its bits; an invalidation of each kind ends with the entries it covers gone; a
copy's token is written. That ring indices run free, descriptors are written oldest first, and a walk for a write sets D on a writable
page alone is log 59 (DEDUCED). -/
def Obligations.TranslationEvents : Prop :=
  (∀ (s : State) (core : BitVec 8) (b : Nat), (coreOf s core.toNat).active = some b → (bankOf s core.toNat b).miss.isSome = true →
    (bankOf s core.toNat b).task.isSome = true → commandsRun (bankOf s core.toNat b) = false →
    ∃ u, (finishMiss core.toNat b).go s = (.ok (), u) ∧ exec (.translation core) s = .next u) ∧
  (∀ (s s1 s2 : State) (die : BitVec 2) (k : Desc) (hd : List (BitVec 8)), let d := die.toNat
    (dieOf s d).descs.find? (fun k => !k.written) = some k → shepherdsRun s = true → keeperOn s d = true →
    let x := (dieOf s d).keeperCtx
    let ring := ((dieOf s d).keeper.extractLsb' 6 50).toNat * 64
    let prod := leWord ((hd.drop 8).take 8)
    (devRead x ring 24).go s = (.ok (.ok hd), s1) → (prod - leWord ((hd.drop 16).take 8)).toNat < 256 →
    (devWrite x (ring + 64 + 32 * (prod.toNat % 256)) (descBytes k)).go s1 = (.ok (.ok ()), s2) → ∃ r s3 u,
    (devWriteWord x (ring + 8) (prod + 1)).go s2 = (.ok r, s3) ∧
    (keeperCopy d k.id (leWord (hd.take 8))).go (markWritten s3 d k.id) = (.ok (), u) ∧
    exec (.faultDescriptorWrite die k.id) s = .next u) ∧
  (∀ (s : State) (core : BitVec 8) (va : Word) (write : Bool) (w : Who) (k : Context) (r : Right), whoRuns s core.toNat = some w →
    ctxOf s w.ctx = some k → enginesRun s = true → va.toNat < 2 ^ 56 →
    (walkRights s w.core w.bank w.ctx va.toNat).find? (fun r => r.writes == write) = some r → ∃ a u,
    (translate (some w.core) (w.core / 64) (some (w.core / 64)) w.ctx k va.toNat r).go s = (.ok a, u) ∧
    exec (.pageWalk core va write) s = .next u) ∧
  (∀ (s : State) (die : BitVec 2) (w : Word), (dieOf s die.toNat).xinv = some w →
    let x := xinvOf w
    let scope := fun (n : Nat) => x.package = true ∨ n = die.toNat
    xinvBusy s x (fun n => x.package || n == die.toNat) = false →
    ∃ v, exec (.xinvComplete die) s = .next v ∧ (dieOf v die.toNat).xinv = none ∧ v.mem = s.mem ∧
      (∀ c, scope (c / 64) → (∀ e, e ∈ (coreOf v c).tlb ↔ e ∈ (coreOf s c).tlb ∧ ¬ TlbCovered x e) ∧
        (∀ e, e ∈ (coreOf v c).hatCache ↔ e ∈ (coreOf s c).hatCache ∧ ¬ (x.kind = 3 ∨ (e.1 = x.ctx ∧ x.kind ≠ 0)))) ∧
      (∀ d, scope d → ∀ e, e ∈ (dieOf v d).walkCache ↔ e ∈ (dieOf s d).walkCache ∧
        ¬ (x.kind = 3 ∨ (e.1 = x.ctx ∧ (x.kind = 1 ∨ (x.kind = 0 ∧ e.2.2.1 = x.vpn * 0x10000 / 2 ^ levelShift e.2.1))))) ∧
      (∀ c, ¬ scope (c / 64) → coreOf v c = coreOf s c) ∧ ∀ d, ¬ scope d → dieOf v d = dieOf s d) ∧
  (∀ (s : State) (core : BitVec 8) (k b : Nat) (t : TokenDue), findToken s core.toNat k = some (b, t) →
    ∃ v, exec (.copyTokenWrite core k) s = .next v ∧ v.mem = s.mem ∧ (∀ o ∈ (bankOf v core.toNat b).tokens, o.id ≠ t.id) ∧
      (t.issuer = 0 → regsOf v core.toNat b = (regsOf s core.toNat b).fill t.id ⟨t.value, .derived⟩))

namespace Sys2Proof.Claims

/-- A side core of the running task takes its turn. -/
structure SideTurn (w : Who) (rack : Bool) (s : State) : Prop where
  actor : s.actor = .side w.core rack
  who : whoRuns s w.core = some w
  runs : sideRuns s w rack = true

/-- The side core's registers; x0 reads 0. -/
def side (w : Who) (rack : Bool) (s : State) : Side := sideOf (bankOf s w.core w.bank) rack
def sx (w : Who) (rack : Bool) (s : State) (n : Nat) : Word := if n = 0 then 0 else sget 0 (side w rack s).x n

/-- The state with rd written (x0 takes nothing), the PC `n` bytes on and one more instruction counted. -/
def sideNext (w : Who) (rack : Bool) (n rd : Nat) (v : Word) (s : State) : State :=
  updSide s w.core w.bank rack (fun k =>
    { k with x := if rd = 0 then k.x else sset 0 k.x rd v, pc := k.pc + BitVec.ofNat 64 n, instret := k.instret + 1 })

/-- The side core stops for an exception: HALT is set, its PC held and its registers kept, and the trap waits for its task's next
instruction boundary with the side core, the core and the PC in INFO (09 R242). -/
structure SideHalts (w : Who) (rack : Bool) (t : Trap) (pc : Word) (s v : State) : Prop where
  run : (side w rack v).run = false
  halt : (side w rack v).halt = true
  pc : (side w rack v).pc = pc
  x : (side w rack v).x = (side w rack s).x
  trap : ∃ p, (bankOf v w.core w.bank).pend = (bankOf s w.core w.bank).pend ++ [p] ∧ p.src = .sideCore ∧ p.code = t ∧
    p.info = some (BitVec.ofNat 64 ((side w rack s).pc.toNat % 2 ^ 56 + 2 ^ 62 + (if rack = true then 2 ^ 63 else 0)))
  mem : v.mem = s.mem

/-- `size` bytes of a side core's map that lie in S, in the partition and in a slot of the engines (09 R229, R240). -/
structure SideInS (w : Who) (va size : Nat) (s : State) : Prop where
  window : 0x100000 ≤ va
  inside : va - 0x100000 + size ≤ 2048 * (partOf s w).sn
  owner : (slotOf s w.core ((partOf s w).s0 + (va - 0x100000) / 2048)).owner = true

/-- The trap of an access that the side core's map refuses (09 R229, R240, R242). -/
def SideFaults (w : Who) (va size : Nat) (store : Bool) (t : Trap) (s : State) : Prop :=
  let o := va - 0x100000
  (va % size ≠ 0 ∧ t = .alignment) ∨
  (va % size = 0 ∧ t = .protection ∧
    ((store = true ∧ va + size ≤ 0x8000) ∨
     (0x8000 < va + size ∧ (va < 0x10000 ∨ 0x14000 < va + size) ∧ va < 0x100000) ∨
     (0x100000 ≤ va ∧ 2048 * (partOf s w).sn < o + size))) ∨
  (va % size = 0 ∧ t = .ownerViolation ∧ 0x100000 ≤ va ∧ o + size ≤ 2048 * (partOf s w).sn ∧
    (slotOf s w.core ((partOf s w).s0 + o / 2048)).owner = false)

/-- The ring that rs1 names is enabled, and rs2 names a tile count within its capacity. -/
def RingOk (w : Who) (s : State) (ring count : Word) : Prop :=
  ring.toNat ≤ 7 ∧ ringEn (ringOf s w.core w.bank ring.toNat) = true ∧ 1 ≤ count.toNat ∧
    count.toNat ≤ ringCap (ringOf s w.core w.bank ring.toNat)

/-- The command stands last in its queue, and the recorder notes it with the orderings that now hold (06 R143). -/
def enqueued (w : Who) (sp : CmdSpec) (m : Cmd) (s : State) : State :=
  recHolds w (recCmd (setQueue s w.core w.bank sp.queue (queueOf s w.core w.bank sp.queue ++ [m])) w.task
    (recStream sp.queue m.issuer) m (isSend m.instr))

/-- Feeds of the ring that are in flight (09 R233). -/
def feeding (w : Who) (s : State) (ring : Nat) : Nat :=
  ((queueOf s w.core w.bank 2).filter (fun m => m.started && feedsRing ring m)).length

end Sys2Proof.Claims

/-- 14 R404 to R408: rpush adds tiles to a ring with room; rwait waits for tiles, room or a counter, puts HEAD or the counter into rd, and
its pop advances HEAD; xiss enters a copy command; tkrd reads a token word no command is to write. -/
def Obligations.RingInstructions : Prop :=
  ∀ (w : Who) (rack : Bool) (s : State) (rd rs1 rs2 : BitVec 5), SideTurn w rack s →
    let a := sx w rack s rs1.toNat
    let b := sx w rack s rs2.toNat
    let r := ringOf s w.core w.bank a.toNat
    let head := BitVec.ofNat 64 (ringHead r)
    (RingOk w s a b →
      (ringOcc r + feeding w s a.toNat + b.toNat ≤ ringCap r →
        exec (.rpush rs1 rs2) s = .next (sideNext w rack 4 0 0 (setRing s w.core w.bank a.toNat (ringPushed r b.toNat))) ∧
        exec (.rwaitFree rd rs1 rs2) s = .next (sideNext w rack 4 rd.toNat head s)) ∧
      (b.toNat ≤ ringOcc r →
        exec (.rwaitTiles rd rs1 rs2) s = .next (sideNext w rack 4 rd.toNat head s) ∧
        ∃ v, exec (.rwaitPop rd rs1 rs2) s = .next v ∧ ringOf v w.core w.bank a.toNat = ringPopped r b.toNat ∧
          (side w rack v).pc = (side w rack s).pc + 4 ∧ sx w rack v rd.toNat = (if rd = 0 then 0 else head)) ∧
      (ringOcc r < b.toNat → exec (.rwaitTiles rd rs1 rs2) s = .next s ∧ exec (.rwaitPop rd rs1 rs2) s = .next s)) ∧
    (a.toNat < 64 → counterGranted s w.ctx (w.core / 64) a.toNat = true → b.toNat ≤ (ctrOf s (w.core / 64) a.toNat).toNat →
      exec (.rwaitCounter rd rs1 rs2) s =
        .next (sideNext w rack 4 rd.toNat (BitVec.ofNat 64 (ctrOf s (w.core / 64) a.toNat).toNat) s)) ∧
    (∀ i sp u u1 m, b.extractLsb' 32 32 = 0 → 1 ≤ (a.extractLsb' 26 6).toNat → (a.extractLsb' 26 6).toNat ≤ 9 →
      decodeCommand 2 (b.setWidth 32 ++ a) = .ok i → specOf i = some sp →
      (queueOf s w.core w.bank sp.queue).length < 16 →
      (sp.check w { newCmd i ((regs w s).rm.setWidth 3) (side w rack s).pc (if rack then 2 else 1) false (regs w s).route with
        id := s.nextId }).go { s with nextId := s.nextId + 1 } = (.ok m, u) →
      (raceRanges w (coreOf u w.core).phase m.ranges).go u = (.ok (), u1) → m.starter = false →
      exec (.xiss rs1 rs2) s = .next (sideNext w rack 4 0 0 (enqueued w sp m u1))) ∧
    (a.toNat < 64 →
      (∀ m ∈ queueOf s w.core w.bank 2, namesToken (if rack then 2 else 1) a.toNat m = false) →
      (∀ t ∈ (bankOf s w.core w.bank).tokens, t.issuer ≠ (if rack then 2 else 1) ∨ t.reg ≠ a.toNat) →
      exec (.tkrd rd rs1) s = .next (sideNext w rack 4 rd.toNat
        (leWord (sgetAll 0 (dstoreOf s w.core rack) (0x3E00 + 8 * a.toNat) 8)) s))

/-- 09 R239, R240, R242 and the RISC-V base that R239 names: an instruction that decodes computes on the side core's registers and moves its
PC on or to its target; loads read its instruction store, its data store or S, and stores write its data store or S, with S race-checked;
an access that is misaligned or outside the map, a store to the instruction store, one beyond the partition or to a slot of the control
core, ebreak, and an encoding outside RV64IMC and Zicsr (ecall among them) halt the side core with their trap. The base's own meanings
(divisions, shifts, which CSRs are read, what cycle, time and mhartid read) are log 20 (the model's, from the RISC-V base); the cycle CSR
reads a free value. -/
def Obligations.SideCoreInstructions : Prop :=
  ∀ (w : Who) (rack : Bool) (s : State) (word : BitVec 32), SideTurn w rack s →
    let n := rvLength word
    let x := sx w rack s
    let pc := (side w rack s).pc
    let e := exec (.rv64imcInstruction word) s
    (∀ f w32 rd a b, decodeRv word = some (.alu f w32 rd a b) → e = .next (sideNext w rack n rd (rvAlu f w32 (x a) (x b)) s)) ∧
    (∀ f w32 rd a v, decodeRv word = some (.aluImm f w32 rd a v) → e = .next (sideNext w rack n rd (rvAlu f w32 (x a) v) s)) ∧
    (∀ rd v, decodeRv word = some (.lui rd v) → e = .next (sideNext w rack n rd v s)) ∧
    (∀ rd v, decodeRv word = some (.auipc rd v) → e = .next (sideNext w rack n rd (pc + v) s)) ∧
    (decodeRv word = some .fence → e = .next (sideNext w rack n 0 0 s)) ∧
    (∀ c a b off, decodeRv word = some (.branch c a b off) → ∃ v, e = .next v ∧ (side w rack v).x = (side w rack s).x ∧
      (side w rack v).pc = if rvTaken c (x a) (x b) = true then pc + off else pc + BitVec.ofNat 64 n) ∧
    (∀ rd off, decodeRv word = some (.jal rd off) → ∃ v, e = .next v ∧ (side w rack v).pc = pc + off ∧
      sx w rack v rd = if rd = 0 then 0 else pc + BitVec.ofNat 64 n) ∧
    (∀ rd a off, decodeRv word = some (.jalr rd a off) → ∃ v, e = .next v ∧ (side w rack v).pc = (x a + off) &&& ~~~1 ∧
      sx w rack v rd = if rd = 0 then 0 else pc + BitVec.ofNat 64 n) ∧
    (∀ size sg rd a off, decodeRv word = some (.load size sg rd a off) →
      let va := (x a + off).toNat
      let loaded := fun (bs : List Byte) (u : State) =>
        e = .next (sideNext w rack n rd (if sg = true then sext (8 * size) (leNat bs) else leWord bs) u)
      (va % size = 0 → va + size ≤ 0x8000 → loaded (sgetAll 0 (istoreOf s w.core rack) va size) s) ∧
      (va % size = 0 → 0x10000 ≤ va → va + size ≤ 0x14000 →
        loaded (sgetAll 0 (dstoreOf s w.core rack) (va - 0x10000) size) s) ∧
      (∀ u, va % size = 0 → SideInS w va size s → (raceCheck w 0x102 (coreOf s w.core).phase (va - 0x100000) size false).go s =
        (.ok (), u) → loaded (readS u w.core (partOf u w) (va - 0x100000) size) u) ∧
      (∀ t, SideFaults w va size false t s → ∃ v, e = .next v ∧ SideHalts w rack t pc s v)) ∧
    (∀ size a b off, decodeRv word = some (.store size a b off) →
      let va := (x a + off).toNat
      let bs := leBytes size (x b).toNat
      (va % size = 0 → 0x10000 ≤ va → va + size ≤ 0x14000 →
        e = .next (sideNext w rack n 0 0 (updDstore s w.core rack (fun m => ssetAll 0 m (va - 0x10000) bs)))) ∧
      (∀ u, va % size = 0 → SideInS w va size s → (raceCheck w 0x102 (coreOf s w.core).phase (va - 0x100000) size true).go s =
        (.ok (), u) → e = .next (sideNext w rack n 0 0 (writeS u w.core (partOf u w) (va - 0x100000) bs))) ∧
      (∀ t, SideFaults w va size true t s → ∃ v, e = .next v ∧ SideHalts w rack t pc s v)) ∧
    (∀ rd c, decodeRv word = some (.csr rd c) →
      (c = 0xC00 → e = .next (sideNext w rack n rd (Config.freeValue s.fresh) { s with fresh := s.fresh + 1 })) ∧
      (c = 0xC01 → e = .next (sideNext w rack n rd s.gang.tick s)) ∧
      (c = 0xC02 → e = .next (sideNext w rack n rd (side w rack s).instret s)) ∧
      (c = 0xF14 → e = .next (sideNext w rack n rd (BitVec.ofNat 64 (2 * w.core + (if rack = true then 1 else 0))) s))) ∧
    (decodeRv word = some .ebreak → ∃ v, e = .next v ∧ SideHalts w rack .break_ (pc + BitVec.ofNat 64 n) s v) ∧
    (decodeRv word = none → ∃ v, e = .next v ∧ SideHalts w rack .illegalOpcode pc s v)

namespace Sys2Proof.Claims

/-- A replay stream of the running task takes its turn at an entry that no live program replaces. -/
structure StreamTurn (m : Strm) (s : State) : Prop where
  actor : s.actor = .stream m.w.core m.k
  agent : (streamAgent m.w.core m.k).go s = (.ok m, s)
  replays : m.cur.live = false

/-- The stream has passed its entry. -/
def passed (m : Strm) (s : State) : State :=
  updCursor s m.w (fun q => { q with pos := changeAt (· + 1) q.pos m.k })

end Sys2Proof.Claims

/-- 06 R142, R147, R148, R151, R152, R156: what the entries of a replay stream do. CMD issues its command with the rank of this device; SET
adds to its semaphore once in an iteration; WAIT holds the stream until the count has come; FLIP hands a slot over; MARK starts a region;
END ends the stream; ROUTE takes the next route. -/
def Obligations.StreamEntries : Prop :=
  ∀ (m : Strm) (opnd : BitVec 28) (cmd : BitVec 96) (s : State), StreamTurn m s →
    let n := (opnd.extractLsb' 0 16).toNat
    (∀ s1 c i sp u, (substitute m.w.ctx m.cur m.pos cmd).go s = (.ok (some c), s1) → decodeCommand (streamQueue m.k) c = .ok i →
      specOf i = some sp →
      (dispatchCmd m.w sp { newCmd i (opnd.setWidth 3) 0 (streamIssuer m.k) true m.cur.route with entry := m.pos }).go s1 = (.ok (), u) →
      exec (.streamCmd opnd cmd) s = .next (passed m u)) ∧
    (streamBusy s m = false → m.pos < m.cur.setPos.getD m.k 0 → exec (.streamSet opnd cmd) s = .next (passed m s)) ∧
    (streamBusy s m = false → m.cur.setPos.getD m.k 0 ≤ m.pos → ∀ u, (setSem m.l m.w.task m.cur.body n).go (updCursor (passed m s) m.w
        (fun q => { q with setPos := changeAt (fun _ => m.pos + 1) q.setPos m.k })) = (.ok (), u) →
      exec (.streamSet opnd cmd) s = .next u) ∧
    ((opnd.extractLsb' 16 8).toNat * (m.cur.iter + 1) ≤ semCount s m.l m.cur.body n →
      exec (.streamWait opnd cmd) s = .next (passed m s)) ∧
    (∀ u, semCount s m.l m.cur.body n < (opnd.extractLsb' 16 8).toNat * (m.cur.iter + 1) →
      (countStall m.w.ctx m.cur.body m.pos).go s = (.ok (), u) → exec (.streamWait opnd cmd) s = .next u) ∧
    (∀ u, (flipState m).go s = (.ok .reached, u) →
      let slot := (opnd.extractLsb' 0 8).toNat
      slot < (bankOf u m.w.core m.w.bank).part.sn →
      (opnd.getLsbD 8 = true → exec (.streamFlip opnd cmd) s =
        .next (updCursor (flip u m.w.core m.w.bank slot true) m.w (fun q => { q with pos := q.pos.map (· + 1) }))) ∧
      (opnd.getLsbD 8 = false → ringHolds (bankOf u m.w.core m.w.bank) slot = false →
        slotBusy u m.w.core m.w.bank slot = false → exec (.streamFlip opnd cmd) s =
        .next (updCursor (flip u m.w.core m.w.bank slot false) m.w (fun q => { q with pos := q.pos.map (· + 1) })))) ∧
    (∀ u, (flipState m).go s = (.ok .passed, u) → exec (.streamFlip opnd cmd) s = .next (passed m u)) ∧
    (∀ u, (flipState m).go s = (.ok .before, u) → exec (.streamFlip opnd cmd) s = .next u) ∧
    ((bankOf s m.w.core m.w.bank).tickets = [] → exec (.streamMark opnd cmd) s =
      .next (passed m (updCursor s m.w (fun q => { q with markPos := changeAt (fun _ => m.pos) q.markPos m.k })))) ∧
    ((bankOf s m.w.core m.w.bank).tickets = [] → (changeAt (fun _ => true) m.cur.ended m.k).all id = false →
      exec (.streamEnd opnd cmd) s = .next (updCursor s m.w (fun q => { q with ended := changeAt (fun _ => true) m.cur.ended m.k }))) ∧
    (∀ s1 c, (substitute m.w.ctx m.cur m.pos cmd).go s = (.ok (some c), s1) → exec (.streamRoute opnd cmd) s =
      .next (passed m (updCursor s1 m.w (fun q => { q with route := c.setWidth 64 }))))

/-- 06 R148: a task's guards pass when its objects hash to the recorded value, when no engine it uses is marked, and when every recorded
compare comes out as it did; then its entries may issue, and it may retire. -/
def Obligations.ReplayGuards : Prop :=
  ∀ (s : State) (core : BitVec 8) (g : Guarded) (h : BodyHead) (slots : List (Nat × Option BodyGuard)),
    (guardedTask core.toNat).go s = (.ok g, s) →
    let set := fun (u : State) (f : Cursor → Cursor) => updCursor u g.w f
    (∀ s1 s2 s3 qs hash, g.cur.shapeOk = false → (guardSlots g).go s = (.ok (some (h, slots)), s1) →
      (wholeOf g.w.ctx g.cur).go s1 = (.ok qs, s2) → (shapeHash g.w.ctx (objectsOf qs)).go s2 = (.ok hash, s3) →
      (∀ e ∈ slots, ∃ k, e.2 = some k ∧ 1 ≤ k.kind ∧ k.kind ≤ 3 ∧ (k.kind = 1 → hash = some k.gval)) →
      exec (.guardShape core) s = .next (set s3 (fun q => { q with shapeOk := true }))) ∧
    (∀ s1, g.cur.healthOk = false → (guardSlots g).go s = (.ok (some (h, slots)), s1) →
      (∀ e ∈ slots, ∀ k, e.2 = some k → k.kind = 3 → healthMask s1 g.w.core &&& k.gval.setWidth 3 = 0) →
      exec (.guardHealth core) s = .next (set s1 (fun q => { q with healthOk := true }))) ∧
    (∀ s1 s2, g.cur.branchOk = false → g.cur.live = false → (beforeEnd g).go s = (.ok true, s1) →
      (guardSlots g).go s1 = (.ok (some (h, slots)), s2) → (∀ e ∈ slots, ∀ k, e.2 = some k → k.kind ≠ 2) →
      exec (.guardBranch core) s = .next (set s2 (fun q => { q with branchOk := true }))) ∧
    (∀ s1 s2 s3 n k v, g.cur.branchOk = false → g.cur.live = false → (beforeEnd g).go s = (.ok true, s1) →
      (guardSlots g).go s1 = (.ok (some (h, [(n, some k)])), s2) → k.kind = 2 → (guardValue g k).go s2 = (.ok v, s3) →
      (branchHolds k v = true → exec (.guardBranch core) s = .next (set s3 (fun q => { q with branchOk := true }))) ∧
      (branchHolds k v = false → ∀ u, (guardFailsLate g n k.failPc).go s3 = (.ok (), u) → exec (.guardBranch core) s = .next u))

/-- 03 R79, Table 9: the units that capture a core's time from dispatch to token take a sample when a token is written, those that capture
its ring's occupied tiles take their number as a pop finds it; no other unit changes. The times themselves are free values: the model counts
no cycle (log 19). -/
def Sys2Proof.Claims.MonitoredEvents : Prop :=
  (∀ (s : State) (core : BitVec 8) (k b : Nat) (t : TokenDue), findToken s core.toNat k = some (b, t) →
    ∃ v x, exec (.copyTokenWrite core k) s = .next v ∧ ∀ n, n < 64 →
      (CapturesCore s n 0 core.toNat → Sampled (unitOf s n) x (unitOf v n)) ∧
      (¬ CapturesCore s n 0 core.toNat → unitOf v n = unitOf s n)) ∧
  (∀ (w : Who) (rack : Bool) (s : State) (rd rs1 rs2 : BitVec 5), SideTurn w rack s → w.core < 256 →
    let a := sx w rack s rs1.toNat
    RingOk w s a (sx w rack s rs2.toNat) → (sx w rack s rs2.toNat).toNat ≤ ringOcc (ringOf s w.core w.bank a.toNat) →
    ∃ v, exec (.rwaitPop rd rs1 rs2) s = .next v ∧ ∀ n, n < 64 →
      (CapturesCore s n 3 w.core →
        Sampled (unitOf s n) (BitVec.ofNat 32 (ringOcc (ringOf s w.core w.bank a.toNat))) (unitOf v n)) ∧
      (¬ CapturesCore s n 3 w.core → unitOf v n = unitOf s n))

namespace Sys2Proof.Claims

/-! ### What engine commands compute -/

/-- A started command takes a micro-step in a device that no ECC error has struck; its number is its own in its queue. -/
structure EngineTurn (e : Eng) (i : Instr) (sp : CmdSpec) (s : State) : Prop extends AtEngine e i sp s where
  started : e.cmd.started = true
  mayRun : mayRun s e.w.core e.w.bank e.e e.k e.cmd = true
  sound : s.flaws = []
  alone : ∀ m ∈ queueOf s e.w.core e.w.bank e.e, m.id = e.cmd.id → m = e.cmd

/-- The command after its micro-step stands where it stood. -/
def Becomes (e : Eng) (t : State) (m : Cmd) : Prop := (queueOf t e.w.core e.w.bank e.e)[e.k]? = some m

/-- The command has left its queue. -/
def Gone (e : Eng) (t : State) : Prop := ∀ m ∈ queueOf t e.w.core e.w.bank e.e, m.id ≠ e.cmd.id

/-- Bytes of S in the command's partition, in slots of the engines. -/
def Owned (e : Eng) (s : State) (off n : Nat) : Prop :=
  off + n ≤ 2048 * e.part.sn ∧ ∀ i ∈ slotsOf off n, (slotOf s e.w.core (e.part.s0 + i)).owner = true

/-- The tag of a slot for the command: as it stood when the command first touched the slot (13 R339). -/
def tagOf (e : Eng) (s : State) (i : Nat) : TileTag :=
  (aget e.cmd.tags i).getD ((slotOf s e.w.core (e.part.s0 + i)).fmt, (slotOf s e.w.core (e.part.s0 + i)).geo)

/-- Bytes of a source: owned, in slots of one tag. -/
def Readable (e : Eng) (s : State) (tag : TileTag) (off n : Nat) : Prop :=
  Owned e s off n ∧ ∀ i ∈ slotsOf off n, tagOf e s i = tag

/-- S takes the writes one after another, and no other byte of it changes; the slots that the command writes first take the tag. -/
def Lands (e : Eng) (s t : State) (tag : TileTag) (writes : List (Nat × List Byte)) : Prop :=
  (∀ n, sByte t e.w.core n = sByte (writes.foldl (fun s o => writeS s e.w.core e.part o.1 o.2) s) e.w.core n) ∧
  ∀ o ∈ writes, ∀ i ∈ slotsOf o.1 o.2.length, i ∉ e.cmd.stamped →
    slotOf t e.w.core (e.part.s0 + i) = { owner := true, fmt := tag.1, geo := tag.2 }

/-- An encoding in S. -/
def raw (e : Eng) (s : State) (off n : Nat) : Nat := leNat (readS s e.w.core e.part off n)

/-- The elements of a micro-step from µPC on. -/
def todoOf (e : Eng) (per n : Nat) : List Nat := ((List.range per).map (e.cmd.upc + ·)).filter (· < n)

/-- A vector command maps the elements of its sources to those of D: a micro-step takes 256 bytes of the widest operand, reads them all,
then writes; the last one retires the command (13 R354, R355, Table 12). `value` gives an element's encoding from its number, its place
in D and its sources' encodings. -/
def Maps (i : Instr) (d : Region) (n : Nat) (srcs : List Region) (dest : List TileTag → TileTag) (legal : List TileTag → Bool)
    (value : Eng → List TileTag → Nat → Nat → List Nat → Nat) : Prop :=
  ∀ (e : Eng) (sp : CmdSpec) (s : State), EngineTurn e i sp s →
    let tags := srcs.map (fun r => tagOf e s (r.base / 2048))
    let ops := srcs.zip tags
    let dt := dest tags
    let size := sizeOf' dt.1
    let todo := todoOf e (256 / (tags.foldl (fun m t => Nat.max m (sizeOf' t.1)) size)) n
    let out := todo.map (fun k => (d.at size k, leBytes size (value e tags k (d.at size k)
      (ops.map (fun x => raw e s (x.1.at (sizeOf' x.2.1) k) (sizeOf' x.2.1))))))
    legal tags = true →
    (e.cmd.upc = 0 → ∀ x ∈ ops, x.1.base % sizeOf' x.2.1 = 0 ∧ ((x.1 = d ∧ sizeOf' x.2.1 = size) ∨
      bytesMeet x.1.base (x.1.span (sizeOf' x.2.1) n) d.base (d.span size n) = false)) →
    (∀ k ∈ todo, Owned e s (d.at size k) size ∧ ∀ x ∈ ops, Readable e s x.2 (x.1.at (sizeOf' x.2.1) k) (sizeOf' x.2.1)) →
    ∃ t, exec i s = .next t ∧ t.mem = s.mem ∧ Lands e s t dt out ∧
      (n ≤ e.cmd.upc + todo.length → Gone e t) ∧
      (e.cmd.upc + todo.length < n → ∃ m, Becomes e t m ∧ m.upc = e.cmd.upc + todo.length)

/-- Result(y, F) (13 R358): exact integers wrap, or saturate with X, where every source and F are integers; any other value is rounded
once to F, with the captured mode, at its place in D (10 R264, R265). -/
def resultOf (v : V3Args) (ints : List Int → Int) (nums : Bool → List Machine.Num → Machine.Num) (e : Eng) (tags : List TileTag) (_k off : Nat)
    (raws : List Nat) : Nat :=
  if isInteger v.f && tags.all (fun t => isInteger t.1) then
    let i := ints (List.zipWith (fun t r => widenInt t.1 r) tags raws)
    if v.x then satInt v.f i else (BitVec.ofInt (if v.f = 8 then 32 else 8) i).toNat
  else roundTo v.f (rndAt e.cmd.mode e.key off 0) (nums (e.cmd.mode == 3) (List.zipWith (fun t r => widen t.1 r) tags raws))

/-- F and the sources of a numeric command (13 R356, R358). -/
def numericTags (v : V3Args) (tags : List TileTag) : Bool :=
  isNumeric (v.f, 0) && tags.all isNumeric && (!v.x || tags.all (fun t => isInteger t.1))

def first (xs : List Machine.Num) : Machine.Num := xs.getD 0 .nan
def second (xs : List Machine.Num) : Machine.Num := xs.getD 1 .nan

/-- A numeric command with sources `srcs`. -/
def Computes (mk : V3Args → Instr) (srcs : V3Args → List Region) (ints : List Int → Int) (nums : Bool → List Machine.Num → Machine.Num) : Prop :=
  ∀ v : V3Args, Maps (mk v) (regD v) v.n.toNat (srcs v) (fun _ => (v.f, 0)) (numericTags v) (resultOf v ints nums)

/-- A command of one source whose FP32 result is converted to F (13 R363). -/
def Transcends (mk : V3Args → Instr) (fn : Machine.Num → Machine.Num) : Prop :=
  ∀ v : V3Args, Maps (mk v) (regD v) v.n.toNat [regA v] (fun _ => (v.f, 0)) (numericTags v) (fun e tags _ off raws =>
    let bits := fp32.round (noSr e.cmd.mode) false (fn (widen (tags.getD 0 (0, 0)).1 (raws.getD 0 0)))
    if v.f = 1 then bits else roundTo v.f (rndAt e.cmd.mode e.key off 0) (fp32.value bits))

/-- A lane command on the bits of A and B (13 R359). -/
def Lanes (mk : V3Args → Instr) (op : TileTag → Nat → Nat → Nat → Nat) : Prop :=
  ∀ v : V3Args, Maps (mk v) (regD v) v.n.toNat [regA v, regB v] (fun tags => tags.getD 0 (0, 0))
    (fun tags => tags.all (fun t => isBits t && sizeOf' t.1 == sizeOf' (tags.getD 0 (0, 0)).1))
    (fun _ tags _ _ raws => op (tags.getD 0 (0, 0)) (8 * sizeOf' (tags.getD 0 (0, 0)).1) (raws.getD 0 0) (raws.getD 1 0))

/-- The conditions of v.cmp (13 R360); beside a NaN only ne holds. -/
def holds (c : Nat) (a b : Machine.Num) : Bool :=
  if a.isNan || b.isNan then c == 1
  else match c with
    | 0 => !ltNum a b && !ltNum b a
    | 1 => ltNum a b || ltNum b a
    | 2 => ltNum a b
    | 3 => ltNum a b || !ltNum b a
    | 4 => ltNum b a
    | _ => ltNum b a || !ltNum a b

/-- A reduction: one segment of L elements a micro-step, to one element of D (13 R364). -/
def Reduces (i : Instr) (v : V3Args) (f : BitVec 6) (value : Eng → TileTag → Nat → List Nat → Nat) : Prop :=
  ∀ (e : Eng) (sp : CmdSpec) (s : State), EngineTurn e i sp s →
    let t := tagOf e s (v.a.toNat / 2048)
    let size := sizeOf' t.1
    let l := if v.b.extractLsb' 0 16 = 0 then v.n.toNat else (v.b.extractLsb' 0 16).toNat
    let k := e.cmd.upc
    let place := (regD v).at (sizeOf' f) k
    let elems := (List.range l).map (fun j => (regA v).at size (l * k + j))
    isNumeric t = true → (v.x = true → isInteger t.1 = true) →
    (k = 0 → v.a.toNat % size = 0 ∧
      bytesMeet v.a.toNat ((regA v).span size v.n.toNat) v.d.toNat ((regD v).span (sizeOf' f) (v.n.toNat / l)) = false) →
    (∀ o ∈ elems, Readable e s t o size) → Owned e s place (sizeOf' f) →
    ∃ u, exec i s = .next u ∧ u.mem = s.mem ∧
      Lands e s u (f, 0) [(place, leBytes (sizeOf' f) (value e t place (elems.map (fun o => raw e s o size))))] ∧
      (v.n.toNat / l ≤ k + 1 → Gone e u) ∧ (k + 1 < v.n.toNat / l → ∃ m, Becomes e u m ∧ m.upc = k + 1)

end Sys2Proof.Claims

/-- 13 R357 to R363, 10 R264 to R267: each element of D is the command's function of the same element of its sources, for every format
and any number of elements. -/
def Sys2Proof.Claims.VectorElements : Prop :=
  let two := fun v => [regA v, regB v]
  Computes .vAdd two (fun x => x.getD 0 0 + x.getD 1 0) (fun rdn x => addNum rdn (first x) (second x)) ∧
  Computes .vSub two (fun x => x.getD 0 0 - x.getD 1 0) (fun rdn x => addNum rdn (first x) (second x).negate) ∧
  Computes .vMul two (fun x => x.getD 0 0 * x.getD 1 0) (fun _ x => mulNum (first x) (second x)) ∧
  Computes .vMin two (fun x => min (x.getD 0 0) (x.getD 1 0)) (fun _ x => minNum (first x) (second x)) ∧
  Computes .vMax two (fun x => max (x.getD 0 0) (x.getD 1 0)) (fun _ x => maxNum (first x) (second x)) ∧
  Computes .vFma (fun v => [regA v, regB v, regD v]) (fun x => x.getD 0 0 * x.getD 1 0 + x.getD 2 0)
    (fun rdn x => addNum rdn (mulNum (first x) (second x)) (x.getD 2 .nan)) ∧
  Computes .vAbs (fun v => [regA v]) (fun x => (x.getD 0 0).natAbs) (fun _ x => (first x).abs) ∧
  Computes .vNeg (fun v => [regA v]) (fun x => -(x.getD 0 0)) (fun _ x => (first x).negate) ∧
  (∀ v : V3Args, Maps (.vCvt v) (regD v) v.n.toNat [regA v] (fun _ => (v.f, 0)) (numericTags v) (fun e tags _ off raws =>
    roundTo v.f (rndAt e.cmd.mode e.key off 0) (widen (tags.getD 0 (0, 0)).1 (raws.getD 0 0)))) ∧
  Transcends .vExp2 exp2Num ∧ Transcends .vExp expNum ∧ Transcends .vLog2 log2Num ∧ Transcends .vRcp rcpNum ∧
  Transcends .vRsqrt rsqrtNum ∧ Transcends .vSqrt sqrtNum ∧ Transcends .vTanh tanhNum

/-- 13 R359 to R361, R367, 10 R273: lane operations, compares, selection, moves, v.iota and v.fill. -/
def Sys2Proof.Claims.VectorMoves : Prop :=
  Lanes .vAnd (fun _ _ a b => a &&& b) ∧ Lanes .vOr (fun _ _ a b => a ||| b) ∧ Lanes .vXor (fun _ _ a b => a ^^^ b) ∧
  Lanes .vShl (fun _ w a b => if w ≤ b then 0 else a * 2 ^ b % 2 ^ w) ∧
  Lanes .vShr (fun t w a b => if t.1 = 0 then (if w ≤ b then 0 else a / 2 ^ b)
    else if w ≤ b then (if (BitVec.ofNat w a).msb then 2 ^ w - 1 else 0) else ((BitVec.ofNat w a).sshiftRight b).toNat) ∧
  (∀ v : V3Args, v.f.toNat ≤ 5 → Maps (.vCmp v) (regD v) v.n.toNat [regA v, regB v] (fun tags => tags.getD 0 (0, 0))
    (fun tags => tags.all (fun t => isNumeric t || t == (0, 0))) (fun _ tags _ _ raws =>
      let x := List.zipWith (fun t r => widen t.1 r) tags raws
      if holds v.f.toNat (first x) (second x) then roundTo (tags.getD 0 (0, 0)).1 rne one else 0)) ∧
  (∀ v : V3Args, Maps (.vSel v) (regD v) v.n.toNat [regA v, regB v, regD v] (fun tags => tags.getD 0 (0, 0))
    (fun tags => tags.all (fun t => isMove t && t == tags.getD 0 (0, 0)))
    (fun _ _ _ _ raws => if raws.getD 2 0 ≠ 0 then raws.getD 0 0 else raws.getD 1 0)) ∧
  (∀ v : V3Args, Maps (.vMov v) (regD v) v.n.toNat [regA v] (fun tags => if v.f = 0 then tags.getD 0 (0, 0) else (v.f, 0))
    (fun tags => tags.all isMove && (v.f == 0 || (isMove (v.f, 0) && sizeOf' v.f == sizeOf' (tags.getD 0 (0, 0)).1)))
    (fun _ _ _ _ raws => raws.getD 0 0)) ∧
  (∀ v : V2Args, Maps (.vIota v) ⟨v.d.toNat, v.sd⟩ v.n.toNat [] (fun _ => (v.f, 0)) (fun _ => isNumeric (v.f, 0))
    (fun e _ k off _ => roundTo v.f (rndAt e.cmd.mode e.key off 0) (Machine.Num.ofInt (v.imm.toInt + k)))) ∧
  (∀ v : V2Args, v.x = false → Maps (.vFill v) ⟨v.d.toNat, v.sd⟩ v.n.toNat [] (fun _ => (v.f, 0)) (fun _ => isNumeric (v.f, 0))
    (fun e _ _ off _ => roundTo v.f (rndAt e.cmd.mode e.key off 0) (Machine.Num.ofInt v.imm.toInt)))

/-- 13 R364: a sum is exact and rounded once, integers wrap or saturate; a maximum or minimum is converted to F; v.argmax gives the index
of a segment's first NaN, else the lowest of its largest values, as INT32. -/
def Sys2Proof.Claims.VectorReductions : Prop :=
  ∀ v : V3Args,
    (isNumeric (v.f, 0) = true →
      Reduces (.vRsum v) v v.f (fun e t off raws =>
        if isInteger v.f && isInteger t.1 then
          let i := (raws.map (widenInt t.1)).sum
          if v.x then satInt v.f i else (BitVec.ofInt (if v.f = 8 then 32 else 8) i).toNat
        else roundTo v.f (rndAt e.cmd.mode e.key off 0) (sumNum (e.cmd.mode == 3) (raws.map (widen t.1)))) ∧
      Reduces (.vRmax v) v v.f (fun e t off raws =>
        let x := raws.map (widen t.1)
        roundTo v.f (rndAt e.cmd.mode e.key off 0) (x.foldl maxNum (first x))) ∧
      Reduces (.vRmin v) v v.f (fun e t off raws =>
        let x := raws.map (widen t.1)
        roundTo v.f (rndAt e.cmd.mode e.key off 0) (x.foldl minNum (first x)))) ∧
    Reduces (.vArgmax v) v 8 (fun _ t _ raws => argmaxOf (raws.map (widen t.1)))

namespace Sys2Proof.Claims

/-- A multiply command at its group `g`: its rings are enabled and hold the group, its tiles' slots belong to the engines and carry the
tags of a pair of 13 Table 2, and its lattice, where it names one, can be read. -/
structure MmaTurn (vq : Bool) (m : MmArgs) (e : Eng) (i : Instr) (sp : CmdSpec) (ra rb : Word) (ta tb : TileTag) (s : State) : Prop
    extends EngineTurn e i sp s where
  ringA : ringOf s e.w.core e.w.bank m.ra.toNat = ra
  ringB : ringOf s e.w.core e.w.bank m.rb.toNat = rb
  enabled : ringEn ra = true ∧ ringEn rb = true
  fits : (m.kc.toNat + 31) / 32 ≤ ringCap ra ∧ (m.kc.toNat + 31) / 32 ≤ ringCap rb
  there : e.cmd.upc < ringOcc ra ∧ e.cmd.upc < ringOcc rb
  tagsA : ∀ k < ringTsz ra, tagOf e s (ringSlot ra (ringHead ra + e.cmd.upc) + k) = ta
  tagsB : ∀ k < ringTsz rb, tagOf e s (ringSlot rb (ringHead rb + e.cmd.upc) + k) = tb
  whole : tileSlots ta = ringTsz ra ∧ tileSlots tb = ringTsz rb ∧ 1 ≤ ringTsz ra ∧ 1 ≤ ringTsz rb
  pair : pairOk vq ta tb = true
  lattice : vq = true → Owned e s (2048 * m.ls.toNat) 1024

/-- The value that a K-group gives a word of the accumulator tile: the products of its elements and, but for a first group that begins from
zero, the old value, summed exactly and rounded once to FP32 (13 R343; 10 R269). -/
def accumulated (zero vq : Bool) (m : MmArgs) (e : Eng) (ra rb : Word) (ta tb : TileTag) (s : State) (i j : Nat) : BitVec 32 :=
  let g := e.cmd.upc
  let tile := m.acc.toNat
  let table := if vq = true then readS s e.w.core e.part (2048 * m.ls.toNat) 1024 else []
  let products := (List.range (Nat.min 32 (m.kc.toNat - 32 * g))).map (fun k =>
    mulNum (tileElem s e ta [] (2048 * ringSlot ra (ringHead ra + g)) i k)
      (tileElem s e tb table (2048 * ringSlot rb (ringHead rb + g)) j k))
  let old := fp32.value (readC s e.w.core (e.part.c0 + tile) i j).toNat
  let sum := sumNum (e.cmd.mode == 3) (if zero = true ∧ g = 0 then products else old :: products)
  BitVec.ofNat 32 (fp32.round (rndAt e.cmd.mode e.key (2 ^ 19 + 2 ^ 14 * tile + 128 * i + j) g) false sum)

/-- The FP32 values of a vector of 128 in S; zeros where the form has none. -/
def epiFloats (e : Eng) (s : State) (on : Bool) (off : Nat) : List Machine.Num :=
  if on = true then
    (List.range 128).map (fun j => fp32.value (leNat (((readS s e.w.core e.part off 512).drop (4 * j)).take 4)))
  else List.replicate 128 (.zero false)

/-- The scale and bias vectors of an epilogue can be read. -/
def EpiReads (m : EpArgs) (e : Eng) (s : State) : Prop :=
  (m.sen = true → Readable e s (1, 0) m.scale.toNat 512) ∧ (m.ben = true → Readable e s (1, 0) m.bias.toNat 512)

/-- The values of row `i` of an epilogue's tile through scale, bias and activation (13 R350). -/
def epiRow (m : EpArgs) (e : Eng) (s : State) (i : Nat) : List Machine.Num :=
  (List.range 128).map (fun j =>
    epiValue m (noSr e.cmd.mode) (fp32.value (readC s e.w.core (e.part.c0 + m.acc.toNat) i j).toNat)
      ((epiFloats e s m.sen m.scale.toNat).getD j (.zero false)) ((epiFloats e s m.ben m.bias.toNat).getD j (.zero false)))

/-- Rows of 128 words in S, and of a tile. -/
def rowBytes (e : Eng) (s : State) (tile i : Nat) : List Byte :=
  (List.range 128).flatMap (fun j => leBytes 4 (readC s e.w.core tile i j).toNat)

/-- C outside some words of a tile is as it was. -/
def KeepsC (e : Eng) (s t : State) (tile rows cols : Nat) : Prop :=
  ∀ k i j, i < 128 → j < 128 → (k ≠ tile ∨ rows ≤ i ∨ cols ≤ j) → readC t e.w.core k i j = readC s e.w.core k i j

/-- S is as it was. -/
def KeepsS (e : Eng) (s t : State) : Prop := ∀ n, sByte t e.w.core n = sByte s e.w.core n

end Sys2Proof.Claims

/-- 13 R340 to R344, 10 R269: one K-group of m.mma, m.mmaz, m.mmv and m.mmvz gives each word of ROWS x COLS of the accumulator tile its
sum, and no other word of C, no byte of S or memory; the last group takes the groups' tiles from the rings and retires the command. -/
def Sys2Proof.Claims.MatrixMultiplies : Prop :=
  ∀ zero vq : Bool, ∀ (m : MmArgs) (e : Eng) (sp : CmdSpec) (ra rb : Word) (ta tb : TileTag) (s : State),
    let i : Instr := if vq then (if zero then .mMmvz m else .mMmv m) else (if zero then .mMmaz m else .mMma m)
    MmaTurn vq m e i sp ra rb ta tb s →
    let tile := e.part.c0 + m.acc.toNat
    let groups := (m.kc.toNat + 31) / 32
    ∃ t, exec i s = .next t ∧ t.mem = s.mem ∧ KeepsS e s t ∧
      (m.rows.toNat < 128 → m.cols.toNat < 128 →
        (∀ r ≤ m.rows.toNat, ∀ c ≤ m.cols.toNat, readC t e.w.core tile r c = accumulated zero vq m e ra rb ta tb s r c) ∧
        KeepsC e s t tile (m.rows.toNat + 1) (m.cols.toNat + 1)) ∧
      (e.cmd.upc + 1 < groups → (∃ c, Becomes e t c ∧ c.upc = e.cmd.upc + 1) ∧
        ∀ n, ringOf t e.w.core e.w.bank n = ringOf s e.w.core e.w.bank n) ∧
      (groups ≤ e.cmd.upc + 1 → Gone e t ∧ ringOf t e.w.core e.w.bank m.ra.toNat = ringPopped ra groups ∧
        ringOf t e.w.core e.w.bank m.rb.toNat = ringPopped rb groups)

/-- 13 R346 to R348: m.acopy copies a tile a micro-step, m.aload and m.astore move 16 rows between S and a tile, m.perm gives each column of
eight rows the element its column of Q selects, or zero. -/
def Sys2Proof.Claims.MatrixMoves : Prop :=
  (∀ (acc cnt src : BitVec 6) (e : Eng) (sp : CmdSpec) (s : State), EngineTurn e (.mAcopy acc cnt src) sp s →
    let k := if src.toNat < acc.toNat then cnt.toNat - e.cmd.upc else e.cmd.upc
    ∃ t, exec (.mAcopy acc cnt src) s = .next t ∧ t.mem = s.mem ∧ KeepsS e s t ∧
      (∀ i < 128, ∀ j < 128, readC t e.w.core (e.part.c0 + acc.toNat + k) i j = readC s e.w.core (e.part.c0 + src.toNat + k) i j) ∧
      KeepsC e s t (e.part.c0 + acc.toNat + k) 128 128 ∧ (cnt.toNat + 1 ≤ e.cmd.upc + 1 → Gone e t) ∧
      (e.cmd.upc + 1 < cnt.toNat + 1 → ∃ c, Becomes e t c ∧ c.upc = e.cmd.upc + 1)) ∧
  (∀ (off : BitVec 19) (rows : BitVec 8) (acc : BitVec 6) (e : Eng) (sp : CmdSpec) (s : State), rows.toNat < 128 →
    let todo := todoOf e 16 (rows.toNat + 1)
    let tile := e.part.c0 + acc.toNat
    let ends := fun (t : State) => (rows.toNat + 1 ≤ e.cmd.upc + todo.length → Gone e t) ∧
      (e.cmd.upc + todo.length < rows.toNat + 1 → ∃ c, Becomes e t c ∧ c.upc = e.cmd.upc + todo.length)
    (EngineTurn e (.mAload off rows acc) sp s → (∀ i ∈ todo, Readable e s (1, 0) (off.toNat + 512 * i) 512) →
      ∃ t, exec (.mAload off rows acc) s = .next t ∧ t.mem = s.mem ∧ KeepsS e s t ∧
        (∀ i ∈ todo, ∀ j < 128, readC t e.w.core tile i j = BitVec.ofNat 32
          (leNat (((readS s e.w.core e.part (off.toNat + 512 * i) 512).drop (4 * j)).take 4))) ∧
        (∀ k i j, i < 128 → j < 128 → (k ≠ tile ∨ i ∉ todo) → readC t e.w.core k i j = readC s e.w.core k i j) ∧ ends t) ∧
    (EngineTurn e (.mAstore off rows acc) sp s → (∀ i ∈ todo, Owned e s (off.toNat + 512 * i) 512) →
      ∃ t, exec (.mAstore off rows acc) s = .next t ∧ t.mem = s.mem ∧
        (∀ k i j, readC t e.w.core k i j = readC s e.w.core k i j) ∧
        Lands e s t (1, 0) (todo.map (fun i => (off.toNat + 512 * i, rowBytes e s tile i))) ∧ ends t)) ∧
  (∀ (m : PmArgs) (e : Eng) (sp : CmdSpec) (s : State), EngineTurn e (.mPerm m) sp s →
    let tag := tagOf e s (m.a.toNat / 2048)
    let size := sizeOf' tag.1
    let todo := todoOf e 8 (m.rows.toNat + 1)
    let row := fun (i : Nat) => readS s e.w.core e.part (m.a.toNat + 128 * size * i) (128 * size)
    let out := fun (i : Nat) => (List.range 128).flatMap (fun j =>
      let v := leNat ((e.cmd.block.drop (16 * j)).take 16)
      if v = 0 then List.replicate size (0 : Byte) else ((row i).drop (size * Nat.log2 v)).take size)
    let writes := todo.map (fun i => (m.d.toNat + 128 * size * i, out i))
    tag.2 = 0 → size ≠ 0 →
    (m.d.toNat + 128 * size * (m.rows.toNat + 1) ≤ m.a.toNat ∨ m.a.toNat + 128 * size * (m.rows.toNat + 1) ≤ m.d.toNat) →
    (∀ i ∈ todo, Readable e s tag (m.a.toNat + 128 * size * i) (128 * size)) →
    (∀ o ∈ writes, Owned e s o.1 o.2.length) →
    ∃ t, exec (.mPerm m) s = .next t ∧ t.mem = s.mem ∧ Lands e s t tag writes ∧
      (m.rows.toNat + 1 ≤ e.cmd.upc + todo.length → Gone e t))

/-- 13 R349 to R353, 02 R33, R34: eight rows of an epilogue through scale, bias, activation and conversion, into S or into the image that
m.epi.send sends when it is whole; m.bind installs the descriptor that S holds. -/
def Sys2Proof.Claims.EpilogueResults : Prop :=
  (∀ (m : EpArgs) (e : Eng) (sp : CmdSpec) (s : State), EngineTurn e (.mEpi m) sp s → EpiReads m e s →
    let todo := todoOf e 8 (m.rows.toNat + 1)
    let writes := (todo.flatMap (fun i => epOut e m m.d.toNat i (epiRow m e s i))).map (fun o => (m.d.toNat + o.1, o.2))
    (∀ o ∈ writes, Owned e s o.1 o.2.length) →
    ∃ t, exec (.mEpi m) s = .next t ∧ t.mem = s.mem ∧ Lands e s t (m.f, if m.mx then 1 else 0) writes ∧
      (∀ k i j, readC t e.w.core k i j = readC s e.w.core k i j) ∧
      (m.rows.toNat + 1 ≤ e.cmd.upc + todo.length → Gone e t) ∧
      (e.cmd.upc + todo.length < m.rows.toNat + 1 → ∃ c, Becomes e t c ∧ c.upc = e.cmd.upc + todo.length)) ∧
  (∀ (m : EpArgs) (e : Eng) (sp : CmdSpec) (s : State), EngineTurn e (.mEpiSend m) sp s → EpiReads m e s →
    let r := e.cmd.route
    let slot := (r.extractLsb' 24 8).toNat
    let core := (r.extractLsb' 0 8).toNat
    (e.cmd.phase < m.rows.toNat + 1 →
      let todo := ((List.range 8).map (e.cmd.phase + ·)).filter (· < m.rows.toNat + 1)
      ∃ t c, exec (.mEpiSend m) s = .next t ∧ t.mem = s.mem ∧ KeepsS e s t ∧ Becomes e t c ∧ c.phase = e.cmd.phase + todo.length ∧
        c.buf = layOver (epBytes m) e.cmd.buf (todo.flatMap (fun i => epOut e m (2048 * slot) i (epiRow m e s i)))) ∧
    (m.rows.toNat + 1 ≤ e.cmd.phase → (r.extractLsb' 50 6).toNat = s.gang.gidx.toNat → (dieOf s (core / 64)).held.length < 32 →
      ∃ t rt, exec (.mEpiSend m) s = .next t ∧ t.mem = s.mem ∧ KeepsS e s t ∧ Gone e t ∧
        t.net.arrivals = s.net.arrivals ++ [{
          rsw := false, fromCore := e.w.core, fromBank := e.w.bank, core := core, off := 2048 * slot, bytes := e.cmd.buf,
          tags := List.replicate ((e.cmd.buf.length + 2047) / 2048) (m.f, if m.mx then 1 else 0),
          add := decide (r.extractLsb' 48 2 = 1), ctr := (r.extractLsb' 42 6).toNat, cen := r.getLsbD 41,
          phase := (coreOf s e.w.core).phase, cmd := e.cmd.id, route := rt }])) ∧
  (∀ (off : BitVec 19) (ring : BitVec 3) (e : Eng) (sp : CmdSpec) (s : State), EngineTurn e (.mBind off ring) sp s →
    let v := leWord (readS s e.w.core e.part off.toNat 8)
    (∀ c ∈ queueOf s e.w.core e.w.bank 2, feedsRing ring.toNat c = true → c.started = false ∧ e.cmd.id ≤ c.id) →
    Owned e s off.toNat 8 → bindTrap s e.w.core e.part v = none →
    ∃ t, exec (.mBind off ring) s = .next t ∧ t.mem = s.mem ∧ KeepsS e s t ∧ Gone e t ∧
      ringOf t e.w.core e.w.bank ring.toNat = v &&& 0xFFFFFE00FFFFFFFF ∧
      ∀ n ≠ ring.toNat, ringOf t e.w.core e.w.bank n = ringOf s e.w.core e.w.bank n)

namespace Sys2Proof.Claims

/-- A started copy takes its turn, with no ticket of its queue before it open. -/
structure CopyTurn (e : Eng) (i : Instr) (sp : CmdSpec) (s : State) : Prop extends EngineTurn e i sp s where
  unparked : copyParked (bankOf s e.w.core e.w.bank) e.cmd.id = false

/-- A sector of a page that the core's die walks may be read or written now: no fence, no store past the port and no checkpoint holds it. -/
structure SectorFree (e : Eng) (p : PageMap) (t : Nat) (write : Bool) (s : State) : Prop where
  walked : p.remote = false
  barrier : p.isLocal (e.w.core / 64) = true →
    behindBarrier (e.cmd.cls.getD 0) e.cmd.id (bankOf s e.w.core e.w.bank).inflight = false
  port : portClear s e.w.core e.cmd.id (p.pa + 32 * t % 0x10000) 32 = true
  granule : write = true → writeStalls s (p.pa + 32 * t % 0x10000) 32 = false

/-- What a sector reads: memory, or what its owner has answered. -/
def sectorBytes (e : Eng) (s : State) (p : PageMap) (t : Nat) : Option (List Byte) :=
  if p.remote = true then aget e.cmd.got t else some (readBytes s (p.pa + 32 * t % 0x10000) 32)

/-- A copy reads its cells: a micro-step of 2,048 bytes begins with its buffer, takes the sectors it touches one by one, and each brings
its runs into the buffer; memory and S keep every byte (14 R393; 07 R195). -/
def ReadsCells (i : Instr) (steps : Eng → Nat) (t5 : Eng → Bool) (cells : Eng → List Cell) (empty : Eng → List Byte)
    (ready : Eng → State → Prop) : Prop :=
  ∀ (e : Eng) (sp : CmdSpec) (s : State), CopyTurn e i sp s → e.cmd.upc < steps e →
    (e.cmd.phase = 0 → ready e s → ∃ v, exec i s = .next v ∧ v.mem = s.mem ∧ KeepsS e s v ∧
      Becomes e v { e.cmd with phase := 1, todo := sectorsOf (cells e), buf := empty e }) ∧
    (e.cmd.phase = 1 → e.cmd.todo ≠ [] →
      (∀ t ∈ e.cmd.todo, ∃ p bs, sectorPage e.cmd t false = some p ∧ sectorBytes e s p t = some bs ∧
        (p.remote = false → SectorFree e p t false s)) →
      ∃ v m t p bs, t ∈ e.cmd.todo ∧ sectorPage e.cmd t false = some p ∧ sectorBytes e s p t = some bs ∧
        exec i s = .next v ∧ v.mem = s.mem ∧ KeepsS e s v ∧ Becomes e v m ∧ m.phase = 1 ∧ m.upc = e.cmd.upc ∧
        m.todo = e.cmd.todo.erase t ∧
        m.buf = (runsIn (t5 e) (cells e) t).foldl (fun b r => layAt b r.buf ((bs.drop (r.va - 32 * t)).take r.len)) e.cmd.buf)

/-- A copy writes its cells: each sector of the micro-step takes the bytes, or the T5 digits, of its runs, and no other byte of memory
changes (14 R393). -/
def WritesCells (i : Instr) (steps : Eng → Nat) (t5 : Eng → Bool) (cells : Eng → State → List Cell) (ok : Eng → State → Prop) :
    Prop :=
  ∀ (e : Eng) (sp : CmdSpec) (s : State), CopyTurn e i sp s → e.cmd.upc < steps e → e.cmd.phase = 2 → ok e s →
    (e.cmd.todo ≠ [] → (∀ t ∈ e.cmd.todo, ∃ p, sectorPage e.cmd t true = some p ∧ SectorFree e p t true s) →
      ∃ v t p, t ∈ e.cmd.todo ∧ sectorPage e.cmd t true = some p ∧
        exec i s = .next v ∧ KeepsS e s v ∧ Becomes e v { e.cmd with todo := e.cmd.todo.erase t } ∧
        let pa := p.pa + 32 * t % 0x10000
        let mask := writeMask (t5 e) (cells e s) t e.cmd.buf
        v.mem = (if t5 e = true then writeDigits s pa mask else writeMasked s pa mask).mem) ∧
    (e.cmd.todo = [] → ∃ v, exec i s = .next v ∧ v.mem = s.mem ∧ KeepsS e s v ∧
      Becomes e v { e.cmd with phase := 0, buf := [], upc := e.cmd.upc + 1 })

/-- What the cells of a micro-step put into S from the buffer: their bytes at their places, or five T5 digits a byte. -/
def landed (e : Eng) (j : Job) (base : Nat) (cs : List Cell) : List (Nat × List Byte) :=
  let u := e.cmd.upc
  if j.fmt = 9 then
    [(base + 2048 * u, (List.range (Nat.min 2048 (j.wb * j.count - 2048 * u))).map (fun k => t5Byte ((List.range 5).map (fun d =>
      match cs.find? (fun c => c.at_ == k && c.digit == d) with
      | some c => if c.va.isSome then (t5Digits (e.cmd.buf.getD (5 * k + d) 0)).getD c.memDigit 0 else 0
      | none => 0))))]
  else cs.map (fun c => (cellPlace j base u c, (e.cmd.buf.drop c.at_).take c.len))

/-- A copy into S: with its sectors read, the micro-step's image goes into S, its slots stamped with the window's format and geometry. -/
def LandsInS (i : Instr) (job : Eng → Job) (org : Eng → Origins) (base : Eng → State → Nat) : Prop :=
  ∀ (e : Eng) (sp : CmdSpec) (s : State), CopyTurn e i sp s → e.cmd.upc < (job e).steps → e.cmd.phase = 1 → e.cmd.todo = [] →
    let j := job e
    let writes := landed e j (base e s) (cellsOf j (org e) e.cmd.upc)
    (∀ o ∈ writes, Owned e s o.1 o.2.length) →
    ∃ v m, exec i s = .next v ∧ v.mem = s.mem ∧ Lands e s v (j.fmt, j.geo) writes ∧ Becomes e v m ∧ m.phase = 0 ∧
      m.upc = e.cmd.upc + 1

/-- The command is over: it has left its queue and its token is due, with the value given. -/
def Finishes (e : Eng) (v : State) (value : Word) : Prop :=
  Gone e v ∧ ∃ t ∈ (bankOf v e.w.core e.w.bank).tokens, t.id = e.cmd.id ∧ t.reg = e.cmd.tok ∧ t.issuer = e.cmd.issuer ∧
    t.value = value

/-- After its last micro-step a copy to memory writes 1 to its arrival flag, where it has one, and is over (14 R381, R389). -/
def FlagsAndFinishes (i : Instr) (steps : Eng → Nat) (value : Eng → State → Word) (ok : Eng → State → Prop) : Prop :=
  ∀ (e : Eng) (sp : CmdSpec) (s : State), CopyTurn e i sp s → steps e ≤ e.cmd.upc → ok e s →
    let flag := leNat ((e.cmd.block.drop 0x18).take 8)
    (flag = 0 → ∃ v, exec i s = .next v ∧ v.mem = s.mem ∧ KeepsS e s v ∧ Finishes e v (value e s)) ∧
    (∀ p, flag ≠ 0 → flag % 32 ≤ 24 → sectorPage e.cmd (flag / 32) true = some p → SectorFree e p (flag / 32) true s →
      ∃ v, exec i s = .next v ∧ KeepsS e s v ∧ Finishes e v (value e s) ∧
        v.mem = (writeBytes s (p.pa + 32 * (flag / 32) % 0x10000 + flag % 32) (leBytes 8 1)).mem)

/-- The window of a command, and where it starts. -/
def window (e : Eng) : Job := cmdJob e.cmd 1
def windowOrg (e : Eng) : Origins := oneImage (window e).o (cmdOrigins e.cmd (window e).o)
def windowCells (e : Eng) : List Cell := cellsOf (window e) (windowOrg e) e.cmd.upc

/-- The images of an x.kvg: the slots of its sequence. -/
def gathered (e : Eng) : Job := cmdJob e.cmd (leNat ((e.cmd.block.drop 0x18).take 4))
def gatheredOrg (e : Eng) : Origins :=
  gatherOrigins ((cmdOrigins e.cmd (gathered e).o).take ((gathered e).o.rank - 1)) (leNat ((e.cmd.block.drop 0x14).take 4)) e.cmd.kvLen
    e.cmd.kvPages

/-- The rows of an x.scat, by its index list in S. -/
def scattered (e : Eng) : Job := cmdJob e.cmd (leNat ((e.cmd.block.drop 0x14).take 4))
def listAt (e : Eng) : Nat := leNat ((e.cmd.block.drop 0x10).take 4)
def ListReads (e : Eng) (s : State) : Prop := Owned e s (listAt e) (4 * (scattered e).count)

/-- Fields of x.mcpy: source, destination and length. -/
def mcpyLen (e : Eng) : Nat := leNat ((e.cmd.block.drop 0x10).take 8)
def mcpySource (e : Eng) : List Cell := [mcpyCell (leNat ((e.cmd.block.drop 8).take 8)) (mcpyLen e) e.cmd.upc]
def mcpyTarget (e : Eng) : List Cell := [mcpyCell (leNat (e.cmd.block.take 8)) (mcpyLen e) e.cmd.upc]

/-- A source in S of a copy to memory: its slots carry the window's tag. -/
def SourceTags (e : Eng) (s : State) (j : Job) (base : Nat) : Prop :=
  ∀ k ∈ slotsOf base (j.wb * j.count), (slotOf s e.w.core (e.part.s0 + k)).fmt = j.fmt ∧ (slotOf s e.w.core (e.part.s0 + k)).geo = j.geo

/-- The image of a micro-step as S holds it, in a format other than T5. -/
def lifted (e : Eng) (s : State) (j : Job) (base : Nat) (cs : List Cell) : List Byte :=
  (cs.filter (fun c => c.va.isSome)).foldl (fun b c => layAt b c.at_ (readS s e.w.core e.part (cellPlace j base e.cmd.upc c) c.len))
    (List.replicate 2048 (0 : Byte))

end Sys2Proof.Claims

/-- 14 R381, R384 to R386, R393: what x.ld, x.feed and x.kvg bring from memory into S, and how they end: x.ld's token takes the window's
bytes, x.feed's as well, its tile pushed with all its slots stamped, and x.kvg's the sequence's version and length. -/
def Sys2Proof.Claims.CopiesIntoS : Prop :=
  ∀ x : XoArgs,
    let t5 := fun (e : Eng) => (window e).fmt == 9
    let fill := fun (e : Eng) => fillImage (window e) (windowCells e)
    let ring := fun (e : Eng) (s : State) => ringOf s e.w.core e.w.bank x.ring.toNat
    let ahead := fun (e : Eng) (s : State) => feedsAhead s e.w.core e.w.bank e.k x.ring.toNat
    ReadsCells (.xLd x) (fun e => (window e).steps) t5 windowCells fill (fun _ _ => True) ∧
    LandsInS (.xLd x) window windowOrg (fun _ _ => x.s.toNat) ∧
    (∀ e sp s, CopyTurn e (.xLd x) sp s → (window e).steps ≤ e.cmd.upc →
      ∃ v, exec (.xLd x) s = .next v ∧ v.mem = s.mem ∧ KeepsS e s v ∧ Finishes e v (BitVec.ofNat 64 (window e).wb)) ∧
    ReadsCells (.xFeed x) (fun e => (window e).steps) t5 windowCells fill (fun e s => feedFits (ring e s) e.cmd = true) ∧
    LandsInS (.xFeed x) window windowOrg (fun e s => 2048 * ringSlot (ring e s) (ringTail (ring e s) + ahead e s)) ∧
    (∀ e sp s, CopyTurn e (.xFeed x) sp s → (window e).steps ≤ e.cmd.upc → e.cmd.upc ≠ 0 → ahead e s = 0 →
      ∃ v, exec (.xFeed x) s = .next v ∧ v.mem = s.mem ∧ KeepsS e s v ∧ Finishes e v (BitVec.ofNat 64 (window e).wb) ∧
        ring e v = ringPushed (ring e s) 1 ∧
        ∀ k < ringTsz (ring e s), ringSlot (ring e s) (ringTail (ring e s)) + k ∉ e.cmd.stamped →
          (slotOf v e.w.core (e.part.s0 + (ringSlot (ring e s) (ringTail (ring e s)) + k))).fmt = (window e).fmt ∧
          (slotOf v e.w.core (e.part.s0 + (ringSlot (ring e s) (ringTail (ring e s)) + k))).geo = (window e).geo) ∧
    ReadsCells (.xKvg x) (fun e => (gathered e).steps) (fun e => (gathered e).fmt == 9)
      (fun e => cellsOf (gathered e) (gatheredOrg e) e.cmd.upc)
      (fun e => fillImage (gathered e) (cellsOf (gathered e) (gatheredOrg e) e.cmd.upc)) (fun _ _ => True) ∧
    LandsInS (.xKvg x) gathered gatheredOrg (fun _ _ => x.s.toNat) ∧
    (∀ e sp s, CopyTurn e (.xKvg x) sp s → (gathered e).steps ≤ e.cmd.upc →
      ∃ v, exec (.xKvg x) s = .next v ∧ v.mem = s.mem ∧ KeepsS e s v ∧
        Finishes e v (BitVec.ofNat 64 (e.cmd.kvVer * 2 ^ 32 + e.cmd.kvLen)))

/-- 14 R381, R384, R387 to R389, R393: what x.st, x.fill, x.scat and x.mcpy write to memory, their arrival flag and their tokens: the
bytes written, x.mcpy's its length. -/
def Sys2Proof.Claims.CopiesToMemory : Prop :=
  ∀ x : XoArgs,
    let t5 := fun (e : Eng) => (window e).fmt == 9
    let windowSteps := fun (e : Eng) => (window e).steps
    let rows := fun (e : Eng) (s : State) => cellsOf (scattered e) (scatOrigins s e (scattered e).o) e.cmd.upc
    let pieces := fun (e : Eng) => (mcpyLen e + 2047) / 2048
    WritesCells (.xSt x) windowSteps t5 (fun e _ => windowCells e) (fun _ _ => True) ∧
    (∀ e sp s, CopyTurn e (.xSt x) sp s → e.cmd.upc < (window e).steps → e.cmd.phase = 0 → (window e).fmt ≠ 9 →
      (e.cmd.upc = 0 → SourceTags e s (window e) x.s.toNat) →
      (∀ c ∈ windowCells e, c.va.isSome = true → Owned e s (cellPlace (window e) x.s.toNat e.cmd.upc c) c.len) →
      ∃ v, exec (.xSt x) s = .next v ∧ v.mem = s.mem ∧ KeepsS e s v ∧ Becomes e v { e.cmd with
        phase := 2, todo := sectorsOf (windowCells e), buf := lifted e s (window e) x.s.toNat (windowCells e) }) ∧
    FlagsAndFinishes (.xSt x) windowSteps (fun e _ => writtenBytes (window e) (windowOrg e))
      (fun e s => e.cmd.upc = 0 → e.cmd.phase = 0 → SourceTags e s (window e) x.s.toNat) ∧
    WritesCells (.xFill x) windowSteps t5 (fun e _ => windowCells e) (fun _ _ => True) ∧
    (∀ e sp s, CopyTurn e (.xFill x) sp s → e.cmd.upc < (window e).steps → e.cmd.phase = 0 →
      ∃ v, exec (.xFill x) s = .next v ∧ v.mem = s.mem ∧ KeepsS e s v ∧ Becomes e v { e.cmd with
        phase := 2, todo := sectorsOf (windowCells e), buf := fillImage (window e) (windowCells e) }) ∧
    FlagsAndFinishes (.xFill x) windowSteps (fun e _ => writtenBytes (window e) (windowOrg e)) (fun _ _ => True) ∧
    WritesCells (.xScat x) (fun e => (scattered e).steps) (fun e => (scattered e).fmt == 9) rows ListReads ∧
    (∀ e sp s, CopyTurn e (.xScat x) sp s → e.cmd.upc < (scattered e).steps → e.cmd.phase = 0 → (scattered e).fmt ≠ 9 →
      ListReads e s → (e.cmd.upc = 0 → SourceTags e s (scattered e) x.s.toNat ∧ scatAligned s e (scattered e) = true) →
      (∀ c ∈ rows e s, c.va.isSome = true → Owned e s (cellPlace (scattered e) x.s.toNat e.cmd.upc c) c.len) →
      ∃ v, exec (.xScat x) s = .next v ∧ v.mem = s.mem ∧ KeepsS e s v ∧ Becomes e v { e.cmd with
        phase := 2, todo := sectorsOf (rows e s), buf := lifted e s (scattered e) x.s.toNat (rows e s) }) ∧
    FlagsAndFinishes (.xScat x) (fun e => (scattered e).steps)
      (fun e s => writtenBytes (scattered e) (scatOrigins s e (scattered e).o))
      (fun e s => e.cmd.upc = 0 → e.cmd.phase = 0 →
        SourceTags e s (scattered e) x.s.toNat ∧ scatAligned s e (scattered e) = true) ∧
    ReadsCells (.xMcpy x) pieces (fun _ => false) mcpySource (fun _ => List.replicate 2048 (0 : Byte)) (fun _ _ => True) ∧
    (∀ e sp s, CopyTurn e (.xMcpy x) sp s → e.cmd.upc < pieces e → e.cmd.phase = 1 → e.cmd.todo = [] →
      ∃ v, exec (.xMcpy x) s = .next v ∧ v.mem = s.mem ∧ KeepsS e s v ∧
        Becomes e v { e.cmd with phase := 2, todo := sectorsOf (mcpyTarget e) }) ∧
    WritesCells (.xMcpy x) pieces (fun _ => false) (fun e _ => mcpyTarget e) (fun _ _ => True) ∧
    FlagsAndFinishes (.xMcpy x) pieces (fun e _ => BitVec.ofNat 64 (mcpyLen e)) (fun _ _ => True)

/-- 14 R391: x.rsw reads its image of S, 2,048 bytes a micro-step, and once it is whole sends it to the core its block names, with the tag
of the source slot of each destination slot's bytes, and stays until it is acknowledged. -/
def Sys2Proof.Claims.ImageSent : Prop :=
  ∀ (x : XoArgs) (e : Eng) (sp : CmdSpec) (s : State), CopyTurn e (.xRsw x) sp s →
    let len := leNat (e.cmd.block.take 4)
    let off := leNat ((e.cmd.block.drop 4).take 4)
    let core := leNat ((e.cmd.block.drop 8).take 1)
    let dev := leNat ((e.cmd.block.drop 9).take 1)
    let u := e.cmd.upc
    let n := Nat.min 2048 (len - 2048 * u)
    (e.cmd.phase ≠ 3 → u < (len + 2047) / 2048 → Owned e s (x.s.toNat + 2048 * u) n →
      (u = 0 → ∀ k ∈ slotsOf x.s.toNat len, fmtOk (tagOf e s k).1 (tagOf e s k).2 = true) →
      ∃ v m, exec (.xRsw x) s = .next v ∧ v.mem = s.mem ∧ KeepsS e s v ∧ Becomes e v m ∧ m.upc = u + 1 ∧
        m.buf = e.cmd.buf ++ readS s e.w.core e.part (x.s.toNat + 2048 * u) n) ∧
    (e.cmd.phase ≠ 3 → (len + 2047) / 2048 ≤ u → e.cmd.buf.length = len → dev = s.gang.gidx.toNat →
      ∃ v rt tags, exec (.xRsw x) s = .next v ∧ v.mem = s.mem ∧ KeepsS e s v ∧
        Becomes e v { e.cmd with phase := 3, buf := [] } ∧ tags.length = (slotsOf off len).length ∧
        (∀ k, k < tags.length →
          let slot := off / 2048 + k
          let lo := Nat.max off (2048 * slot) - off
          let hi := Nat.min (off + len) (2048 * slot + 2048) - 1 - off
          let tag := fun (i : Nat) => (aget e.cmd.tags ((x.s.toNat + i) / 2048)).getD (0, 0)
          tags.getD k (0, 0) = tag lo ∨ tags.getD k (0, 0) = tag hi) ∧
        v.net.arrivals = s.net.arrivals ++ [{
          rsw := true, fromCore := e.w.core, fromBank := e.w.bank, core := core, off := off, bytes := e.cmd.buf, tags := tags,
          add := false, ctr := leNat ((e.cmd.block.drop 10).take 1), cen := decide (leNat ((e.cmd.block.drop 11).take 1) = 1),
          phase := (coreOf s e.w.core).phase, cmd := e.cmd.id, route := rt }]) ∧
    (e.cmd.phase = 3 → dev = s.gang.gidx.toNat → e.cmd.starter = false → ∃ n, exec (.xRsw x) s = .next (recHolds e.w { s with fresh := n }))

namespace Sys2Proof.Claims

/-- The guard of a control instruction. -/
def guardField : Instr → Option Guard
  | .nop g | .add g _ _ _ | .sub g _ _ _ | .mul g _ _ _ | .and g _ _ _ | .or g _ _ _ | .xor g _ _ _ | .shl g _ _ _
  | .shrN g _ _ _ | .shrS g _ _ _ | .addImmediate g _ _ _ | .subImmediate g _ _ _ | .mulImmediate g _ _ _
  | .andImmediate g _ _ _ | .orImmediate g _ _ _ | .xorImmediate g _ _ _ | .shlImmediate g _ _ _ | .shrNImmediate g _ _ _
  | .shrSImmediate g _ _ _ | .mulhS g _ _ | .mulhN g _ _ | .divS g _ _ | .divN g _ _ | .remS g _ _ | .remN g _ _ | .minS g _ _
  | .minN g _ _ | .maxS g _ _ | .maxN g _ _ | .andn g _ _ | .not g _ _ | .neg g _ _ | .padd g _ _ _ | .psub g _ _ _
  | .padds g _ _ _ | .psubs g _ _ _ | .pmin g _ _ _ | .pmax g _ _ _ | .pshl g _ _ _ | .pshr g _ _ _ | .clz g _ _ | .ctz g _ _
  | .popc g _ _ | .brev g _ _ | .bswap g _ _ | .extS g _ _ _ _ | .extN g _ _ _ _ | .ins g _ _ _ _ | .mov g _ _ | .li g _ _
  | .lih g _ _ | .cmpEq g _ _ _ | .cmpNe g _ _ _ | .cmpLtS g _ _ _ | .cmpGeS g _ _ _ | .cmpLtN g _ _ _ | .cmpGeN g _ _ _
  | .cmpAny g _ _ _ | .cmpNone g _ _ _ | .cmpi g _ _ _ _ | .pand g _ _ _ | .por g _ _ _ | .pxor g _ _ _ | .pandn g _ _ _
  | .pset g _ | .pclr g _ | .pnot g _ _ | .pmov g _ _ | .rdp g _ | .wrp g _ | .lea g _ _ _ _ _ | .br g _ | .brLong g _
  | .call g _ | .callLong g _ | .jr g _ | .callr g _ | .ret g | .rotw g _ | .loop g _ _ | .loopLong g _ _ | .ldS g _ _ _ _
  | .ldSDisp g _ _ _ _ _ | .ldN g _ _ _ _ | .ldNDisp g _ _ _ _ _ | .st g _ _ _ _ | .stDisp g _ _ _ _ _ | .ldSSpaceS g _ _ _ _
  | .ldSSpaceSDisp g _ _ _ _ _ | .ldNSpaceS g _ _ _ _ | .ldNSpaceSDisp g _ _ _ _ _ | .stSpaceS g _ _ _ _
  | .stSpaceSDisp g _ _ _ _ _ | .ldSec g _ _ _ | .ldSecDisp g _ _ _ _ | .stSec g _ _ _ | .stSecDisp g _ _ _ _ | .ldq g _ _ _ _
  | .ldqDisp g _ _ _ _ _ | .stf g _ _ _ _ | .stfDisp g _ _ _ _ _ | .atomAdd g _ _ _ _ _ _ | .atomAnd g _ _ _ _ _ _
  | .atomOr g _ _ _ _ _ _ | .atomXor g _ _ _ _ _ _ | .atomSwap g _ _ _ _ _ _ | .atomMinS g _ _ _ _ _ _
  | .atomMaxS g _ _ _ _ _ _ | .atomCas g _ _ _ _ _ _ | .casSec g _ _ _ | .casSecDisp g _ _ _ _ | .fence g _ _ | .iflush g _
  | .isync g | .ownT g _ _ | .ownE g _ _ | .tkwait g | .foldSet g _ _ | .foldArr g _ _ | .foldWait g _ _ | .foldAw g _
  | .spawn g _ | .exit g | .exitSucc g _ | .commit g | .wloan g | .yield g | .sysrd g _ _ | .syswr g _ _ | .brk g | .rti g
  | .trap g _ | .syHupDone g _ | .syElogRead g _ | .syCkptCheckpoint g _ | .syCkptRestore g _ | .syKeeper g _
  | .syKnoteResolve g _ | .syKnoteRefuse g _ | .syXinvPage g _ | .syXinvContext g _ | .syXinvHeap g _ | .syXinvAll g _
  | .sySwarea g _ | .sySwload g _ | .syPeelLoadRun g _ _ | .syPeelRun g _ _ | .syPeelStop g _ _ => some g
  | _ => none

/-- A transfer of control, which a recording counts even where it is not taken (06 R148). -/
def isBranch : Instr → Bool
  | .br .. | .brLong .. | .call .. | .callLong .. | .jr .. | .callr .. | .ret .. | .loop .. | .loopLong .. => true
  | _ => false

/-- A source whose data has not come: a register, an age-queue entry or the head of an operand queue that waits. -/
def Pending (r : Regs) (a : Spec) : Prop :=
  (a.toNat < 32 ∧ sget 0 r.gWait (physOf r.rb a.toNat) ≠ 0) ∨
  (32 ≤ a.toNat ∧ a.toNat < 48 ∧ ∃ e, r.h[a.toNat - 32]? = some e ∧ e.wait ≠ 0) ∨
  (48 ≤ a.toNat ∧ a.toNat < 52 ∧ ∃ e rest, sget [] r.q (a.toNat - 48) = e :: rest ∧ e.wait ≠ 0)

/-- The operands that a control instruction reads before all else: a destination that must not wait first, sources in the order they are
read, and a destination that must not wait once they have been read. A destination that is also a source is read first (log 92). -/
structure Operands where
  g : Guard
  first : Option Spec
  sources : List Spec
  last : Option Spec

def operands : Instr → Option Operands
  | .add g d a b | .sub g d a b | .mul g d a b | .and g d a b | .or g d a b | .xor g d a b | .shl g d a b
  | .shrN g d a b | .shrS g d a b | .lea g d a b _ _ => some ⟨g, none, [a, b], some d⟩
  | .addImmediate g d a _ | .subImmediate g d a _ | .mulImmediate g d a _ | .andImmediate g d a _
  | .orImmediate g d a _ | .xorImmediate g d a _ | .shlImmediate g d a _ | .shrNImmediate g d a _
  | .shrSImmediate g d a _ | .not g d a | .neg g d a | .clz g d a | .ctz g d a | .popc g d a | .brev g d a
  | .bswap g d a | .extS g d a _ _ | .extN g d a _ _ | .mov g d a => some ⟨g, none, [a], some d⟩
  | .mulhS g d a | .mulhN g d a | .minS g d a | .minN g d a | .maxS g d a | .maxN g d a | .andn g d a | .padd g d a _
  | .psub g d a _ | .padds g d a _ | .psubs g d a _ | .pmin g d a _ | .pmax g d a _ | .pshl g d a _ | .pshr g d a _
  | .ins g d a _ _ | .divS g d a | .divN g d a | .remS g d a | .remN g d a => some ⟨g, none, [d, a], none⟩
  | .lih g d _ => some ⟨g, none, [d], none⟩
  | .cmpEq g _ a b | .cmpNe g _ a b | .cmpLtS g _ a b | .cmpGeS g _ a b | .cmpLtN g _ a b | .cmpGeN g _ a b
  | .cmpAny g _ a b | .cmpNone g _ a b => some ⟨g, none, [a, b], none⟩
  | .cmpi g _ a _ _ | .wrp g a | .jr g a | .callr g a | .ldq g _ a _ _ | .ldqDisp g _ a _ _ _ | .ldSSpaceS g _ a _ _
  | .ldSSpaceSDisp g _ a _ _ _ | .ldNSpaceS g _ a _ _ | .ldNSpaceSDisp g _ a _ _ _ | .ownT g a _ | .ownE g a _
  | .trap g a => some ⟨g, none, [a], none⟩
  | .st g d a _ _ | .stDisp g d a _ _ _ | .stf g d a _ _ | .stfDisp g d a _ _ _ | .stSpaceS g d a _ _
  | .stSpaceSDisp g d a _ _ _ | .ldSec g d a _ | .ldSecDisp g d a _ _ | .stSec g d a _ | .stSecDisp g d a _ _
  | .casSec g d a _ | .casSecDisp g d a _ _ => some ⟨g, none, [d, a], none⟩
  | .ret g => some ⟨g, none, [31], none⟩
  | .ldS g d a _ _ | .ldSDisp g d a _ _ _ | .ldN g d a _ _ | .ldNDisp g d a _ _ _ => some ⟨g, some d, [a], none⟩
  | .atomAdd g d a b _ _ _ | .atomAnd g d a b _ _ _ | .atomOr g d a b _ _ _ | .atomXor g d a b _ _ _
  | .atomSwap g d a b _ _ _ | .atomMinS g d a b _ _ _ | .atomMaxS g d a b _ _ _ | .atomCas g d a b _ _ _ =>
    some ⟨g, some d, [a, b], none⟩
  | .foldArr g d _ | .li g d _ | .rdp g d => some ⟨g, some d, [], none⟩
  | .loop g cnt _ | .loopLong g cnt _ => some ⟨g, some cnt, [], none⟩
  | _ => none

/-- The registers once sources have been read in order. -/
def readAll (r : Regs) : List Spec → Option Regs
  | [] => some r
  | a :: l =>
    match source r a with
    | some (_, r1) => readAll r1 l
    | none => none

/-- A destination register waits for an access. -/
def DestWaits (r : Regs) (d : Spec) : Prop := d.toNat < 32 ∧ sget 0 r.gWait (physOf r.rb d.toNat) ≠ 0

end Sys2Proof.Claims

/-- 11 R283: a control instruction whose guard fails performs nothing: only the PC moves on. -/
def Sys2Proof.Claims.GuardSquashes : Prop :=
  ∀ (i : Instr) (g : Guard) (w : Who) (s : State), guardField i = some g → Squashed w g s →
    (isBranch i = false → exec i s = .next (withRegs w s (pcOn (regs w s) (encode i).length))) ∧
    (isBranch i = true → ∃ v, exec i s = .next v ∧ Recorded (withRegs w s (pcOn (regs w s) (encode i).length)) v)

/-- 09 R219, R222, R236, 12 R302: an instruction waits at its boundary, with every register as it was, while one of its sources or its
destination is pending; a pop of an empty operand queue raises RESERVED_FIELD. fold.set and fold.wait read A once the fold is seen to be
granted, and spawn once its commit stands. That a destination read as a source comes first, and a load's or atomic's destination is looked
at before its sources, are log 92 (the model's choice). -/
def Sys2Proof.Claims.OperandsWait : Prop :=
  (∀ (w : Who) (i : Instr) (o : Operands) (s : State), operands i = some o → Issues w o.g s →
    let still := exec i s = .next (withRegs w s (regs w s))
    (∀ d, o.first = some d → DestWaits (regs w s) d → still) ∧
    ((∀ d, o.first = some d → d.toNat < 32 ∧ ¬ DestWaits (regs w s) d) →
      (∀ l a m r, o.sources = l ++ a :: m → readAll (regs w s) l = some r →
        (Pending r a → still) ∧
        (48 ≤ a.toNat → a.toNat < 52 → sget [] r.q (a.toNat - 48) = [] →
          exec i s = .next (raiseNow w (encode i).length .reservedField none (withRegs w s (regs w s))))) ∧
      (∀ d r, o.last = some d → readAll (regs w s) o.sources = some r → DestWaits r d → still))) ∧
  (∀ (w : Who) (g : Guard) (a : Spec) (n : BitVec 8) (s : State) (k : Context), Issues w g s → ctxOf s w.ctx = some k →
    maskHas k.foldMask n.toNat = true → Pending (regs w s) a →
    ∀ e ∈ [Instr.foldSet g a n, .foldWait g a n], exec e s = .next (withRegs w s (regs w s))) ∧
  (∀ (w : Who) (g : Guard) (a : Spec) (s u : State), Issues w g s → (commitRegion w false).go s = (.ok (), u) →
    accessesDone (bank w u) = true → Pending (regs w u) a → exec (.spawn g a) s = .next (keepRegs w (regs w s) u))

/-- 11 R276 to R281: where the line at a control core's PC carries an instruction in the slice of the PC and no trap waits there, the
core's turn is that instruction, from the state that the fetch leaves. -/
def Obligations.StepRunsDecoded : Prop :=
  ∀ (s t : State) (c n : Nat) (rest : List Actor) (w : Who) (line : BitVec 256) (i : Instr),
    s.agenda = .control c :: rest → s.pm.st ≠ .off →
    let s' := { s with agenda := rest, actor := .control c, raised := false }
    let pc := enterAt (regs w s').pc
    let u := updBank t w.core w.bank (fun k =>
      { k with mustTgt := false, restartTgt := k.restartTgt && enterAt k.restart.pc != pc, regs := { k.regs with pc := pc } })
    powerFailDue s' c = none → whoRuns s' c = some w → controlRuns s' c w.bank = true → (bank w s').miss = none →
    taskEnds s' w.task = false → (bank w s').checked = false → (bank w s').leaving = false → (bank w s').cursor = none → (fetchLine w (lineAddr pc)).go s' = (.ok line, t) →
    ((bank w s').mustTgt = true → lineTgt line = true) → headerOk line = true → 1 ≤ sliceNum pc →
    queueNibble line (sliceNum pc) ≠ 0xE → queueNibble line (sliceNum pc) ≠ 0xF → decodeSlice line (sliceNum pc) = .ok (i, n) →
    (bank w u).pend = [] → preemptDue w u = false → step s = exec i u

/-- Words written out from the encoding tables of file 11 decode to what they stand for (11 Tables 3 to 5, 7 to 10). -/
def Obligations.DecodedWords : Prop :=
  let g : Guard := ⟨false, false, 0⟩
  let pn : Guard := ⟨true, true, 5⟩
  decodeControl [0b000010_00000000_000100_000101_000110] = .ok (.add g 4 5 6) ∧
  decodeControl [0b000010_11000101_000100_110000_110100] = .ok (.add pn 4 48 52) ∧
  decodeControl [0b001011_00000000_000100_000101_000010] = .ok (.divS g 4 5) ∧
  decodeControl [0b010010_00000000_000010_000100_000101] = .ok (.cmpLtS g 2 4 5) ∧
  decodeControl [0b011101_00000000_000100_000000_000100] = .ok (.rdp g 4) ∧
  decodeControl [0b110000_00000000_110000_000001_0000_11] = .ok (.ldq g 48 1 0 3) ∧
  decodeControl [0b111011_00000000_000100_000000010000] = .ok (.sysrd g 4 0x010) ∧
  decodeControl [0b111111_00000000_000000_000000_000000] = .error .illegalOpcode ∧
  decodeCustom 0b0000001_00010_00001_001_00011_0001011 = .ok (.rwaitFree 3 1 2) ∧
  decodeStreamEntry ((0b0010 : BitVec 4) ++ (0x0020005 : BitVec 28) ++ (0 : BitVec 96)) = some (.streamWait 0x20005 0)

/-- 03 R56, 01 R19: after reset PM_STAT reads IDLE with clock code 17 and the rest 0, CTX_STAT reads result 1, no context and no launch
stands; a PM_CMD write is refused with result 1 and a doorbell is discarded with cause 1. -/
def Obligations.AfterReset : Prop :=
  windowRead State.reset 0x108 8 = 0x1101 ∧ windowRead State.reset 0x18 8 = 0 ∧ windowRead State.reset 0x308 8 = 1 ∧
  (∀ off, 0x200 ≤ off → off < 0x8000 → off ≠ 0x308 → windowRead State.reset off 8 = 0) ∧
  State.reset.ctxs = [] ∧ State.reset.launches = [] ∧ State.reset.tasks = [] ∧ State.reset.cores = [] ∧
  (∀ w : Word, ∃ t, exec (.pmCmdRun w) State.reset = .next t ∧ t.pm.res = 1 ∧ t.pm.busy = false) ∧
  (∀ w : Word, ∃ t, exec (.doorbell w) State.reset = .next t ∧ t.host.dbErr.getLsbD 63 = true ∧ t.host.dbErr.extractLsb' 8 8 = 1)

/-- 01 R15, 04 R96: in OFF the device changes only by a reset; agenda, moving agent, count of free values and the mark of a raised trap are
the model's own (log 1, log 5). -/
def Obligations.OffStays : Prop :=
  ∀ s t : State, s.pm.st = .off → step s = .next t →
    { t with agenda := s.agenda, actor := s.actor, fresh := s.fresh, raised := s.raised } = s ∨
    (t.pm = Power.reset ∧ t.host = HostIf.reset ∧ t.gang = Gang.reset ∧ t.ctxs = [] ∧ t.launches = [] ∧ t.tasks = [] ∧
      t.cores = [] ∧ t.programs = [] ∧ ∀ a, rowOf a = some .holdUp → byteAt t.mem a = byteAt s.mem a)

namespace Sys2Proof.Claims

/-- The control instructions (11 Tables 4 and 5). -/
def isControl : Instr → Bool
  | .nop .. | .add .. | .sub .. | .mul .. | .and .. | .or .. | .xor .. | .shl .. | .shrN .. | .shrS .. | .addImmediate ..
  | .subImmediate .. | .mulImmediate .. | .andImmediate .. | .orImmediate .. | .xorImmediate .. | .shlImmediate ..
  | .shrNImmediate .. | .shrSImmediate .. | .mulhS .. | .mulhN .. | .divS .. | .divN .. | .remS .. | .remN .. | .minS ..
  | .minN .. | .maxS .. | .maxN .. | .andn .. | .not .. | .neg .. | .padd .. | .psub .. | .padds .. | .psubs .. | .pmin ..
  | .pmax .. | .pshl .. | .pshr .. | .clz .. | .ctz .. | .popc .. | .brev .. | .bswap .. | .extS .. | .extN .. | .ins ..
  | .mov .. | .li .. | .lih .. | .cmpEq .. | .cmpNe .. | .cmpLtS .. | .cmpGeS .. | .cmpLtN .. | .cmpGeN .. | .cmpAny ..
  | .cmpNone .. | .cmpi .. | .pand .. | .por .. | .pxor .. | .pandn .. | .pset .. | .pclr .. | .pnot .. | .pmov .. | .rdp ..
  | .wrp .. | .lea .. | .br .. | .brLong .. | .call .. | .callLong .. | .jr .. | .callr .. | .ret .. | .rotw .. | .loop ..
  | .loopLong .. | .ldS .. | .ldSDisp .. | .ldN .. | .ldNDisp .. | .st .. | .stDisp .. | .ldSSpaceS .. | .ldSSpaceSDisp ..
  | .ldNSpaceS .. | .ldNSpaceSDisp .. | .stSpaceS .. | .stSpaceSDisp .. | .ldSec .. | .ldSecDisp .. | .stSec ..
  | .stSecDisp .. | .ldq .. | .ldqDisp .. | .stf .. | .stfDisp .. | .atomAdd .. | .atomAnd .. | .atomOr .. | .atomXor ..
  | .atomSwap .. | .atomMinS .. | .atomMaxS .. | .atomCas .. | .casSec .. | .casSecDisp .. | .fence .. | .iflush ..
  | .isync .. | .ownT .. | .ownE .. | .tkwait .. | .foldSet .. | .foldArr .. | .foldWait .. | .foldAw .. | .spawn ..
  | .exit .. | .exitSucc .. | .commit .. | .wloan .. | .yield .. | .sysrd .. | .syswr .. | .brk .. | .rti .. | .trap .. => true
  | _ => false

/-- The 96 bits and the 128 bits that words make, the first word lowest. -/
def word128 (ws : List (BitVec 32)) : BitVec 128 := ws.getD 3 0 ++ ws.getD 2 0 ++ ws.getD 1 0 ++ ws.getD 0 0

end Sys2Proof.Claims

/-- 11 R281 to R294, 13 R336, 14 R402, R404, 06 R142: every well-formed instruction of the control core, of the engine queues, of step
programs, of replay streams and of the side cores' custom group is what its own words decode to: no bit of any field is dropped. -/
def Obligations.EncodeDecode : Prop :=
  (∀ i : Instr, i.wellFormed = true → isControl i = true → decodeControl (encode i) = .ok i) ∧
  (∀ (i : Instr) (sp : CmdSpec), i.wellFormed = true → specOf i = some sp →
    decodeEngine (sp.queue + 1) (commandBits (encode i)) (encode i).length = .ok i ∧
    decodeCommand sp.queue (commandBits (encode i)) = .ok i) ∧
  (∀ (i : Instr) (t : StepArgs), i.wellFormed = true → stepArgs i = some t → decodeStep (word128 (encode i)) = .ok i) ∧
  (∀ (opnd : BitVec 28) (cmd : BitVec 96),
    ∀ i ∈ [Instr.streamCmd opnd cmd, .streamSet opnd cmd, .streamWait opnd cmd, .streamFlip opnd cmd, .streamMark opnd cmd,
      .streamEnd opnd cmd, .streamRoute opnd cmd], decodeStreamEntry (word128 (encode i)) = some i) ∧
  (∀ rd rs1 rs2 : BitVec 5, ∀ i ∈ [Instr.rpush rs1 rs2, .rwaitTiles rd rs1 rs2, .rwaitFree rd rs1 rs2, .rwaitCounter rd rs1 rs2,
    .rwaitPop rd rs1 rs2, .xiss rs1 rs2, .tkrd rd rs1], ∃ x, encode i = [x] ∧ decodeCustom x = .ok i ∧ decodeSide x = .ok i)

/-! ### The parts joined -/

/-- 12 R303, 12 R304, 09 R219, 09 R220, 09 R221: Every two-source, immediate and two-operand arithmetic instruction of groups
0x02 to 0x0A, 0x0E and the non-dividing part of 0x0B writes its result mod 2^64 to D, pushes it, moves the PC on by its slices
and changes nothing else, for every operand form. -/
def Obligations.ArithmeticResults : Prop := Sys2Proof.Claims.AluTwoSources ∧ Sys2Proof.Claims.AluImmediate ∧ Sys2Proof.Claims.AluDestination

/-- 12 R304, 12 R305, 10 R273: A division by a divisor other than zero truncates and its remainder has the dividend's sign; a
divisor of zero raises DIVIDE with the task's registers as they were; packed operations compute each lane from the same lanes.
-/
def Obligations.DivideAndLanes : Prop := Sys2Proof.Claims.DivideCompletes ∧ Sys2Proof.Claims.DivideByZero ∧ Sys2Proof.Claims.PackedLanes

/-- 12 R309, 12 R310, 11 R287: A compare or predicate instruction sets exactly the predicate its field names; rdp and wrp move
all 64; compares push nothing. -/
def Obligations.ComparesAndPredicates : Prop := Sys2Proof.Claims.Compares ∧ Sys2Proof.Claims.CompareImmediate ∧ Sys2Proof.Claims.Predicates ∧ Sys2Proof.Claims.PredicateWords

/-- 12 R311, 12 R312, 11 R280, 09 R221: A transfer to a line that can be fetched and carries TGT goes to its slice 1, call and
callr with the next line's address in g31; fetching a line keeps the registers, queues and predicates. -/
def Obligations.TransfersOfControl : Prop := Sys2Proof.Claims.FetchKeeps ∧ Sys2Proof.Claims.RelativeTransfers ∧ Sys2Proof.Claims.RegisterTransfers

/-- 12 R311, 12 R312, 12 R314, 11 R280: A transfer, a loop that goes on among them, to an address that is no line address raises
ALIGNMENT, one to a line without TGT ILLEGAL_LINE, precisely, with g31 and every other register as it was. -/
def Obligations.TransferTraps : Prop := Sys2Proof.Claims.RelativeTraps ∧ Sys2Proof.Claims.RegisterTraps

/-- 12 R313, 12 R314, 12 R334: loop with a count of 2 or more writes the count less one, rotates the base down and transfers;
below 2 it writes 0 and falls through; rotw sets RB and nop only moves the PC on. -/
def Obligations.LoopsAndRotation : Prop := Sys2Proof.Claims.LoopCounts ∧ Sys2Proof.Claims.RotateAndNop

/-- 09 R244, 12 R334: brk and trap enter the handler at SY_EVEC with BREAK, the next instruction as resume point and depth 1;
rti restores the PC of its depth and lowers the depth, and at depth 0 raises ILLEGAL_OPCODE. -/
def Obligations.HandlerEntryAndReturn : Prop := Sys2Proof.Claims.BreakEntersHandler ∧ Sys2Proof.Claims.ReturnFromHandler

/-- 09 R244, 03 R69, 03 R70, 12 R334: Without a handler brk writes a fault record (code 0x11, launch TAG, work identifier, PC)
to its context's queue and the task goes on, in a handler it only goes on; trap then ends the task with code 0x11 and INFO A.
The order of an end's effects is the model's (log 24). -/
def Obligations.BreakWithoutHandler : Prop := Sys2Proof.Claims.BreakElsewhere ∧ Sys2Proof.Claims.TrapEndsTask

/-- 12 R315, 12 R317, 09 R227, 09 R229: A load from S reads its little-endian bytes, extended as the form says; a store to S
writes its bytes and no other byte of S; both keep memory and the other registers. -/
def Obligations.ScratchAccesses : Prop := Sys2Proof.Claims.ScratchLoads ∧ Sys2Proof.Claims.ScratchStores

/-- 12 R316, 12 R320, 09 R222, 09 R236: A load of memory leaves its destination and its age-queue place pending on an access in
flight to the translated address; ldq reserves a tail entry of its queue. -/
def Obligations.LoadsIssue : Prop := Sys2Proof.Claims.MemoryLoads ∧ Sys2Proof.Claims.QueueLoads

/-- 12 R318, 12 R319, 12 R321, 12 R323, 05 R115: st and stf put their bytes, one entry for each sector, into the region's store
buffer; ld.sec issues a load of a sector to S, st.sec buffers 32 bytes of S, and cas.sec puts its compare-and-swap in flight. -/
def Obligations.StoresIssue : Prop := Sys2Proof.Claims.MemoryStores ∧ Sys2Proof.Claims.SectorAccesses

/-- 12 R322, 12 R324, 05 R115: An atomic puts the accesses of its operation, size, address and operands in flight, with D
pending on its old value. -/
def Obligations.AtomicsAreIssued : Prop := Sys2Proof.Claims.AtomicsIssue ∧ Sys2Proof.Claims.CompareAndSwapIssues

/-- 12 R316, 12 R318, 12 R319, 12 R322, 12 R323, 08 R203, 06 R158, 06 R159: The data of a load, piece by piece, fill every
register, queue entry and byte of S that waits on it; a store writes exactly its bytes at home; an atomic whose turn it is
writes its result and answers the old value; a sector compare-and-swap compares 32 bytes, swaps them where they are equal, and
brings the old ones to S. -/
def Obligations.AccessesPerform : Prop := Sys2Proof.Claims.LoadDataArrives ∧ Sys2Proof.Claims.StorePerforms ∧ Sys2Proof.Claims.AtomicPerforms ∧ Sys2Proof.Claims.SectorSwapPerforms

/-- 12 R325, 12 R326, 12 R327, 12 R328, 08 R203, 08 R204, 08 R216, 09 R229: A fence completes once the accesses it covers have
performed, an instruction flush empties the caches of its scope, isync and tkwait complete at once when nothing is outstanding;
a slot passes to the engines, or to the thread once no queued command touches it. -/
def Obligations.FencesAndOwners : Prop := Sys2Proof.Claims.FencesComplete ∧ Sys2Proof.Claims.LinesFlushed ∧ Sys2Proof.Claims.OwnerFlips

/-- 12 R329, 05 R131, 05 R132, 05 R133: fold.set makes the mask that takes effect for the next generation; an arrival is
counted, the last one starts a new generation; a wait holds the task until the generation has passed. -/
def Obligations.FoldOperations : Prop := Sys2Proof.Claims.FoldMaskSet ∧ Sys2Proof.Claims.FoldArrival ∧ Sys2Proof.Claims.FoldWaits

/-- 13 R340, 13 R343, 13 R344, 13 R346, 13 R347, 13 R348, 13 R350, 13 R351, 13 R352, 13 R353, 10 R269, 02 R33: A K-group of a
multiply gives each word of ROWS x COLS of the accumulator tile its sum, rounded once; m.acopy, m.aload, m.astore and m.perm
move tiles and rows; an epilogue converts eight rows into S or into the image that m.epi.send sends; m.bind installs a ring;
nothing else of S, C or memory changes. -/
def Obligations.MatrixResults : Prop := Sys2Proof.Claims.MatrixMultiplies ∧ Sys2Proof.Claims.MatrixMoves ∧ Sys2Proof.Claims.EpilogueResults

/-- 05 R128, 05 R129, 12 R330: exit retires the task once nothing of it is outstanding and returns its weight; exit.succ starts
its successor with the task's weight. -/
def Obligations.ExitForms : Prop := Sys2Proof.Claims.ExitRetires ∧ Sys2Proof.Claims.ExitSuccContinues

/-- 05 R126, 05 R116, 05 R125, 12 R330: spawn gives its child half of the task's weight, and the child becomes ready with its
record; wloan adds a loan to the task's weight and the launch's count; yield leaves the core or goes on, as the shepherd has it.
-/
def Obligations.SpawnLoansAndYields : Prop := Sys2Proof.Claims.SpawnHalvesWeight ∧ Sys2Proof.Claims.WeightLoan ∧ Sys2Proof.Claims.YieldChooses

/-- 12 R332, 12 R333, 09 R238, 09 R244: sysrd puts the value of the SY register it names into D; a read of the error log removes
the entry it answers. -/
def Obligations.SystemRegisterReads : Prop := Sys2Proof.Claims.SystemReads ∧ Sys2Proof.Claims.ErrorLogRead

/-- 07 R176, 07 R179, 07 R181, 07 R182, 09 R249, 09 R250, 12 R333: A keeper context's writes make it the die's keeper, resolve
or refuse a descriptor, or start an invalidation; another context raises PRIVILEGE, as it does for SY_SWAREA and SY_SWLOAD. -/
def Obligations.KeeperRegisters : Prop := Sys2Proof.Claims.KeeperWrite ∧ Sys2Proof.Claims.KeeperPrivilege ∧ Sys2Proof.Claims.KeeperNote ∧ Sys2Proof.Claims.InvalidationStarts

/-- 09 R238, 09 R249, 09 R250, 12 R333: SY_SWAREA takes its value while no position is occupied; SY_SWLOAD takes a saved block;
a write of SY_DERR clears the bits that are 1 in it. -/
def Obligations.SwitchRegisters : Prop := Sys2Proof.Claims.SwitchArea ∧ Sys2Proof.Claims.SwitchLoad ∧ Sys2Proof.Claims.DataErrorCleared

/-- 14 R381, 14 R384, 14 R385, 14 R386, 14 R387, 14 R388, 14 R389, 14 R391, 14 R393, 07 R195: A copy's micro-step reads or
writes one sector of its cells at a time; x.ld, x.feed and x.kvg bring their windows into S with their slots stamped, x.st,
x.fill, x.scat and x.mcpy write their bytes to memory and then their flag, x.rsw sends its image of S; each ends with its token
due. -/
def Obligations.CopyResults : Prop := Sys2Proof.Claims.CopiesIntoS ∧ Sys2Proof.Claims.CopiesToMemory ∧ Sys2Proof.Claims.ImageSent

/-- 04 R84, 04 R85, 04 R86, 04 R98, 04 R101, 04 R104, 12 R333: In a finalisation window SY_HUP with DONE freezes the task's
state for the save; a write of SY_CKPT with GO starts a checkpoint or a restore, or is refused while one runs; after supply loss
it ends with RES 4, which is the model's reading (log 93); a checkpoint's write completes once its granules are marked. -/
def Obligations.HoldUpAndCheckpointRegisters : Prop := Sys2Proof.Claims.WindowDone ∧ Sys2Proof.Claims.CheckpointStarts ∧ Sys2Proof.Claims.CheckpointMarked

/-- 13 R336, 09 R218, 09 R219, 12 R302: An engine command (every M_, V_, X_ and L_ row of the table and GKV_APP) whose checks
pass enters its queue behind the others and the control core goes on; with 16 commands there it waits. -/
def Obligations.CommandsDispatch : Prop := Sys2Proof.Claims.CommandsEnterQueues ∧ Sys2Proof.Claims.FullQueueWaits

/-- 13 R337, 13 R338, 09 R234, 09 R237: A command starts when the range checker lets it; each turn of its engine is one
micro-step, after the last of which it leaves its queue; a trap halts it and waits for the task's boundary. -/
def Obligations.CommandsRun : Prop := Sys2Proof.Claims.MicroSteps ∧ Sys2Proof.Claims.CommandsStart

/-- 13 R357, 13 R358, 13 R359, 13 R360, 13 R361, 13 R363, 13 R364, 13 R367, 10 R264, 10 R265, 10 R267, 10 R273: Each element of
D is the command's function of its sources' elements, in every format: arithmetic rounded once or on exact integers,
conversions, transcendentals, lane operations, compares, selections, moves, v.iota and v.fill; a reduction gives one element for
each segment; only D and its slots' tags change. -/
def Obligations.VectorResults : Prop := Sys2Proof.Claims.VectorIntegers ∧ Sys2Proof.Claims.VectorElements ∧ Sys2Proof.Claims.VectorMoves ∧ Sys2Proof.Claims.VectorReductions

/-- 14 R390, 14 R399, 14 R400, 02 R30, 13 R347: The counter commands set, add to or chain counters of the die; m.azero fills one
tile a micro-step; x.pref only leaves its queue. -/
def Obligations.CountersAndTiles : Prop := Sys2Proof.Claims.CounterCommands ∧ Sys2Proof.Claims.AccumulatorZero ∧ Sys2Proof.Claims.PrefetchNothing

/-- 01 R15, 01 R17, 01 R22, 04 R83, 04 R84, 04 R86, 04 R93, 04 R96: A transition completes with result 0; a trip abandons it
with result 4; supply loss runs the windows, the quiesce, the save and ends in SPENT or OFF. -/
def Obligations.PowerAndHoldUp : Prop := Sys2Proof.Claims.PowerTransitions ∧ Sys2Proof.Claims.HoldUpSequence

/-- 03 R56, 03 R57, 01 R14, 01 R19, 06 R156: Each reset gives the state after reset and keeps the hold-up store; configuration
ends with its verdict and, accepted, in IDLE with clock code 17; the links give the device its place and tick. -/
def Obligations.ResetAndConfiguration : Prop := Sys2Proof.Claims.ResetEffects ∧ Sys2Proof.Claims.Configuration

/-- 03 R53, 03 R77, 03 R78, 07 R164: Decoders enable, drain and read as disabled; a registration is armed, sampled, fires,
releases its task and re-arms; a window write is the event its address names. -/
def Obligations.WindowAndThresholds : Prop := Sys2Proof.Claims.WindowRegisters ∧ Sys2Proof.Claims.ThresholdSampling

/-- 03 R79, 03 R80, 00 R3: A capturing unit takes a sample into minimum, maximum, count and the bin that MODE, BASE and SHIFT
choose; tokens and occupied ring tiles are captured at their events; a reserved write is ignored, and one with EN 0 drops its
reserved bits (the model's reading, log 19); CLR clears before capture. -/
def Obligations.MonitorUnits : Prop := Sys2Proof.Claims.MonitorRegisters ∧ Sys2Proof.Claims.MonitoredEvents

/-- 09 R242, 09 R245, 13 R337, 02 R42, 03 R69: The pending trap that comes first is delivered at the boundary; BREAK enters a
handler at depth 0; a side core whose fetch fails halts and leaves its trap there. -/
def Obligations.BoundaryTraps : Prop := Sys2Proof.Claims.TrapsDelivered ∧ Sys2Proof.Claims.SideCoreFetchFails

/-- 02 R23, 02 R26, 02 R38, 02 R42, 14 R396: The collective at its queue's head starts with the fold's next sequence number; a
matched one that is done ends with its record and counter, a failed one with its trap. -/
def Obligations.CollectivePrograms : Prop := Sys2Proof.Claims.CollectivesStart ∧ Sys2Proof.Claims.CollectivesComplete

/-- 02 R34, 14 R391, 06 R160: An image lands where its slots belong to the engines, bytes and tags and counter, is held
otherwise, or is refused to its sender beyond the partition. -/
def Obligations.ImagesOfOtherCores : Prop := Sys2Proof.Claims.ImagesArrive ∧ Sys2Proof.Claims.ImageBytes

/-- 11 R283, 09 R219, 09 R222, 09 R236, 12 R302: A control instruction whose guard fails only moves the PC on; one whose source
or destination is pending waits with every register as it was; a pop of an empty queue raises RESERVED_FIELD. -/
def Obligations.GuardsAndOperands : Prop := Sys2Proof.Claims.GuardSquashes ∧ Sys2Proof.Claims.OperandsWait
end

