-- ==== Sys2Proof/Laws/Act.lean ====
section
/-!
SUPPORT. What running an action answers, by the form of the action.
-/

namespace Sys2Proof.Machine

variable {α β : Type}

@[simp] theorem go_pure (a : α) (s : State) : Act.go (pure a : Act α) s = (.ok a, s) := rfl

theorem go_bind (m : Act α) (f : α → Act β) (s : State) :
    Act.go (m >>= f) s = match m.go s with
      | (.ok a, t) => (f a).go t
      | (.error e, t) => (.error e, t) := by
  simp only [Act.go, ExceptT.run_bind, StateT.run_bind]
  rcases (ExceptT.run m).run s with ⟨a | a, t⟩ <;> rfl

theorem go_map (f : α → β) (m : Act α) (s : State) :
    Act.go (f <$> m) s = match m.go s with
      | (.ok a, t) => (.ok (f a), t)
      | (.error e, t) => (.error e, t) := by
  rw [map_eq_pure_bind, go_bind]
  rfl

/-- An action after one that answers. -/
theorem go_bind_ok {m : Act α} {s t : State} {a : α} (h : m.go s = (.ok a, t)) (f : α → Act β) :
    Act.go (m >>= f) s = (f a).go t := by
  rw [go_bind, h]

/-- An action after one that stops. -/
theorem go_bind_error {m : Act α} {s t : State} {e : Stop} (h : m.go s = (.error e, t)) (f : α → Act β) :
    Act.go (m >>= f) s = (.error e, t) := by
  rw [go_bind, h]

@[simp] theorem go_throw (e : Stop) (s : State) : Act.go (throw e : Act α) s = (.error e, s) := rfl
@[simp] theorem go_state (s : State) : Act.go state s = (.ok s, s) := rfl
@[simp] theorem go_change (f : State → State) (s : State) : Act.go (change f) s = (.ok (), f s) := rfl
@[simp] theorem go_trap (c : Trap) (i : Word) (s : State) : Act.go (trap c i : Act α) s = (.error (.trap c (some i)), s) := rfl
@[simp] theorem go_trapOpen (c : Trap) (s : State) : Act.go (trapOpen c : Act α) s = (.error (.trap c none), s) := rfl
@[simp] theorem go_waitHere (s : State) : Act.go (waitHere : Act α) s = (.error .wait, s) := rfl
@[simp] theorem go_cannot (w : String) (s : State) : Act.go (cannot w : Act α) s = (.error (.cannot w), s) := rfl

@[simp] theorem go_require (ok : Bool) (c : Trap) (i : Word) (s : State) :
    Act.go (require ok c i) s = if ok then (.ok (), s) else (.error (.trap c (some i)), s) := by
  cases ok <;> rfl

@[simp] theorem go_requireOpen (ok : Bool) (c : Trap) (s : State) :
    Act.go (requireOpen ok c) s = if ok then (.ok (), s) else (.error (.trap c none), s) := by
  cases ok <;> rfl

@[simp] theorem go_waitUntil (ok : Bool) (s : State) :
    Act.go (waitUntil ok) s = if ok then (.ok (), s) else (.error .wait, s) := by
  cases ok <;> rfl

@[simp] theorem go_needs (ok : Bool) (w : String) (s : State) :
    Act.go (needs ok w) s = if ok then (.ok (), s) else (.error (.cannot w), s) := by
  cases ok <;> rfl

@[simp] theorem go_need_some (a : α) (w : String) (s : State) : Act.go (need (some a) w) s = (.ok a, s) := rfl
@[simp] theorem go_need_none (w : String) (s : State) : Act.go (need (none : Option α) w) s = (.error (.cannot w), s) := rfl

@[simp] theorem go_draw (s : State) : Act.go draw s = (.ok s.fresh, { s with fresh := s.fresh + 1 }) := rfl
@[simp] theorem go_drawWord (s : State) :
    Act.go drawWord s = (.ok (Config.freeValue s.fresh), { s with fresh := s.fresh + 1 }) := rfl
@[simp] theorem go_drawBool (s : State) :
    Act.go drawBool s = (.ok (Config.freeBool s.fresh), { s with fresh := s.fresh + 1 }) := rfl
@[simp] theorem go_drawIndex (n : Nat) (s : State) :
    Act.go (drawIndex n) s = (.ok (Config.freeIndex s.fresh % n), { s with fresh := s.fresh + 1 }) := rfl
@[simp] theorem go_newId (s : State) : Act.go newId s = (.ok s.nextId, { s with nextId := s.nextId + 1 }) := rfl

/-- An action that answers goes on. -/
theorem asStep_ok {m : Act Unit} {s t : State} (h : m.go s = (.ok (), t)) : asStep m s = .next t := by
  simp [asStep, h]

/-- An action that waits goes on, at its boundary. -/
theorem asStep_wait {m : Act Unit} {s t : State} (h : m.go s = (.error .wait, t)) : asStep m s = .next t := by
  simp [asStep, h]

end Sys2Proof.Machine
end

