-- ==== Sys2Proof/Laws/Answers.lean ====
section
/-!
SUPPORT. Actions that always answer: the device's own accesses, its records, the start and the end of tasks and launches never stop.
-/

namespace Sys2Proof.Machine

variable {α β : Type}

/-- The action answers in every state. -/
def Answers (m : Act α) : Prop := ∀ s, ∃ x t, m.go s = (.ok x, t)

theorem Answers.bind {m : Act α} {f : α → Act β} (h : Answers m) (k : ∀ a, Answers (f a)) : Answers (m >>= f) := by
  intro s
  obtain ⟨x, t, e⟩ := h s
  rw [go_bind_ok e]
  exact k x t

theorem Answers.pure (a : α) : Answers (Pure.pure a : Act α) := fun s => ⟨a, s, rfl⟩
theorem Answers.state : Answers state := fun s => ⟨s, s, rfl⟩
theorem Answers.set (t : State) : Answers (MonadStateOf.set t : Act PUnit) := fun _ => ⟨_, t, rfl⟩
theorem Answers.change (f : State → State) : Answers (change f) := fun s => ⟨(), f s, rfl⟩
theorem Answers.drawWord : Answers drawWord := fun _ => ⟨_, _, rfl⟩
theorem Answers.drawBool : Answers drawBool := fun _ => ⟨_, _, rfl⟩
theorem Answers.drawIndex (n : Nat) : Answers (drawIndex n) := fun _ => ⟨_, _, rfl⟩
theorem Answers.newId : Answers newId := fun _ => ⟨_, _, rfl⟩

/-- A loop over a list answers where its body does. -/
theorem Answers.forIn {σ : Type} (l : List α) (f : α → σ → Act (ForInStep σ)) (h : ∀ a b, Answers (f a b)) :
    ∀ b, Answers (forIn l b f) := by
  induction l with
  | nil => exact fun b => Answers.pure b
  | cons a r ih =>
    intro b
    rw [List.forIn_cons]
    refine Answers.bind (h a b) (fun x => ?_)
    cases x
    · exact Answers.pure _
    · exact ih _

theorem answers_chooseOld {α : Type} (l : List α) : Answers (chooseOld l) := by
  unfold chooseOld
  repeat' with_reducible first | exact Answers.pure _ | exact Answers.drawIndex _ | refine Answers.bind ?_ (fun _ => ?_) | split

theorem answers_heapEntryUsed (c : Option Nat) (x : Nat) (k : Context) (n : Nat) : Answers (heapEntryUsed c x k n) := by
  unfold heapEntryUsed
  repeat' with_reducible first | exact Answers.pure _ | exact Answers.state | exact Answers.change _ | exact answers_chooseOld _
                               | refine Answers.bind ?_ (fun _ => ?_) | split

theorem answers_readEntry (d x n va : Nat) (t : Word) : Answers (readEntry d x n va t) := by
  unfold readEntry
  repeat' with_reducible first | exact Answers.pure _ | exact Answers.state | exact Answers.change _ | exact answers_chooseOld _
                               | refine Answers.bind ?_ (fun _ => ?_) | split

theorem answers_walkLow (d x va : Nat) (e : Word) : Answers (walkLow d x va e) := by
  unfold walkLow
  repeat' with_reducible first | exact Answers.pure _ | exact answers_readEntry _ _ _ _ _ | refine Answers.bind ?_ (fun _ => ?_) | split

theorem answers_walk (d : Nat) (i : Option Nat) (x : Nat) (k : Context) (va : Nat) : Answers (walk d i x k va) := by
  unfold walk
  repeat' with_reducible first | exact Answers.pure _ | exact Answers.set _ | exact answers_readEntry _ _ _ _ _
                               | exact answers_walkLow _ _ _ _ | refine Answers.bind ?_ (fun _ => ?_) | split

theorem answers_walkedLeaf (k : Context) (va : Nat) (r : Right) (w : Walked) : Answers (walkedLeaf k va r w) := by
  unfold walkedLeaf
  repeat' with_reducible first | exact Answers.pure _ | exact Answers.state | exact Answers.change _
                               | refine Answers.bind ?_ (fun _ => ?_) | split

theorem answers_translate (c : Option Nat) (d : Nat) (i : Option Nat) (x : Nat) (k : Context) (va : Nat) (r : Right) : Answers (translate c d i x k va r) := by
  unfold translate
  repeat' with_reducible first | exact Answers.pure _ | exact Answers.state | exact Answers.change _ | exact answers_chooseOld _
                               | exact answers_heapEntryUsed _ _ _ _ | exact answers_walk _ _ _ _ _ | exact answers_walkedLeaf _ _ _ _
                               | refine Answers.bind ?_ (fun _ => ?_) | split

theorem answers_devPieces (x : Nat) (k : Context) (r : Right) (l : List Piece) : Answers (devPieces x k r l) := by
  induction l with
  | nil => exact Answers.pure _
  | cons p q ih =>
    unfold devPieces
    repeat' with_reducible first | exact Answers.pure _ | exact ih | exact answers_translate _ _ _ _ _ _ _
                                 | refine Answers.bind ?_ (fun _ => ?_) | split

theorem answers_devRead (x va n : Nat) : Answers (devRead x va n) := by
  unfold devRead
  repeat' with_reducible first | exact Answers.pure _ | exact Answers.state | exact answers_devPieces _ _ _ _
                               | refine Answers.bind ?_ (fun _ => ?_) | split

theorem answers_devWrite (x va : Nat) (bs : List Byte) : Answers (devWrite x va bs) := by
  unfold devWrite
  repeat' with_reducible first | exact Answers.pure _ | exact Answers.state | exact Answers.change _
                               | exact answers_translate _ _ _ _ _ _ _ | exact answers_devPieces _ _ _ _
                               | refine Answers.bind ?_ (fun _ => ?_) | split

theorem answers_devBoth (x va n : Nat) : Answers (devBoth x va n) := by
  unfold devBoth
  repeat' with_reducible first | exact Answers.pure _ | exact Answers.state | exact answers_devPieces _ _ _ _
                               | refine Answers.bind ?_ (fun _ => ?_) | split

theorem answers_devReadWord (x va : Nat) : Answers (devReadWord x va) := by
  unfold devReadWord
  repeat' with_reducible first | exact Answers.pure _ | exact answers_devRead _ _ _ | refine Answers.bind ?_ (fun _ => ?_) | split

theorem answers_devWriteWord (x va : Nat) (w : Word) : Answers (devWriteWord x va w) := by
  unfold devWriteWord
  repeat' with_reducible first | exact Answers.pure _ | exact answers_devWrite _ _ _ | refine Answers.bind ?_ (fun _ => ?_) | split

theorem answers_faultRecord (x : Nat) (r : List Byte) : Answers (faultRecord x r) := by
  unfold faultRecord
  repeat' with_reducible first | exact Answers.pure _ | exact Answers.state | exact answers_devWrite _ _ _ | exact answers_devReadWord _ _
                               | exact answers_devWriteWord _ _ _ | refine Answers.bind ?_ (fun _ => ?_) | split | dsimp only

theorem answers_devFaultRecord (x : Nat) (t : BitVec 32) (e : DevFail) : Answers (devFaultRecord x t e) := by
  unfold devFaultRecord
  repeat' with_reducible first | exact Answers.pure _ | exact answers_faultRecord _ _ | refine Answers.bind ?_ (fun _ => ?_) | split

theorem answers_completionRecord (l : Launch) (n : Nat) (c : BitVec 8) : Answers (completionRecord l n c) := by
  unfold completionRecord
  repeat' with_reducible first | exact Answers.pure _ | exact Answers.change _ | exact answers_devWriteWord _ _ _
                               | exact answers_devFaultRecord _ _ _ | refine Answers.bind ?_ (fun _ => ?_) | split

theorem answers_addUsers (x : Nat) (b d : Word) : Answers (addUsers x b d) := by
  unfold addUsers
  repeat' with_reducible first | exact Answers.pure _ | exact answers_devReadWord _ _ | exact answers_devWriteWord _ _ _
                               | refine Answers.bind ?_ (fun _ => ?_) | split

theorem answers_leaveBody (l : Nat) : Answers (leaveBody l) := by
  unfold leaveBody
  repeat' with_reducible first | exact Answers.pure _ | exact Answers.state | exact Answers.change _ | exact answers_addUsers _ _ _
                               | refine Answers.forIn _ _ (fun _ _ => ?_) _ | refine Answers.bind ?_ (fun _ => ?_) | split

theorem answers_finishEnding (l : Nat) : Answers (finishEnding l) := by
  unfold finishEnding
  repeat' with_reducible first | exact Answers.pure _ | exact Answers.state | exact Answers.change _ | exact answers_faultRecord _ _
                               | exact answers_completionRecord _ _ _ | exact answers_leaveBody _
                               | refine Answers.forIn _ _ (fun _ _ => ?_) _ | refine Answers.bind ?_ (fun _ => ?_) | split

theorem answers_endLaunch (l : Nat) (f : State → Nat → Bool) (r : List (List Byte)) (n : Nat) (c : BitVec 8) : Answers (endLaunch l f r n c) := by
  unfold endLaunch
  repeat' with_reducible first | exact Answers.pure _ | exact Answers.state | exact Answers.change _ | exact answers_finishEnding _
                               | refine Answers.bind ?_ (fun _ => ?_) | split

theorem answers_endTask (t : Nat) : Answers (endTask t) := by
  unfold endTask
  repeat' with_reducible first | exact Answers.pure _ | exact Answers.state | exact answers_endLaunch _ _ _ _ _
                               | refine Answers.bind ?_ (fun _ => ?_) | split

theorem answers_deviceFailEnds (l : Nat) (e : DevFail) : Answers (deviceFailEnds l e) := by
  unfold deviceFailEnds
  repeat' with_reducible first | exact Answers.pure _ | exact Answers.state | exact answers_endLaunch _ _ _ _ _
                               | refine Answers.bind ?_ (fun _ => ?_) | split

theorem answers_endByTrap (t c : Nat) (code : Trap) (pc info : Word) : Answers (endByTrap t c code pc info) := by
  unfold endByTrap
  repeat' with_reducible first | exact Answers.pure _ | exact Answers.state | exact Answers.change _ | exact answers_faultRecord _ _
                               | exact answers_endLaunch _ _ _ _ _ | refine Answers.bind ?_ (fun _ => ?_) | split

theorem answers_takeTrap (c b : Nat) (t : Trap) (i : Option Word) (pc n : Word) : Answers (takeTrap c b t i pc n) := by
  unfold takeTrap
  repeat' with_reducible first | exact Answers.pure _ | exact Answers.state | exact Answers.change _ | exact Answers.drawWord
                               | exact answers_faultRecord _ _ | exact answers_endByTrap _ _ _ _ _ | refine Answers.bind ?_ (fun _ => ?_)
                               | split

theorem answers_abortQueued (x : Nat) (k : Context) (l : List Nat) : Answers (abortQueued x k l) := by
  induction l with
  | nil => exact Answers.pure _
  | cons seq q ih =>
    unfold abortQueued
    repeat' with_reducible first | exact Answers.pure _ | exact ih | exact answers_devRead _ _ _ | exact answers_devFaultRecord _ _ _
                                 | exact answers_completionRecord _ _ _ | refine Answers.bind ?_ (fun _ => ?_) | split

theorem answers_removeContext (x : Nat) : Answers (removeContext x) := by
  unfold removeContext
  repeat' with_reducible first | exact Answers.pure _ | exact Answers.state | exact Answers.change _ | exact answers_endLaunch _ _ _ _ _
                               | exact answers_abortQueued _ _ _ | refine Answers.forIn _ _ (fun _ _ => ?_) _
                               | refine Answers.bind ?_ (fun _ => ?_) | split

theorem answers_readDeclaration (x : Nat) (k : Context) (va : Nat) : Answers (readDeclaration x k va) := by
  unfold readDeclaration
  repeat' with_reducible first | exact Answers.pure _ | exact answers_devRead _ _ _ | refine Answers.bind ?_ (fun _ => ?_) | split
                               | dsimp only

theorem answers_createContext (x pa : Nat) : Answers (createContext x pa) := by
  unfold createContext
  repeat' with_reducible first | exact Answers.pure _ | exact Answers.state | exact Answers.change _ | exact answers_devWrite _ _ _
                               | exact answers_readDeclaration _ _ _ | refine Answers.bind ?_ (fun _ => ?_) | split | dsimp only

theorem answers_rangeData (x : Nat) (k : Context) (l : List (Nat × Nat)) : Answers (rangeData x k l) := by
  induction l with
  | nil => exact Answers.pure _
  | cons e q ih =>
    unfold rangeData
    repeat' with_reducible first | exact Answers.pure _ | exact Answers.state | exact ih | exact answers_translate _ _ _ _ _ _ _
                                 | refine Answers.bind ?_ (fun _ => ?_) | split

theorem answers_entryRecords (x : Nat) (k : Context) (i : Nat) (e : SaveEntry) : Answers (entryRecords x k i e) := by
  unfold entryRecords
  repeat' with_reducible first | exact Answers.pure _ | exact Answers.state | exact answers_rangeData _ _ _
                               | refine Answers.bind ?_ (fun _ => ?_) | split

theorem answers_contextRecords (x : Nat) (k : Context) (l : List (SaveEntry × Nat)) : Answers (contextRecords x k l) := by
  induction l with
  | nil => exact Answers.pure _
  | cons e q ih =>
    unfold contextRecords
    repeat' with_reducible first | exact Answers.pure _ | exact ih | exact answers_entryRecords _ _ _ _
                                 | refine Answers.bind ?_ (fun _ => ?_) | split

theorem answers_allRecords (l : List (Nat × Context)) : Answers (allRecords l) := by
  induction l with
  | nil => exact Answers.pure _
  | cons e q ih =>
    unfold allRecords
    repeat' with_reducible first | exact Answers.pure _ | exact ih | exact answers_contextRecords _ _ _
                                 | refine Answers.bind ?_ (fun _ => ?_) | split

theorem answers_starterSet (x : Nat) (h : Word) : Answers (starterSet x h) := by
  unfold starterSet
  repeat' with_reducible first | exact Answers.pure _ | exact Answers.state | exact answers_devRead _ _ _
                               | refine Answers.bind ?_ (fun _ => ?_) | split

theorem answers_orderLog (q : Launch) : Answers (orderLog q) := by
  unfold orderLog
  repeat' with_reducible first | exact Answers.pure _ | exact answers_devRead _ _ _ | exact answers_devReadWord _ _
                               | refine Answers.bind ?_ (fun _ => ?_) | split

theorem answers_publish (l : Nat) : Answers (publish l) := by
  unfold publish
  repeat' with_reducible first | exact Answers.pure _ | exact Answers.state | exact answers_devWrite _ _ _ | exact answers_starterSet _ _
                               | exact answers_orderLog _ | refine Answers.bind ?_ (fun _ => ?_) | split | dsimp only

theorem answers_shapeHash (x : Nat) (l : List (BitVec 16)) : Answers (shapeHash x l) := by
  unfold shapeHash
  repeat' with_reducible first | exact Answers.pure _ | exact Answers.state | exact answers_devRead _ _ _
                               | refine Answers.forIn _ _ (fun _ _ => ?_) _ | refine Answers.bind ?_ (fun _ => ?_) | split

theorem answers_writeStateEntry (l : Launch) (i n k : Nat) : Answers (writeStateEntry l i n k) := by
  unfold writeStateEntry
  repeat' with_reducible first | exact Answers.pure _ | exact Answers.state | exact answers_devWrite _ _ _
                               | refine Answers.bind ?_ (fun _ => ?_) | split

theorem answers_readStateEntry (l : Launch) (i : Nat) : Answers (readStateEntry l i) := by
  unfold readStateEntry
  repeat' with_reducible first | exact Answers.pure _ | exact answers_devRead _ _ _ | refine Answers.bind ?_ (fun _ => ?_) | split

theorem answers_successorsOf (l : Nat) (k : Task) : Answers (successorsOf l k) := by
  unfold successorsOf
  repeat' with_reducible first | exact Answers.pure _ | exact Answers.state | exact answers_devRead _ _ _
                               | refine Answers.bind ?_ (fun _ => ?_) | split

theorem answers_readiedBy (l : Nat) (k : Task) : Answers (readiedBy l k) := by
  unfold readiedBy
  repeat' with_reducible first | exact Answers.pure _ | exact Answers.state | exact answers_readStateEntry _ _
                               | exact answers_successorsOf _ _ | refine Answers.forIn _ _ (fun _ _ => ?_) _
                               | refine Answers.bind ?_ (fun _ => ?_) | split | dsimp only

theorem answers_recEnd (t : Nat) (b : Bool) : Answers (recEnd t b) := by
  unfold recEnd
  repeat' with_reducible first | exact Answers.pure _ | exact Answers.state | exact Answers.change _ | exact answers_shapeHash _ _
                               | exact answers_readiedBy _ _ | refine Answers.bind ?_ (fun _ => ?_) | split | dsimp only

theorem answers_refillOnce (d : Nat) : Answers (refillOnce d) := by
  unfold refillOnce
  repeat' with_reducible first | exact Answers.pure _ | exact Answers.state | exact Answers.change _ | exact answers_deviceFailEnds _ _
                               | exact answers_writeStateEntry _ _ _ _ | exact answers_devRead _ _ _ | refine Answers.bind ?_ (fun _ => ?_)
                               | split | dsimp only

theorem answers_refill (d : Nat) : Answers (refill d) := by
  unfold refill
  repeat' with_reducible first | exact Answers.pure _ | exact Answers.state | exact answers_refillOnce _
                               | refine Answers.forIn _ _ (fun _ _ => ?_) _ | refine Answers.bind ?_ (fun _ => ?_) | split

theorem answers_enrol (src : Source) (k : Task) : Answers (enrol src k) := by
  unfold enrol
  repeat' with_reducible first | exact Answers.pure _ | exact Answers.state | exact Answers.change _ | exact Answers.newId
                               | exact answers_devWrite _ _ _ | exact answers_deviceFailEnds _ _ | exact answers_refill _
                               | refine Answers.bind ?_ (fun _ => ?_) | split | dsimp only

theorem answers_readyStatic (l i d c : Nat) : Answers (readyStatic l i d c) := by
  unfold readyStatic
  repeat' with_reducible first | exact Answers.pure _ | exact Answers.state | exact answers_deviceFailEnds _ _
                               | exact answers_writeStateEntry _ _ _ _ | exact answers_enrol _ _ | refine Answers.bind ?_ (fun _ => ?_)
                               | split | dsimp only

theorem answers_countSuccessors (l : Nat) (is : List Nat) : Answers (countSuccessors l is) := by
  induction is with
  | nil => exact Answers.pure _
  | cons i r ih =>
    unfold countSuccessors
    repeat' with_reducible first | exact Answers.pure _ | exact Answers.state | exact ih | exact answers_deviceFailEnds _ _
                                 | exact answers_writeStateEntry _ _ _ _ | exact answers_readStateEntry _ _
                                 | refine Answers.bind ?_ (fun _ => ?_) | split

theorem answers_processSuccessors (t l d c : Nat) (is : List Nat) : Answers (processSuccessors t l d c is) := by
  induction is with
  | nil => exact Answers.pure _
  | cons i r ih =>
    unfold processSuccessors
    repeat' with_reducible first | exact Answers.pure _ | exact Answers.state | exact Answers.change _ | exact ih
                                 | exact answers_deviceFailEnds _ _ | exact answers_writeStateEntry _ _ _ _
                                 | exact answers_readStateEntry _ _ | exact answers_readyStatic _ _ _ _
                                 | refine Answers.bind ?_ (fun _ => ?_) | split | dsimp only

theorem answers_startStatics (l : Nat) (rs : List (Record × List Nat)) : Answers (startStatics l rs) := by
  unfold startStatics
  repeat' with_reducible first | exact Answers.pure _ | exact answers_readyStatic _ _ _ _ | refine Answers.forIn _ _ (fun _ _ => ?_) _
                               | refine Answers.bind ?_ (fun _ => ?_) | split

theorem answers_bodyBytes (x : Nat) (body : Word) (off n : Nat) : Answers (bodyBytes x body off n) := by
  unfold bodyBytes
  repeat' with_reducible first | exact Answers.pure _ | exact answers_devRead _ _ _ | refine Answers.bind ?_ (fun _ => ?_) | split

theorem answers_bodyHead (x : Nat) (body : Word) : Answers (bodyHead x body) := by
  unfold bodyHead
  repeat' with_reducible first | exact Answers.pure _ | exact answers_bodyBytes _ _ _ _ | refine Answers.bind ?_ (fun _ => ?_) | split

theorem answers_bodyTask (x : Nat) (body : Word) (h : BodyHead) (e : Nat) : Answers (bodyTask x body h e) := by
  unfold bodyTask
  repeat' with_reducible first | exact Answers.pure _ | exact answers_bodyBytes _ _ _ _ | refine Answers.bind ?_ (fun _ => ?_) | split

theorem answers_streamEntry (x : Nat) (body : Word) (h : BodyHead) (i : Nat) : Answers (streamEntry x body h i) := by
  unfold streamEntry
  repeat' with_reducible first | exact Answers.pure _ | exact answers_bodyBytes _ _ _ _ | refine Answers.bind ?_ (fun _ => ?_) | split

theorem answers_streamFrom (x : Nat) (body : Word) (h : BodyHead) (n i : Nat) : Answers (streamFrom x body h n i) := by
  induction n generalizing i with
  | zero => unfold streamFrom; exact Answers.pure _
  | succ n ih =>
    unfold streamFrom
    repeat' with_reducible first | exact Answers.pure _ | exact ih _ | exact answers_streamEntry _ _ _ _
                                 | refine Answers.bind ?_ (fun _ => ?_) | split | dsimp only

theorem answers_entryStreams (x : Nat) (body : Word) (h : BodyHead) (k : BodyTask) : Answers (entryStreams x body h k) := by
  unfold entryStreams
  repeat' with_reducible first | exact Answers.pure _ | exact answers_streamFrom _ _ _ _ _ | refine Answers.forIn _ _ (fun _ _ => ?_) _
                               | refine Answers.bind ?_ (fun _ => ?_) | split | dsimp only

theorem answers_wholeEntries (x : Nat) (body : Word) (h : BodyHead) : Answers (wholeEntries x body h) := by
  unfold wholeEntries
  repeat' with_reducible first | exact Answers.pure _ | exact answers_bodyTask _ _ _ _ | exact answers_entryStreams _ _ _ _
                               | refine Answers.forIn _ _ (fun _ _ => ?_) _ | refine Answers.bind ?_ (fun _ => ?_) | split | dsimp only

theorem answers_startRecording (l : Nat) (f : Bool) (p : BitVec 3) (g : BitVec 16) : Answers (startRecording l f p g) := by
  unfold startRecording
  repeat' with_reducible first | exact Answers.pure _ | exact Answers.state | exact Answers.change _ | exact answers_devBoth _ _ _
                               | exact answers_devReadWord _ _ | exact answers_devWriteWord _ _ _ | exact answers_starterSet _ _
                               | refine Answers.bind ?_ (fun _ => ?_) | split | dsimp only

theorem answers_passTask (s : State) (l : Nat) (k : Task) : Answers (passTask s l k) := by
  unfold passTask
  repeat' with_reducible first | exact Answers.pure _ | exact Answers.state | exact Answers.change _ | exact Answers.newId | exact answers_deviceFailEnds _ _
                               | exact answers_writeStateEntry _ _ _ _ | exact answers_enrol _ _ | refine Answers.bind ?_ (fun _ => ?_)
                               | split | dsimp only

theorem answers_passRemainder (l slot : Nat) : Answers (passRemainder l slot) := by
  unfold passRemainder
  repeat' with_reducible first | exact Answers.pure _ | exact Answers.state | exact Answers.change _ | exact answers_addUsers _ _ _
                               | exact answers_startRecording _ _ _ _ | exact answers_passTask _ _ _
                               | refine Answers.forIn _ _ (fun _ _ => ?_) _ | refine Answers.bind ?_ (fun _ => ?_) | split | dsimp only

theorem answers_entryRecord (x : Nat) (a : Word) : Answers (entryRecord x a) := by
  unfold entryRecord
  repeat' with_reducible first | exact Answers.pure _ | exact answers_devRead _ _ _ | refine Answers.bind ?_ (fun _ => ?_) | split

theorem answers_noteStarted (l e : Nat) : Answers (noteStarted l e) := by
  unfold noteStarted
  repeat' with_reducible first | exact Answers.pure _ | exact Answers.change _ | refine Answers.bind ?_ (fun _ => ?_) | split

theorem answers_placeReplayed (k : Task) : Answers (placeReplayed k) := by
  unfold placeReplayed
  repeat' with_reducible first | exact Answers.pure _ | exact Answers.change _ | exact Answers.newId
                               | refine Answers.bind ?_ (fun _ => ?_) | split

theorem answers_childId (l : Nat) (by_ : Option Nat) (w : Word) : Answers (childId l by_ w) := by
  unfold childId
  repeat' with_reducible first | exact Answers.pure _ | exact Answers.state | exact Answers.change _
                               | refine Answers.bind ?_ (fun _ => ?_) | split | dsimp only

theorem answers_startEntry (l x e : Nat) (k : BodyTask) (i : Option Word) : Answers (startEntry l x e k i) := by
  unfold startEntry
  repeat' with_reducible first | exact Answers.pure _ | exact Answers.state | exact answers_deviceFailEnds _ _
                               | exact answers_writeStateEntry _ _ _ _ | exact answers_passTask _ _ _ | exact answers_passRemainder _ _
                               | exact answers_entryRecord _ _ | exact answers_noteStarted _ _ | exact answers_placeReplayed _
                               | refine Answers.bind ?_ (fun _ => ?_) | split | dsimp only

theorem answers_readyEntry (l : Nat) (by_ : Option Nat) (x : Nat) (body : Word) (h : BodyHead) (all : List WholeEntry) (e : Nat) : Answers (readyEntry l by_ x body h all e) := by
  unfold readyEntry
  repeat' with_reducible first | exact Answers.pure _ | exact Answers.state | exact answers_deviceFailEnds _ _
                               | exact answers_readStateEntry _ _ | exact answers_startEntry _ _ _ _ _ | exact answers_childId _ _ _
                               | exact answers_noteStarted _ _ | exact answers_passRemainder _ _
                               | refine Answers.bind ?_ (fun _ => ?_) | split | dsimp only

theorem answers_readyEntries (l : Nat) (by_ : Option Nat) : Answers (readyEntries l by_) := by
  unfold readyEntries
  repeat' with_reducible first | exact Answers.pure _ | exact Answers.state | exact answers_bodyHead _ _
                               | exact answers_wholeEntries _ _ _ | exact answers_passRemainder _ _
                               | exact answers_readyEntry _ _ _ _ _ _ _ | refine Answers.forIn _ _ (fun _ _ => ?_) _
                               | refine Answers.bind ?_ (fun _ => ?_) | split | dsimp only

theorem answers_retireCounts (l t : Nat) (k : Task) (weight : Word) : Answers (retireCounts l t k weight) := by
  unfold retireCounts
  repeat' with_reducible first | exact Answers.pure _ | exact Answers.state | exact Answers.change _ | exact answers_deviceFailEnds _ _
                               | exact answers_writeStateEntry _ _ _ _ | exact answers_successorsOf _ _
                               | exact answers_countSuccessors _ _ | exact answers_processSuccessors _ _ _ _ _
                               | exact answers_readyEntries _ _ | refine Answers.bind ?_ (fun _ => ?_) | split | dsimp only

theorem answers_retire (w : Who) (weight : Word) (b : Bool) : Answers (retire w weight b) := by
  unfold retire
  repeat' with_reducible first | exact Answers.pure _ | exact Answers.state | exact answers_recEnd _ _ | exact answers_retireCounts _ _ _ _
                               | refine Answers.bind ?_ (fun _ => ?_) | split | dsimp only

theorem answers_replaceTask (c b t : Nat) (k : Task) : Answers (replaceTask c b t k) := by
  unfold replaceTask
  repeat' with_reducible first | exact Answers.pure _ | exact Answers.state | exact Answers.change _ | exact Answers.newId
                               | refine Answers.bind ?_ (fun _ => ?_) | split | dsimp only

theorem answers_invalidateHash (q : Launch) (k : Context) (es : List StarterEntry) : Answers (invalidateHash q k es) := by
  unfold invalidateHash
  repeat' with_reducible first | exact Answers.pure _ | exact answers_devRead _ _ _ | exact answers_devWrite _ _ _
                               | refine Answers.forIn _ _ (fun _ _ => ?_) _ | refine Answers.bind ?_ (fun _ => ?_) | split | dsimp only

theorem answers_startReplay (l : Nat) (q : Launch) (e : StarterEntry) : Answers (startReplay l q e) := by
  unfold startReplay
  repeat' with_reducible first | exact Answers.pure _ | exact Answers.change _ | exact answers_addUsers _ _ _ | exact answers_bodyHead _ _
                               | refine Answers.bind ?_ (fun _ => ?_) | split | dsimp only

theorem answers_startPolicy (l : Nat) (k : Context) : Answers (startPolicy l k) := by
  unfold startPolicy
  repeat' with_reducible first | exact Answers.pure _ | exact Answers.state | exact Answers.set _ | exact answers_starterSet _ _
                               | exact answers_startRecording _ _ _ _ | exact answers_invalidateHash _ _ _
                               | exact answers_startReplay _ _ _ | refine Answers.bind ?_ (fun _ => ?_) | split | dsimp only

theorem answers_startLog (l : Nat) : Answers (startLog l) := by
  unfold startLog
  repeat' with_reducible first | exact Answers.pure _ | exact Answers.state | exact Answers.change _ | exact answers_devReadWord _ _
                               | exact answers_deviceFailEnds _ _ | refine Answers.bind ?_ (fun _ => ?_) | split | dsimp only

theorem answers_initStates (q : Launch) : Answers (initStates q) := by
  unfold initStates
  repeat' with_reducible first | exact Answers.pure _ | exact answers_devWrite _ _ _ | refine Answers.bind ?_ (fun _ => ?_) | split

theorem answers_startLeft (l : Nat) (rs : List (Record × List Nat)) : Answers (startLeft l rs) := by
  unfold startLeft
  repeat' with_reducible first | exact Answers.pure _ | exact Answers.state | exact answers_deviceFailEnds _ _
                               | exact answers_readStateEntry _ _ | exact answers_readyStatic _ _ _ _
                               | refine Answers.forIn _ _ (fun _ _ => ?_) _ | refine Answers.bind ?_ (fun _ => ?_) | split | dsimp only

theorem answers_startLaunch (k : Context) (q : Launch) (rs : List (Record × List Nat)) : Answers (startLaunch k q rs) := by
  unfold startLaunch
  repeat' with_reducible first | exact Answers.pure _ | exact Answers.change _ | exact Answers.newId | exact answers_deviceFailEnds _ _
                               | exact answers_startStatics _ _ | exact answers_readyEntries _ _ | exact answers_startPolicy _ _
                               | exact answers_startLog _ | exact answers_initStates _ | exact answers_startLeft _ _
                               | refine Answers.bind ?_ (fun _ => ?_) | split | dsimp only

theorem answers_releaseJoined (d : Nat) (id : BitVec 32) (r : Option Trap) (j : Joined) : Answers (releaseJoined d id r j) := by
  unfold releaseJoined
  repeat' with_reducible first | exact Answers.pure _ | exact Answers.state | exact Answers.change _ | exact answers_endByTrap _ _ _ _ _
                               | refine Answers.bind ?_ (fun _ => ?_) | split | dsimp only

theorem answers_settleDesc (d : Nat) (id : BitVec 32) (r : Option Trap) : Answers (settleDesc d id r) := by
  unfold settleDesc
  repeat' with_reducible first | exact Answers.pure _ | exact Answers.state | exact Answers.change _ | exact answers_releaseJoined _ _ _ _
                               | refine Answers.forIn _ _ (fun _ _ => ?_) _ | refine Answers.bind ?_ (fun _ => ?_) | split | dsimp only

theorem answers_looseRecord (x : Nat) (a : Word) : Answers (looseRecord x a) := by
  unfold looseRecord
  repeat' with_reducible first | exact Answers.pure _ | exact Answers.state | exact answers_devRead _ _ _
                               | refine Answers.bind ?_ (fun _ => ?_) | split | dsimp only

theorem answers_keeperCopy (d : Nat) (id : BitVec 32) (a : Word) : Answers (keeperCopy d id a) := by
  unfold keeperCopy
  repeat' with_reducible first | exact Answers.pure _ | exact Answers.state | exact Answers.change _ | exact answers_enrol _ _
                               | exact answers_settleDesc _ _ _ | exact answers_looseRecord _ _ | refine Answers.bind ?_ (fun _ => ?_)
                               | split | dsimp only

theorem answers_bodyGuard (x : Nat) (body : Word) (h : BodyHead) (i : Nat) : Answers (bodyGuard x body h i) := by
  unfold bodyGuard
  repeat' with_reducible first | exact Answers.pure _ | exact answers_bodyBytes _ _ _ _ | refine Answers.bind ?_ (fun _ => ?_) | split
                               | dsimp only

theorem answers_cursorAt (x : Nat) (body : Word) (v : BitVec 16) (h : BodyHead) (k : BodyTask) (e i : Nat) : Answers (cursorAt x body v h k e i) := by
  unfold cursorAt
  repeat' with_reducible first | exact Answers.pure _ | exact answers_bodyGuard _ _ _ _ | refine Answers.forIn _ _ (fun _ _ => ?_) _
                               | refine Answers.bind ?_ (fun _ => ?_) | split | dsimp only

theorem answers_startCursor (l : Nat) (k : Task) : Answers (startCursor l k) := by
  unfold startCursor
  repeat' with_reducible first | exact Answers.pure _ | exact Answers.state | exact answers_bodyHead _ _ | exact answers_bodyTask _ _ _ _
                               | exact answers_bodyGuard _ _ _ _ | exact answers_cursorAt _ _ _ _ _ _ _
                               | refine Answers.forIn _ _ (fun _ _ => ?_) _ | refine Answers.bind ?_ (fun _ => ?_) | split | dsimp only

theorem answers_startTask (t c b : Nat) (p : Part) : Answers (startTask t c b p) := by
  unfold startTask
  repeat' with_reducible first | exact Answers.pure _ | exact Answers.state | exact Answers.change _ | exact Answers.newId
                               | exact answers_deviceFailEnds _ _ | exact answers_writeStateEntry _ _ _ _ | exact answers_refill _
                               | exact answers_startCursor _ _ | refine Answers.bind ?_ (fun _ => ?_) | split | dsimp only

theorem answers_takeSeqs (c x o : Nat) (k : BitVec 4) (n : Nat) : Answers (takeSeqs c x o k n) := by
  unfold takeSeqs
  repeat' with_reducible first | exact Answers.pure _ | exact Answers.state | exact Answers.change _ | refine Answers.bind ?_ (fun _ => ?_)

theorem answers_sendRequest (c b n : Nat) (a : Access) (q : BitVec 16) : Answers (sendRequest c b n a q) := by
  unfold sendRequest
  repeat' with_reducible first | exact Answers.pure _ | exact Answers.state | exact Answers.change _
                               | refine Answers.bind ?_ (fun _ => ?_) | split | dsimp only

theorem answers_pumpFrom (c b : Nat) (older l : List Access) : Answers (pumpFrom c b older l) := by
  induction l generalizing older with
  | nil => exact Answers.pure _
  | cons a r ih =>
    unfold pumpFrom
    repeat' with_reducible first | exact ih _ | exact answers_sendRequest _ _ _ _ _ | exact answers_takeSeqs _ _ _ _ _ | exact Answers.state | exact Answers.change _
                                 | refine Answers.bind ?_ (fun _ => ?_) | split | dsimp only

theorem answers_pump (c b : Nat) : Answers (pump c b) := by
  unfold pump
  repeat' with_reducible first | exact Answers.pure _ | exact Answers.state | exact Answers.change _ | exact answers_pumpFrom _ _ _ _
                               | refine Answers.bind ?_ (fun _ => ?_) | split

theorem answers_responseArrival (a : Response) : Answers (responseArrival a) := by
  unfold responseArrival
  repeat' with_reducible first | exact Answers.pure _ | exact Answers.state | exact Answers.change _ | exact answers_pump _ _
                               | refine Answers.forIn _ _ (fun _ _ => ?_) _ | refine Answers.bind ?_ (fun _ => ?_) | split | dsimp only

theorem answers_thrValue (n : Nat) (t : Threshold) : Answers (thrValue n t) := by
  unfold thrValue
  repeat' with_reducible first | exact Answers.pure _ | exact Answers.state | exact Answers.drawWord
                               | refine Answers.bind ?_ (fun _ => ?_) | split | dsimp only

theorem answers_release (n : Nat) (t : Threshold) : Answers (release n t) := by
  unfold release
  repeat' with_reducible first | exact Answers.pure _ | exact Answers.state | exact Answers.change _ | exact answers_enrol _ _
                               | exact answers_looseRecord _ _ | refine Answers.bind ?_ (fun _ => ?_) | split | dsimp only

theorem answers_sampleThr (n : Nat) : Answers (sampleThr n) := by
  unfold sampleThr
  repeat' with_reducible first | exact Answers.pure _ | exact Answers.state | exact Answers.change _ | exact answers_thrValue _ _
                               | exact answers_release _ _ | refine Answers.bind ?_ (fun _ => ?_) | split | dsimp only

theorem answers_variantFor (l n : Nat) : Answers (variantFor l n) := by
  unfold variantFor
  repeat' with_reducible first | exact Answers.pure _ | exact Answers.state | exact answers_starterSet _ _
                               | refine Answers.bind ?_ (fun _ => ?_) | split | dsimp only

theorem answers_leaveLoaded (l : Nat) (body : Word) : Answers (leaveLoaded l body) := by
  unfold leaveLoaded
  repeat' with_reducible first | exact Answers.pure _ | exact Answers.state | exact Answers.change _ | exact answers_addUsers _ _ _
                               | refine Answers.bind ?_ (fun _ => ?_) | split | dsimp only

theorem answers_takenEntries (l t : Nat) (body : Word) : Answers (takenEntries l t body) := by
  unfold takenEntries
  repeat' with_reducible first | exact Answers.pure _ | exact Answers.state | exact answers_readStateEntry _ _
                               | exact answers_bodyHead _ _ | exact answers_bodyTask _ _ _ _ | refine Answers.forIn _ _ (fun _ _ => ?_) _
                               | refine Answers.bind ?_ (fun _ => ?_) | split | dsimp only

theorem answers_entriesOf (x : Nat) (body : Word) : Answers (entriesOf x body) := by
  unfold entriesOf
  repeat' with_reducible first | exact Answers.pure _ | exact answers_bodyHead _ _ | exact answers_wholeEntries _ _ _
                               | refine Answers.bind ?_ (fun _ => ?_) | split

theorem answers_adoptEntry (l x : Nat) (k : Task) : Answers (adoptEntry l x k) := by
  unfold adoptEntry
  repeat' with_reducible first | exact Answers.pure _ | exact Answers.state | exact answers_passTask _ _ _ | exact answers_entriesOf _ _
                               | exact answers_startEntry _ _ _ _ _ | exact answers_passRemainder _ _
                               | refine Answers.bind ?_ (fun _ => ?_) | split | dsimp only

theorem answers_settleForeign (l x : Nat) (o a : List WholeEntry) (n : List Nat) (r : List Task) :
    Answers (settleForeign l x o a n r) := by
  unfold settleForeign
  repeat' with_reducible first | exact Answers.pure _ | exact Answers.state | exact Answers.change _ | exact answers_startEntry _ _ _ _ _
                               | refine Answers.forIn _ _ (fun _ _ => ?_) _ | refine Answers.bind ?_ (fun _ => ?_) | split | dsimp only

theorem answers_moveVariant (l t : Nat) (e : StarterEntry) (r : List Task) : Answers (moveVariant l t e r) := by
  unfold moveVariant
  repeat' with_reducible first | exact Answers.pure _ | exact Answers.state | exact Answers.change _ | exact answers_addUsers _ _ _
                               | exact answers_takenEntries _ _ _ | exact answers_entriesOf _ _ | exact answers_adoptEntry _ _ _
                               | exact answers_settleForeign _ _ _ _ _ _ | refine Answers.forIn _ _ (fun _ _ => ?_) _ | refine Answers.bind ?_ (fun _ => ?_) | split | dsimp only

theorem answers_guardFailsEarly (l t n : Nat) : Answers (guardFailsEarly l t n) := by
  unfold guardFailsEarly
  repeat' with_reducible first | exact Answers.pure _ | exact Answers.state | exact Answers.change _ | exact answers_passTask _ _ _
                               | exact answers_passRemainder _ _ | exact answers_readyEntries _ _ | exact answers_variantFor _ _
                               | exact answers_leaveLoaded _ _ | exact answers_moveVariant _ _ _ _ | refine Answers.bind ?_ (fun _ => ?_)
                               | split | dsimp only

theorem answers_guardSlots (g : Guarded) : Answers (guardSlots g) := by
  unfold guardSlots
  repeat' with_reducible first | exact Answers.pure _ | exact answers_bodyHead _ _ | exact answers_bodyTask _ _ _ _
                               | exact answers_bodyGuard _ _ _ _ | refine Answers.forIn _ _ (fun _ _ => ?_) _
                               | refine Answers.bind ?_ (fun _ => ?_) | split | dsimp only

theorem answers_restOf (x : Nat) (c : Cursor) : Answers (restOf x c) := by
  unfold restOf
  repeat' with_reducible first | exact Answers.pure _ | exact answers_bodyHead _ _ | exact answers_streamFrom _ _ _ _ _
                               | refine Answers.forIn _ _ (fun _ _ => ?_) _ | refine Answers.bind ?_ (fun _ => ?_) | split | dsimp only

theorem answers_wholeOf (x : Nat) (c : Cursor) : Answers (wholeOf x c) := by
  unfold wholeOf
  repeat' with_reducible first | exact Answers.pure _ | exact answers_bodyHead _ _ | exact answers_bodyTask _ _ _ _
                               | exact answers_entryStreams _ _ _ _ | refine Answers.bind ?_ (fun _ => ?_) | split | dsimp only

theorem answers_beforeEnd (g : Guarded) : Answers (beforeEnd g) := by
  unfold beforeEnd
  repeat' with_reducible first | exact Answers.pure _ | exact Answers.state | exact answers_restOf _ _
                               | refine Answers.bind ?_ (fun _ => ?_) | split | dsimp only

end Sys2Proof.Machine
end

