-- ==== Sys2Proof/Laws/Tables.lean ====
section
/-!
SUPPORT. Laws of the sparse tables and keyed lists: a read after a write, two writes to one key, and the canonical form.
-/

namespace Sys2Proof.Machine

variable {α : Type}

theorem sget_sdel (d : α) (m : Sparse α) (k j : Nat) : sget d (sdel m k) j = if j = k then d else sget d m j := by
  induction m with
  | nil => simp [sdel, sget]
  | cons e r ih =>
    obtain ⟨k', v⟩ := e
    unfold sdel at ih ⊢
    by_cases h : k' = k
    · subst h
      simp only [List.filter_cons, bne_self_eq_false, Bool.false_eq_true, if_false, ih, sget]
      split <;> simp_all
    · simp only [List.filter_cons, bne_iff_ne, ne_eq, h, not_false_eq_true, if_true, sget, ih]
      by_cases hj : j = k' <;> simp_all

theorem sget_sins (d : α) (m : Sparse α) (k j : Nat) (v : α) (hm : ∀ e ∈ m, e.1 ≠ k) :
    sget d (sins m k v) j = if j = k then v else sget d m j := by
  induction m with
  | nil => simp [sins, sget]
  | cons e r ih =>
    obtain ⟨k', v'⟩ := e
    have hk : k' ≠ k := hm (k', v') (by simp)
    have hr := ih (fun e he => hm e (by simp [he]))
    by_cases hlt : k < k'
    · simp [sins, hlt, sget]
    · simp only [sins, hlt, if_false, sget, hr]
      by_cases hj : j = k' <;> simp_all

theorem mem_sdel (m : Sparse α) (k : Nat) : ∀ e ∈ sdel m k, e.1 ≠ k := by
  intro e he
  simpa [sdel] using (List.mem_filter.mp he).2

/-- A read after a write, whatever the table. -/
theorem sget_sset [DecidableEq α] (d : α) (m : Sparse α) (k j : Nat) (v : α) :
    sget d (sset d m k v) j = if j = k then v else sget d m j := by
  unfold sset
  split
  · next h => subst h; rw [sget_sdel]
  · rw [sget_sins _ _ _ _ _ (mem_sdel m k), sget_sdel]
    split <;> simp_all

@[simp] theorem sget_sset_same [DecidableEq α] (d : α) (m : Sparse α) (k : Nat) (v : α) : sget d (sset d m k v) k = v := by
  simp [sget_sset]

theorem sget_sset_other [DecidableEq α] (d : α) (m : Sparse α) {k j : Nat} (v : α) (h : j ≠ k) :
    sget d (sset d m k v) j = sget d m j := by
  simp [sget_sset, h]

theorem sdel_sdel (m : Sparse α) (k : Nat) : sdel (sdel m k) k = sdel m k := by
  simp [sdel, List.filter_filter]

theorem sdel_of_not_mem (m : Sparse α) (k : Nat) (h : ∀ e ∈ m, e.1 ≠ k) : sdel m k = m := by
  simpa [sdel] using h

theorem sdel_sins (m : Sparse α) (k : Nat) (v : α) (h : ∀ e ∈ m, e.1 ≠ k) : sdel (sins m k v) k = m := by
  induction m with
  | nil => simp [sins, sdel]
  | cons e r ih =>
    obtain ⟨k', v'⟩ := e
    have hk : k' ≠ k := h (k', v') (by simp)
    have hr : ∀ e ∈ r, e.1 ≠ k := fun e he => h e (by simp [he])
    unfold sins
    split
    · have := sdel_of_not_mem _ _ h
      simpa [sdel] using this
    · have := ih hr
      simp only [sdel, List.filter_cons, bne_iff_ne, ne_eq, hk, not_false_eq_true, if_true] at this ⊢
      rw [this]

/-- Of two writes to one key the second stays. -/
@[simp] theorem sset_sset [DecidableEq α] (d : α) (m : Sparse α) (k : Nat) (v w : α) :
    sset d (sset d m k v) k w = sset d m k w := by
  have : sdel (sset d m k v) k = sdel m k := by
    unfold sset
    split
    · exact sdel_sdel m k
    · exact sdel_sins _ _ _ (mem_sdel m k)
  have e : ∀ n : Sparse α, sset d n k w = if w = d then sdel n k else sins (sdel n k) k w := fun _ => rfl
  rw [e, this, ← e]

/-! ### Keyed lists -/

@[simp] theorem aget_aset_same (m : List (Nat × α)) (k : Nat) (v : α) : aget (aset m k v) k = some v := by
  induction m with
  | nil => simp [aset, aget]
  | cons e r ih =>
    obtain ⟨k', v'⟩ := e
    unfold aset
    split
    · simp [aget]
    · split
      · simp [aget]
      · next h => simp [aget, h, ih]

theorem aget_aset_other (m : List (Nat × α)) {k j : Nat} (v : α) (h : j ≠ k) : aget (aset m k v) j = aget m j := by
  induction m with
  | nil => simp [aset, aget, h]
  | cons e r ih =>
    obtain ⟨k', v'⟩ := e
    unfold aset
    split
    · simp [aget, h]
    · split
      · next h' => subst h'; simp [aget, h]
      · simp [aget, ih]

theorem aget_aupd (m : List (Nat × α)) (k j : Nat) (f : α → α) :
    aget (aupd m k f) j = if j = k then (aget m j).map f else aget m j := by
  induction m with
  | nil => simp [aupd, aget]
  | cons e r ih =>
    obtain ⟨k', v'⟩ := e
    by_cases hk : k' = k
    · subst hk
      by_cases hj : j = k'
      · subst hj; simp [aupd, aget]
      · simp only [aupd, List.map_cons, if_true, aget, hj, if_false] at ih ⊢
        simpa [aupd] using ih
    · by_cases hj : j = k'
      · subst hj; simp [aupd, aget, hk]
      · simp only [aupd, List.map_cons, hk, if_false, aget, hj] at ih ⊢
        simpa [aupd] using ih

/-! ### The canonical form of memory -/

/-- Addresses strictly above a bound. -/
def above (n : Nat) : List Host.Cell → Prop
  | [] => True
  | (k, _) :: _ => n < k

theorem memoryWf_cons (k : Nat) (v : Byte) (r : List Host.Cell) :
    memoryWf ((k, v) :: r) = true ↔ v ≠ unlistedByte ∧ above k r ∧ memoryWf r = true := by
  cases r with
  | nil => simp [memoryWf, above]
  | cons e r => obtain ⟨k', v'⟩ := e; simp [memoryWf, above, and_assoc]

theorem wf_sdel (m : List Host.Cell) (k : Nat) (h : memoryWf m = true) :
    memoryWf (sdel m k) = true ∧ ∀ n, above n m → above n (sdel m k) := by
  induction m with
  | nil => simp [sdel, memoryWf]
  | cons e r ih =>
    obtain ⟨k', v'⟩ := e
    rw [memoryWf_cons] at h
    obtain ⟨hv, ha, hr⟩ := h
    have := ih hr
    by_cases hk : k' = k
    · have e : sdel ((k', v') :: r) k = sdel r k := by simp [sdel, hk]
      rw [e]
      refine ⟨this.1, fun n hn => this.2 n ?_⟩
      match r, ha with
      | [], _ => trivial
      | (_, _) :: _, ha =>
        simp only [above] at ha hn ⊢
        omega
    · have e : sdel ((k', v') :: r) k = (k', v') :: sdel r k := by simp [sdel, hk]
      rw [e, memoryWf_cons]
      exact ⟨⟨hv, this.2 _ ha, this.1⟩, fun n hn => hn⟩

theorem wf_sins (m : List Host.Cell) (k : Nat) (v : Byte) (h : memoryWf m = true) (hv : v ≠ unlistedByte)
    (hk : ∀ e ∈ m, e.1 ≠ k) : memoryWf (sins m k v) = true ∧ ∀ n, above n m → n < k → above n (sins m k v) := by
  induction m with
  | nil => simp [sins, above, memoryWf, hv]
  | cons e r ih =>
    obtain ⟨k', v'⟩ := e
    rw [memoryWf_cons] at h
    obtain ⟨hv', ha, hr⟩ := h
    have hne : k' ≠ k := hk (k', v') (by simp)
    have := ih hr (fun e he => hk e (by simp [he]))
    by_cases hlt : k < k'
    · simp only [sins, hlt, if_true, memoryWf_cons]
      refine ⟨⟨hv, by simpa [above] using hlt, ⟨hv', ha, hr⟩⟩, fun n _ hn => by simpa [above] using hn⟩
    · simp only [sins, hlt, if_false, memoryWf_cons]
      refine ⟨⟨hv', this.2 _ ha (by omega), this.1⟩, fun n hn _ => by simpa [above] using hn⟩

/-- A write keeps memory in its canonical form. -/
theorem memoryWf_sset (m : List Host.Cell) (k : Nat) (v : Byte) (h : memoryWf m = true) :
    memoryWf (sset unlistedByte m k v) = true := by
  unfold sset
  split
  · exact (wf_sdel m k h).1
  · next hv => exact (wf_sins _ _ _ (wf_sdel m k h).1 hv (mem_sdel m k)).1

end Sys2Proof.Machine
end

