-- ==== Sys2Proof/Laws/State.lean ====
section
/-!
SUPPORT. One lemma for each field of the state under each update, and the accessors of cores, banks, registers, dies and folds after
one.
-/

namespace Sys2Proof.Machine

@[simp] theorem setCore_mem (s : State) (c : Nat) (x : Core) : (setCore s c x).mem = s.mem := rfl
@[simp] theorem setCore_host (s : State) (c : Nat) (x : Core) : (setCore s c x).host = s.host := rfl
@[simp] theorem setCore_pm (s : State) (c : Nat) (x : Core) : (setCore s c x).pm = s.pm := rfl
@[simp] theorem setCore_gang (s : State) (c : Nat) (x : Core) : (setCore s c x).gang = s.gang := rfl
@[simp] theorem setCore_ctxs (s : State) (c : Nat) (x : Core) : (setCore s c x).ctxs = s.ctxs := rfl
@[simp] theorem setCore_launches (s : State) (c : Nat) (x : Core) : (setCore s c x).launches = s.launches := rfl
@[simp] theorem setCore_tasks (s : State) (c : Nat) (x : Core) : (setCore s c x).tasks = s.tasks := rfl
@[simp] theorem setCore_nextId (s : State) (c : Nat) (x : Core) : (setCore s c x).nextId = s.nextId := rfl
@[simp] theorem setCore_dies (s : State) (c : Nat) (x : Core) : (setCore s c x).dies = s.dies := rfl
@[simp] theorem setCore_folds (s : State) (c : Nat) (x : Core) : (setCore s c x).folds = s.folds := rfl
@[simp] theorem setCore_programs (s : State) (c : Nat) (x : Core) : (setCore s c x).programs = s.programs := rfl
@[simp] theorem setCore_net (s : State) (c : Nat) (x : Core) : (setCore s c x).net = s.net := rfl
@[simp] theorem setCore_agenda (s : State) (c : Nat) (x : Core) : (setCore s c x).agenda = s.agenda := rfl
@[simp] theorem setCore_actor (s : State) (c : Nat) (x : Core) : (setCore s c x).actor = s.actor := rfl
@[simp] theorem setCore_fresh (s : State) (c : Nat) (x : Core) : (setCore s c x).fresh = s.fresh := rfl
@[simp] theorem setCore_raised (s : State) (c : Nat) (x : Core) : (setCore s c x).raised = s.raised := rfl
@[simp] theorem setCore_flaws (s : State) (c : Nat) (x : Core) : (setCore s c x).flaws = s.flaws := rfl

@[simp] theorem updCore_mem (s : State) (c : Nat) (f : Core → Core) : (updCore s c f).mem = s.mem := rfl
@[simp] theorem updCore_host (s : State) (c : Nat) (f : Core → Core) : (updCore s c f).host = s.host := rfl
@[simp] theorem updCore_pm (s : State) (c : Nat) (f : Core → Core) : (updCore s c f).pm = s.pm := rfl
@[simp] theorem updCore_gang (s : State) (c : Nat) (f : Core → Core) : (updCore s c f).gang = s.gang := rfl
@[simp] theorem updCore_ctxs (s : State) (c : Nat) (f : Core → Core) : (updCore s c f).ctxs = s.ctxs := rfl
@[simp] theorem updCore_launches (s : State) (c : Nat) (f : Core → Core) : (updCore s c f).launches = s.launches := rfl
@[simp] theorem updCore_tasks (s : State) (c : Nat) (f : Core → Core) : (updCore s c f).tasks = s.tasks := rfl
@[simp] theorem updCore_nextId (s : State) (c : Nat) (f : Core → Core) : (updCore s c f).nextId = s.nextId := rfl
@[simp] theorem updCore_dies (s : State) (c : Nat) (f : Core → Core) : (updCore s c f).dies = s.dies := rfl
@[simp] theorem updCore_folds (s : State) (c : Nat) (f : Core → Core) : (updCore s c f).folds = s.folds := rfl
@[simp] theorem updCore_programs (s : State) (c : Nat) (f : Core → Core) : (updCore s c f).programs = s.programs := rfl
@[simp] theorem updCore_net (s : State) (c : Nat) (f : Core → Core) : (updCore s c f).net = s.net := rfl
@[simp] theorem updCore_agenda (s : State) (c : Nat) (f : Core → Core) : (updCore s c f).agenda = s.agenda := rfl
@[simp] theorem updCore_actor (s : State) (c : Nat) (f : Core → Core) : (updCore s c f).actor = s.actor := rfl
@[simp] theorem updCore_fresh (s : State) (c : Nat) (f : Core → Core) : (updCore s c f).fresh = s.fresh := rfl
@[simp] theorem updCore_raised (s : State) (c : Nat) (f : Core → Core) : (updCore s c f).raised = s.raised := rfl
@[simp] theorem updCore_flaws (s : State) (c : Nat) (f : Core → Core) : (updCore s c f).flaws = s.flaws := rfl

@[simp] theorem setBank_mem (s : State) (c b : Nat) (x : Bank) : (setBank s c b x).mem = s.mem := rfl
@[simp] theorem setBank_host (s : State) (c b : Nat) (x : Bank) : (setBank s c b x).host = s.host := rfl
@[simp] theorem setBank_pm (s : State) (c b : Nat) (x : Bank) : (setBank s c b x).pm = s.pm := rfl
@[simp] theorem setBank_gang (s : State) (c b : Nat) (x : Bank) : (setBank s c b x).gang = s.gang := rfl
@[simp] theorem setBank_ctxs (s : State) (c b : Nat) (x : Bank) : (setBank s c b x).ctxs = s.ctxs := rfl
@[simp] theorem setBank_launches (s : State) (c b : Nat) (x : Bank) : (setBank s c b x).launches = s.launches := rfl
@[simp] theorem setBank_tasks (s : State) (c b : Nat) (x : Bank) : (setBank s c b x).tasks = s.tasks := rfl
@[simp] theorem setBank_nextId (s : State) (c b : Nat) (x : Bank) : (setBank s c b x).nextId = s.nextId := rfl
@[simp] theorem setBank_dies (s : State) (c b : Nat) (x : Bank) : (setBank s c b x).dies = s.dies := rfl
@[simp] theorem setBank_folds (s : State) (c b : Nat) (x : Bank) : (setBank s c b x).folds = s.folds := rfl
@[simp] theorem setBank_programs (s : State) (c b : Nat) (x : Bank) : (setBank s c b x).programs = s.programs := rfl
@[simp] theorem setBank_net (s : State) (c b : Nat) (x : Bank) : (setBank s c b x).net = s.net := rfl
@[simp] theorem setBank_agenda (s : State) (c b : Nat) (x : Bank) : (setBank s c b x).agenda = s.agenda := rfl
@[simp] theorem setBank_actor (s : State) (c b : Nat) (x : Bank) : (setBank s c b x).actor = s.actor := rfl
@[simp] theorem setBank_fresh (s : State) (c b : Nat) (x : Bank) : (setBank s c b x).fresh = s.fresh := rfl
@[simp] theorem setBank_raised (s : State) (c b : Nat) (x : Bank) : (setBank s c b x).raised = s.raised := rfl
@[simp] theorem setBank_flaws (s : State) (c b : Nat) (x : Bank) : (setBank s c b x).flaws = s.flaws := rfl

@[simp] theorem updBank_mem (s : State) (c b : Nat) (f : Bank → Bank) : (updBank s c b f).mem = s.mem := rfl
@[simp] theorem updBank_host (s : State) (c b : Nat) (f : Bank → Bank) : (updBank s c b f).host = s.host := rfl
@[simp] theorem updBank_pm (s : State) (c b : Nat) (f : Bank → Bank) : (updBank s c b f).pm = s.pm := rfl
@[simp] theorem updBank_gang (s : State) (c b : Nat) (f : Bank → Bank) : (updBank s c b f).gang = s.gang := rfl
@[simp] theorem updBank_ctxs (s : State) (c b : Nat) (f : Bank → Bank) : (updBank s c b f).ctxs = s.ctxs := rfl
@[simp] theorem updBank_launches (s : State) (c b : Nat) (f : Bank → Bank) : (updBank s c b f).launches = s.launches := rfl
@[simp] theorem updBank_tasks (s : State) (c b : Nat) (f : Bank → Bank) : (updBank s c b f).tasks = s.tasks := rfl
@[simp] theorem updBank_nextId (s : State) (c b : Nat) (f : Bank → Bank) : (updBank s c b f).nextId = s.nextId := rfl
@[simp] theorem updBank_dies (s : State) (c b : Nat) (f : Bank → Bank) : (updBank s c b f).dies = s.dies := rfl
@[simp] theorem updBank_folds (s : State) (c b : Nat) (f : Bank → Bank) : (updBank s c b f).folds = s.folds := rfl
@[simp] theorem updBank_programs (s : State) (c b : Nat) (f : Bank → Bank) : (updBank s c b f).programs = s.programs := rfl
@[simp] theorem updBank_net (s : State) (c b : Nat) (f : Bank → Bank) : (updBank s c b f).net = s.net := rfl
@[simp] theorem updBank_agenda (s : State) (c b : Nat) (f : Bank → Bank) : (updBank s c b f).agenda = s.agenda := rfl
@[simp] theorem updBank_actor (s : State) (c b : Nat) (f : Bank → Bank) : (updBank s c b f).actor = s.actor := rfl
@[simp] theorem updBank_fresh (s : State) (c b : Nat) (f : Bank → Bank) : (updBank s c b f).fresh = s.fresh := rfl
@[simp] theorem updBank_raised (s : State) (c b : Nat) (f : Bank → Bank) : (updBank s c b f).raised = s.raised := rfl
@[simp] theorem updBank_flaws (s : State) (c b : Nat) (f : Bank → Bank) : (updBank s c b f).flaws = s.flaws := rfl

@[simp] theorem setRegs_mem (s : State) (c b : Nat) (r : Regs) : (setRegs s c b r).mem = s.mem := rfl
@[simp] theorem setRegs_host (s : State) (c b : Nat) (r : Regs) : (setRegs s c b r).host = s.host := rfl
@[simp] theorem setRegs_pm (s : State) (c b : Nat) (r : Regs) : (setRegs s c b r).pm = s.pm := rfl
@[simp] theorem setRegs_gang (s : State) (c b : Nat) (r : Regs) : (setRegs s c b r).gang = s.gang := rfl
@[simp] theorem setRegs_ctxs (s : State) (c b : Nat) (r : Regs) : (setRegs s c b r).ctxs = s.ctxs := rfl
@[simp] theorem setRegs_launches (s : State) (c b : Nat) (r : Regs) : (setRegs s c b r).launches = s.launches := rfl
@[simp] theorem setRegs_tasks (s : State) (c b : Nat) (r : Regs) : (setRegs s c b r).tasks = s.tasks := rfl
@[simp] theorem setRegs_nextId (s : State) (c b : Nat) (r : Regs) : (setRegs s c b r).nextId = s.nextId := rfl
@[simp] theorem setRegs_dies (s : State) (c b : Nat) (r : Regs) : (setRegs s c b r).dies = s.dies := rfl
@[simp] theorem setRegs_folds (s : State) (c b : Nat) (r : Regs) : (setRegs s c b r).folds = s.folds := rfl
@[simp] theorem setRegs_programs (s : State) (c b : Nat) (r : Regs) : (setRegs s c b r).programs = s.programs := rfl
@[simp] theorem setRegs_net (s : State) (c b : Nat) (r : Regs) : (setRegs s c b r).net = s.net := rfl
@[simp] theorem setRegs_agenda (s : State) (c b : Nat) (r : Regs) : (setRegs s c b r).agenda = s.agenda := rfl
@[simp] theorem setRegs_actor (s : State) (c b : Nat) (r : Regs) : (setRegs s c b r).actor = s.actor := rfl
@[simp] theorem setRegs_fresh (s : State) (c b : Nat) (r : Regs) : (setRegs s c b r).fresh = s.fresh := rfl
@[simp] theorem setRegs_raised (s : State) (c b : Nat) (r : Regs) : (setRegs s c b r).raised = s.raised := rfl
@[simp] theorem setRegs_flaws (s : State) (c b : Nat) (r : Regs) : (setRegs s c b r).flaws = s.flaws := rfl

@[simp] theorem updRegs_mem (s : State) (c b : Nat) (f : Regs → Regs) : (updRegs s c b f).mem = s.mem := rfl
@[simp] theorem updRegs_host (s : State) (c b : Nat) (f : Regs → Regs) : (updRegs s c b f).host = s.host := rfl
@[simp] theorem updRegs_pm (s : State) (c b : Nat) (f : Regs → Regs) : (updRegs s c b f).pm = s.pm := rfl
@[simp] theorem updRegs_gang (s : State) (c b : Nat) (f : Regs → Regs) : (updRegs s c b f).gang = s.gang := rfl
@[simp] theorem updRegs_ctxs (s : State) (c b : Nat) (f : Regs → Regs) : (updRegs s c b f).ctxs = s.ctxs := rfl
@[simp] theorem updRegs_launches (s : State) (c b : Nat) (f : Regs → Regs) : (updRegs s c b f).launches = s.launches := rfl
@[simp] theorem updRegs_tasks (s : State) (c b : Nat) (f : Regs → Regs) : (updRegs s c b f).tasks = s.tasks := rfl
@[simp] theorem updRegs_nextId (s : State) (c b : Nat) (f : Regs → Regs) : (updRegs s c b f).nextId = s.nextId := rfl
@[simp] theorem updRegs_dies (s : State) (c b : Nat) (f : Regs → Regs) : (updRegs s c b f).dies = s.dies := rfl
@[simp] theorem updRegs_folds (s : State) (c b : Nat) (f : Regs → Regs) : (updRegs s c b f).folds = s.folds := rfl
@[simp] theorem updRegs_programs (s : State) (c b : Nat) (f : Regs → Regs) : (updRegs s c b f).programs = s.programs := rfl
@[simp] theorem updRegs_net (s : State) (c b : Nat) (f : Regs → Regs) : (updRegs s c b f).net = s.net := rfl
@[simp] theorem updRegs_agenda (s : State) (c b : Nat) (f : Regs → Regs) : (updRegs s c b f).agenda = s.agenda := rfl
@[simp] theorem updRegs_actor (s : State) (c b : Nat) (f : Regs → Regs) : (updRegs s c b f).actor = s.actor := rfl
@[simp] theorem updRegs_fresh (s : State) (c b : Nat) (f : Regs → Regs) : (updRegs s c b f).fresh = s.fresh := rfl
@[simp] theorem updRegs_raised (s : State) (c b : Nat) (f : Regs → Regs) : (updRegs s c b f).raised = s.raised := rfl
@[simp] theorem updRegs_flaws (s : State) (c b : Nat) (f : Regs → Regs) : (updRegs s c b f).flaws = s.flaws := rfl

@[simp] theorem setDie_mem (s : State) (d : Nat) (x : Die) : (setDie s d x).mem = s.mem := rfl
@[simp] theorem setDie_host (s : State) (d : Nat) (x : Die) : (setDie s d x).host = s.host := rfl
@[simp] theorem setDie_pm (s : State) (d : Nat) (x : Die) : (setDie s d x).pm = s.pm := rfl
@[simp] theorem setDie_gang (s : State) (d : Nat) (x : Die) : (setDie s d x).gang = s.gang := rfl
@[simp] theorem setDie_ctxs (s : State) (d : Nat) (x : Die) : (setDie s d x).ctxs = s.ctxs := rfl
@[simp] theorem setDie_launches (s : State) (d : Nat) (x : Die) : (setDie s d x).launches = s.launches := rfl
@[simp] theorem setDie_tasks (s : State) (d : Nat) (x : Die) : (setDie s d x).tasks = s.tasks := rfl
@[simp] theorem setDie_nextId (s : State) (d : Nat) (x : Die) : (setDie s d x).nextId = s.nextId := rfl
@[simp] theorem setDie_folds (s : State) (d : Nat) (x : Die) : (setDie s d x).folds = s.folds := rfl
@[simp] theorem setDie_cores (s : State) (d : Nat) (x : Die) : (setDie s d x).cores = s.cores := rfl
@[simp] theorem setDie_programs (s : State) (d : Nat) (x : Die) : (setDie s d x).programs = s.programs := rfl
@[simp] theorem setDie_net (s : State) (d : Nat) (x : Die) : (setDie s d x).net = s.net := rfl
@[simp] theorem setDie_agenda (s : State) (d : Nat) (x : Die) : (setDie s d x).agenda = s.agenda := rfl
@[simp] theorem setDie_actor (s : State) (d : Nat) (x : Die) : (setDie s d x).actor = s.actor := rfl
@[simp] theorem setDie_fresh (s : State) (d : Nat) (x : Die) : (setDie s d x).fresh = s.fresh := rfl
@[simp] theorem setDie_raised (s : State) (d : Nat) (x : Die) : (setDie s d x).raised = s.raised := rfl
@[simp] theorem setDie_flaws (s : State) (d : Nat) (x : Die) : (setDie s d x).flaws = s.flaws := rfl

@[simp] theorem updDie_mem (s : State) (d : Nat) (f : Die → Die) : (updDie s d f).mem = s.mem := rfl
@[simp] theorem updDie_host (s : State) (d : Nat) (f : Die → Die) : (updDie s d f).host = s.host := rfl
@[simp] theorem updDie_pm (s : State) (d : Nat) (f : Die → Die) : (updDie s d f).pm = s.pm := rfl
@[simp] theorem updDie_gang (s : State) (d : Nat) (f : Die → Die) : (updDie s d f).gang = s.gang := rfl
@[simp] theorem updDie_ctxs (s : State) (d : Nat) (f : Die → Die) : (updDie s d f).ctxs = s.ctxs := rfl
@[simp] theorem updDie_launches (s : State) (d : Nat) (f : Die → Die) : (updDie s d f).launches = s.launches := rfl
@[simp] theorem updDie_tasks (s : State) (d : Nat) (f : Die → Die) : (updDie s d f).tasks = s.tasks := rfl
@[simp] theorem updDie_nextId (s : State) (d : Nat) (f : Die → Die) : (updDie s d f).nextId = s.nextId := rfl
@[simp] theorem updDie_folds (s : State) (d : Nat) (f : Die → Die) : (updDie s d f).folds = s.folds := rfl
@[simp] theorem updDie_cores (s : State) (d : Nat) (f : Die → Die) : (updDie s d f).cores = s.cores := rfl
@[simp] theorem updDie_programs (s : State) (d : Nat) (f : Die → Die) : (updDie s d f).programs = s.programs := rfl
@[simp] theorem updDie_net (s : State) (d : Nat) (f : Die → Die) : (updDie s d f).net = s.net := rfl
@[simp] theorem updDie_agenda (s : State) (d : Nat) (f : Die → Die) : (updDie s d f).agenda = s.agenda := rfl
@[simp] theorem updDie_actor (s : State) (d : Nat) (f : Die → Die) : (updDie s d f).actor = s.actor := rfl
@[simp] theorem updDie_fresh (s : State) (d : Nat) (f : Die → Die) : (updDie s d f).fresh = s.fresh := rfl
@[simp] theorem updDie_raised (s : State) (d : Nat) (f : Die → Die) : (updDie s d f).raised = s.raised := rfl
@[simp] theorem updDie_flaws (s : State) (d : Nat) (f : Die → Die) : (updDie s d f).flaws = s.flaws := rfl

@[simp] theorem setFold_mem (s : State) (n : Nat) (x : Fold) : (setFold s n x).mem = s.mem := rfl
@[simp] theorem setFold_host (s : State) (n : Nat) (x : Fold) : (setFold s n x).host = s.host := rfl
@[simp] theorem setFold_pm (s : State) (n : Nat) (x : Fold) : (setFold s n x).pm = s.pm := rfl
@[simp] theorem setFold_gang (s : State) (n : Nat) (x : Fold) : (setFold s n x).gang = s.gang := rfl
@[simp] theorem setFold_ctxs (s : State) (n : Nat) (x : Fold) : (setFold s n x).ctxs = s.ctxs := rfl
@[simp] theorem setFold_launches (s : State) (n : Nat) (x : Fold) : (setFold s n x).launches = s.launches := rfl
@[simp] theorem setFold_tasks (s : State) (n : Nat) (x : Fold) : (setFold s n x).tasks = s.tasks := rfl
@[simp] theorem setFold_nextId (s : State) (n : Nat) (x : Fold) : (setFold s n x).nextId = s.nextId := rfl
@[simp] theorem setFold_dies (s : State) (n : Nat) (x : Fold) : (setFold s n x).dies = s.dies := rfl
@[simp] theorem setFold_cores (s : State) (n : Nat) (x : Fold) : (setFold s n x).cores = s.cores := rfl
@[simp] theorem setFold_programs (s : State) (n : Nat) (x : Fold) : (setFold s n x).programs = s.programs := rfl
@[simp] theorem setFold_net (s : State) (n : Nat) (x : Fold) : (setFold s n x).net = s.net := rfl
@[simp] theorem setFold_agenda (s : State) (n : Nat) (x : Fold) : (setFold s n x).agenda = s.agenda := rfl
@[simp] theorem setFold_actor (s : State) (n : Nat) (x : Fold) : (setFold s n x).actor = s.actor := rfl
@[simp] theorem setFold_fresh (s : State) (n : Nat) (x : Fold) : (setFold s n x).fresh = s.fresh := rfl
@[simp] theorem setFold_raised (s : State) (n : Nat) (x : Fold) : (setFold s n x).raised = s.raised := rfl
@[simp] theorem setFold_flaws (s : State) (n : Nat) (x : Fold) : (setFold s n x).flaws = s.flaws := rfl

@[simp] theorem updCtx_mem (s : State) (n : Nat) (f : Context → Context) : (updCtx s n f).mem = s.mem := rfl
@[simp] theorem updCtx_host (s : State) (n : Nat) (f : Context → Context) : (updCtx s n f).host = s.host := rfl
@[simp] theorem updCtx_pm (s : State) (n : Nat) (f : Context → Context) : (updCtx s n f).pm = s.pm := rfl
@[simp] theorem updCtx_gang (s : State) (n : Nat) (f : Context → Context) : (updCtx s n f).gang = s.gang := rfl
@[simp] theorem updCtx_launches (s : State) (n : Nat) (f : Context → Context) : (updCtx s n f).launches = s.launches := rfl
@[simp] theorem updCtx_tasks (s : State) (n : Nat) (f : Context → Context) : (updCtx s n f).tasks = s.tasks := rfl
@[simp] theorem updCtx_nextId (s : State) (n : Nat) (f : Context → Context) : (updCtx s n f).nextId = s.nextId := rfl
@[simp] theorem updCtx_dies (s : State) (n : Nat) (f : Context → Context) : (updCtx s n f).dies = s.dies := rfl
@[simp] theorem updCtx_folds (s : State) (n : Nat) (f : Context → Context) : (updCtx s n f).folds = s.folds := rfl
@[simp] theorem updCtx_cores (s : State) (n : Nat) (f : Context → Context) : (updCtx s n f).cores = s.cores := rfl
@[simp] theorem updCtx_programs (s : State) (n : Nat) (f : Context → Context) : (updCtx s n f).programs = s.programs := rfl
@[simp] theorem updCtx_net (s : State) (n : Nat) (f : Context → Context) : (updCtx s n f).net = s.net := rfl
@[simp] theorem updCtx_agenda (s : State) (n : Nat) (f : Context → Context) : (updCtx s n f).agenda = s.agenda := rfl
@[simp] theorem updCtx_actor (s : State) (n : Nat) (f : Context → Context) : (updCtx s n f).actor = s.actor := rfl
@[simp] theorem updCtx_fresh (s : State) (n : Nat) (f : Context → Context) : (updCtx s n f).fresh = s.fresh := rfl
@[simp] theorem updCtx_raised (s : State) (n : Nat) (f : Context → Context) : (updCtx s n f).raised = s.raised := rfl
@[simp] theorem updCtx_flaws (s : State) (n : Nat) (f : Context → Context) : (updCtx s n f).flaws = s.flaws := rfl

@[simp] theorem updLaunch_mem (s : State) (n : Nat) (f : Launch → Launch) : (updLaunch s n f).mem = s.mem := rfl
@[simp] theorem updLaunch_host (s : State) (n : Nat) (f : Launch → Launch) : (updLaunch s n f).host = s.host := rfl
@[simp] theorem updLaunch_pm (s : State) (n : Nat) (f : Launch → Launch) : (updLaunch s n f).pm = s.pm := rfl
@[simp] theorem updLaunch_gang (s : State) (n : Nat) (f : Launch → Launch) : (updLaunch s n f).gang = s.gang := rfl
@[simp] theorem updLaunch_ctxs (s : State) (n : Nat) (f : Launch → Launch) : (updLaunch s n f).ctxs = s.ctxs := rfl
@[simp] theorem updLaunch_tasks (s : State) (n : Nat) (f : Launch → Launch) : (updLaunch s n f).tasks = s.tasks := rfl
@[simp] theorem updLaunch_nextId (s : State) (n : Nat) (f : Launch → Launch) : (updLaunch s n f).nextId = s.nextId := rfl
@[simp] theorem updLaunch_dies (s : State) (n : Nat) (f : Launch → Launch) : (updLaunch s n f).dies = s.dies := rfl
@[simp] theorem updLaunch_folds (s : State) (n : Nat) (f : Launch → Launch) : (updLaunch s n f).folds = s.folds := rfl
@[simp] theorem updLaunch_cores (s : State) (n : Nat) (f : Launch → Launch) : (updLaunch s n f).cores = s.cores := rfl
@[simp] theorem updLaunch_programs (s : State) (n : Nat) (f : Launch → Launch) : (updLaunch s n f).programs = s.programs := rfl
@[simp] theorem updLaunch_net (s : State) (n : Nat) (f : Launch → Launch) : (updLaunch s n f).net = s.net := rfl
@[simp] theorem updLaunch_agenda (s : State) (n : Nat) (f : Launch → Launch) : (updLaunch s n f).agenda = s.agenda := rfl
@[simp] theorem updLaunch_actor (s : State) (n : Nat) (f : Launch → Launch) : (updLaunch s n f).actor = s.actor := rfl
@[simp] theorem updLaunch_fresh (s : State) (n : Nat) (f : Launch → Launch) : (updLaunch s n f).fresh = s.fresh := rfl
@[simp] theorem updLaunch_raised (s : State) (n : Nat) (f : Launch → Launch) : (updLaunch s n f).raised = s.raised := rfl
@[simp] theorem updLaunch_flaws (s : State) (n : Nat) (f : Launch → Launch) : (updLaunch s n f).flaws = s.flaws := rfl

@[simp] theorem updTask_mem (s : State) (n : Nat) (f : Task → Task) : (updTask s n f).mem = s.mem := rfl
@[simp] theorem updTask_host (s : State) (n : Nat) (f : Task → Task) : (updTask s n f).host = s.host := rfl
@[simp] theorem updTask_pm (s : State) (n : Nat) (f : Task → Task) : (updTask s n f).pm = s.pm := rfl
@[simp] theorem updTask_gang (s : State) (n : Nat) (f : Task → Task) : (updTask s n f).gang = s.gang := rfl
@[simp] theorem updTask_ctxs (s : State) (n : Nat) (f : Task → Task) : (updTask s n f).ctxs = s.ctxs := rfl
@[simp] theorem updTask_launches (s : State) (n : Nat) (f : Task → Task) : (updTask s n f).launches = s.launches := rfl
@[simp] theorem updTask_nextId (s : State) (n : Nat) (f : Task → Task) : (updTask s n f).nextId = s.nextId := rfl
@[simp] theorem updTask_dies (s : State) (n : Nat) (f : Task → Task) : (updTask s n f).dies = s.dies := rfl
@[simp] theorem updTask_folds (s : State) (n : Nat) (f : Task → Task) : (updTask s n f).folds = s.folds := rfl
@[simp] theorem updTask_cores (s : State) (n : Nat) (f : Task → Task) : (updTask s n f).cores = s.cores := rfl
@[simp] theorem updTask_programs (s : State) (n : Nat) (f : Task → Task) : (updTask s n f).programs = s.programs := rfl
@[simp] theorem updTask_net (s : State) (n : Nat) (f : Task → Task) : (updTask s n f).net = s.net := rfl
@[simp] theorem updTask_agenda (s : State) (n : Nat) (f : Task → Task) : (updTask s n f).agenda = s.agenda := rfl
@[simp] theorem updTask_actor (s : State) (n : Nat) (f : Task → Task) : (updTask s n f).actor = s.actor := rfl
@[simp] theorem updTask_fresh (s : State) (n : Nat) (f : Task → Task) : (updTask s n f).fresh = s.fresh := rfl
@[simp] theorem updTask_raised (s : State) (n : Nat) (f : Task → Task) : (updTask s n f).raised = s.raised := rfl
@[simp] theorem updTask_flaws (s : State) (n : Nat) (f : Task → Task) : (updTask s n f).flaws = s.flaws := rfl

/-! ### Cores -/

@[simp] theorem coreOf_setCore (s : State) (c : Nat) (x : Core) : coreOf (setCore s c x) c = x := by simp [coreOf, setCore]
theorem coreOf_setCore_other (s : State) {c k : Nat} (x : Core) (h : k ≠ c) : coreOf (setCore s c x) k = coreOf s k := by
  simp [coreOf, setCore, sget_sset, h]
@[simp] theorem setCore_setCore (s : State) (c : Nat) (x y : Core) : setCore (setCore s c x) c y = setCore s c y := by
  simp [setCore]
@[simp] theorem coreOf_updCore (s : State) (c : Nat) (f : Core → Core) : coreOf (updCore s c f) c = f (coreOf s c) := by
  simp [updCore]
theorem coreOf_updCore_other (s : State) {c k : Nat} (f : Core → Core) (h : k ≠ c) :
    coreOf (updCore s c f) k = coreOf s k := by simp [updCore, coreOf_setCore_other _ _ h]

/-! ### Banks -/

@[simp] theorem bankOf_setBank (s : State) (c b : Nat) (x : Bank) : bankOf (setBank s c b x) c b = x := by
  simp [bankOf, setBank]
theorem bankOf_setBank_other (s : State) (c : Nat) {b j : Nat} (x : Bank) (h : j ≠ b) :
    bankOf (setBank s c b x) c j = bankOf s c j := by simp [bankOf, setBank, sget_sset, h]
theorem bankOf_setBank_core (s : State) {c k : Nat} (b j : Nat) (x : Bank) (h : k ≠ c) :
    bankOf (setBank s c b x) k j = bankOf s k j := by simp [bankOf, setBank, coreOf_updCore_other _ _ h]
@[simp] theorem setBank_setBank (s : State) (c b : Nat) (x y : Bank) : setBank (setBank s c b x) c b y = setBank s c b y := by
  simp [setBank, updCore]
@[simp] theorem bankOf_updBank (s : State) (c b : Nat) (f : Bank → Bank) : bankOf (updBank s c b f) c b = f (bankOf s c b) := by
  simp [updBank]
@[simp] theorem updBank_updBank (s : State) (c b : Nat) (f h : Bank → Bank) :
    updBank (updBank s c b f) c b h = updBank s c b (fun k => h (f k)) := by simp [updBank]
@[simp] theorem coreOf_setBank_active (s : State) (c b : Nat) (x : Bank) :
    (coreOf (setBank s c b x) c).active = (coreOf s c).active := by simp [setBank]

/-! ### Registers -/

@[simp] theorem regsOf_setRegs (s : State) (c b : Nat) (r : Regs) : regsOf (setRegs s c b r) c b = r := by
  simp [regsOf, setRegs]
@[simp] theorem setRegs_setRegs (s : State) (c b : Nat) (r q : Regs) : setRegs (setRegs s c b r) c b q = setRegs s c b q := by
  simp [setRegs]
@[simp] theorem regsOf_updRegs (s : State) (c b : Nat) (f : Regs → Regs) : regsOf (updRegs s c b f) c b = f (regsOf s c b) := by
  simp [updRegs]
theorem updRegs_setRegs (s : State) (c b : Nat) (f : Regs → Regs) (r : Regs) :
    updRegs (setRegs s c b r) c b f = setRegs s c b (f r) := by simp [updRegs]
@[simp] theorem updRegs_updRegs (s : State) (c b : Nat) (f h : Regs → Regs) :
    updRegs (updRegs s c b f) c b h = updRegs s c b (fun r => h (f r)) := by simp [updRegs]
@[simp] theorem updBank_regs_task (s : State) (c b : Nat) (r : Regs) :
    (bankOf (setRegs s c b r) c b).task = (bankOf s c b).task := by simp [setRegs]

/-- Registers written leave the other banks and cores as they were. -/
theorem bankOf_setRegs_other (s : State) (c : Nat) {b j : Nat} (r : Regs) (h : j ≠ b) :
    bankOf (setRegs s c b r) c j = bankOf s c j := by simp [setRegs, updBank, bankOf_setBank_other _ _ _ h]
theorem bankOf_setRegs_core (s : State) {c k : Nat} (b j : Nat) (r : Regs) (h : k ≠ c) :
    bankOf (setRegs s c b r) k j = bankOf s k j := by simp [setRegs, updBank, bankOf_setBank_core _ _ _ _ h]

/-! ### Dies, folds -/

@[simp] theorem dieOf_setDie (s : State) (d : Nat) (x : Die) : dieOf (setDie s d x) d = x := by simp [dieOf, setDie]
theorem dieOf_setDie_other (s : State) {d k : Nat} (x : Die) (h : k ≠ d) : dieOf (setDie s d x) k = dieOf s k := by
  simp [dieOf, setDie, sget_sset, h]
@[simp] theorem dieOf_updDie (s : State) (d : Nat) (f : Die → Die) : dieOf (updDie s d f) d = f (dieOf s d) := by
  simp [updDie]
@[simp] theorem foldOf_setFold (s : State) (n : Nat) (x : Fold) : foldOf (setFold s n x) n = x := by simp [foldOf, setFold]
theorem foldOf_setFold_other (s : State) {n k : Nat} (x : Fold) (h : k ≠ n) : foldOf (setFold s n x) k = foldOf s k := by
  simp [foldOf, setFold, sget_sset, h]

end Sys2Proof.Machine
end

