-- ==== Sys2Proof/Laws/Issue.lean ====
section
/-!
SUPPORT. Issue of a control instruction: what it answers from what its body answers; and the operand forms against their pure
description.
-/

namespace Sys2Proof.Machine

open Sys2Proof.Safety

/-- The bank of an agent that runs holds its task. -/
theorem task_of_who {s : State} {c : Nat} {w : Who} (h : whoRuns s c = some w) :
    w.core = c ∧ (coreOf s c).active = some w.bank ∧ (bankOf s c w.bank).task = some w.task := by
  unfold whoRuns at h
  split at h
  · cases h
  · split at h
    · cases h
    · split at h
      · cases h
      · next hb => cases h; exact ⟨rfl, by assumption, by assumption⟩

theorem acts_task {w : Who} {s : State} (h : Acts w s) : (bankOf s w.core w.bank).task = some w.task :=
  (task_of_who h.who).2.2

/-- A body that answers, answers for the instruction. -/
theorem issueWith_ok {g : Guard} {n : Nat} {squash : Who → State → State} {body : Who → Act Flow} {w : Who} {s t : State}
    {f : Flow} (h : Issues w g s) (hb : (body w).go s = (.ok f, t)) :
    issueWith g n squash body s = .next (advance w n f t) := by
  simp [issueWith, h.actor, h.who, h.runs, h.noMiss, h.stays, h.passes, hb]

theorem issue_ok {g : Guard} {n : Nat} {body : Who → Act Flow} {w : Who} {s t : State} {f : Flow} (h : Issues w g s)
    (hb : (body w).go s = (.ok f, t)) : issue g n body s = .next (advance w n f t) := issueWith_ok h hb

/-- A body that traps, traps precisely. -/
theorem issueWith_trap {g : Guard} {n : Nat} {squash : Who → State → State} {body : Who → Act Flow} {w : Who} {s t : State}
    {c : Trap} {i : Option Word} (h : Issues w g s) (hb : (body w).go s = (.error (.trap c i), t)) :
    issueWith g n squash body s = .next (raiseNow w n c i (keepRegs w (regsOf s w.core w.bank) t)) := by
  simp [issueWith, h.actor, h.who, h.runs, h.noMiss, h.stays, h.passes, hb]

/-- A body that waits leaves the registers as they stood. -/
theorem issueWith_wait {g : Guard} {n : Nat} {squash : Who → State → State} {body : Who → Act Flow} {w : Who} {s t : State}
    (h : Issues w g s) (hb : (body w).go s = (.error .wait, t)) :
    issueWith g n squash body s = .next (keepRegs w (regsOf s w.core w.bank) t) := by
  simp [issueWith, h.actor, h.who, h.runs, h.noMiss, h.stays, h.passes, hb]

/-- A squashed instruction only moves the PC on. -/
theorem issue_squashed {g : Guard} {n : Nat} {body : Who → Act Flow} {w : Who} {s : State} (h : Squashed w g s) :
    issue g n body s = .next (advance w n .next s) := by
  simp [issue, issueWith, h.actor, h.who, h.runs, h.noMiss, h.stays, h.fails]

theorem advance_next {w : Who} {n : Nat} {s : State} (h : (bankOf s w.core w.bank).task = some w.task) :
    advance w n .next s = withRegs w s (pcOn (regs w s) n) := by
  simp [advance, h, updRegs, pcOn, withRegs, regs]

/-- The PC moves on after registers were written. -/
theorem advance_setRegs {w : Who} {n : Nat} {s : State} {r : Regs} (h : (bankOf s w.core w.bank).task = some w.task) :
    advance w n .next (setRegs s w.core w.bank r) = withRegs w s (pcOn r n) := by
  rw [advance_next (by simpa using h)]
  simp [withRegs, regs]

/-! ### Operands -/

theorem constantOf_eq (n : Nat) (h : 52 ≤ n) (h' : n < 63) :
    constantOf n = ([1, 2, 3, 4, 8, 16, 32, 64, 128, 256] : List Word).getD (n - 52) (-1) := by
  interval_cases n <;> rfl

/-- Two states that differ at most in the registers of an agent's bank. -/
def SameBut (w : Who) (s t : State) : Prop := ∀ q, setRegs t w.core w.bank q = setRegs s w.core w.bank q

theorem SameBut.refl (w : Who) (s : State) : SameBut w s s := fun _ => rfl

theorem SameBut.setRegs (w : Who) (s t : State) (r : Regs) (h : SameBut w s t) :
    SameBut w s (setRegs t w.core w.bank r) := fun q => by rw [setRegs_setRegs, h]

theorem SameBut.task {w : Who} {s t : State} (h : SameBut w s t) :
    (bankOf t w.core w.bank).task = (bankOf s w.core w.bank).task := by
  rw [← updBank_regs_task t w.core w.bank Regs.reset, h, updBank_regs_task]

/-- A source that can be read gives its value and leaves its registers. -/
theorem go_readSrc {w : Who} {s t : State} {a : Spec} {x : Val} {r' : Regs} (hs : SameBut w s t)
    (h : source (regs w t) a = some (x, r')) :
    ∃ t', (readSrc w a).go t = (.ok x, t') ∧ SameBut w s t' ∧ regs w t' = r' := by
  unfold source at h
  unfold readSrc
  simp only at h ⊢
  split at h
  · next h1 =>
    simp only [h1, if_true]
    split at h
    · next h2 =>
      cases h
      exact ⟨t, by simp [readG, regsAct, go_bind, go_map, h2, gRead, regs], hs, rfl⟩
    · cases h
  · next h1 =>
    simp only [h1, if_false]
    split at h
    · next h2 =>
      simp only [h2, if_true]
      split at h
      · next h3 => cases h; exact ⟨t, by simp [regsAct, go_bind, h3], hs, rfl⟩
      · next e h3 =>
        split at h
        · next h4 => cases h; exact ⟨t, by simp [regsAct, go_bind, go_map, h3, h4], hs, rfl⟩
        · cases h
    · next h2 =>
      simp only [h2, if_false]
      split at h
      · next h3 =>
        simp only [h3, if_true]
        split at h
        · cases h
        · next e rest h4 =>
          split at h
          · next h5 =>
            cases h
            refine ⟨_, by simp [popQ, regsAct, setRegsAct, go_bind, h4, h5, updRegs]; rfl, ?_, ?_⟩
            · exact SameBut.setRegs _ _ _ _ hs
            · simp [regs]
          · cases h
      · next h3 =>
        simp only [h3, if_false]
        split at h
        · next h4 => cases h; exact ⟨t, by simp [h4, constantOf_eq a.toNat (by omega) h4], hs, rfl⟩
        · cases h

/-- A result that can be written is. -/
theorem go_writeD {w : Who} {s t : State} {d : Spec} {v : Val} {r' : Regs} (hs : SameBut w s t)
    (h : result (regs w t) d v = some r') :
    (writeD w d v).go t = (.ok (), setRegs s w.core w.bank r') := by
  unfold result at h
  simp only at h
  split at h
  · next h1 =>
    have h2 : d.toNat < 32 := h1.1
    have h3 : sget 0 (regsOf t w.core w.bank).gWait (physOf (regsOf t w.core w.bank).rb d.toNat) = 0 := h1.2
    cases h
    rw [← hs]
    simp only [writeD, destReady, regsAct, setRegsAct, go_bind, go_state, go_pure, go_requireOpen, go_waitUntil, h2, h3,
      decide_true, beq_self_eq_true, if_true, go_change, updRegs]
    by_cases hp : physOf (regsOf t w.core w.bank).rb d.toNat = 0 <;> simp [push, gWrite, regs, hp]
  · cases h

end Sys2Proof.Machine
end

