-- ==== Sys2Proof/Laws/Commands.lean ====
section
/-!
SUPPORT. Engine commands: their one meaning, and what an engine's turn answers from what its micro-step answers.
-/

namespace Sys2Proof.Machine

open Sys2Proof.Safety

/-- An engine command means what its description says. -/
theorem exec_command {i : Instr} {sp : CmdSpec} (h : specOf i = some sp) (s : State) : exec i s = runCommand i sp s := by
  cases i <;> first | (cases h; rfl) | cases h

/-- At an engine's turn a command's step is the engine's. -/
theorem exec_atEngine {e : Eng} {i : Instr} {sp : CmdSpec} {s : State} (h : AtEngine e i sp s) :
    exec i s = match (runMicro sp e).go s with
      | (.ok _, t) => .next (if stillHeld t e then countHeld sp e t else recHolds e.w t)
      | (.error .wait, t) => .next (countHeld sp e (recHolds e.w { s with fresh := t.fresh }))
      | (.error (.trap c info), t) => .next (haltCmd { s with fresh := t.fresh } e c info none)
      | (.error (.miss x), t) => .next (haltCmd { s with fresh := t.fresh } e .translation none (some x))
      | (.error (.cannot why), _) => .refused (.notEnabled why) := by
  have hrun : exec i s = engineStep i sp e.w.core e.e e.k s := by rw [exec_command h.spec, runCommand, h.actor]
  rw [hrun]
  have he : e = { w := e.w, e := e.e, k := e.k, cmd := e.cmd, part := (bankOf s e.w.core e.w.bank).part, key := srKey s e.w } := by
    rw [← h.part, ← h.key]
  have hq : (e.e != sp.queue) = false := by simp [h.queue]
  simp only [engineStep, h.who, h.holds, hq, h.same, bne_self_eq_false, h.runs, h.open_, h.going,
    Bool.or_false, if_false, Bool.false_eq_true, ← he]
  all_goals (rcases (runMicro sp e).go s with ⟨(_ | _ | _ | _) | _, t⟩ <;> rfl)

/-- A command that no starter issued counts no stall. -/
theorem countHeld_plain {sp : CmdSpec} {e : Eng} (h : e.cmd.starter = false) (s : State) : countHeld sp e s = s := by
  unfold countHeld
  split <;> simp [h]

/-- Nothing is recorded for a task that is in no recording. -/
theorem recHolds_plain {w : Who} {s : State} (h : recordingOf s w.task = none) : recHolds w s = s := by
  simp [recHolds, h]

/-- A started command's turn: what its micro-step leaves, where the recorder then notes what the range checker holds. -/
theorem exec_started {e : Eng} {i : Instr} {sp : CmdSpec} {s u : State} {last : Bool} (h : AtEngine e i sp s)
    (hs : e.cmd.started = true) (hr : mayRun s e.w.core e.w.bank e.e e.k e.cmd = true) (hm : (sp.micro e).go s = (.ok last, u)) :
    let v := if last then retireCmd u e.w.core e.w.bank e.e e.cmd.id else u
    exec i s = .next (if stillHeld v e then countHeld sp e v else recHolds e.w v) := by
  rw [exec_atEngine h]
  have : (runMicro sp e).go s = (.ok (), if last then retireCmd u e.w.core e.w.bank e.e e.cmd.id else u) := by
    cases last <;> simp [runMicro, runStarted, go_bind, h.dispatched, hs, hr, hm]
  simp [this]

end Sys2Proof.Machine
end

