-- ==== Sys2Proof/Laws/Control.lean ====
section
/-!
SUPPORT. What the shared forms of the arithmetic, compare and predicate instructions do when their operands can be read and
their result written.
-/

namespace Sys2Proof.Machine

open Sys2Proof.Safety

variable {w : Who} {g : Guard} {s : State}

theorem aluAB_ok {d a b : Spec} {f : Word → Word → Word} {x y : Val} {r1 r2 r3 : Regs} (h : Issues w g s)
    (ha : source (regs w s) a = some (x, r1)) (hb : source r1 b = some (y, r2))
    (hd : result r2 d ⟨f x.v y.v, mark2 x y⟩ = some r3) : aluAB g d a b f s = .next (withRegs w s (pcOn r3 1)) := by
  obtain ⟨t1, h1, m1, e1⟩ := go_readSrc (SameBut.refl w s) ha
  obtain ⟨t2, h2, m2, e2⟩ := go_readSrc m1 (e1 ▸ hb)
  have h3 := go_writeD m2 (e2 ▸ hd)
  unfold aluAB
  rw [issue_ok (f := .next) h (by rw [go_bind_ok h1, go_bind_ok h2]; exact go_bind_ok h3 _), advance_setRegs (acts_task h.toActs)]

theorem aluImm_ok {d a : Spec} {imm : BitVec 32} {f : Word → Word → Word} {x : Val} {r1 r2 : Regs} (h : Issues w g s)
    (ha : source (regs w s) a = some (x, r1)) (hd : result r1 d ⟨f x.v (sext32 imm), mark1 x⟩ = some r2) :
    aluImm g d a imm f s = .next (withRegs w s (pcOn r2 2)) := by
  obtain ⟨t1, h1, m1, e1⟩ := go_readSrc (SameBut.refl w s) ha
  have h3 := go_writeD m1 (e1 ▸ hd)
  unfold aluImm
  rw [issue_ok (f := .next) h (by rw [go_bind_ok h1]; exact go_bind_ok h3 _), advance_setRegs (acts_task h.toActs)]

theorem aluDA_ok {n : Nat} {d a : Spec} {f : Word → Word → Word} {x y : Val} {r1 r2 r3 : Regs} (h : Issues w g s)
    (hd0 : source (regs w s) d = some (x, r1)) (ha : source r1 a = some (y, r2))
    (hd : result r2 d ⟨f x.v y.v, mark2 x y⟩ = some r3) : aluDA g n d a f s = .next (withRegs w s (pcOn r3 n)) := by
  obtain ⟨t1, h1, m1, e1⟩ := go_readSrc (SameBut.refl w s) hd0
  obtain ⟨t2, h2, m2, e2⟩ := go_readSrc m1 (e1 ▸ ha)
  have h3 := go_writeD m2 (e2 ▸ hd)
  unfold aluDA
  rw [issue_ok (f := .next) h (by rw [go_bind_ok h1, go_bind_ok h2]; exact go_bind_ok h3 _), advance_setRegs (acts_task h.toActs)]

theorem divide_ok {d a : Spec} {f : Word → Word → Word} {x y : Val} {r1 r2 r3 : Regs} (h : Issues w g s)
    (hd0 : source (regs w s) d = some (x, r1)) (ha : source r1 a = some (y, r2)) (hy : y.v ≠ 0)
    (hd : result r2 d ⟨f x.v y.v, mark2 x y⟩ = some r3) : divide g d a f s = .next (withRegs w s (pcOn r3 1)) := by
  obtain ⟨t1, h1, m1, e1⟩ := go_readSrc (SameBut.refl w s) hd0
  obtain ⟨t2, h2, m2, e2⟩ := go_readSrc m1 (e1 ▸ ha)
  have h3 := go_writeD m2 (e2 ▸ hd)
  have hq : (requireOpen (y.v != 0) Trap.divide).go t2 = (.ok (), t2) := by simpa using hy
  unfold divide
  rw [issue_ok (f := .next) h (by rw [go_bind_ok h1, go_bind_ok h2, go_bind_ok hq]; exact go_bind_ok h3 _),
    advance_setRegs (acts_task h.toActs)]

/-- A zero divisor raises DIVIDE, and the registers stand as they did. -/
theorem divide_zero {d a : Spec} {f : Word → Word → Word} {x y : Val} {r1 r2 : Regs} (h : Issues w g s)
    (hd0 : source (regs w s) d = some (x, r1)) (ha : source r1 a = some (y, r2)) (hy : y.v = 0) :
    ∃ t, SameBut w s t ∧ divide g d a f s = .next (raiseNow w 1 .divide none (keepRegs w (regs w s) t)) := by
  obtain ⟨t1, h1, m1, e1⟩ := go_readSrc (SameBut.refl w s) hd0
  obtain ⟨t2, h2, m2, e2⟩ := go_readSrc m1 (e1 ▸ ha)
  have hq : (requireOpen (y.v != 0) Trap.divide).go t2 = (.error (.trap .divide none), t2) := by simp [hy]
  refine ⟨t2, m2, ?_⟩
  unfold divide issue
  rw [issueWith_trap h (by rw [go_bind_ok h1, go_bind_ok h2]; exact go_bind_error hq _)]

theorem unary_ok {n : Nat} {d a : Spec} {f : Word → Word} {x : Val} {r1 r2 : Regs} (h : Issues w g s)
    (ha : source (regs w s) a = some (x, r1)) (hd : result r1 d ⟨f x.v, mark1 x⟩ = some r2) :
    unary g n d a f s = .next (withRegs w s (pcOn r2 n)) := by
  obtain ⟨t1, h1, m1, e1⟩ := go_readSrc (SameBut.refl w s) ha
  have h3 := go_writeD m1 (e1 ▸ hd)
  unfold unary
  rw [issue_ok (f := .next) h (by rw [go_bind_ok h1]; exact go_bind_ok h3 _), advance_setRegs (acts_task h.toActs)]

/-- Registers written through setRegsAct. -/
theorem go_setRegsAct {t : State} (m : SameBut w s t) (f : Regs → Regs) :
    (setRegsAct w f).go t = (.ok (), setRegs s w.core w.bank (f (regs w t))) := by
  rw [← m]
  simp [setRegsAct, updRegs, regs]

theorem compare_ok {d a b : Spec} {c : BitVec 3} {x y : Val} {r1 r2 : Regs} (h : Issues w g s)
    (ha : source (regs w s) a = some (x, r1)) (hb : source r1 b = some (y, r2)) :
    compare g d a b c s =
      .next (withRegs w s (pcOn (setPred r2 d.toNat (condHolds c x.v y.v) (compareMark c x y)) 1)) := by
  obtain ⟨t1, h1, m1, e1⟩ := go_readSrc (SameBut.refl w s) ha
  obtain ⟨t2, h2, m2, e2⟩ := go_readSrc m1 (e1 ▸ hb)
  have h3 := go_setRegsAct m2 (fun r => setPred r d.toNat (condHolds c x.v y.v) (compareMark c x y))
  unfold compare
  rw [issue_ok (f := .next) h (by rw [go_bind_ok h1, go_bind_ok h2]; exact go_bind_ok h3 _), advance_setRegs (acts_task h.toActs), e2]

theorem predAB_ok {d a b : Spec} {f : Bool → Bool → Bool} (h : Issues w g s) :
    predAB g d a b f s = .next (withRegs w s (pcOn (setPred (regs w s) d.toNat
      (f ((regs w s).p.getLsbD a.toNat) ((regs w s).p.getLsbD b.toNat))
      (predMark [sget .clean (regs w s).pMark a.toNat, sget .clean (regs w s).pMark b.toNat])) 1)) := by
  unfold predAB
  rw [issue_ok (f := .next) h (go_bind_ok (go_setRegsAct (SameBut.refl w s) _) _), advance_setRegs (acts_task h.toActs)]

theorem predA_ok {d a : Spec} {f : Bool → Bool} (h : Issues w g s) :
    predA g d a f s = .next (withRegs w s (pcOn (setPred (regs w s) d.toNat (f ((regs w s).p.getLsbD a.toNat))
      (predMark [sget .clean (regs w s).pMark a.toNat])) 1)) := by
  unfold predA
  rw [issue_ok (f := .next) h (go_bind_ok (go_setRegsAct (SameBut.refl w s) _) _), advance_setRegs (acts_task h.toActs)]

end Sys2Proof.Machine
end

