-- ==== Sys2Proof/Laws/Keeps.lean ====
section
/-!
SUPPORT. What an action leaves as it was: a relation between the state before and after, closed under sequence; translation and fetch
keep every bank.
-/

namespace Sys2Proof.Machine

variable {α β : Type}

/-- Whatever an action answers, the state after it stands in a relation to the state before. -/
def Keeps (R : State → State → Prop) (m : Act α) : Prop := ∀ s, R s (m.go s).2

/-- A relation that holds of a state and itself and composes. -/
structure Chains (R : State → State → Prop) : Prop where
  refl : ∀ s, R s s
  trans : ∀ {s t u}, R s t → R t u → R s u

variable {R : State → State → Prop}

theorem Keeps.bind (c : Chains R) {m : Act α} {f : α → Act β} (h : Keeps R m) (k : ∀ a, Keeps R (f a)) : Keeps R (m >>= f) := by
  intro s
  rw [go_bind]
  have h1 := h s
  revert h1
  rcases m.go s with ⟨_ | a, t⟩ <;> intro h1
  · exact h1
  · exact c.trans h1 (k a t)

theorem Keeps.pure (c : Chains R) (a : α) : Keeps R (Pure.pure a : Act α) := fun s => c.refl s
theorem Keeps.state (c : Chains R) : Keeps R state := fun s => c.refl s
theorem Keeps.throw (c : Chains R) (e : Stop) : Keeps R (MonadExcept.throw e : Act α) := fun s => c.refl s
theorem Keeps.trap (c : Chains R) (t : Trap) (i : Word) : Keeps R (trap t i : Act α) := fun s => c.refl s
theorem Keeps.trapOpen (c : Chains R) (t : Trap) : Keeps R (trapOpen t : Act α) := fun s => c.refl s
theorem Keeps.require (c : Chains R) (ok : Bool) (t : Trap) (i : Word) : Keeps R (require ok t i) := by
  intro s; cases ok <;> exact c.refl s
theorem Keeps.requireOpen (c : Chains R) (ok : Bool) (t : Trap) : Keeps R (requireOpen ok t) := by
  intro s; cases ok <;> exact c.refl s
theorem Keeps.waitUntil (c : Chains R) (ok : Bool) : Keeps R (waitUntil ok) := by
  intro s; cases ok <;> exact c.refl s
theorem Keeps.change {f : State → State} (h : ∀ s, R s (f s)) : Keeps R (change f) := fun s => h s
theorem Keeps.ite {p : Prop} [Decidable p] {m n : Act α} (h : Keeps R m) (k : Keeps R n) : Keeps R (if p then m else n) := by
  split <;> assumption

/-- All that a read of memory through translation leaves as it was: banks, tasks, contexts, launches, folds, host, power, gang,
the model's own agent fields, and what a core and a die hold beside their caches. -/
structure Reads (s t : State) : Prop where
  banks : ∀ c b, bankOf t c b = bankOf s c b
  active : ∀ c, (coreOf t c).active = (coreOf s c).active
  tasks : t.tasks = s.tasks
  ctxs : t.ctxs = s.ctxs
  launches : t.launches = s.launches
  folds : t.folds = s.folds
  host : t.host = s.host
  pm : t.pm = s.pm
  gang : t.gang = s.gang
  actor : t.actor = s.actor
  agenda : t.agenda = s.agenda
  raised : t.raised = s.raised
  programs : t.programs = s.programs
  nextId : t.nextId = s.nextId

/-- A state and one that differs from it in memory, dies and the count of free values. -/
theorem reads_of (s : State) (m : List Host.Cell) (d : Sparse Die) (n : Nat) : Reads s { s with mem := m, dies := d, fresh := n } := by
  constructor <;> intros <;> rfl

theorem reads_chains : Chains Reads where
  refl s := reads_of s s.mem s.dies s.fresh
  trans h k := ⟨fun c b => (k.banks c b).trans (h.banks c b), fun c => (k.active c).trans (h.active c), k.tasks.trans h.tasks,
    k.ctxs.trans h.ctxs, k.launches.trans h.launches, k.folds.trans h.folds, k.host.trans h.host, k.pm.trans h.pm,
    k.gang.trans h.gang, k.actor.trans h.actor, k.agenda.trans h.agenda, k.raised.trans h.raised, k.programs.trans h.programs,
    k.nextId.trans h.nextId⟩

/-- A core changes in what it holds beside its banks. -/
theorem reads_updCore (s : State) (c : Nat) (f : Core → Core) (hb : ∀ k, (f k).banks = k.banks)
    (ha : ∀ k, (f k).active = k.active) : Reads s (updCore s c f) := by
  have one : ∀ c', (coreOf (updCore s c f) c').banks = (coreOf s c').banks ∧ (coreOf (updCore s c f) c').active = (coreOf s c').active := by
    intro c'
    by_cases h : c' = c
    · subst h; simp [hb, ha]
    · simp [coreOf_updCore_other s f h]
  exact { reads_of s s.mem s.dies s.fresh with
    banks := fun c' b => by unfold bankOf; rw [(one c').1]
    active := fun c' => (one c').2 }

/-- A die changes. -/
theorem reads_updDie (s : State) (d : Nat) (f : Die → Die) : Reads s (updDie s d f) :=
  reads_of s s.mem _ s.fresh

/-- Memory changes. -/
theorem reads_mem (s : State) (m : List Host.Cell) : Reads s { s with mem := m } :=
  reads_of s m s.dies s.fresh

theorem reads_writeBytes (bs : List Byte) : ∀ (s : State) (pa : Nat), Reads s (writeBytes s pa bs) := by
  induction bs with
  | nil => intro s _; exact reads_chains.refl s
  | cons b r ih => intro s pa; exact reads_chains.trans (reads_mem s _) (ih _ _)

theorem reads_setAccessed (s : State) (a : Nat) (w : Bool) : Reads s (setAccessed s a w) := by
  unfold setAccessed
  simp only
  split
  · exact reads_chains.refl s
  · exact reads_writeBytes _ _ _

/-- A free value is drawn. -/
theorem keeps_draw : Keeps Reads draw := fun s => reads_of s s.mem s.dies (s.fresh + 1)
theorem keeps_drawBool : Keeps Reads drawBool := Keeps.bind reads_chains keeps_draw (fun _ => Keeps.pure reads_chains _)
theorem keeps_drawIndex (n : Nat) : Keeps Reads (drawIndex n) := Keeps.bind reads_chains keeps_draw (fun _ => Keeps.pure reads_chains _)

/-- A core that may keep a value in a cache of its own. -/
theorem reads_updCore_if (s : State) (c : Nat) (p : Core → Bool) (f : Core → Core) (hb : ∀ k, (f k).banks = k.banks)
    (ha : ∀ k, (f k).active = k.active) : Reads s (updCore s c (fun q => if p q then q else f q)) :=
  reads_updCore s c _ (fun k => by split <;> simp [hb]) (fun k => by split <;> simp [ha])

theorem keeps_chooseOld {α : Type} (old : List α) : Keeps Reads (chooseOld old) := by
  have C := reads_chains
  unfold chooseOld
  exact Keeps.ite (Keeps.pure C _) (Keeps.bind C (keeps_drawIndex _) (fun _ => Keeps.pure C _))

theorem keeps_heapEntryUsed (core : Option Nat) (x : Nat) (k : Context) (page : Nat) :
    Keeps Reads (heapEntryUsed core x k page) := by
  have C := reads_chains
  have hat : ∀ c now, Keeps Reads (change (fun s => hatAdd s c x page now)) :=
    fun c now => Keeps.change (fun s => reads_updCore_if s c _ _ (fun _ => rfl) (fun _ => rfl))
  refine Keeps.bind C (Keeps.state C) (fun s => ?_)
  simp only
  split
  · exact Keeps.pure C _
  · refine Keeps.bind C (keeps_chooseOld _) (fun o => ?_)
    split
    · exact Keeps.pure C _
    · exact Keeps.bind C (hat _ _) (fun _ => Keeps.pure C _)

theorem keeps_readEntry (die x level va : Nat) (table : Word) : Keeps Reads (readEntry die x level va table) := by
  have C := reads_chains
  refine Keeps.bind C (Keeps.state C) (fun s => ?_)
  simp only
  have keep : ∀ g : Die → Die, Keeps Reads (change (fun s => updDie s die g)) := fun g => Keeps.change (fun s => reads_updDie s die g)
  refine Keeps.bind C (keeps_chooseOld _) (fun o => ?_)
  split
  · exact Keeps.pure C _
  · exact Keeps.ite (Keeps.bind C (keep _) (fun _ => Keeps.pure C _)) (Keeps.pure C _)

theorem keeps_walkLow (die x va : Nat) (e2 : Word) : Keeps Reads (walkLow die x va e2) := by
  have C := reads_chains
  refine Keeps.bind C (keeps_readEntry _ _ _ _ _) (fun e3 => Keeps.ite (Keeps.pure C _) (Keeps.ite (Keeps.pure C _) ?_))
  exact Keeps.ite (Keeps.pure C _) (Keeps.bind C (keeps_readEntry _ _ _ _ _) (fun e4 => Keeps.ite (Keeps.pure C _) (Keeps.pure C _)))

theorem keeps_walk (die : Nat) (issuer : Option Nat) (x : Nat) (k : Context) (va : Nat) :
    Keeps Reads (walk die issuer x k va) := by
  have C := reads_chains
  refine Keeps.bind C (keeps_readEntry _ _ _ _ _) (fun e1 => Keeps.ite (Keeps.pure C _) (Keeps.ite (Keeps.pure C _) ?_))
  refine Keeps.bind C (keeps_readEntry _ _ _ _ _) (fun e2 => Keeps.ite (Keeps.pure C _) (Keeps.ite ?_ ?_))
  · exact Keeps.ite (Keeps.pure C _) (Keeps.pure C _)
  · exact Keeps.ite (Keeps.pure C _) (Keeps.ite (Keeps.pure C _) (keeps_walkLow _ _ _ _))

theorem reads_grantedMarks (s : State) (b : Bool) (a : Nat) (w : Bool) : Reads s (if b then setAccessed s a w else s) := by
  cases b
  · exact reads_chains.refl s
  · exact reads_setAccessed s a w

theorem keeps_walkedLeaf (k : Context) (va : Nat) (right : Right) (r : Walked) : Keeps Reads (walkedLeaf k va right r) := by
  have C := reads_chains
  unfold walkedLeaf
  split
  · exact Keeps.pure C _
  · exact Keeps.pure C _
  · exact Keeps.pure C _
  · refine Keeps.bind C (Keeps.state C) (fun s => ?_)
    split
    · exact Keeps.bind C (Keeps.change (fun s => reads_grantedMarks s _ _ _)) (fun _ => Keeps.pure C _)
    · exact Keeps.pure C _

theorem reads_cacheLeaf (s : State) (core : Option Nat) (x va : Nat) (r : Walked) : Reads s (cacheLeaf s core x va r) := by
  have C := reads_chains
  unfold cacheLeaf
  split
  · unfold tlbAdd
    split
    · exact C.refl s
    · exact reads_updCore_if s _ _ _ (fun _ => rfl) (fun _ => rfl)
  · exact C.refl s

theorem keeps_translate (core : Option Nat) (die : Nat) (issuer : Option Nat) (x : Nat) (k : Context) (va : Nat) (right : Right) :
    Keeps Reads (translate core die issuer x k va right) := by
  have C := reads_chains
  unfold translate
  refine Keeps.ite (Keeps.pure C _) (Keeps.ite ?_ ?_)
  · exact Keeps.bind C (keeps_heapEntryUsed _ _ _ _) (fun _ => Keeps.bind C (Keeps.state C) (fun _ => Keeps.pure C _))
  · refine Keeps.bind C (Keeps.state C) (fun s => Keeps.bind C (keeps_walk _ _ _ _ _) (fun r => ?_))
    refine Keeps.bind C (keeps_chooseOld _) (fun o => ?_)
    split
    · exact Keeps.bind C (Keeps.state C) (fun _ => Keeps.pure C _)
    · refine Keeps.bind C (keeps_walkedLeaf _ _ _ _) (fun a => ?_)
      exact Keeps.bind C (Keeps.change (fun s => reads_cacheLeaf s _ _ _ _)) (fun _ => Keeps.pure C _)

theorem keeps_reachLeaf (w : Who) (k : Context) (va : Nat) (dkind : BitVec 4) (right : Right) :
    Keeps Reads (reachLeaf w k va dkind right) := by
  have C := reads_chains
  refine Keeps.bind C (keeps_translate _ _ _ _ _ _ _) (fun r => ?_)
  split
  · exact Keeps.pure C _
  · exact Keeps.trap C _ _
  · exact Keeps.throw C _
  · refine Keeps.bind C (keeps_translate _ _ _ _ _ _ _) (fun r => ?_)
    split
    · exact Keeps.pure C _
    · exact Keeps.trap C _ _
    · exact Keeps.throw C _
    · exact Keeps.throw C _

theorem keeps_fetchedLine (c pa : Nat) : Keeps Reads (fetchedLine c pa) := by
  have C := reads_chains
  have keep : ∀ g : Core → Core, (∀ k, (g k).banks = k.banks) → (∀ k, (g k).active = k.active) →
      Keeps Reads (change (fun s => updCore s c g)) := fun g h k => Keeps.change (fun s => reads_updCore s c g h k)
  refine Keeps.bind C (Keeps.state C) (fun s => ?_)
  simp only
  split
  · exact Keeps.bind C (keep _ (fun _ => rfl) (fun _ => rfl)) (fun _ => Keeps.pure C _)
  · refine Keeps.ite (Keeps.pure C _) (Keeps.bind C keeps_drawBool (fun b => Keeps.ite (Keeps.pure C _) ?_))
    exact Keeps.bind C (keep _ (fun _ => rfl) (fun _ => rfl)) (fun _ => Keeps.pure C _)

/-- A fetch keeps all that translation keeps. -/
theorem keeps_fetchLine (w : Who) (va : Word) : Keeps Reads (fetchLine w va) := by
  have C := reads_chains
  refine Keeps.bind C (Keeps.require C _ _ _) (fun _ => Keeps.bind C (Keeps.state C) (fun s => ?_))
  split
  · exact Keeps.trap C _ _
  · refine Keeps.bind C (keeps_reachLeaf _ _ _ _ _) (fun l => Keeps.bind C (Keeps.require C _ _ _) (fun _ => ?_))
    refine Keeps.bind C (Keeps.state C) (fun _ => Keeps.bind C (Keeps.state C) (fun _ => ?_))
    exact Keeps.bind C (Keeps.waitUntil C _) (fun _ => keeps_fetchedLine _ _)

end Sys2Proof.Machine
end

