-- ==== Sys2Proof/Laws/Sources.lean ====
section
/-!
SUPPORT. What reading an operand leaves as it was.
-/

namespace Sys2Proof.Machine

open Sys2Proof.Safety

/-- Only an agent's operand queues differ. -/
def QueuesMove (w : Who) (s t : State) : Prop := SameBut w s t ∧ ∃ q, regs w t = { regs w s with q := q }

theorem queues_chains (w : Who) : Chains (QueuesMove w) where
  refl s := ⟨SameBut.refl w s, _, rfl⟩
  trans h k := ⟨fun q => (k.1 q).trans (h.1 q), by
    obtain ⟨q1, e1⟩ := h.2; obtain ⟨q2, e2⟩ := k.2; exact ⟨q2, by rw [e2, e1]⟩⟩

theorem keeps_regsAct {R} (c : Chains R) (w : Who) : Keeps R (regsAct w) :=
  Keeps.bind c (Keeps.state c) (fun _ => Keeps.pure c _)

/-- Reading a source moves an operand queue on at most. -/
theorem keeps_readSrc (w : Who) (a : Spec) : Keeps (QueuesMove w) (readSrc w a) := by
  have C := queues_chains w
  refine Keeps.ite ?_ (Keeps.ite ?_ (Keeps.ite ?_ (Keeps.ite (Keeps.pure C _) (Keeps.trapOpen C _))))
  · exact Keeps.bind C (keeps_regsAct C w) (fun r => Keeps.bind C (Keeps.waitUntil C _) (fun _ => Keeps.pure C _))
  · refine Keeps.bind C (keeps_regsAct C w) (fun r => ?_)
    split
    · exact Keeps.pure C _
    · exact Keeps.bind C (Keeps.waitUntil C _) (fun _ => Keeps.pure C _)
  · refine Keeps.bind C (keeps_regsAct C w) (fun r => ?_)
    split
    · exact Keeps.trapOpen C _
    · next e rest _ =>
      refine Keeps.bind C (Keeps.waitUntil C _) (fun _ => Keeps.bind C (Keeps.change (fun s => ?_)) (fun _ => Keeps.pure C _))
      exact ⟨fun q => by simp [updRegs], sset [] (regsOf s w.core w.bank).q (a.toNat - 48) rest, by simp [regs]⟩

/-- What a reading of a source leaves. -/
theorem readSrc_keeps {w : Who} {s t : State} {a : Spec} {r : Except Stop Val} (h : (readSrc w a).go s = (r, t)) :
    QueuesMove w s t := by
  have := keeps_readSrc w a s
  rwa [h] at this

end Sys2Proof.Machine
end

