-- ==== Sys2Proof/Tests/Slice0.lean ====
section
/-!
SUPPORT. Tests: words written out from the encodings of file 11, ill-formed terms, one step of instructions, and for each statement
with hypotheses a state and operands that meet them.
-/

namespace Sys2Proof.Tests

set_option Elab.async false

open Sys2Proof.Machine Sys2Proof.Safety Sys2Proof.Claims

/-! ### Helpers -/

/-- The guard of an instruction that always executes. -/
def gd : Guard := ⟨false, false, 0⟩

/-- A task that runs on core 0, its control core moving. -/
def base : State := { State.reset.withFetchWord 32 0x04000000 with actor := .control 0 }

/-- Its agent. -/
def w0 : Who := ⟨0, 0, 1, 0, none⟩

/-- The same with its bank or its registers changed. -/
def withBank (f : Bank → Bank) : State := updBank base 0 0 f
def withR (f : Regs → Regs) : State := updRegs base 0 0 f

/-- g5 = a, g6 = b. -/
def two (a b : Word) : State := withR (fun r => { r with g := [(5, a), (6, b)] })

/-- g4 = a, g5 = b. -/
def pair (a b : Word) : State := withR (fun r => { r with g := [(4, a), (5, b)] })

/-- What an action answers. -/
def answers {α : Type} (m : Act α) (s : State) : Option α :=
  match (m.go s).1 with
  | .ok x => some x
  | .error _ => none

/-- The state an action leaves. -/
def after {α : Type} (m : Act α) (s : State) : State := (m.go s).2

theorem go_answers {α : Type} {m : Act α} {s : State} {x : α} (h : answers m s = some x) : m.go s = (.ok x, after m s) := by
  unfold answers at h
  unfold after
  cases hm : m.go s with
  | mk r u => cases r <;> simp_all

theorem goes {α : Type} {m : Act α} {s : State} (h : (answers m s).isSome = true) : ∃ x u, m.go s = (.ok x, u) := by
  obtain ⟨x, hx⟩ := Option.isSome_iff_exists.mp h
  exact ⟨x, _, go_answers hx⟩

theorem go_some {α : Type} {m : Act α} {s : State} (h : (answers m s).isSome = true) : m.go s = (.ok ((answers m s).get h), after m s) :=
  go_answers (Option.some_get h).symm

theorem go_kept {α : Type} {m : Act α} {s : State} (h : (answers m s).isSome = true) (k : after m s = s) :
    m.go s = (.ok ((answers m s).get h), s) := by
  have := go_some h
  rw [k] at this
  exact this

/-- The next state, if there is one; the state itself otherwise. -/
def nextOf (i : Instr) (s : State) : State :=
  match exec i s with
  | .next t => t
  | _ => s

/-- The instruction goes on. -/
def runs (i : Instr) (s : State) : Bool :=
  match exec i s with
  | .next _ => true
  | _ => false

/-- The next state is the one given. -/
def leads (i : Instr) (s t : State) : Bool :=
  match exec i s with
  | .next u => u == t
  | _ => false

/-- A g register after an instruction. -/
def gAfter (i : Instr) (s : State) (n : Nat) : Option Word :=
  match exec i s with
  | .next t => some (sget 0 (regs w0 t).g n)
  | _ => none

/-- The PC after an instruction. -/
def pcAfter (i : Instr) (s : State) : Option Word :=
  match exec i s with
  | .next t => some (regs w0 t).pc
  | _ => none

theorem issues_base : Issues w0 gd base := ⟨⟨by decide, by decide, by decide, by decide, by decide⟩, by decide⟩

/-! ### Ill-formed terms: one for each check of 11 Table 11 and of the formats it names, beside the boundary that is well formed -/

theorem test_guard_checked : (Instr.nop ⟨false, true, 0⟩).wellFormed = false ∧ (Instr.nop ⟨false, false, 1⟩).wellFormed = false ∧
    (Instr.nop ⟨true, true, 63⟩).wellFormed = true := by decide
theorem test_source_checked : (Instr.add gd 4 63 6).wellFormed = false ∧ (Instr.add gd 4 62 48).wellFormed = true := by decide
theorem test_destination_checked : (Instr.add gd 32 5 6).wellFormed = false ∧ (Instr.add gd 31 5 6).wellFormed = true := by decide
theorem test_queue_checked : (Instr.ldq gd 47 1 0 3).wellFormed = false ∧ (Instr.ldq gd 52 1 0 3).wellFormed = false ∧
    (Instr.ldq gd 51 1 0 3).wellFormed = true := by decide
theorem test_field_checked : (Instr.extN gd 4 5 60 4).wellFormed = false ∧ (Instr.extN gd 4 5 60 3).wellFormed = true := by decide
theorem test_scope_checked : (Instr.fence gd 5 1).wellFormed = false ∧ (Instr.fence gd 4 1).wellFormed = true := by decide
theorem test_multiply_checked : (Instr.mMma ⟨0, 0, 0, 0, 0, 0, 0⟩).wellFormed = false ∧
    (Instr.mMma ⟨0, 1, 128, 0, 0, 0, 0⟩).wellFormed = false ∧ (Instr.mMma ⟨1, 1, 127, 127, 0, 0, 0⟩).wellFormed = false ∧
    (Instr.mMmv ⟨1, 1, 127, 127, 0, 0, 0⟩).wellFormed = true := by decide
theorem test_rows_checked : (Instr.mPerm ⟨0, 0, 0, 128⟩).wellFormed = false ∧ (Instr.mAload 0 128 0).wellFormed = false ∧
    (Instr.mAstore 0 127 0).wellFormed = true := by decide
theorem test_epilogue_checked : (Instr.mEpi ⟨0, 4, 0, 0, 0, false, 0, false, false, 0⟩).wellFormed = false ∧
    (Instr.mEpi ⟨4, 0, 0, 0, 0, false, 0, false, false, 0⟩).wellFormed = false ∧
    (Instr.mEpi ⟨0, 0, 0, 0, 0, false, 6, false, false, 0⟩).wellFormed = false ∧
    (Instr.mEpiSend ⟨0, 0, 1, 0, 0, false, 0, false, false, 0⟩).wellFormed = false ∧
    (Instr.mEpi ⟨4, 4, 1, 0, 0, false, 5, true, true, 127⟩).wellFormed = true := by decide
theorem test_region_checked : (Instr.vAdd ⟨0, 0, 0, 1, 1, 8, 0, 1, false⟩).wellFormed = false ∧
    (Instr.vAdd ⟨0, 0, 0, 1, 1, 8, 1, 0, false⟩).wellFormed = false ∧ (Instr.vAdd ⟨0, 0, 0, 1, 1, 8, 1, 1, true⟩).wellFormed = true := by
  decide
theorem test_unused_checked : (Instr.vAbs ⟨1, 0, 0, 0, 1, 8, 1, 1, false⟩).wellFormed = false ∧
    (Instr.vAnd ⟨0, 0, 0, 1, 1, 8, 1, 1, false⟩).wellFormed = false ∧ (Instr.vAnd ⟨0, 0, 0, 1, 1, 0, 1, 1, true⟩).wellFormed = false ∧
    (Instr.vCmp ⟨0, 0, 0, 1, 1, 6, 1, 1, false⟩).wellFormed = false ∧ (Instr.vCmp ⟨0, 0, 0, 1, 1, 5, 1, 1, false⟩).wellFormed = true := by
  decide
theorem test_mx_checked : (Instr.vQmx ⟨0, 0, 0, 0, 1, 3, 31, 1, false⟩).wellFormed = false ∧
    (Instr.vQmx ⟨0, 0, 0, 0, 2, 3, 32, 1, false⟩).wellFormed = false ∧ (Instr.vQmx ⟨0, 0, 0, 0, 1, 3, 32, 1, false⟩).wellFormed = true := by
  decide
theorem test_segments_checked : (Instr.vRsum ⟨3, 0, 0, 0, 1, 0, 32, 1, false⟩).wellFormed = false ∧
    (Instr.vRsum ⟨4, 0, 0, 0, 1, 0, 32, 1, false⟩).wellFormed = true ∧ (Instr.vScan ⟨0x30000, 0, 0, 0, 1, 0, 32, 1, false⟩).wellFormed = false ∧
    (Instr.vTopk ⟨1025, 0, 0, 0, 1, 0, 32, 1, false⟩).wellFormed = false ∧ (Instr.vTopk ⟨1024, 0, 0, 0, 1, 0, 32, 1, false⟩).wellFormed = true := by
  decide
theorem test_fill_checked : (Instr.vFill ⟨0, 7, 8, 1, 1, true⟩).wellFormed = false ∧ (Instr.vIota ⟨0, 7, 8, 1, 1, true⟩).wellFormed = false ∧
    (Instr.vKvroll ⟨0, 1, 0, 1, 0, false⟩).wellFormed = false ∧ (Instr.vFill ⟨0, 6, 8, 1, 1, true⟩).wellFormed = true := by decide
theorem test_copy_checked : (Instr.xLd ⟨0, 0, 0, 1, false, 0, false, 0, 0, 0⟩).wellFormed = false ∧
    (Instr.xLd ⟨0, 0, 0, 0, false, 1, false, 0, 0, 0⟩).wellFormed = false ∧ (Instr.xLd ⟨0, 0, 0, 0, false, 0, true, 0, 0, 0⟩).wellFormed = false ∧
    (Instr.xFeed ⟨0, 1, 0, 0, false, 7, false, 0, 0, 0⟩).wellFormed = false ∧ (Instr.xMcpy ⟨1, 0, 0, 0, false, 0, true, 0, 0, 0⟩).wellFormed = false ∧
    (Instr.xRsw ⟨0, 0, 0, 0, false, 0, false, 0, 1, 0⟩).wellFormed = false ∧ (Instr.xLd ⟨9, 1, 2, 3, true, 0, false, 6, 15, 9⟩).wellFormed = true := by
  decide
theorem test_collective_checked : (Instr.lRun ⟨0, 0, 0, 0, 1, 0⟩).wellFormed = false ∧ (Instr.lCtrRd 0 5).wellFormed = false ∧
    (Instr.lCtrRd 32 5).wellFormed = false ∧ (Instr.lFence 32 0).wellFormed = false ∧ (Instr.lCtrRd 31 63).wellFormed = true := by decide
theorem test_step_checked :
    (Instr.stepSend ⟨false, false, false, 5, false, 0, 0, 0, 0, false, 0, false, 0, false, 0, 0, false, false, 0, 0, 0⟩).wellFormed = false ∧
    (Instr.stepLoop ⟨false, false, false, 0, false, 0, 0, 0, 0, false, 0, false, 0, false, 0, 0, false, false, 0, 0, 0⟩).wellFormed = false ∧
    (Instr.stepLoop ⟨true, false, false, 0, false, 0, 1, 0, 0, false, 0, false, 0, false, 0, 0, false, false, 0, 0, 0⟩).wellFormed = false ∧
    (Instr.stepLoop ⟨false, false, false, 0, false, 3, 1, 0, 0, false, 0, false, 0, true, 1, 1, false, false, 0, 0, 0⟩).wellFormed = true := by
  decide
theorem test_event_checked : (Instr.pmCmdRun 1).wellFormed = false ∧ (Instr.pmCmdIdle 1).wellFormed = true ∧ (Instr.ctxCmdRemove 0).wellFormed = false ∧
    (Instr.cfgCmdGo 0).wellFormed = false := by decide

/-! ### Words written out from the encoding tables, field by field, for every instruction that has one -/

/-- A word decodes to an instruction. -/
def isWord (r : Decoded Instr) (i : Instr) : Bool :=
  match r with
  | .ok j => j == i
  | .error _ => false

/-- Format A, OP 0x02 to 0x0A (11 Tables 3, 4). -/
theorem words_two_sources :
    isWord (decodeControl [0b000010_00000000_000100_000101_000110]) (.add gd 4 5 6) ∧
    isWord (decodeControl [0b000011_00000000_000100_000101_000110]) (.sub gd 4 5 6) ∧
    isWord (decodeControl [0b000100_00000000_000100_000101_000110]) (.mul gd 4 5 6) ∧
    isWord (decodeControl [0b000101_00000000_000100_000101_000110]) (.and gd 4 5 6) ∧
    isWord (decodeControl [0b000110_00000000_000100_000101_000110]) (.or gd 4 5 6) ∧
    isWord (decodeControl [0b000111_00000000_000100_000101_000110]) (.xor gd 4 5 6) ∧
    isWord (decodeControl [0b001000_00000000_000100_000101_000110]) (.shl gd 4 5 6) ∧
    isWord (decodeControl [0b001001_00000000_000100_000101_000110]) (.shrN gd 4 5 6) ∧
    isWord (decodeControl [0b001010_00000000_000100_000101_000110]) (.shrS gd 4 5 6) := by
  decide

/-- Format I, group 0x0E, F 0 to 8 (11 Table 5). -/
theorem words_immediate :
    isWord (decodeControl [0b001110_00000000_000100_000101_000000, 0xFFFFFFFE]) (.addImmediate gd 4 5 0xFFFFFFFE) ∧
    isWord (decodeControl [0b001110_00000000_000100_000101_000001, 0xFFFFFFFE]) (.subImmediate gd 4 5 0xFFFFFFFE) ∧
    isWord (decodeControl [0b001110_00000000_000100_000101_000010, 0xFFFFFFFE]) (.mulImmediate gd 4 5 0xFFFFFFFE) ∧
    isWord (decodeControl [0b001110_00000000_000100_000101_000011, 0xFFFFFFFE]) (.andImmediate gd 4 5 0xFFFFFFFE) ∧
    isWord (decodeControl [0b001110_00000000_000100_000101_000100, 0xFFFFFFFE]) (.orImmediate gd 4 5 0xFFFFFFFE) ∧
    isWord (decodeControl [0b001110_00000000_000100_000101_000101, 0xFFFFFFFE]) (.xorImmediate gd 4 5 0xFFFFFFFE) ∧
    isWord (decodeControl [0b001110_00000000_000100_000101_000110, 0xFFFFFFFE]) (.shlImmediate gd 4 5 0xFFFFFFFE) ∧
    isWord (decodeControl [0b001110_00000000_000100_000101_000111, 0xFFFFFFFE]) (.shrNImmediate gd 4 5 0xFFFFFFFE) ∧
    isWord (decodeControl [0b001110_00000000_000100_000101_001000, 0xFFFFFFFE]) (.shrSImmediate gd 4 5 0xFFFFFFFE) := by
  decide

/-- Group 0x0B (11 Table 5). -/
theorem words_binary_unary :
    isWord (decodeControl [0b001011_00000000_000100_000101_000000]) (.mulhS gd 4 5) ∧
    isWord (decodeControl [0b001011_00000000_000100_000101_000001]) (.mulhN gd 4 5) ∧
    isWord (decodeControl [0b001011_00000000_000100_000101_000010]) (.divS gd 4 5) ∧
    isWord (decodeControl [0b001011_00000000_000100_000101_000011]) (.divN gd 4 5) ∧
    isWord (decodeControl [0b001011_00000000_000100_000101_000100]) (.remS gd 4 5) ∧
    isWord (decodeControl [0b001011_00000000_000100_000101_000101]) (.remN gd 4 5) ∧
    isWord (decodeControl [0b001011_00000000_000100_000101_000110]) (.minS gd 4 5) ∧
    isWord (decodeControl [0b001011_00000000_000100_000101_000111]) (.minN gd 4 5) ∧
    isWord (decodeControl [0b001011_00000000_000100_000101_001000]) (.maxS gd 4 5) ∧
    isWord (decodeControl [0b001011_00000000_000100_000101_001001]) (.maxN gd 4 5) ∧
    isWord (decodeControl [0b001011_00000000_000100_000101_001010]) (.andn gd 4 5) ∧
    isWord (decodeControl [0b001011_00000000_000100_000101_001011]) (.not gd 4 5) ∧
    isWord (decodeControl [0b001011_00000000_000100_000101_001100]) (.neg gd 4 5) := by
  decide

/-- Group 0x0C, the lane type in F<5:4> (11 Table 5). -/
theorem words_packed :
    isWord (decodeControl [0b001100_00000000_000100_000101_00_0000]) (.padd gd 4 5 0) ∧
    isWord (decodeControl [0b001100_00000000_000100_000101_01_0001]) (.psub gd 4 5 1) ∧
    isWord (decodeControl [0b001100_00000000_000100_000101_10_0010]) (.padds gd 4 5 2) ∧
    isWord (decodeControl [0b001100_00000000_000100_000101_11_0011]) (.psubs gd 4 5 3) ∧
    isWord (decodeControl [0b001100_00000000_000100_000101_00_0100]) (.pmin gd 4 5 0) ∧
    isWord (decodeControl [0b001100_00000000_000100_000101_01_0101]) (.pmax gd 4 5 1) ∧
    isWord (decodeControl [0b001100_00000000_000100_000101_10_0110]) (.pshl gd 4 5 2) ∧
    isWord (decodeControl [0b001100_00000000_000100_000101_11_0111]) (.pshr gd 4 5 3) := by
  decide

/-- Group 0x0D; IMM<5:0> the position, IMM<13:8> the width less one (11 Table 5). -/
theorem words_bit_fields :
    isWord (decodeControl [0b001101_00000000_000100_000101_000000]) (.clz gd 4 5) ∧
    isWord (decodeControl [0b001101_00000000_000100_000101_000001]) (.ctz gd 4 5) ∧
    isWord (decodeControl [0b001101_00000000_000100_000101_000010]) (.popc gd 4 5) ∧
    isWord (decodeControl [0b001101_00000000_000100_000101_000011]) (.brev gd 4 5) ∧
    isWord (decodeControl [0b001101_00000000_000100_000101_000100]) (.bswap gd 4 5) ∧
    isWord (decodeControl [0b001101_00000000_000100_000101_000101, 0b000000000000000000_001011_00_001000]) (.extS gd 4 5 8 11) ∧
    isWord (decodeControl [0b001101_00000000_000100_000101_000110, 0b000000000000000000_001011_00_001000]) (.extN gd 4 5 8 11) ∧
    isWord (decodeControl [0b001101_00000000_000100_000101_000111, 0b000000000000000000_001011_00_001000]) (.ins gd 4 5 8 11) := by
  decide

/-- The worked encodings of 12 (R308). -/
theorem words_moves :
    isWord (decodeControl [0x3C005DC0]) (.mov gd 5 55) ∧
    isWord (decodeControl [0x3C009001, 0xFFFFFFFB]) (.li gd 9 0xFFFFFFFB) ∧
    isWord (decodeControl [0x3C009002, 0x00001234]) (.lih gd 9 0x1234) ∧
    isWord (decodeControl [0x78004146, 0x00000103]) (.lea gd 4 5 6 3 16) := by
  decide

/-- 0x10 to 0x18, the condition in OP<2:0> or F<2:0> (11 R287). -/
theorem words_compares :
    isWord (decodeControl [0b010000_00000000_000010_000100_000101]) (.cmpEq gd 2 4 5) ∧
    isWord (decodeControl [0b010001_00000000_000010_000100_000101]) (.cmpNe gd 2 4 5) ∧
    isWord (decodeControl [0b010010_00000000_000010_000100_000101]) (.cmpLtS gd 2 4 5) ∧
    isWord (decodeControl [0b010011_00000000_000010_000100_000101]) (.cmpGeS gd 2 4 5) ∧
    isWord (decodeControl [0b010100_00000000_000010_000100_000101]) (.cmpLtN gd 2 4 5) ∧
    isWord (decodeControl [0b010101_00000000_000010_000100_000101]) (.cmpGeN gd 2 4 5) ∧
    isWord (decodeControl [0b010110_00000000_000010_000100_000101]) (.cmpAny gd 2 4 5) ∧
    isWord (decodeControl [0b010111_00000000_000010_000100_000101]) (.cmpNone gd 2 4 5) ∧
    isWord (decodeControl [0b011000_00000000_000010_000100_000_101, 0x00000007]) (.cmpi gd 2 4 5 7) := by
  decide

/-- 0x19 to 0x1D (11 Tables 4, 5). -/
theorem words_predicates :
    isWord (decodeControl [0b011001_00000000_000001_000010_000011]) (.pand gd 1 2 3) ∧
    isWord (decodeControl [0b011010_00000000_000001_000010_000011]) (.por gd 1 2 3) ∧
    isWord (decodeControl [0b011011_00000000_000001_000010_000011]) (.pxor gd 1 2 3) ∧
    isWord (decodeControl [0b011100_00000000_000001_000010_000011]) (.pandn gd 1 2 3) ∧
    isWord (decodeControl [0b011101_00000000_000100_000000_000000]) (.pset gd 4) ∧
    isWord (decodeControl [0b011101_00000000_000100_000000_000001]) (.pclr gd 4) ∧
    isWord (decodeControl [0b011101_00000000_000100_001001_000010]) (.pnot gd 4 9) ∧
    isWord (decodeControl [0b011101_00000000_000100_001001_000011]) (.pmov gd 4 9) ∧
    isWord (decodeControl [0b011101_00000000_000100_000000_000100]) (.rdp gd 4) ∧
    isWord (decodeControl [0b011101_00000000_000000_001001_000101]) (.wrp gd 9) := by
  decide

/-- Formats B and L, groups 0x22 and 0x23 (11 Table 3; 12 R314). -/
theorem words_transfers :
    isWord (decodeControl [0b100000_00000000_111111111111111101]) (.br gd 0x3FFFD) ∧
    isWord (decodeControl [0x80000000, 0x00030D40]) (.brLong gd 200000) ∧
    isWord (decodeControl [0x8403FFFB]) (.call gd 0x3FFFB) ∧
    isWord (decodeControl [0x84000000, 0xFFFFFFFB]) (.callLong gd 0xFFFFFFFB) ∧
    isWord (decodeControl [0x88000140]) (.jr gd 5) ∧
    isWord (decodeControl [0b100010_00000000_000000_000101_000001]) (.callr gd 5) ∧
    isWord (decodeControl [0x88000002]) (.ret gd) ∧
    isWord (decodeControl [0x8C000003]) (.rotw gd 3) ∧
    isWord (decodeControl [0x90005FFF]) (.loop gd 5 0xFFF) ∧
    isWord (decodeControl [0x90005000, 0xFFFFFFFF]) (.loopLong gd 5 0xFFFFFFFF) ∧
    isWord (decodeControl [0x04000000]) (.nop gd) := by
  decide

/-- Format M without displacement: D, A, C in <5:2>, Q in <1:0> (11 Table 3). -/
theorem words_memory :
    isWord (decodeControl [0b101000_00000000_000100_000110_0000_11]) (.ldS gd 4 6 0 3) ∧
    isWord (decodeControl [0b101001_00000000_000100_000110_0001_10]) (.ldN gd 4 6 1 2) ∧
    isWord (decodeControl [0b101010_00000000_000100_000110_0010_01]) (.st gd 4 6 2 1) ∧
    isWord (decodeControl [0b101011_00000000_000100_000110_0011_00]) (.ldSSpaceS gd 4 6 3 0) ∧
    isWord (decodeControl [0b101100_00000000_000100_000110_0100_11]) (.ldNSpaceS gd 4 6 4 3) ∧
    isWord (decodeControl [0b101101_00000000_000100_000110_0101_10]) (.stSpaceS gd 4 6 5 2) := by
  decide

/-- Format M with DISP in the second slice. -/
theorem words_memory_displaced :
    isWord (decodeControl [0b101000_00000000_000100_000110_1111_00, 0xFFFFFFF8]) (.ldSDisp gd 4 6 15 0 0xFFFFFFF8) ∧
    isWord (decodeControl [0b101001_00000000_000100_000110_1110_01, 0xFFFFFFF8]) (.ldNDisp gd 4 6 14 1 0xFFFFFFF8) ∧
    isWord (decodeControl [0b101010_00000000_000100_000110_1101_10, 0xFFFFFFF8]) (.stDisp gd 4 6 13 2 0xFFFFFFF8) ∧
    isWord (decodeControl [0b101011_00000000_000100_000110_1100_11, 0xFFFFFFF8]) (.ldSSpaceSDisp gd 4 6 12 3 0xFFFFFFF8) ∧
    isWord (decodeControl [0b101100_00000000_000100_000110_1011_00, 0xFFFFFFF8]) (.ldNSpaceSDisp gd 4 6 11 0 0xFFFFFFF8) ∧
    isWord (decodeControl [0b101101_00000000_000100_000110_1010_01, 0xFFFFFFF8]) (.stSpaceSDisp gd 4 6 10 1 0xFFFFFFF8) := by
  decide

/-- Sector opcodes, ldq and stf (11 Table 4). -/
theorem words_sectors :
    isWord (decodeControl [0b101110_00000000_000101_000110_0001_00]) (.ldSec gd 5 6 1) ∧
    isWord (decodeControl [0b101111_00000000_000101_000110_0001_00]) (.stSec gd 5 6 1) ∧
    isWord (decodeControl [0b110011_00000000_000101_000110_0001_00]) (.casSec gd 5 6 1) ∧
    isWord (decodeControl [0b101110_00000000_000101_000110_0001_00, 0x00000040]) (.ldSecDisp gd 5 6 1 0x40) ∧
    isWord (decodeControl [0b101111_00000000_000101_000110_0001_00, 0x00000040]) (.stSecDisp gd 5 6 1 0x40) ∧
    isWord (decodeControl [0b110011_00000000_000101_000110_0001_00, 0x00000040]) (.casSecDisp gd 5 6 1 0x40) ∧
    isWord (decodeControl [0b110000_00000000_110001_000110_0000_10]) (.ldq gd 49 6 0 2) ∧
    isWord (decodeControl [0b110000_00000000_110001_000110_0000_10, 0x00000004]) (.ldqDisp gd 49 6 0 2 4) ∧
    isWord (decodeControl [0b110001_00000000_000100_000110_0011_00]) (.stf gd 4 6 3 0) ∧
    isWord (decodeControl [0b110001_00000000_000100_000110_0011_00, 0x00000004]) (.stfDisp gd 4 6 3 0 4) := by
  decide

/-- Format X: SZ in <8>, LOG in <7>, AOP in <6:4>, C in <3:0> of the second slice. -/
theorem words_atomics :
    isWord (decodeControl [0xC8004146, 0b00000000000000000000000_0_1_000_0010]) (.atomAdd gd 4 5 6 false true 2) ∧
    isWord (decodeControl [0xC8004146, 0b00000000000000000000000_1_0_001_0010]) (.atomAnd gd 4 5 6 true false 2) ∧
    isWord (decodeControl [0xC8004146, 0b00000000000000000000000_0_1_010_0010]) (.atomOr gd 4 5 6 false true 2) ∧
    isWord (decodeControl [0xC8004146, 0b00000000000000000000000_1_0_011_0010]) (.atomXor gd 4 5 6 true false 2) ∧
    isWord (decodeControl [0xC8004146, 0b00000000000000000000000_0_1_100_0010]) (.atomSwap gd 4 5 6 false true 2) ∧
    isWord (decodeControl [0xC8004146, 0b00000000000000000000000_1_0_101_0010]) (.atomMinS gd 4 5 6 true false 2) ∧
    isWord (decodeControl [0xC8004146, 0b00000000000000000000000_0_1_110_0010]) (.atomMaxS gd 4 5 6 false true 2) ∧
    isWord (decodeControl [0xC8004146, 0b00000000000000000000000_1_0_111_0010]) (.atomCas gd 4 5 6 true false 2) := by
  decide

/-- 0x34 to 0x39, format O with SUB in <9:8> (12 R327, R329). -/
theorem words_synchronisation :
    isWord (decodeControl [0xD0000003, 0x00000001]) (.fence gd 3 1) ∧
    isWord (decodeControl [0xD4000002]) (.iflush gd 2) ∧
    isWord (decodeControl [0xD8000000]) (.isync gd) ∧
    isWord (decodeControl [0xDC007003]) (.ownT gd 7 3) ∧
    isWord (decodeControl [0xDC007103]) (.ownE gd 7 3) ∧
    isWord (decodeControl [0xE0000000]) (.tkwait gd) ∧
    isWord (decodeControl [0xE4006005]) (.foldSet gd 6 5) ∧
    isWord (decodeControl [0xE4004105]) (.foldArr gd 4 5) ∧
    isWord (decodeControl [0xE4004205]) (.foldWait gd 4 5) ∧
    isWord (decodeControl [0xE4000305]) (.foldAw gd 5) := by
  decide

/-- 0x3A to 0x3D (11 Tables 3, 5; 12 Table 15). -/
theorem words_task_group :
    isWord (decodeControl [0xE8000140]) (.spawn gd 5) ∧
    isWord (decodeControl [0xE8000001]) (.exit gd) ∧
    isWord (decodeControl [0xE8000142]) (.exitSucc gd 5) ∧
    isWord (decodeControl [0xE8000003]) (.commit gd) ∧
    isWord (decodeControl [0xE8000004]) (.wloan gd) ∧
    isWord (decodeControl [0xE8000005]) (.yield gd) ∧
    isWord (decodeControl [0b111011_00000000_000100_010000000001]) (.sysrd gd 4 0x401) ∧
    isWord (decodeControl [0b111100_00000000_000000100000_000101]) (.syswr gd 0x020 5) ∧
    isWord (decodeControl [0b111101_00000000_000000_000000_000000]) (.brk gd) ∧
    isWord (decodeControl [0b111101_00000000_000000_000000_000001]) (.rti gd) ∧
    isWord (decodeControl [0b111101_00000000_000000_000101_000010]) (.trap gd 5) := by
  decide

/-- Guards; reserved opcodes and function codes; unused fields that are not zero (11 R283, R284, R288, R295). -/
theorem words_guarded :
    isWord (decodeControl [0b000010_1_1_000101_000100_110000_110100]) (.add ⟨true, true, 5⟩ 4 48 52) ∧
    decodeControl [0b000010_0_1_000101_000100_110000_110100] = .error .reservedField ∧
    decodeControl [0b000010_00000000_100000_000101_000110] = .error .reservedField ∧
    decodeControl [0b000000_00000000000000000000000000] = .error .illegalOpcode ∧
    decodeControl [0b011111_00000000000000000000000000] = .error .illegalOpcode ∧
    decodeControl [0b100101_00000000000000000000000000] = .error .illegalOpcode ∧
    decodeControl [0b001011_00000000_000100_000101_001101] = .error .illegalOpcode ∧
    decodeControl [0b000001_00000000_00000000000000000_1] = .error .reservedField := by
  decide

/-- Matrix commands (13 Tables 3 to 5, R347, R348, R353; 11 Table 7). -/
theorem words_matrix :
    isWord (decodeEngine 1 0b00000000_00000000_0000000001100100_0000000000000000_00111111_00011111_000001_000101_001_010_00000000000000 3) (.mMma ⟨0, 100, 63, 31, 5, 1, 2⟩) ∧
    isWord (decodeEngine 1 0b00000000_00000000_0000000001100100_0000000000000000_00111111_00011111_000010_000101_001_010_00000000000000 3) (.mMmaz ⟨0, 100, 63, 31, 5, 1, 2⟩) ∧
    isWord (decodeEngine 1 0b00001001_00000000_0000000001100100_0000000000000000_00111111_00011111_000011_000101_001_010_00000000000000 3) (.mMmv ⟨9, 100, 63, 31, 5, 1, 2⟩) ∧
    isWord (decodeEngine 1 0b00001001_00000000_0000000001100100_0000000000000000_00111111_00011111_000100_000101_001_010_00000000000000 3) (.mMmvz ⟨9, 100, 63, 31, 5, 1, 2⟩) ∧
    isWord (decodeEngine 1 0b0000000100000000000_0000001000000000000_00000111_01111111_0000000000_000101_00000000000000000000000000 3) (.mPerm ⟨2048, 4096, 7, 127⟩) ∧
    isWord (decodeEngine 1 0b00000000000000000000000000000000_00111111100000000000000000000000_000110_000101_000011_00000000000000 2) (.mAzero 5 3 0x3F800000) ∧
    isWord (decodeEngine 1 0b00000000000000000000000000000000_00000000000000000000000000000000_000111_000101_000011_001001_00000000 2) (.mAcopy 5 3 9) ∧
    isWord (decodeEngine 1 0b00000000000000000000000000000000_0000000001000000000_00001111_00000_001000_000101_00000000000000000000 2) (.mAload 512 15 5) ∧
    isWord (decodeEngine 1 0b00000000000000000000000000000000_0000000001000000000_00001111_00000_001001_000101_00000000000000000000 2) (.mAstore 512 15 5) ∧
    isWord (decodeEngine 1 0b0000000000000001000_0000000000000000100_0000000100000000000_0000000_001010_000101_001000_1_010_1_1_01111111 3) (.mEpi ⟨8, 4, 2048, 5, 8, true, 2, true, true, 127⟩) ∧
    isWord (decodeEngine 1 0b0000000000000001000_0000000000000000100_0000000000000000000_0000000_001011_000101_001000_1_010_1_1_01111111 3) (.mEpiSend ⟨8, 4, 0, 5, 8, true, 2, true, true, 127⟩) ∧
    isWord (decodeEngine 1 0b00000000000000000000000000000000_0000000000001000000_0000000000000_001100_110_00000000000000000000000 2) (.mBind 64 6) := by
  decide

/-- Vector commands 0x01 to 0x12 (13 Table 7; 11 Table 8). -/
theorem words_vector_elementwise :
    isWord (decodeEngine 2 0b0000000000100000000_0000000001000001000_0000000001100010000_011_010_0_000001_000101_0000000000100000_001_1 3) (.vAdd ⟨256, 520, 784, 3, 2, 5, 32, 1, true⟩) ∧
    isWord (decodeEngine 2 0b0000000000100000000_0000000001000001000_0000000001100010000_011_010_0_000010_000101_0000000000100000_001_1 3) (.vSub ⟨256, 520, 784, 3, 2, 5, 32, 1, true⟩) ∧
    isWord (decodeEngine 2 0b0000000000100000000_0000000001000001000_0000000001100010000_011_010_0_000011_000101_0000000000100000_001_1 3) (.vMul ⟨256, 520, 784, 3, 2, 5, 32, 1, true⟩) ∧
    isWord (decodeEngine 2 0b0000000000100000000_0000000001000001000_0000000001100010000_011_010_0_000100_000101_0000000000100000_001_1 3) (.vFma ⟨256, 520, 784, 3, 2, 5, 32, 1, true⟩) ∧
    isWord (decodeEngine 2 0b0000000000100000000_0000000001000001000_0000000001100010000_011_010_0_000101_000101_0000000000100000_001_1 3) (.vMin ⟨256, 520, 784, 3, 2, 5, 32, 1, true⟩) ∧
    isWord (decodeEngine 2 0b0000000000100000000_0000000001000001000_0000000001100010000_011_010_0_000110_000101_0000000000100000_001_1 3) (.vMax ⟨256, 520, 784, 3, 2, 5, 32, 1, true⟩) ∧
    isWord (decodeEngine 2 0b0000000000000000000_0000000001000001000_0000000001100010000_000_010_0_000111_000101_0000000000100000_001_0 3) (.vAbs ⟨0, 520, 784, 0, 2, 5, 32, 1, false⟩) ∧
    isWord (decodeEngine 2 0b0000000000000000000_0000000001000001000_0000000001100010000_000_010_0_001000_000101_0000000000100000_001_0 3) (.vNeg ⟨0, 520, 784, 0, 2, 5, 32, 1, false⟩) ∧
    isWord (decodeEngine 2 0b0000000000100000000_0000000001000001000_0000000001100010000_011_010_0_001001_000000_0000000000100000_001_0 3) (.vAnd ⟨256, 520, 784, 3, 2, 0, 32, 1, false⟩) ∧
    isWord (decodeEngine 2 0b0000000000100000000_0000000001000001000_0000000001100010000_011_010_0_001010_000000_0000000000100000_001_0 3) (.vOr ⟨256, 520, 784, 3, 2, 0, 32, 1, false⟩) ∧
    isWord (decodeEngine 2 0b0000000000100000000_0000000001000001000_0000000001100010000_011_010_0_001011_000000_0000000000100000_001_0 3) (.vXor ⟨256, 520, 784, 3, 2, 0, 32, 1, false⟩) ∧
    isWord (decodeEngine 2 0b0000000000100000000_0000000001000001000_0000000001100010000_011_010_0_001100_000000_0000000000100000_001_0 3) (.vShl ⟨256, 520, 784, 3, 2, 0, 32, 1, false⟩) ∧
    isWord (decodeEngine 2 0b0000000000100000000_0000000001000001000_0000000001100010000_011_010_0_001101_000000_0000000000100000_001_0 3) (.vShr ⟨256, 520, 784, 3, 2, 0, 32, 1, false⟩) ∧
    isWord (decodeEngine 2 0b0000000000100000000_0000000001000001000_0000000001100010000_011_010_0_001110_000101_0000000000100000_001_0 3) (.vCmp ⟨256, 520, 784, 3, 2, 5, 32, 1, false⟩) ∧
    isWord (decodeEngine 2 0b0000000000100000000_0000000001000001000_0000000001100010000_011_010_0_001111_000000_0000000000100000_001_0 3) (.vSel ⟨256, 520, 784, 3, 2, 0, 32, 1, false⟩) ∧
    isWord (decodeEngine 2 0b0000000000000000000_0000000001000001000_0000000001100010000_000_010_0_010000_000101_0000000000100000_001_0 3) (.vCvt ⟨0, 520, 784, 0, 2, 5, 32, 1, false⟩) ∧
    isWord (decodeEngine 2 0b0000000000000000000_0000000001000001000_0000000001100010000_000_001_0_010001_000101_0000000000100000_001_0 3) (.vQmx ⟨0, 520, 784, 0, 1, 5, 32, 1, false⟩) ∧
    isWord (decodeEngine 2 0b0000000000000000000_0000000001000001000_0000000001100010000_000_001_0_010010_000101_0000000000100000_001_0 3) (.vDqmx ⟨0, 520, 784, 0, 1, 5, 32, 1, false⟩) := by
  decide

/-- Vector commands 0x13 to 0x29 (13 Table 7; 11 Table 8). -/
theorem words_vector_functions :
    isWord (decodeEngine 2 0b0000000000000000000_0000000001000001000_0000000001100010000_000_010_0_010011_000101_0000000000100000_001_0 3) (.vExp2 ⟨0, 520, 784, 0, 2, 5, 32, 1, false⟩) ∧
    isWord (decodeEngine 2 0b0000000000000000000_0000000001000001000_0000000001100010000_000_010_0_010100_000101_0000000000100000_001_0 3) (.vExp ⟨0, 520, 784, 0, 2, 5, 32, 1, false⟩) ∧
    isWord (decodeEngine 2 0b0000000000000000000_0000000001000001000_0000000001100010000_000_010_0_010101_000101_0000000000100000_001_0 3) (.vLog2 ⟨0, 520, 784, 0, 2, 5, 32, 1, false⟩) ∧
    isWord (decodeEngine 2 0b0000000000000000000_0000000001000001000_0000000001100010000_000_010_0_010110_000101_0000000000100000_001_0 3) (.vRcp ⟨0, 520, 784, 0, 2, 5, 32, 1, false⟩) ∧
    isWord (decodeEngine 2 0b0000000000000000000_0000000001000001000_0000000001100010000_000_010_0_010111_000101_0000000000100000_001_0 3) (.vRsqrt ⟨0, 520, 784, 0, 2, 5, 32, 1, false⟩) ∧
    isWord (decodeEngine 2 0b0000000000000000000_0000000001000001000_0000000001100010000_000_010_0_011000_000101_0000000000100000_001_0 3) (.vSqrt ⟨0, 520, 784, 0, 2, 5, 32, 1, false⟩) ∧
    isWord (decodeEngine 2 0b0000000000000000000_0000000001000001000_0000000001100010000_000_010_0_011001_000101_0000000000100000_001_0 3) (.vTanh ⟨0, 520, 784, 0, 2, 5, 32, 1, false⟩) ∧
    isWord (decodeEngine 2 0b0000000000000010000_0000000001000001000_0000000001100010000_000_010_0_011010_000101_0000000000100000_001_0 3) (.vRsum ⟨16, 520, 784, 0, 2, 5, 32, 1, false⟩) ∧
    isWord (decodeEngine 2 0b0000000000000010000_0000000001000001000_0000000001100010000_000_010_0_011011_000101_0000000000100000_001_0 3) (.vRmax ⟨16, 520, 784, 0, 2, 5, 32, 1, false⟩) ∧
    isWord (decodeEngine 2 0b0000000000000010000_0000000001000001000_0000000001100010000_000_010_0_011100_000101_0000000000100000_001_0 3) (.vRmin ⟨16, 520, 784, 0, 2, 5, 32, 1, false⟩) ∧
    isWord (decodeEngine 2 0b0000000000000010000_0000000001000001000_0000000001100010000_000_010_0_011101_000000_0000000000100000_001_0 3) (.vArgmax ⟨16, 520, 784, 0, 2, 0, 32, 1, false⟩) ∧
    isWord (decodeEngine 2 0b0000000000000010000_0000000001000001000_0000000001100010000_000_010_0_011110_000101_0000000000100000_001_0 3) (.vScan ⟨16, 520, 784, 0, 2, 5, 32, 1, false⟩) ∧
    isWord (decodeEngine 2 0b0000000000000000111_0000000001000001000_0000000001100010000_000_010_0_011111_000000_0000000000100000_001_0 3) (.vTopk ⟨7, 520, 784, 0, 2, 0, 32, 1, false⟩) ∧
    isWord (decodeEngine 2 0b00000000000000000000000000000000_0000001001000110100_0000000000101_100000_001000_0000000000100001_010_0 2) (.vIota ⟨4660, 5, 8, 33, 2, false⟩) ∧
    isWord (decodeEngine 2 0b00000000000000000000000000000000_0000001001000110100_0000000000101_100001_001000_0000000000100001_010_1 2) (.vFill ⟨4660, 5, 8, 33, 2, true⟩) ∧
    isWord (decodeEngine 2 0b0000000000000000000_0000000001000001000_0000000001100010000_000_000_0_100010_000101_0000000000100000_001_0 3) (.vRand ⟨0, 520, 784, 0, 0, 5, 32, 1, false⟩) ∧
    isWord (decodeEngine 2 0b0000000000100000000_0000000001000001000_0000000001100010000_011_001_0_100011_000000_0000000000100000_001_0 3) (.vGather ⟨256, 520, 784, 3, 1, 0, 32, 1, false⟩) ∧
    isWord (decodeEngine 2 0b0000000000100000000_0000000001000001000_0000000001100010000_011_010_0_100100_000000_0000000000100000_001_0 3) (.vScatter ⟨256, 520, 784, 3, 2, 0, 32, 1, false⟩) ∧
    isWord (decodeEngine 2 0b0000000000000000000_0000000001000001000_0000000001100010000_000_010_0_100101_000101_0000000000100000_001_0 3) (.vMov ⟨0, 520, 784, 0, 2, 5, 32, 1, false⟩) ∧
    isWord (decodeEngine 2 0b0000000000100000000_0000000001000001000_0000000001100010000_000_001_0_100110_000101_0000000000100000_001_0 3) (.vSample ⟨256, 520, 784, 0, 1, 5, 32, 1, false⟩) ∧
    isWord (decodeEngine 2 0b0000000000100000000_0000000001000001000_0000000001100010000_001_001_0_100111_000101_0000000000100000_000_0 3) (.vVerify ⟨256, 520, 784, 1, 1, 5, 32, 0, false⟩) ∧
    isWord (decodeEngine 2 0b00000000000000000000000000000000_0000001001000110100_0000000000000_101000_000000_0000000000100001_000_0 2) (.vKvroll ⟨4660, 0, 0, 33, 0, false⟩) ∧
    isWord (decodeEngine 2 0b00000000000000000000000000000000_0000001001000110100_0000000000000_101001_000000_0000000000100001_000_0 2) (.gkvApp ⟨4660, 0, 0, 33, 0, false⟩) := by
  decide

/-- Copy commands (14 Tables 1, 2; 11 Table 9). -/
theorem words_copy :
    isWord (decodeEngine 3 0b0000000000001001_0000000010000000000_00000001010101_001011_1_000_0_0000_000001_000110_0011_0000000001001101 3) (.xLd ⟨9, 1024, 85, 11, true, 0, false, 6, 3, 77⟩) ∧
    isWord (decodeEngine 3 0b0000000000001001_0000000010000000000_00000001010101_001011_1_000_0_0000_000010_000110_0011_0000000001001101 3) (.xSt ⟨9, 1024, 85, 11, true, 0, false, 6, 3, 77⟩) ∧
    isWord (decodeEngine 3 0b0000000000001001_0000000000000000000_00000001010101_001011_1_101_0_0000_000011_000110_0011_0000000001001101 3) (.xFeed ⟨9, 0, 85, 11, true, 5, false, 6, 3, 77⟩) ∧
    isWord (decodeEngine 3 0b0000000000001001_0000000010000000000_00000001010101_001011_1_000_0_0000_000100_000110_0011_0000000001001101 3) (.xKvg ⟨9, 1024, 85, 11, true, 0, false, 6, 3, 77⟩) ∧
    isWord (decodeEngine 3 0b0000000000001001_0000000010000000000_00000001010101_001011_1_000_0_0000_000101_000110_0011_0000000001001101 3) (.xScat ⟨9, 1024, 85, 11, true, 0, false, 6, 3, 77⟩) ∧
    isWord (decodeEngine 3 0b0000000000001001_0000000000000000000_00000001010101_001011_1_000_0_0000_000110_000110_0011_0000000001001101 3) (.xFill ⟨9, 0, 85, 11, true, 0, false, 6, 3, 77⟩) ∧
    isWord (decodeEngine 3 0b0000000000000000_0000000000000000000_00000001010101_001011_1_000_1_0000_000111_000110_0011_0000000001001101 3) (.xMcpy ⟨0, 0, 85, 11, true, 0, true, 6, 3, 77⟩) ∧
    isWord (decodeEngine 3 0b00000000000000000000000000000000_00000001010101_000000000000000000_001000_00000000000000000000000000 2) (.xPref 0x55) ∧
    isWord (decodeEngine 3 0b0000000000000000_0000000010000000000_00000001010101_001011_1_000_0_0000_001001_000110_0000_0000000001001101 3) (.xRsw ⟨0, 1024, 85, 11, true, 0, false, 6, 0, 77⟩) := by
  decide

/-- Collective commands (14 Tables 7, 8). -/
theorem words_collective :
    isWord (decodeEngine 4 0b11001000_000010_000011_00000001010101_0000000000000000000_00000000000_000001_0000000000000000000_0000000 3) (.lRun ⟨200, 2, 3, 0x55, 0, 0⟩) ∧
    isWord (decodeEngine 4 0b11001000_000010_000011_00000001010101_0000000001100000000_00000000000_000010_0000000001000000000_0000000 3) (.lCav ⟨200, 2, 3, 0x55, 0x300, 0x200⟩) ∧
    isWord (decodeEngine 4 0b00000000000000000000000000000000_00000000000000000000001111101000_000011_000101_000110_10_100111_000000 2) (.lArm 5 1000 6 0xA7) ∧
    isWord (decodeEngine 4 0b00000000000000000000000000000000_00000000000000000000001111101000_000100_000101_00_0000_00_000000000000 2) (.lCtrSet 5 1000) ∧
    isWord (decodeEngine 4 0b00000000000000000000000000000000_00000000000000000000001111101000_000100_000101_01_0000_00_000000000000 2) (.lCtrAdd 5 1000) ∧
    isWord (decodeEngine 4 0b00000000000000000000000000000000_00000000000000000000000000000000_000100_000101_10_0101_11_000000000000 2) (.lCtrRd 23 5) ∧
    isWord (decodeEngine 4 0b00000000000000000000000000000000_00000000000000000000000000000000_000101_000111_110010_00_0_00000000000 2) (.lFence 7 200) ∧
    isWord (decodeEngine 4 0b00000000000000000000000000000000_00000000000000000000000000000000_000101_000111_000000_00_1_00000000000 2) (.lFenceAll 7) ∧
    decodeEngine 4 0b00000000000000000000000000000000_00000000000000000000000000000000_000100_000101_11_0000_00_000000000000 2 = .error .illegalOpcode := by
  decide

/-- Collective steps (14 Table 9). -/
theorem words_steps :
    isWord (decodeStep 0b0000_1_0_1_011_1_10_111111111111_000000000101_111111111110_1_10_0_11_1_001001_010001000101110000_1_0_000100_11001000_00010010001101000101011001111000) (.stepSend ⟨true, false, true, 3, true, 2, 4095, 5, 4094, true, 2, false, 3, true, 9, 70000, true, false, 4, 200, 305419896⟩) ∧
    isWord (decodeStep 0b0001_1_0_1_011_1_10_111111111111_000000000101_111111111110_1_10_0_11_1_001001_010001000101110000_1_0_000100_11001000_00010010001101000101011001111000) (.stepRecv ⟨true, false, true, 3, true, 2, 4095, 5, 4094, true, 2, false, 3, true, 9, 70000, true, false, 4, 200, 305419896⟩) ∧
    isWord (decodeStep 0b0010_1_0_1_011_1_10_111111111111_000000000101_111111111110_1_10_0_11_1_001001_010001000101110000_1_0_000100_11001000_00010010001101000101011001111000) (.stepRecvReduceSend ⟨true, false, true, 3, true, 2, 4095, 5, 4094, true, 2, false, 3, true, 9, 70000, true, false, 4, 200, 305419896⟩) ∧
    isWord (decodeStep 0b0011_1_0_1_011_1_10_111111111111_000000000101_111111111110_1_10_0_11_1_001001_010001000101110000_1_0_000100_11001000_00010010001101000101011001111000) (.stepCopy ⟨true, false, true, 3, true, 2, 4095, 5, 4094, true, 2, false, 3, true, 9, 70000, true, false, 4, 200, 305419896⟩) ∧
    isWord (decodeStep 0b0100_1_0_1_011_1_10_111111111111_000000000101_111111111110_1_10_0_11_1_001001_010001000101110000_1_0_000100_11001000_00010010001101000101011001111000) (.stepWait ⟨true, false, true, 3, true, 2, 4095, 5, 4094, true, 2, false, 3, true, 9, 70000, true, false, 4, 200, 305419896⟩) ∧
    isWord (decodeStep 0b0101_0_0_0_000_0_10_000000000111_000000000011_000000000000_0_00_0_00_1_001001_010001000101110000_1_0_000100_11001000_00010010001101000101011001111000) (.stepLoop ⟨false, false, false, 0, false, 2, 7, 3, 0, false, 0, false, 0, true, 9, 70000, true, false, 4, 200, 305419896⟩) := by
  decide

/-- Custom instructions of the side cores (14 R404 to R408). -/
theorem words_side :
    isWord (decodeCustom 0b0000000_00010_00001_000_00000_0001011) (.rpush 1 2) ∧
    isWord (decodeCustom 0b0000000_00010_00001_001_00011_0001011) (.rwaitTiles 3 1 2) ∧
    isWord (decodeCustom 0b0000001_00010_00001_001_00011_0001011) (.rwaitFree 3 1 2) ∧
    isWord (decodeCustom 0b0000010_00010_00001_001_00011_0001011) (.rwaitCounter 3 1 2) ∧
    isWord (decodeCustom 0b0000011_00010_00001_001_00011_0001011) (.rwaitPop 3 1 2) ∧
    isWord (decodeCustom 0b0000000_00010_00001_010_00000_0001011) (.xiss 1 2) ∧
    isWord (decodeCustom 0b0000000_00000_00001_011_00011_0001011) (.tkrd 3 1) ∧
    decodeCustom 0b0000100_00010_00001_001_00011_0001011 = .error .illegalOpcode ∧
    decodeCustom 0b0000000_00010_00001_100_00011_0001011 = .error .illegalOpcode := by
  decide

/-- Stream entries: KIND in <127:124>, OPND in <123:96>, CMD in <95:0> (06 R142, Table 6). -/
theorem words_streams :
    decodeStreamEntry (0b0000_0000000000100000000000000101_000000000000000000000000000000000000000000000000000000000000000000000000000000000000000000110000) = some (.streamCmd 0x0020005 0x30) ∧
    decodeStreamEntry (0b0001_0000000000100000000000000101_000000000000000000000000000000000000000000000000000000000000000000000000000000000000000000110000) = some (.streamSet 0x0020005 0x30) ∧
    decodeStreamEntry (0b0010_0000000000100000000000000101_000000000000000000000000000000000000000000000000000000000000000000000000000000000000000000110000) = some (.streamWait 0x0020005 0x30) ∧
    decodeStreamEntry (0b0011_0000000000100000000000000101_000000000000000000000000000000000000000000000000000000000000000000000000000000000000000000110000) = some (.streamFlip 0x0020005 0x30) ∧
    decodeStreamEntry (0b0100_0000000000100000000000000101_000000000000000000000000000000000000000000000000000000000000000000000000000000000000000000110000) = some (.streamMark 0x0020005 0x30) ∧
    decodeStreamEntry (0b0101_0000000000100000000000000101_000000000000000000000000000000000000000000000000000000000000000000000000000000000000000000110000) = some (.streamEnd 0x0020005 0x30) ∧
    decodeStreamEntry (0b0110_0000000000100000000000000101_000000000000000000000000000000000000000000000000000000000000000000000000000000000000000000110000) = some (.streamRoute 0x0020005 0x30) := by
  decide

/-! ### Results of control instructions, worked out by hand from the rules, and states that meet the statements' hypotheses -/

theorem test_add_sub_mul : gAfter (.add gd 4 5 6) (two 7 9) 4 = some 16 ∧ gAfter (.add gd 4 5 6) (two (-1) 2) 4 = some 1 ∧
    gAfter (.sub gd 4 5 6) (two 7 9) 4 = some (-2) ∧ gAfter (.mul gd 4 5 6) (two (-3) 9) 4 = some (-27) := by decide
theorem test_logic : gAfter (.and gd 4 5 6) (two 12 10) 4 = some 8 ∧ gAfter (.or gd 4 5 6) (two 12 10) 4 = some 14 ∧
    gAfter (.xor gd 4 5 6) (two 12 10) 4 = some 6 := by decide
theorem test_shifts : gAfter (.shl gd 4 5 6) (two 7 9) 4 = some 3584 ∧ gAfter (.shl gd 4 5 6) (two 7 64) 4 = some 0 ∧
    gAfter (.shrN gd 4 5 6) (two (-8) 60) 4 = some 15 ∧ gAfter (.shrS gd 4 5 6) (two (-8) 1) 4 = some (-4) ∧
    gAfter (.shrS gd 4 5 6) (two (-8) (-1)) 4 = some (-1) := by decide
theorem test_immediate : gAfter (.addImmediate gd 4 5 0xFFFFFFFE) (two 7 0) 4 = some 5 ∧
    gAfter (.subImmediate gd 4 5 0xFFFFFFFE) (two 7 0) 4 = some 9 ∧ gAfter (.mulImmediate gd 4 5 0xFFFFFFFE) (two 7 0) 4 = some (-14) ∧
    gAfter (.andImmediate gd 4 5 0xFFFFFFFE) (two 7 0) 4 = some 6 ∧ gAfter (.orImmediate gd 4 5 0xFFFFFFFE) (two 7 0) 4 = some (-1) ∧
    gAfter (.xorImmediate gd 4 5 0xFFFFFFFE) (two 7 0) 4 = some (-7) ∧ gAfter (.shlImmediate gd 4 5 3) (two 7 0) 4 = some 56 ∧
    gAfter (.shrNImmediate gd 4 5 1) (two 7 0) 4 = some 3 ∧ gAfter (.shrSImmediate gd 4 5 0xFFFFFFFF) (two (-7) 0) 4 = some (-1) ∧
    pcAfter (.addImmediate gd 4 5 0) base = some 0x100C := by decide
theorem test_high_products : gAfter (.mulhS gd 4 5) (pair (-1) (-1)) 4 = some 0 ∧ gAfter (.mulhN gd 4 5) (pair (-1) (-1)) 4 = some (-2) ∧
    gAfter (.mulhS gd 4 5) (pair (-1) 1) 4 = some (-1) := by decide
theorem test_division : gAfter (.divS gd 4 5) (pair (-7) 2) 4 = some (-3) ∧ gAfter (.remS gd 4 5) (pair (-7) 2) 4 = some (-1) ∧
    gAfter (.divN gd 4 5) (pair (-7) 2) 4 = some 0x7FFFFFFFFFFFFFFC ∧ gAfter (.remN gd 4 5) (pair (-7) 2) 4 = some 1 ∧
    gAfter (.divS gd 4 5) (pair 0x8000000000000000 (-1)) 4 = some 0x8000000000000000 ∧
    gAfter (.remS gd 4 5) (pair 0x8000000000000000 (-1)) 4 = some 0 := by decide
theorem test_min_max : gAfter (.minS gd 4 5) (pair (-1) 2) 4 = some (-1) ∧ gAfter (.minN gd 4 5) (pair (-1) 2) 4 = some 2 ∧
    gAfter (.maxS gd 4 5) (pair (-1) 2) 4 = some 2 ∧ gAfter (.maxN gd 4 5) (pair (-1) 2) 4 = some (-1) ∧
    gAfter (.andn gd 4 5) (pair 15 5) 4 = some 10 ∧ gAfter (.not gd 4 5) (pair 0 5) 4 = some (-6) ∧
    gAfter (.neg gd 4 5) (pair 0 5) 4 = some (-5) := by decide
theorem test_packed : gAfter (.padd gd 4 5 0) (pair 0x01FF 0x0201) 4 = some 0x0300 ∧ gAfter (.psub gd 4 5 2) (pair 0x10000 0x1) 4 = some 0x1FFFF ∧
    gAfter (.padds gd 4 5 0) (pair 0x7F80 0x01FF) 4 = some 0x7F80 ∧ gAfter (.psubs gd 4 5 1) (pair 0x0105 0x0206) 4 = some 0 ∧
    gAfter (.pmin gd 4 5 0) (pair 0xFF 0x01) 4 = some 0xFF ∧ gAfter (.pmax gd 4 5 1) (pair 0xFF 0x01) 4 = some 0xFF ∧
    gAfter (.pshl gd 4 5 1) (pair 0x0101 0x0801) 4 = some 0x0002 ∧ gAfter (.pshr gd 4 5 2) (pair 0x8000 0x0010) 4 = some 0xFFFF ∧
    gAfter (.pshr gd 4 5 3) (pair 0x8000 0x000F) 4 = some 1 := by decide
theorem test_counts : gAfter (.clz gd 4 5) (two 1 0) 4 = some 63 ∧ gAfter (.clz gd 4 5) (two 0 0) 4 = some 64 ∧
    gAfter (.ctz gd 4 5) (two 8 0) 4 = some 3 ∧ gAfter (.ctz gd 4 5) (two 0 0) 4 = some 64 ∧ gAfter (.popc gd 4 5) (two 0xFF01 0) 4 = some 9 ∧
    gAfter (.brev gd 4 5) (two 1 0) 4 = some 0x8000000000000000 ∧ gAfter (.bswap gd 4 5) (two 0x0102 0) 4 = some 0x0201000000000000 := by
  decide +kernel
theorem test_fields : gAfter (.extN gd 4 5 8 11) (two 0xFABCDE 0) 4 = some 0xABC ∧ gAfter (.extS gd 4 5 8 11) (two 0xFABCDE 0) 4 = some (-0x544) ∧
    gAfter (.ins gd 4 5 8 11) (pair 0xFFFFFFFF 0x123) 4 = some 0xFFF123FF ∧ gAfter (.extN gd 4 5 0 63) (two (-1) 0) 4 = some (-1) := by decide
theorem test_moves : gAfter (.mov gd 4 55) base 4 = some 4 ∧ gAfter (.li gd 4 0xFFFFFFFB) base 4 = some (-5) ∧
    gAfter (.lih gd 4 0x1234) (pair 0xFFFFFFFF00000009 0) 4 = some 0x0000123400000009 ∧
    gAfter (.lea gd 4 5 6 3 16) (two 0x100 2) 4 = some 0x120 ∧ gAfter (.mov gd 4 62) base 4 = some (-1) := by decide

/-- g0 reads 0 and takes nothing; its result is pushed all the same (09 R219, R220). -/
theorem test_g0 : gAfter (.add gd 0 5 6) (two 7 9) 0 = some 0 ∧
    (regs w0 (nextOf (.add gd 0 5 6) (two 7 9))).h.map (fun e => e.v) = [16] ∧
    gAfter (.add gd 4 32 6) (nextOf (.add gd 0 5 6) (two 7 9)) 4 = some 25 := by decide

theorem witness_two_sources : Issues w0 gd (two 7 9) ∧ source (regs w0 (two 7 9)) 5 = some (⟨7, .clean⟩, regs w0 (two 7 9)) ∧
    source (regs w0 (two 7 9)) 6 = some (⟨9, .clean⟩, regs w0 (two 7 9)) ∧
    (result (regs w0 (two 7 9)) 31 ⟨16, mark2 ⟨7, .clean⟩ ⟨9, .clean⟩⟩).isSome = true ∧
    (result (regs w0 (two 7 9)) 0 ⟨16, mark2 ⟨7, .clean⟩ ⟨9, .clean⟩⟩).isSome = true :=
  ⟨⟨⟨by decide, by decide, by decide, by decide, by decide⟩, by decide⟩, by decide, by decide, by decide, by decide⟩

/-- Every form of a source: a constant, the age queue, an operand queue that is popped. -/
theorem witness_sources :
    let r := regs w0 (withR (fun r => { r with h := [⟨3, 0, .clean⟩], q := [(0, [⟨5, 0, 0, 8, 0⟩, ⟨6, 0, 0, 8, 0⟩])] }))
    source r 52 = some (⟨1, .clean⟩, r) ∧ source r 62 = some (⟨-1, .clean⟩, r) ∧ source r 32 = some (⟨3, .clean⟩, r) ∧
    source r 47 = some (⟨0, .clean⟩, r) ∧ source r 48 = some (⟨5, .derived⟩, { r with q := [(0, [⟨6, 0, 0, 8, 0⟩])] }) ∧
    source r 51 = none ∧ source r 63 = none := by decide

theorem witness_immediate : Issues w0 gd (two 7 9) ∧ source (regs w0 (two 7 9)) 5 = some (⟨7, .clean⟩, regs w0 (two 7 9)) ∧
    (result (regs w0 (two 7 9)) 4 ⟨7 + (0xFFFFFFFE : BitVec 32).signExtend 64, mark1 ⟨7, .clean⟩⟩).isSome = true :=
  ⟨witness_two_sources.1, by decide, by decide⟩

theorem witness_destination : Issues w0 gd (pair 7 2) ∧ source (regs w0 (pair 7 2)) 4 = some (⟨7, .clean⟩, regs w0 (pair 7 2)) ∧
    source (regs w0 (pair 7 2)) 5 = some (⟨2, .clean⟩, regs w0 (pair 7 2)) ∧ (2 : Word) ≠ 0 ∧
    (result (regs w0 (pair 7 2)) 4 ⟨3, mark2 ⟨7, .clean⟩ ⟨2, .clean⟩⟩).isSome = true :=
  ⟨⟨⟨by decide, by decide, by decide, by decide, by decide⟩, by decide⟩, by decide, by decide, by decide, by decide⟩

theorem witness_divide_by_zero : Issues w0 gd (pair 7 0) ∧ source (regs w0 (pair 7 0)) 4 = some (⟨7, .clean⟩, regs w0 (pair 7 0)) ∧
    source (regs w0 (pair 7 0)) 5 = some (⟨0, .clean⟩, regs w0 (pair 7 0)) ∧ runs (.divS gd 4 5) (pair 7 0) = true :=
  ⟨⟨⟨by decide, by decide, by decide, by decide, by decide⟩, by decide⟩, by decide, by decide, by decide⟩

theorem witness_field_in_word : (0 : BitVec 6).toNat + (63 : BitVec 6).toNat + 1 ≤ 64 ∧ 64 < (1 : BitVec 6).toNat + (63 : BitVec 6).toNat + 1 := by
  decide

/-! ### Compares, predicates, transfers, loops, handlers -/

/-- Predicate `n` after an instruction. -/
def pAfter (i : Instr) (s : State) (n : Nat) : Option Bool :=
  match exec i s with
  | .next t => some ((regs w0 t).p.getLsbD n)
  | _ => none

theorem test_compares : pAfter (.cmpEq gd 2 5 6) (two 7 7) 2 = some true ∧ pAfter (.cmpNe gd 2 5 6) (two 7 7) 2 = some false ∧
    pAfter (.cmpLtS gd 2 5 6) (two (-1) 1) 2 = some true ∧ pAfter (.cmpGeS gd 2 5 6) (two (-1) 1) 2 = some false ∧
    pAfter (.cmpLtN gd 2 5 6) (two (-1) 1) 2 = some false ∧ pAfter (.cmpGeN gd 2 5 6) (two (-1) 1) 2 = some true ∧
    pAfter (.cmpAny gd 2 5 6) (two 12 4) 2 = some true ∧ pAfter (.cmpNone gd 2 5 6) (two 12 3) 2 = some true ∧
    pAfter (.cmpi gd 63 5 2 0xFFFFFFFF) (two (-2) 0) 63 = some true ∧ pAfter (.cmpi gd 63 5 4 0xFFFFFFFF) (two (-1) 0) 63 = some false := by
  decide

/-- p1 and p3 are set. -/
def preds : State := withR (fun r => { r with p := 0xA })

theorem test_predicates : pAfter (.pand gd 5 1 3) preds 5 = some true ∧ pAfter (.por gd 5 0 3) preds 5 = some true ∧
    pAfter (.pxor gd 5 1 3) preds 5 = some false ∧ pAfter (.pandn gd 5 1 0) preds 5 = some true ∧ pAfter (.pset gd 5) preds 5 = some true ∧
    pAfter (.pclr gd 1) preds 1 = some false ∧ pAfter (.pnot gd 5 0) preds 5 = some true ∧ pAfter (.pmov gd 5 1) preds 5 = some true ∧
    gAfter (.rdp gd 4) preds 4 = some 0xA ∧ pAfter (.wrp gd 62) preds 63 = some true := by decide

theorem witness_predicates : Issues w0 gd preds ∧ (∃ m, (result (regs w0 preds) 4 ⟨(regs w0 preds).p, m⟩).isSome = true) ∧
    source (regs w0 preds) 62 = some (⟨-1, .clean⟩, regs w0 preds) :=
  ⟨⟨⟨by decide, by decide, by decide, by decide, by decide⟩, by decide⟩, ⟨.clean, by decide⟩, by decide⟩

/-- A guard that holds and one that fails. -/
theorem witness_guard : Issues w0 ⟨true, false, 1⟩ preds ∧ Squashed w0 ⟨true, true, 1⟩ preds ∧ Squashed w0 ⟨true, false, 2⟩ preds ∧
    guardField (.add ⟨true, true, 1⟩ 4 5 6) = some ⟨true, true, 1⟩ ∧ isBranch (.add ⟨true, true, 1⟩ 4 5 6) = false ∧
    guardField (.br ⟨true, false, 2⟩ 1) = some ⟨true, false, 2⟩ ∧ isBranch (.br ⟨true, false, 2⟩ 1) = true :=
  ⟨⟨witness_predicates.1.toActs, by decide⟩, ⟨witness_predicates.1.toActs, by decide⟩, ⟨witness_predicates.1.toActs, by decide⟩,
    by decide, by decide, by decide, by decide⟩

theorem test_squashed : leads (.add ⟨true, true, 1⟩ 4 5 6) preds (withRegs w0 preds (pcOn (regs w0 preds) 1)) = true ∧
    leads (.br ⟨true, false, 2⟩ 1) preds (withRegs w0 preds (pcOn (regs w0 preds) 1)) = true ∧
    leads (.atomAdd ⟨true, true, 1⟩ 4 5 6 false false 0) preds (withRegs w0 preds (pcOn (regs w0 preds) 2)) = true := by decide

/-- The line at 0x1020 carries TGT and the one at 0x1040 does not; g5 holds `t`. -/
def lines (t : Word) : State :=
  let s := writeBytes (writeBytes (withR (fun r => { r with g := [(5, t), (31, t)] })) 0x1020 [0x01, 0xFF, 0xFF, 0xFF]) 0x1040
    [0x00, 0xFF, 0xFF, 0xFF]
  s

theorem test_transfers : pcAfter (.br gd 1) (lines 0) = some 0x1024 ∧ pcAfter (.brLong gd 1) (lines 0) = some 0x1024 ∧
    pcAfter (.call gd 1) (lines 0) = some 0x1024 ∧ gAfter (.call gd 1) (lines 0) 31 = some 0x1020 ∧
    gAfter (.callLong gd 1) (lines 0) 31 = some 0x1020 ∧ pcAfter (.jr gd 5) (lines 0x1020) = some 0x1024 ∧
    pcAfter (.callr gd 31) (lines 0x1020) = some 0x1024 ∧ gAfter (.callr gd 31) (lines 0x1020) 31 = some 0x1020 ∧
    pcAfter (.ret gd) (lines 0x1020) = some 0x1024 := by decide +kernel

theorem issues_lines (t : Word) : Issues w0 gd (lines t) := ⟨⟨rfl, rfl, rfl, rfl, rfl⟩, rfl⟩

/-- A line address, a line with TGT and one without, and an address inside a line. -/
theorem witness_transfers : ∃ s1, (readSrc w0 5).go (lines 0x1020) = (.ok ⟨0x1020, .clean⟩, s1) ∧ (0x1020 : Word) &&& 31 = 0 ∧
    (∃ line u, (fetchLine w0 0x1020).go (noted w0 ⟨0x1020, .clean⟩ s1) = (.ok line, u) ∧ lineTgt line = true) ∧
    (∃ line u, (fetchLine w0 0x1040).go s1 = (.ok line, u) ∧ lineTgt line = false) ∧ (0x1024 : Word) &&& 31 ≠ 0 ∧
    sget 0 (regs w0 s1).gWait 31 = 0 :=
  ⟨_, go_answers (by decide), by decide, ⟨_, _, rfl, by decide +kernel⟩, ⟨_, _, rfl, by decide +kernel⟩, by decide, by decide⟩

theorem witness_relative : ((regs w0 (lines 0)).pc &&& ~~~31) + 32 * (1 : BitVec 18).signExtend 64 = 0x1020 ∧
    ∃ line u, (fetchLine w0 0x1020).go (lines 0) = (.ok line, u) ∧ lineTgt line = true :=
  ⟨by decide, _, _, rfl, by decide +kernel⟩

/-- A loop at its boundary counts: 2 goes back, 1 falls through. -/
theorem test_loop : pcAfter (.loop gd 5 1) (lines 2) = some 0x1024 ∧ pcAfter (.loop gd 5 1) (lines 1) = some 0x1008 ∧
    gAfter (.loop gd 5 1) (lines 2) 5 = some 1 ∧ gAfter (.loop gd 5 1) (lines 1) 5 = some 0 ∧
    (regs w0 (nextOf (.loop gd 5 1) (lines 2))).rb = 7 ∧ pcAfter (.loopLong gd 5 1) (lines 1) = some 0x100C ∧
    (regs w0 (nextOf (.rotw gd 3) base)).rb = 3 ∧ pcAfter (.nop gd) base = some 0x1008 := by decide +kernel

theorem witness_loop : (5 : Spec).toNat < 32 ∧ sget 0 (regs w0 (lines 2)).gWait (physOf (regs w0 (lines 2)).rb 5) = 0 ∧
    2 ≤ (sget 0 (regs w0 (lines 2)).g (physOf (regs w0 (lines 2)).rb 5)).toNat ∧
    (∃ line u, (fetchLine w0 (((regs w0 (lines 2)).pc &&& ~~~31) + 32 * (1 : BitVec 12).signExtend 64)).go (lines 2) = (.ok line, u) ∧
      lineTgt line = true) ∧ (sget 0 (regs w0 (lines 1)).g (physOf (regs w0 (lines 1)).rb 5)).toNat < 2 :=
  ⟨by decide, by decide, by decide, ⟨_, _, rfl, by decide +kernel⟩, by decide⟩

/-- A task with a handler, at a depth. -/
def handler (d : BitVec 2) : State := withR (fun r => { r with evec := 0x1020, depth := d, epc0 := 0x2004, epc1 := 0x3004 })

theorem test_handler : pcAfter (.brk gd) (handler 0) = some 0x1024 ∧
    (regs w0 (nextOf (.brk gd) (handler 0))).epc0 = 0x1008 ∧ (regs w0 (nextOf (.brk gd) (handler 0))).cause0 = 0x11 ∧
    (regs w0 (nextOf (.trap gd 5) (handler 0))).depth = 1 ∧ pcAfter (.brk gd) (handler 1) = some 0x1008 ∧
    pcAfter (.rti gd) (handler 1) = some 0x2004 ∧ pcAfter (.rti gd) (handler 2) = some 0x3004 ∧
    (regs w0 (nextOf (.rti gd) (handler 2))).depth = 1 := by decide +kernel

theorem witness_handler : Issues w0 gd (handler 0) ∧ (regs w0 (handler 0)).evec ≠ 0 ∧ (regs w0 (handler 0)).depth = 0 ∧
    source (regs w0 (handler 0)) 5 = some (⟨0, .clean⟩, regs w0 (handler 0)) ∧ (regs w0 (handler 1)).depth ≠ 0 ∧
    (regs w0 (handler 2)).depth = 2 ∧ (regs w0 base).depth = 0 ∧ (regs w0 base).evec = 0 :=
  ⟨⟨⟨by decide, by decide, by decide, by decide, by decide⟩, by decide⟩, by decide, by decide, by decide, by decide, by decide, by decide,
    by decide⟩

theorem witness_trap_ends : ∃ s1, (readSrc w0 5).go base = (.ok ⟨0, .clean⟩, s1) ∧ (regs w0 base).evec = 0 ∧
    ∃ v u, (endByTrap w0.task w0.core .break_ (regs w0 base).pc 0).go s1 = (.ok v, u) :=
  ⟨_, go_answers (by decide), by decide, goes (by decide +kernel)⟩

/-- Pending operands, and an operand queue that is empty. -/
theorem witness_waits : let r := regs w0 (withR (fun r => { r with gWait := [(5, 9)], h := [⟨0, 9, .clean⟩], q := [(0, [⟨0, 9, 0, 8, 0⟩])] }))
    Pending r 5 ∧ Pending r 32 ∧ Pending r 48 ∧ sget 0 r.gWait (physOf r.rb 5) ≠ 0 ∧ sget [] r.q 1 = [] :=
  ⟨.inl ⟨by decide, by decide⟩, .inr (.inl ⟨by decide, by decide, _, rfl, by decide⟩),
    .inr (.inr ⟨by decide, by decide, _, _, rfl, by decide⟩), by decide, by decide⟩

/-! ### S, memory, atomics, fences, owners, folds -/

/-- The task has a partition of two slots and one tile; its store buffer and its registers g4 = v, g5 = o. -/
def withS (v o : Word) : State :=
  updCore (withBank (fun k => { k with part := ⟨0, 2, 0, 1⟩, regs := { k.regs with g := [(4, v), (5, o)] } })) 0 (fun c =>
    { c with sBytes := [(8, 0xF0), (9, 0xFF)] })

theorem test_scratch : gAfter (.ldSSpaceS gd 4 5 0 1) (withS 0 8) 4 = some (-16) ∧ gAfter (.ldNSpaceS gd 4 5 0 1) (withS 0 8) 4 = some 0xFFF0 ∧
    gAfter (.ldSSpaceSDisp gd 4 5 0 0 0xFFFFFFFF) (withS 0 9) 4 = some (-16) ∧ gAfter (.ldNSpaceSDisp gd 4 5 0 3 8) (withS 0 0) 4 = some 0xFFF0 ∧
    (let t := nextOf (.stSpaceS gd 4 5 0 1) (withS 0x1234 4094); (sByte t 0 4094, sByte t 0 4095, sByte t 0 8)) = (0x34, 0x12, 0xF0) ∧
    (let t := nextOf (.stSpaceSDisp gd 4 5 0 0 8) (withS 0x1234 0); (sByte t 0 8, sByte t 0 9)) = (0x34, 0xFF) := by decide +kernel

theorem issues_s (v o : Word) : Issues w0 gd (withS v o) := ⟨⟨rfl, rfl, rfl, rfl, rfl⟩, rfl⟩

/-- The last byte of the partition and a whole doubleword. -/
theorem witness_scratch : ThreadBytes w0 (withS 1 8) 8 8 ∧ ThreadBytes w0 (withS 1 8) 4095 1 ∧
    ∃ s1 s2, (readSrc w0 4).go (withS 1 8) = (.ok ⟨1, .clean⟩, s1) ∧ (readSrc w0 5).go s1 = (.ok ⟨8, .clean⟩, s2) ∧
      (∃ x u, (raceCheck w0 0x100 (coreOf (withS 1 8) 0).phase 8 8 true).go s2 = (.ok x, u)) ∧
      (∃ x u, (raceCheck w0 0x100 (coreOf (withS 1 8) 0).phase 8 8 false).go (noted w0 ⟨8, .clean⟩ s1) = (.ok x, u)) ∧
      (result (regs w0 s1) 4 ⟨0xFFF0, .clean⟩).isSome = true :=
  ⟨⟨by decide, by decide, by decide, by decide, by decide⟩, ⟨by decide, by decide, by decide, by decide, by decide⟩, _, _,
    go_answers (by decide), go_answers (by decide), goes (by decide), goes (by decide), by decide⟩

theorem test_sector_moves :
    (bank w0 (nextOf (.stSec gd 5 4 0) (withS 0x2000 0))).storeBuf.map (fun e => (e.va, e.bytes.length, e.bytes.getD 8 0)) = [(0x2000, 32, 0xF0)] ∧
    (bank w0 (nextOf (.ldSec gd 5 4 0) (withS 0x2000 0))).loads.map (fun l => (l.size, l.dest)) = [(32, .sBytes 0)] ∧
    (bank w0 (nextOf (.casSec gd 5 4 0) (withS 0x2000 0))).inflight.map (fun a => (a.pa, a.len, a.data.length)) = [(0x2000, 32, 64)] ∧
    runs (.ldSecDisp gd 5 4 0 32) (withS 0x2000 0) = true ∧ runs (.stSecDisp gd 5 4 0 32) (withS 0x2000 0) = true ∧
    runs (.casSecDisp gd 5 4 0 32) (withS 0x2000 0) = true := by decide +kernel

/-- A load and a store of one address, their data and operands, and the data's arrival. -/
theorem test_memory :
    let s := two 0x0000000000002FFC 0
    (bank w0 (nextOf (.ldN gd 4 5 0 3) s)).inflight.map (fun a => (a.pa, a.len, a.off)) = [(0x2FFC, 4, 0), (0x3000, 4, 4)] ∧
    (regs w0 (nextOf (.ldS gd 4 5 0 3) s)).gWait = [(4, 2)] ∧
    (bank w0 (nextOf (.ldNDisp gd 4 5 0 2 4) s)).inflight.map (fun a => (a.pa, a.len)) = [(0x3000, 4)] ∧
    (bank w0 (nextOf (.ldSDisp gd 4 5 0 0 4) s)).loads.map (fun l => (l.size, l.signed)) = [(1, true)] ∧
    (bank w0 (nextOf (.st gd 5 5 0 1) s)).storeBuf.map (fun e => (e.va, e.bytes, e.ordered)) = [(0x2FFC, [0xFC, 0x2F], false)] ∧
    (bank w0 (nextOf (.stDisp gd 5 5 0 3 0) s)).storeBuf.map (fun e => (e.va, e.bytes)) =
      [(0x2FFC, [0xFC, 0x2F, 0, 0]), (0x3000, [0, 0, 0, 0])] ∧
    (bank w0 (nextOf (.stf gd 5 5 3 2) s)).storeBuf.map (fun e => (e.va, e.cls, e.ordered)) = [(0x2FFC, 3, true)] ∧
    (bank w0 (nextOf (.stfDisp gd 5 5 3 2 4) s)).storeBuf.map (fun e => e.va) = [0x3000] ∧
    (regs w0 (nextOf (.ldq gd 49 5 0 2) s)).q = [(1, [⟨0, 2, 0x2FFC, 4, 0⟩])] ∧
    (regs w0 (nextOf (.ldqDisp gd 49 5 0 0 1) s)).q = [(1, [⟨0, 2, 0x2FFD, 1, 0⟩])] := by decide +kernel

/-- The pieces of an access are placed and the ticket table has room. -/
def placesOk (w : Who) (s : State) (kind : AccKind) (dkind : BitVec 4) (right : Right) (c : BitVec 4) (va : Word) (n : Nat) : Bool :=
  match (placePieces w s.nextId kind dkind right c (pieces va.toNat n)).go { s with nextId := s.nextId + 1 } with
  | (.ok p, u) =>
    match (remoteRoom w va p).go u with
    | (.ok _, v) => decide (v = u)
    | _ => false
  | _ => false

theorem places_of {w : Who} {s : State} {kind : AccKind} {dkind : BitVec 4} {right : Right} {c : BitVec 4} {va : Word} {n : Nat}
    (h : placesOk w s kind dkind right c va n = true) : ∃ placed u, Places w s kind dkind right c va n placed u := by
  unfold placesOk at h
  split at h
  · rename_i p u hp
    split at h
    · rename_i x v hv
      exact ⟨p, u, hp, by rw [hv, of_decide_eq_true h]⟩
    · cases h
  · cases h

theorem witness_loads : ∃ s1, Issues w0 gd (two 0x2FFC 0) ∧ (4 : Spec).toNat < 32 ∧ sget 0 (regs w0 (two 0x2FFC 0)).gWait 4 = 0 ∧
    (readSrc w0 5).go (two 0x2FFC 0) = (.ok ⟨0x2FFC, .clean⟩, s1) ∧ (0x2FFC : Word).toNat < 2 ^ 56 ∧
    (∃ placed u, Places w0 (noted w0 ⟨0x2FFC, .clean⟩ s1) .load 0 .rd 0 0x2FFC 8 placed u) ∧
    (sget [] (regs w0 s1).q 1).length < 16 :=
  ⟨_, ⟨⟨by decide, by decide, by decide, by decide, by decide⟩, by decide⟩, by decide, by decide, go_answers (by decide), by decide,
    places_of (by decide +kernel), by decide⟩

/-- A store whose bytes cross a sector, the full buffer's last two places, and an ordered store that is aligned. -/
theorem witness_stores : ∃ s1 s2, (readSrc w0 4).go (pair 7 0x301E) = (.ok ⟨7, .clean⟩, s1) ∧ (readSrc w0 5).go s1 = (.ok ⟨0x301E, .clean⟩, s2) ∧
    (0x301E : Word).toNat < 2 ^ 56 ∧ (0x301E : Word).toNat % 2 = 0 ∧
    (bank w0 (pair 7 0x301E)).storeBuf.length + (bufEntries (0x301E : Word).toNat (leBytes 4 7) 0 false).length ≤ 128 :=
  ⟨_, _, go_answers (by decide), go_answers (by decide), by decide, by decide, by decide⟩

theorem witness_sectors : SectorBytes w0 (withS 0x2000 0) 0x2000 0 32 ∧ SectorBytes w0 (withS 0x2000 0) 0x2000 1984 64 ∧
    ∃ s1 s2, (readSrc w0 5).go (withS 0x2000 0) = (.ok ⟨0, .clean⟩, s1) ∧ (readSrc w0 4).go s1 = (.ok ⟨0x2000, .clean⟩, s2) ∧
      (∃ placed u, Places w0 s2 .load 0 .rd 0 0x2000 32 placed u) ∧ (∃ placed u, Places w0 s2 .casSec 2 .rdw 0 0x2000 32 placed u) ∧
      (∃ id u, (issueLoad w0 0x2000 32 false 0 (.sBytes 0) 0 (sectorOwner w0 0)).go s2 = (.ok id, u)) ∧
      (∃ x u, (raceCheck w0 0x100 0 0 32 true).go s2 = (.ok x, u)) ∧ (bank w0 (withS 0x2000 0)).storeBuf.length < 128 :=
  ⟨⟨by decide, by decide, by decide, by decide, by decide, by decide, by decide⟩,
    ⟨by decide, by decide, by decide, by decide, by decide, by decide, by decide⟩, _, _, go_answers (by decide), go_answers (by decide),
    places_of (by decide +kernel), places_of (by decide +kernel), goes (by decide +kernel), goes (by decide), by decide⟩

/-- An atomic's operands, aligned; its access is in flight with them. -/
theorem test_atomics : let s := two 0x2008 5
    (bank w0 (nextOf (.atomAdd gd 4 5 6 false true 2) s)).inflight.map (fun a => (a.pa, a.len, a.aop)) = [(0x2008, 4, 0)] ∧
    (bank w0 (nextOf (.atomAdd gd 4 5 6 false true 2) s)).inflight.map (fun a => (a.opB, a.log, a.cls)) = [(5, true, 2)] ∧
    (bank w0 (nextOf (.atomCas gd 4 5 6 true false 2) s)).inflight.map (fun a => (a.len, a.aop, a.opB, a.opD)) = [(8, 7, 5, 0)] ∧
    [Instr.atomAnd gd 4 5 6 true false 0, .atomOr gd 4 5 6 true false 0, .atomXor gd 4 5 6 true false 0, .atomSwap gd 4 5 6 true false 0,
      .atomMinS gd 4 5 6 true false 0, .atomMaxS gd 4 5 6 true false 0].map (fun i => (bank w0 (nextOf i s)).inflight.map (fun a => a.aop)) =
      [[1], [2], [3], [4], [5], [6]] := by decide +kernel

theorem witness_atomics : ∃ s1 s2, (readSrc w0 5).go (two 0x2008 5) = (.ok ⟨0x2008, .clean⟩, s1) ∧
    (readSrc w0 6).go s1 = (.ok ⟨5, .clean⟩, s2) ∧ (0x2008 : Word).toNat % 8 = 0 ∧
    (∃ placed u, Places w0 s2 .atomic 2 .rdw 0 0x2008 8 placed u ∧ ∀ e ∈ placed, e.target ≠ .pool ∧ (e.target = .host → (0 : BitVec 3) = 0 ∨ (0 : BitVec 3) = 4)) :=
  ⟨_, _, go_answers (by decide), go_answers (by decide), by decide, by
    refine ⟨_, _, ⟨rfl, rfl⟩, ?_⟩
    decide +kernel⟩

/-- An access in flight: a load, a store and an atomic that may perform. -/
def flying (i : Instr) (s : State) : State := nextOf i s

theorem test_performs :
    (let s := flying (.ldN gd 4 5 0 2) (writeBytes (two 0x2008 5) 0x2008 [1, 2, 3, 4])
     let t := nextOf (.loadDataArrival 0 0) s
     sget 0 (regs w0 t).g 4 = 0x04030201 ∧ (regs w0 t).gWait = [] ∧ (bank w0 t).inflight = []) ∧
    (let s := flying (.commit gd) (flying (.st gd 5 5 0 1) (two 0x2008 5))
     let t := nextOf (.storePerformedAtHome 0 0) s
     readByte t 0x2008 = 8 ∧ readByte t 0x2009 = 0x20 ∧ readByte t 0x200A = 0 ∧ readByte s 0x2008 = 0) ∧
    (let s := flying (.atomAdd gd 4 5 6 true false 0) (writeBytes (two 0x2008 5) 0x2008 [255])
     let t := nextOf (.storePerformedAtHome 0 0) s
     sget 0 (regs w0 t).g 4 = 255 ∧ readByte t 0x2008 = 4 ∧ readByte t 0x2009 = 1) := by decide +kernel
/-- An access that may perform: at home, nothing before it holding it back. -/
theorem witness_load_arrives : let s := flying (.ldN gd 4 5 0 2) (two 0x2008 5)
    ∃ a l, MayPerform s 0 0 0 0 a ∧ a.kind = .load ∧ (bankOf s 0 0).loads.find? (fun e => e.id == a.id) = some l ∧ l.dest = .regs ∧
      a.off = 0 ∧ a.len = l.size ∧ l.got = List.replicate l.size none ∧ a.fwd.length = a.len :=
  ⟨_, _, ⟨by decide +kernel, rfl, by decide +kernel, by decide +kernel, by decide +kernel⟩, by decide +kernel, rfl, by decide +kernel,
    by decide +kernel, by decide +kernel, by decide +kernel, by decide +kernel⟩

theorem witness_store_performs : let s := flying (.commit gd) (flying (.st gd 5 5 0 1) (two 0x2008 5))
    ∃ a, MayPerform s 0 0 0 0 a ∧ a.kind = .store ∧ ∀ l ∈ (bankOf s 0 0).loads, l.id ≠ a.id :=
  ⟨_, ⟨by decide +kernel, rfl, by decide +kernel, by decide +kernel, by decide +kernel⟩, by decide +kernel, by decide +kernel⟩

theorem witness_atomic_performs : let s := flying (.atomAdd gd 4 5 6 true false 0) (two 0x2008 5)
    ∃ a l, MayPerform s 0 0 0 0 a ∧ a.kind = .atomic ∧ a.log = false ∧ (a.len = 4 ∨ a.len = 8) ∧
      (bankOf s 0 0).loads.find? (fun e => e.id == a.id) = some l ∧ l.dest = .regs ∧ a.off = 0 ∧ a.len = l.size ∧
      l.got = List.replicate l.size none :=
  ⟨_, _, ⟨by decide +kernel, rfl, by decide +kernel, by decide +kernel, by decide +kernel⟩, by decide +kernel, by decide +kernel,
    by decide +kernel, rfl, by decide +kernel, by decide +kernel, by decide +kernel, by decide +kernel⟩

/-- A fence with and without an access to wait for. -/
theorem test_fences : pcAfter (.fence gd 3 1) base = some 0x100C ∧
    pcAfter (.fence gd 0 0xFFFF) (flying (.ldN gd 4 5 0 2) (two 0x2008 5)) = some 0x1008 ∧ pcAfter (.tkwait gd) base = some 0x1008 ∧
    pcAfter (.isync gd) base = some 0x1008 ∧ (coreOf (nextOf (.isync gd) base) 0).icache = [] ∧
    pcAfter (.iflush gd 4) base = some 0x1008 := by decide +kernel

theorem witness_fences : performed (bank w0 base) 0xFFFF true = true ∧ (bank w0 base).tickets = [] ∧
    performed (bank w0 (flying (.ldN gd 4 5 0 2) (two 0x2008 5))) 1 false = false ∧ (1 : BitVec 16) ≠ 0 := by decide +kernel

/-- Slot 1 of the partition to the engines and back. -/
theorem test_owners : (slotOf (nextOf (.ownE gd 0 1) (withS 0 0)) 0 1).owner = true ∧
    (slotOf (nextOf (.ownT gd 0 1) (nextOf (.ownE gd 0 1) (withS 0 0))) 0 1).owner = false := by decide +kernel

theorem witness_owners : ∃ s1, (readSrc w0 0).go (withS 0 0) = (.ok ⟨0, .clean⟩, s1) ∧ (0 + (1 : BitVec 8).toNat) % 256 < (bank w0 (withS 0 0)).part.sn ∧
    ringHolds (bank w0 (withS 0 0)) 1 = false ∧ slotBusy (withS 0 0) 0 0 1 = false ∧ sWaits (withS 0 0) w0 (2048 * 1) 2048 = false :=
  ⟨_, go_answers (by decide), by decide, by decide, by decide, by decide⟩

/-- The context has every grant, is a keeper's, and 8 slots and 4 tiles for a task; the task has weight, four slots and one tile. -/
def rich : State :=
  updTask (updCtx (withBank (fun k => { k with part := ⟨0, 4, 0, 1⟩ })) 0 (fun k =>
    { k with foldMask := -1, ctrMask := -1, monMask := -1, vecMask := -1, keeper := true, maxS := 8, maxC := 4 })) 1
    (fun k => { k with weight := 0x100000001 })

/-- The same with g4 = v, g5 = o. -/
def richG (v o : Word) : State := updRegs rich 0 0 (fun r => { r with g := [(4, v), (5, o)] })

theorem issues_rich (v o : Word) : Issues w0 gd (richG v o) := ⟨⟨rfl, rfl, rfl, rfl, rfl⟩, rfl⟩

/-- Fold 5 with cores 0 and 1, or core 0 alone, in its mask. -/
def folded (m : BitVec 256) : State :=
  setFold (richG 0 0) 5 { foldOf (richG 0 0) 5 with eff := m, gen := 7, pend := 2, pflag := true }

theorem test_folds : (foldOf (nextOf (.foldArr gd 4 5) (folded 3)) 5).arr = 1 ∧ (foldOf (nextOf (.foldArr gd 4 5) (folded 3)) 5).gen = 7 ∧
    (foldOf (nextOf (.foldArr gd 4 5) (folded 1)) 5).gen = 8 ∧ (foldOf (nextOf (.foldArr gd 4 5) (folded 1)) 5).eff = 2 ∧
    gAfter (.foldArr gd 4 5) (folded 1) 4 = some 7 ∧ pcAfter (.foldWait gd 4 5) (folded 1) = some 0x1008 ∧
    (foldOf (nextOf (.foldSet gd 0 6) (richG 0 0)) 6).eff = 0 ∧ (foldOf (nextOf (.foldSet gd 0 5) (folded 1)) 5).pflag = true := by
  decide +kernel

theorem witness_folds : Granted w0 (folded 1) 5 ∧ ThreadBytes w0 (folded 1) 0 32 ∧
    (∃ x u, (raceCheck w0 0x100 (coreOf (folded 1) 0).phase 0 32 false).go (folded 1) = (.ok x, u)) ∧
    (∃ u, (commitRegion w0 false).go (folded 1) = (.ok (), u) ∧ bodyTaskOf u w0 = none ∧ maskHas (foldOf u 5).eff 0 = true ∧
      maskHas (foldOf u 5).arr 0 = false ∧ performed (bank w0 u) 0xFFFF false = true) ∧
    (foldOf (folded 1) 5).gen ≠ (0 : Word).setWidth 16 ∧ (foldOf (folded 1) 5).gen = (7 : Word).setWidth 16 :=
  ⟨⟨_, rfl, by decide +kernel⟩, ⟨by decide, by decide, by decide, by decide, by decide⟩, goes (by decide),
    ⟨_, go_answers (by decide +kernel), by decide +kernel, by decide +kernel, by decide +kernel, by decide +kernel⟩, by decide, by decide⟩

theorem witness_fold_aw : let s := updBank (folded 1) 0 0 (fun k => { k with awaiting := some (5, 6) })
    (bank w0 s).awaiting = some (5, 6) ∧ (foldOf s 5).gen ≠ 6 ∧ pcAfter (.foldAw gd 5) s = some 0x1008 := by decide +kernel

theorem witness_commit : let s := flying (.st gd 5 5 0 1) (two 0x2008 5)
    Issues w0 gd s ∧ (bank w0 s).tickets = [] ∧ ∃ placed u, (placeStores w0 0 (bank w0 s).storeBuf).go s = (.ok placed, u) ∧
      (∀ a ∈ placed, a.remote = false → writeStalls u a.pa a.len = false) ∧ placed.length = 1 :=
  ⟨⟨⟨by decide +kernel, by decide +kernel, by decide +kernel, by decide +kernel, by decide +kernel⟩, by decide +kernel⟩, by decide +kernel, _, _,
    rfl, by decide +kernel, by decide +kernel⟩

/-- A task record at 0x3000 that starts at 0x1024's line. -/
def recorded : State := writeBytes (richG 0 0x3000) 0x3000 (leBytes 8 9 ++ leBytes 8 0x1020)

theorem test_task_group :
    ((taskOf (nextOf (.spawn gd 5) recorded) 1).map (fun k => k.weight), (taskOf (nextOf (.spawn gd 5) recorded) 2).map (fun k => k.weight)) =
      (some 0x80000001, some 0x80000000) ∧
    (taskOf (nextOf (.exit gd) recorded) 1) = none ∧ (taskOf (nextOf (.exitSucc gd 5) recorded) 1) = none ∧
    (whoRuns (nextOf (.exitSucc gd 5) recorded) 0).isSome = true ∧ pcAfter (.exitSucc gd 5) recorded = some 0x1024 ∧
    (taskOf (nextOf (.wloan gd) recorded) 1).map (fun k => k.weight) = some 0x200000001 ∧ pcAfter (.yield gd) recorded = some 0x1008 ∧
    pcAfter (.commit gd) recorded = some 0x1008 := by decide +kernel

theorem witness_spawn : let u := after (commitRegion w0 false) recorded
    (commitRegion w0 false).go recorded = (.ok (), u) ∧ (readSrc w0 5).go u = (.ok ⟨0x3000, .clean⟩, after (readSrc w0 5) u) ∧
    bodyTaskOf (noted w0 ⟨0x3000, .clean⟩ (after (readSrc w0 5) u)) w0 = none ∧
    ∃ v r u2 u3, (givens w0).go (after (readSrc w0 5) u) = (.ok v, after (readSrc w0 5) u) ∧ 2 ≤ v.task.weight.toNat ∧
      (successorRecord w0 0x3000).go (after (readSrc w0 5) u) = (.ok r, u2) ∧ recordS r v.spart ≤ v.maxS ∧ recordC r v.cpart ≤ v.maxC ∧
      (enrol .spawned (childOf w0 v r 0x3000)).go u2 = (.ok (.yes 2), u3) ∧ bank w0 u3 = bank w0 (after (readSrc w0 5) u) :=
  ⟨go_answers (by decide +kernel), go_answers (by decide +kernel), by decide +kernel, _, _, _, _, go_kept (by decide +kernel) (by decide +kernel),
    by decide +kernel, go_some (by decide +kernel), by decide +kernel, by decide +kernel, go_answers (by decide +kernel), by decide +kernel⟩

theorem witness_exit : let u := after (retireWait w0) recorded
    (retireWait w0).go recorded = (.ok (), u) ∧ bodyTaskOf u w0 = none ∧
    ∃ k u1, taskOf u 1 = some k ∧ (retire w0 k.weight false).go u = (.ok (), u1) :=
  ⟨go_answers (by decide +kernel), by decide +kernel, _, _, rfl, go_answers (by decide +kernel)⟩

theorem witness_exit_succ : let u := after (retireWait w0) recorded
    let u1 := after (readSrc w0 5) u
    (retireWait w0).go recorded = (.ok (), u) ∧ (readSrc w0 5).go u = (.ok ⟨0x3000, .clean⟩, u1) ∧ bodyTaskOf u1 w0 = none ∧
    ∃ v r k u2 u3 u4 n, (givens w0).go u1 = (.ok v, u1) ∧ (successorRecord w0 0x3000).go u1 = (.ok r, u2) ∧
      recordS r v.spart ≤ (bank w0 u2).part.sn ∧ recordC r v.cpart ≤ (bank w0 u2).part.cn ∧ (retire w0 0 true).go u2 = (.ok (), u3) ∧
      taskOf u3 1 = some k ∧
      (replaceTask 0 0 1 { succTask u3 k r 0x3000 with sdem := k.sdem, cdem := k.cdem }).go u3 = (.ok n, u4) :=
  ⟨go_answers (by decide +kernel), go_answers (by decide +kernel), by decide +kernel, _, _, _, _, _, _, _,
    go_kept (by decide +kernel) (by decide +kernel), go_some (by decide +kernel), by decide +kernel, by decide +kernel,
    go_answers (by decide +kernel), Option.some_get (by decide +kernel) |>.symm, go_some (by decide +kernel)⟩

theorem witness_loan : let u := after (commitRegion w0 false) recorded
    (commitRegion w0 false).go recorded = (.ok (), u) ∧ w0.launch = none ∧ ∃ k, taskOf u 1 = some k :=
  ⟨go_answers (by decide +kernel), rfl, _, rfl⟩

/-- A task that yields with no other candidate, and one with a shadow that comes first (a greater priority). -/
theorem witness_yield :
    let others := fun (s : State) => shadowTasks s 0 ++ queuedFor s 0 (heldBanks s 0)
    let t := updCore (updBank { rich with tasks := aset rich.tasks 7 { placedTask with prio := 5, place := .shadow, bank := 1 } } 0 1
      (fun k => { k with task := some 7 })) 0 (fun c => { c with shadows := [1] })
    yieldWinner rich w0 (others rich) = none ∧ yieldWinner t w0 (others t) = some 7 ∧ (bank w0 t).storeBuf = [] ∧ CopiesStand t 0 0 ∧
    runs (.yield gd) t = true :=
  ⟨by decide +kernel, by decide +kernel, by decide +kernel, by intro m h; exact absurd h (List.not_mem_nil), by decide +kernel⟩

theorem test_system_reads : gAfter (.sysrd gd 4 0x012) rich 4 = some 1 ∧ gAfter (.sysrd gd 4 0x004) (handler 1) 4 = some 1 ∧
    gAfter (.sysrd gd 4 0x003) (handler 2) 4 = some 0x3004 ∧ gAfter (.sysrd gd 4 0x022) rich 4 = some 0 ∧
    gAfter (.sysrd gd 4 0x400) rich 4 = some 0 ∧
    (let s := updCore rich 0 (fun c => { c with elog := [5, 6], derr := 3 })
     gAfter (.sysrd gd 4 6) s 4 = some 5 ∧ (coreOf (nextOf (.syElogRead gd 4) s) 0).elog = [6] ∧ gAfter (.sysrd gd 4 5) s 4 = some 3) := by
  decide +kernel

theorem witness_system_reads : sysValue w0 rich 0x012 = some 1 ∧ (ctxOf rich 0).isSome = true ∧ (bank w0 rich).window = false ∧
    (0x400 : BitVec 12).toNat < 0xC00 ∧ (0xBF3 - 0x400) % 32 < 20 ∧ ∃ x, ctxOf rich 0 = some x ∧ x.monMask.getLsbD 0 = true ∧ x.monMask.getLsbD 63 = true :=
  ⟨by decide, by decide, by decide, by decide, by decide, _, rfl, by decide, by decide⟩

theorem witness_commits : (commitRegion w0 false).go (richG 0 5) = (.ok (), after (commitRegion w0 false) (richG 0 5)) ∧
    (readSrc w0 5).go (after (commitRegion w0 false) (richG 0 5)) =
      (.ok ⟨5, .clean⟩, after (readSrc w0 5) (after (commitRegion w0 false) (richG 0 5))) ∧ sget 0 (regs w0 (richG 0 5)).gWait 4 = 0 :=
  ⟨go_answers (by decide +kernel), go_answers (by decide +kernel), by decide⟩

theorem test_system_writes : (regs w0 (nextOf (.syswr gd 0 5) (two 4 0))).rm = 4 ∧ (regs w0 (nextOf (.syswr gd 2 5) (two 0x1020 0))).evec = 0x1020 ∧
    (regs w0 (nextOf (.syswr gd 3 62) (handler 1))).epc0 = -1 ∧ (regs w0 (nextOf (.syswr gd 3 62) (handler 2))).epc1 = -1 ∧
    (regs w0 (nextOf (.syswr gd 4 5) (two 0 0))).depth = 0 := by decide +kernel

theorem witness_system_writes : (4 : Word).toNat ≤ 4 ∧ 4 < (5 : Word).toNat ∧ (0 : Word).getLsbD 49 = false ∧ (0x2000000000000 : Word).getLsbD 49 = true ∧ (0x1020 : Word).toNat % 32 = 0 ∧
    (3 : Word).extractLsb' 24 40 = 0 ∧ (3 : Word).extractLsb' 2 6 = 0 ∧ Issues w0 gd (two 4 0) ∧
    ∃ s1, (readSrc w0 5).go (two 4 0) = (.ok ⟨4, .clean⟩, s1) :=
  ⟨by decide, by decide, by decide, by decide, by decide, by decide, by decide, ⟨⟨by decide, by decide, by decide, by decide, by decide⟩, by decide⟩, _,
    go_answers (by decide)⟩

/-! ### The keeper's registers, side cores, hold-up, checkpoints: each write that takes effect, and the values that are in range -/

/-- 00 R3: the reserved bits of SY_KEEPER and SY_ROUTE ignore a write. -/
theorem test_reserved_bits : (dieOf (nextOf (.syKeeper gd 5) (richG 0 0xFF00000000001041)) 0).keeper = 0x8000000000001040 ∧
    (regs w0 (nextOf (.syswr gd 1 5) (richG 0 0xFFFF))).route = 0xFF := by
  decide +kernel

theorem test_keeper_writes : (dieOf (nextOf (.syKeeper gd 5) (richG 0 0x8000000000001040)) 0).keeper = 0x8000000000001040 ∧
    (dieOf (nextOf (.syswr gd 0x20 5) (richG 0 0x8000000000001040)) 0).keeperCtx = 0 ∧
    (dieOf (nextOf (.syXinvAll gd 5) (richG 0 0x8600000000000000)) 0).xinv = some 0x8600000000000000 ∧
    (dieOf (nextOf (.sySwarea gd 5) (richG 0 0x8000000080000000)) 0).swarea = 0x8000000080000000 ∧
    (coreOf (nextOf (.syswr gd 5 5) (updCore (richG 0 1) 0 (fun c => { c with derr := 3 }))) 0).derr = 2 ∧
    [Instr.syXinvPage gd 5, .syXinvContext gd 5, .syXinvHeap gd 5].map (fun i => runs i (richG 0 0x8000000000000000)) = [true, true, true] := by
  decide +kernel

theorem witness_keeper : KeeperContext w0 (richG 0 0) ∧ ¬ KeeperContext w0 base ∧ (0x8000000000001040 : Word).extractLsb' 56 7 = 0 ∧
    (0x8000000000001040 : Word).extractLsb' 0 6 = 0 ∧ (0x8600000000000000 : Word).getLsbD 63 = true ∧
    ((0x8600000000000000 : Word).extractLsb' 60 2).toNat < 2 ∧ ((0x8600000000000000 : Word).extractLsb' 57 3).toNat < 4 ∧
    (0x8600000000000000 : Word).extractLsb' 40 11 = 0 ∧ (dieOf (richG 0 0) 0).xinv = none ∧ (0x8000000080000000 : Word).extractLsb' 52 11 = 0 ∧
    (0x8000000080000000 : Word).extractLsb' 0 31 = 0 ∧ (63 : Word).toNat < 64 :=
  ⟨⟨_, rfl, by decide⟩, by rintro ⟨k, hk, h⟩; cases hk; exact absurd h (by decide), by decide, by decide, by decide, by decide, by decide,
    by decide, by decide, by decide, by decide, by decide⟩

/-- A fault descriptor that the keeper resolves or refuses. -/
def described (x : Word) : State :=
  let k : Desc := ⟨3, 0, 0x400000, 0, 0, 1, false, 0, true, [.localTask 9 0 none]⟩
  updDie (richG 0 x) 0 (fun d => { d with descs := [k] })

/-- The state after the commit and the reading of A. -/
def ready (s : State) : State := after (readSrc w0 5) (after (commitRegion w0 false) s)

theorem test_keeper_notes : (dieOf (nextOf (.syKnoteResolve gd 5) (described 0x8000000000000003)) 0).descs = [] ∧
    (dieOf (nextOf (.syKnoteRefuse gd 5) (described 0xC000000000000003)) 0).descs = [] ∧
    ((dieOf (nextOf (.syKnoteResolve gd 5) (described 0x8000000000000004)) 0).descs.map (fun k => k.id)) = [3] := by decide +kernel

theorem witness_keeper_note : let s := described 0x8000000000000003
    (commitRegion w0 false).go s = (.ok (), after (commitRegion w0 false) s) ∧
    (readSrc w0 5).go (after (commitRegion w0 false) s) = (.ok ⟨0x8000000000000003, .clean⟩, ready s) ∧ KeeperContext w0 (ready s) ∧
    (0x8000000000000003 : Word).extractLsb' 32 30 = 0 ∧ storesDone (bank w0 (ready s)) = true ∧
    (settleDesc 0 3 none).go (ready s) = (.ok (), after (settleDesc 0 3 none) (ready s)) ∧
    (settleDesc 0 3 (some .protection)).go (ready s) = (.ok (), after (settleDesc 0 3 (some .protection)) (ready s)) ∧
    (bank w0 (after (settleDesc 0 3 none) (ready s))).task = some 1 :=
  ⟨go_answers (by decide +kernel), go_answers (by decide +kernel), ⟨_, rfl, by decide⟩, by decide, by decide +kernel, go_answers (by decide +kernel),
    go_answers (by decide +kernel), by decide +kernel⟩

/-- A write of SY_SWLOAD without GO. -/
theorem witness_switch_load : (writeSwload w0 0).go (ready (richG 0 0)) = (.ok (), after (writeSwload w0 0) (ready (richG 0 0))) ∧
    (bank w0 (after (writeSwload w0 0) (ready (richG 0 0)))).task = some 1 ∧ runs (.sySwload gd 5) (richG 0 0) = true :=
  ⟨go_answers (by decide +kernel), by decide +kernel, by decide +kernel⟩

/-- RUN alone; RUN with LOAD, LEN 1 and IMG 2; RUN = 0. -/
theorem test_side_control :
    (bank w0 (nextOf (.syPeelRun gd 5 false) (richG 0 0x8000000000000000))).peel.run = true ∧
    (let s := writeBytes (richG 0 0xC010000000000002) 0x2000 [0xAB, 0xCD]
     let t := nextOf (.syPeelLoadRun gd 5 true) s
     (bank w0 t).rack.run = true ∧ (bank w0 t).rack.img = 2 ∧ sget 0 (coreOf t 0).rackI 1 = 0xCD) ∧
    (bank w0 (nextOf (.syPeelStop gd 5 false) (updSide (richG 0 0) 0 0 false (fun k => { k with run := true })))).peel.run = false := by
  decide +kernel

theorem witness_side_control : SideFields 0x8000000000000000 ∧ SideFields 0xC010000000000002 ∧ SideFields 0xC200000000000000 ∧
    (0x8000000000000000 : Word).getLsbD 62 = false ∧ (sideOf (bank w0 (ready (richG 0 0))) false).run = false ∧
    (∃ img u, (reachBytes w0 0x2000 1024 0 .rd).go (ready (richG 0 0xC010000000000002)) = (.ok img, u)) ∧
    (sideOf (bank w0 (updSide (richG 0 0) 0 0 false (fun k => { k with run := true }))) false).run = true :=
  ⟨⟨by decide, by decide, by decide⟩, ⟨by decide, by decide, by decide⟩, ⟨by decide, by decide, by decide⟩, by decide, by decide +kernel,
    goes (by decide +kernel), by decide +kernel⟩

/-- A finalisation window that SY_HUP ends. -/
theorem witness_window : let s := updBank (richG 0 1) 0 0 (fun k => { k with window := true })
    (bank w0 (ready s)).window = true ∧ (1 : Word).extractLsb' 1 31 = 0 ∧ (1 : Word).getLsbD 0 = true ∧
    (stopCopies 0 0).go (ready s) = (.ok (), after (stopCopies 0 0) (ready s)) ∧ (bank w0 (nextOf (.syHupDone gd 5) s)).frozen = true ∧
    (bank w0 (ready (richG 0 1))).window = false ∧ (bank w0 (nextOf (.syHupDone gd 5) (richG 0 1))).frozen = false :=
  ⟨by decide +kernel, by decide, by decide, go_answers (by decide +kernel), by decide +kernel, by decide +kernel, by decide +kernel⟩

theorem test_checkpoint_writes : (ctxOf (nextOf (.syCkptCheckpoint gd 5) (richG 0 0x8000000000000040)) 0).map (fun k => (k.ckpt.busy, k.ckpt.desc)) =
      some (true, 1) ∧
    (bank w0 (nextOf (.syCkptCheckpoint gd 5) (richG 0 0x8000000000000040))).ckptWait = true ∧
    (ctxOf (nextOf (.syCkptRestore gd 5) (richG 0 0xA000000000000040)) 0).map (fun k => (k.ckpt.busy, k.ckpt.restore)) = some (true, true) ∧
    pcAfter (.syCkptRestore gd 5) (richG 0 0xA000000000000040) = some 0x1008 := by decide +kernel

theorem witness_checkpoint : (bank w0 (richG 0 0x8000000000000040)).ckptWait = false ∧ ((0xA000000000000040 : Word).extractLsb' 61 2).toNat < 2 ∧
    (0xA000000000000040 : Word).getLsbD 56 = false ∧ (0xA000000000000040 : Word).extractLsb' 0 6 = 0 ∧
    ((0xA000000000000040 : Word).extractLsb' 61 2).toNat = 1 ∧ ((0x8000000000000040 : Word).extractLsb' 61 2).toNat = 0 ∧
    (∃ k, ctxOf (ready (richG 0 0x8000000000000040)) 0 = some k ∧ k.ckpt.busy = false) ∧
    (∃ k, ctxOf (updCtx (richG 0 0x8000000000000040) 0 (fun k => { k with ckpt := { k.ckpt with busy := true, phase := 1 } })) 0 = some k ∧
      k.ckpt.busy = true ∧ 1 ≤ k.ckpt.phase) :=
  ⟨by decide, by decide, by decide, by decide, by decide, by decide, ⟨_, rfl, by decide +kernel⟩, ⟨_, rfl, by decide +kernel, by decide +kernel⟩⟩

/-! ### Engine commands -/

/-- What the checks of a command at dispatch answer. -/
def checked (i : Instr) (s : State) : Option Cmd :=
  match specOf i with
  | none => none
  | some sp => answers (sp.check w0 { newCmd i ((regs w0 s).rm.setWidth 3) (regs w0 s).pc 0 false (regs w0 s).route with id := s.nextId })
      { s with nextId := s.nextId + 1 }

/-- The four slots of the partition belong to the engines; slots 0 and 1 hold INT32. -/
def engines : State := updCore rich 0 (fun c => { c with
  slots := [(0, ⟨true, 8, 0⟩), (1, ⟨true, 8, 0⟩), (2, ⟨true, 8, 0⟩), (3, ⟨true, 8, 0⟩)],
  sBytes := [(0, 0xFE), (1, 0xFF), (2, 0xFF), (3, 0xFF), (2048, 5)] })

/-- v.add of one INT32 element: A at 0, B at 2,048, D at 4,096. -/
def addArgs : V3Args := ⟨2048, 0, 4096, 1, 1, 8, 1, 1, false⟩

theorem test_dispatch : (queueOf (nextOf (.vAdd addArgs) engines) 0 0 1).map (fun m => (m.instr, m.started)) = [(.vAdd addArgs, false)] ∧
    (regs w0 (nextOf (.vAdd addArgs) engines)).pc = 0x1010 ∧
    [Instr.vSub addArgs, .vMul addArgs, .vMin addArgs, .vMax addArgs, .mAzero 0 0 0x3F800000, .lCtrSet 5 9, .lCtrAdd 5 9, .lArm 5 9 6 1].map
      (fun i => (checked i engines).isSome) = [true, true, true, true, true, true, true, true] ∧
    (checked (.mAzero 1 0 0) engines).isSome = false := by decide +kernel

theorem witness_dispatch : ∃ sp m u, specOf (.vAdd addArgs) = some sp ∧ (queueOf engines 0 0 sp.queue).length < 16 ∧
    (sp.check w0 { newCmd (.vAdd addArgs) ((regs w0 engines).rm.setWidth 3) (regs w0 engines).pc 0 false (regs w0 engines).route with
      id := engines.nextId }).go { engines with nextId := engines.nextId + 1 } = (.ok m, u) ∧
    (∃ x v, (raceRanges w0 (coreOf u 0).phase m.ranges).go u = (.ok x, v)) ∧ m.starter = false :=
  ⟨_, _, _, rfl, by decide +kernel, go_some (by decide +kernel), goes (by decide +kernel), by decide +kernel⟩

theorem witness_full_queue : let m := newCmd (.vAdd addArgs) 0 0 0 false 0
    16 ≤ (queueOf (setQueue engines 0 0 1 (List.replicate 16 m)) 0 0 1).length := by decide +kernel

/-- The command in its queue and its engine's turn. -/
def turnOf (i : Instr) (e : Nat) : State :=
  let s := nextOf i engines
  { setQueue s 0 0 e ((queueOf s 0 0 e).map (fun m => { m with started := true })) with actor := .engine 0 e 0 }

/-- The engine at that turn. -/
def engAt (s : State) (e : Nat) : Eng :=
  { w := w0, e := e, k := 0, cmd := ((queueOf s 0 0 e).head?).getD (newCmd (.vAdd addArgs) 0 0 0 false 0), part := (bank w0 s).part, key := srKey s w0 }

/-- The first command of a queue of core 0 at its engine's turn. -/
theorem at_engine {s : State} {i : Instr} {e : Nat} {sp : CmdSpec} (spec : specOf i = some sp) (turn : s.actor = .engine 0 e 0)
    (queue : e = sp.queue) (h : whoRuns s 0 = some w0 ∧ (queueOf s 0 0 e)[0]? = some (engAt s e).cmd ∧ (engAt s e).cmd.instr = i ∧
      enginesRun s = true ∧ (bankOf s 0 0).frozen = false ∧ (engAt s e).cmd.raw = false ∧ (engAt s e).cmd.halted = false) : AtEngine (engAt s e) i sp s where
  spec := spec
  actor := turn
  who := h.1
  holds := h.2.1
  queue := queue
  same := h.2.2.1
  part := rfl
  key := rfl
  runs := h.2.2.2.1
  open_ := h.2.2.2.2.1
  dispatched := h.2.2.2.2.2.1
  going := h.2.2.2.2.2.2

theorem test_engines :
    (let t := nextOf (.vAdd addArgs) (turnOf (.vAdd addArgs) 1)
     (sByte t 0 4096 = 3 ∧ sByte t 0 4097 = 0 ∧ queueOf t 0 0 1 = [])) ∧
    (let t := nextOf (.vMul addArgs) (turnOf (.vMul addArgs) 1)
     (sByte t 0 4096 = 0xF6 ∧ sByte t 0 4099 = 0xFF)) ∧
    (let t := nextOf (.lCtrAdd 5 9) (turnOf (.lCtrAdd 5 9) 3)
     (ctrOf t 0 5 = 9 ∧ queueOf t 0 0 3 = [])) ∧
    (let t := nextOf (.lArm 5 0 6 7) (turnOf (.lArm 5 0 6 7) 3)
     ctrOf t 0 6 = 7) := by decide +kernel

theorem witness_engine (i : Instr) (h : i ∈ [Instr.vAdd addArgs, .vSub addArgs, .vXor { addArgs with f := 0 }]) :
    ∃ sp, AtEngine (engAt (turnOf i 1) 1) i sp (turnOf i 1) ∧ (engAt (turnOf i 1) 1).cmd.started = true ∧
      mayRun (turnOf i 1) 0 0 1 0 (engAt (turnOf i 1) 1).cmd = true := by
  simp only [List.mem_cons, List.not_mem_nil, or_false] at h
  rcases h with rfl | rfl | rfl <;>
    exact ⟨_, at_engine rfl rfl rfl (by decide +kernel), by decide +kernel, by decide +kernel⟩

theorem witness_int32 : let s := turnOf (.vAdd addArgs) 1
    OneInt32 8 (engAt s 1) addArgs s :=
  ⟨by decide +kernel, rfl, rfl, rfl, by decide +kernel, by decide +kernel, by decide +kernel, by decide +kernel, by decide, by decide, by decide, by decide +kernel,
    by decide +kernel, by decide +kernel, by decide +kernel, by decide +kernel, by decide +kernel⟩

/-! ### Counters, tiles, prefetch; a command that starts, and one that is stopped by a trap -/

/-- An engine whose command has not started. -/
def heldTurn (i : Instr) (e : Nat) : State := { nextOf i engines with actor := .engine 0 e 0 }

theorem witness_counters (i : Instr) (h : i ∈ [Instr.lCtrSet 5 9, .lCtrAdd 5 9, .lArm 5 0 6 7, .lArm 5 10 6 7]) :
    ∃ sp, AtEngine (engAt (turnOf i 3) 3) i sp (turnOf i 3) ∧ (engAt (turnOf i 3) 3).cmd.started = true ∧
      mayRun (turnOf i 3) 0 0 3 0 (engAt (turnOf i 3) 3).cmd = true := by
  simp only [List.mem_cons, List.not_mem_nil, or_false] at h
  rcases h with rfl | rfl | rfl | rfl <;>
    exact ⟨_, at_engine rfl rfl rfl (by decide +kernel), by decide +kernel, by decide +kernel⟩

/-- The value a tile takes is the pattern itself, a NaN's the canonical one (13 R347, 10 R266). -/
theorem test_tiles : canonical32 0x7FC00001 = 0x7FC00000 ∧ canonical32 0x3F800000 = 0x3F800000 := by decide +kernel

theorem witness_tiles : let s := turnOf (.mAzero 0 0 5) 0
    ∃ sp, AtEngine (engAt s 0) (.mAzero 0 0 5) sp s ∧ (engAt s 0).cmd.started = true ∧ mayRun s 0 0 0 0 (engAt s 0).cmd = true :=
  ⟨_, at_engine rfl rfl rfl (by decide +kernel), by decide +kernel, by decide +kernel⟩

/-- A command of the copy queue that waits there. -/
def prefetching : State :=
  let m : Cmd := { newCmd (.xPref 0) 0 0 0 false 0 with id := 9, started := true }
  { setQueue engines 0 0 2 [m] with actor := .engine 0 2 0 }

theorem witness_prefetch : ∃ sp, AtEngine (engAt prefetching 2) (.xPref 0) sp prefetching ∧ (engAt prefetching 2).cmd.started = true ∧
    mayRun prefetching 0 0 2 0 (engAt prefetching 2).cmd = true ∧ queueOf (nextOf (.xPref 0) prefetching) 0 0 2 = [] :=
  ⟨_, at_engine rfl rfl rfl (by decide +kernel), by decide +kernel, by decide +kernel, by decide +kernel⟩

/-- A command's first micro-step; and one that finds a slot of another format. -/
theorem witness_micro : let i := Instr.vAdd addArgs
    let s := heldTurn i 1
    let b := updCore (turnOf i 1) 0 (fun c => { c with slots := sset ⟨false, 0, 0⟩ c.slots 1 ⟨true, 0, 0⟩ })
    ∃ sp, AtEngine (engAt s 1) i sp s ∧ (engAt s 1).cmd.started = false ∧ (engAt s 1).cmd.starter = false ∧
      mayStart s 0 0 1 0 (engAt s 1).cmd = true ∧ (sp.ready (engAt s 1)).go s = (.ok true, after (sp.ready (engAt s 1)) s) ∧
      runs i s = true ∧ (∃ last u, (sp.micro (engAt (turnOf i 1) 1)).go (turnOf i 1) = (.ok last, u)) ∧
      (match ((sp.micro (engAt b 1)).go b).1 with
        | .error (.trap t _) => t == .formatMismatch
        | _ => false) = true ∧
      (bank w0 (nextOf i b)).pend.map (fun p => p.code) = [.formatMismatch] :=
  ⟨_, at_engine rfl rfl rfl (by decide +kernel), by decide +kernel, by decide +kernel, by decide +kernel, go_answers (by decide +kernel),
    by decide +kernel, goes (by decide +kernel), by decide +kernel, by decide +kernel⟩

/-! ### Power, hold-up, reset and configuration -/

/-- The power state with changes. -/
def powered (f : Power → Power) : State := { base with pm := f base.pm }

theorem test_power : leads (.pmCmdIdle 0x00010001) (powered id) (powered (fun p => { p with busy := true, pend := some (.idle, 0, 1) })) = true ∧
    leads (.pmCmdRun 0x1200) (powered id) (powered (fun p => { p with res := 2 })) = true ∧
    leads (.pmCmdHold 2) (powered id) (powered (fun p => { p with res := 1 })) = true ∧
    leads (.pmCmdOff 3) (powered (fun p => { p with busy := true })) (powered (fun p => { p with busy := true, res := 3 })) = true ∧
    leads (.pmCmdIdle 1) (powered (fun p => { p with st := .trip, tcause := 0x81 }))
      (powered (fun p => { p with st := .trip, tcause := 0x81, res := 4 })) = true ∧
    leads (.pmCmdIdle 1) (powered (fun p => { p with hup := true })) (powered (fun p => { p with hup := true, res := 5 })) = true ∧
    leads (.pmCmdRun 0) State.reset { State.reset with pm := { State.reset.pm with res := 1 } } = true := by decide +kernel

theorem witness_power_commands : base.host.cfgd = true ∧ base.pm.hup = false ∧ base.pm.busy = false ∧ PmLegal 0x1100 ∧ ¬ PmLegal 0x1200 ∧ ¬ PmLegal 4 ∧
    PmLegal 0x1201 ∧ MayMove .run (pmTgt 0x1100) ∧ ¬ MayMove .run (pmTgt 2) ∧ MayMove .trip (pmTgt 1) ∧
    (powered (fun p => { p with tcause := 0x81 })).pm.tcause.getLsbD 7 = true ∧ State.reset.host.cfgd = false :=
  ⟨rfl, rfl, rfl, ⟨by decide, by decide, by decide, by decide⟩, fun h => absurd (h.2.2.2 (by decide)) (by decide),
    fun h => absurd h.2.2.1 (by decide), ⟨by decide, by decide, by decide, by decide⟩, by simp [MayMove, pmTgt], by simp [MayMove, pmTgt],
    by simp [MayMove, pmTgt], by decide, rfl⟩

theorem test_power_events :
    leads .powerTransitionComplete (powered (fun p => { p with st := .idle, busy := true, pend := some (.run, 9, 7) }))
      (powered (fun p => { p with st := .run, clk := 9, ltag := 7, res := 0, busy := false, pend := none })) = true ∧
    leads (.tripEntry 4) (powered id) (powered (fun p => { p with st := .trip, tcause := 0x84 })) = true ∧
    leads (.tripEntry 4) (powered (fun p => { p with st := .trip, tcause := 0x01, pend := some (.idle, 0, 5), busy := true }))
      (powered (fun p => { p with st := .trip, tcause := 0x85, ltag := 5, res := 4 })) = true ∧
    leads .tripCauseCleared (powered (fun p => { p with tcause := 0x81 })) (powered (fun p => { p with tcause := 0x01 })) = true ∧
    ((nextOf .supplyLoss base).pm = { base.pm with hup := true, st := .holdUp, lossState := .run, supply := false, busy := false, pend := none, quiesced := false, saved := false }) ∧
    (nextOf .powerTransitionComplete (powered (fun p => { p with st := .idle, pend := some (.off, 0, 7) }))).pm.st = .off := by decide +kernel

theorem witness_power_events : copiesAtBoundary base = true ∧ base.pm.st ≠ .off ∧ base.pm.st ≠ .holdUp ∧ base.pm.supply = true ∧ (4 : BitVec 7) ≠ 0 := by
  decide +kernel

/-- The hold-up sequence: a task with a handler and one without; the windows over; the save; the end. -/
def holding (f : Power → Power) (s : State) : State := { s with pm := f { s.pm with st := .holdUp, hup := true, lossState := .run, supply := false } }

theorem witness_power_fail : powerFailDue (holding id (handler 0)) 0 = some 0 ∧ (bankOf (holding id (handler 0)) 0 0).task = some 1 ∧
    powerFailDue (holding id base) 0 = some 0 ∧
    leads (.powerFail 0) (holding id (handler 0)) (updBank (holding id (handler 0)) 0 0 (fun k => { k.toHandler with
      regs := { k.regs with epc0 := k.regs.pc, cause0 := 0x13, depth := 1, pc := enterAt k.regs.evec }, window := true })) = true ∧
    leads (.powerFail 0) (holding id base) (closeWindow (holding id base) 0 0) = true := by decide +kernel

theorem witness_hold_up : let s := holding id (withBank (fun k => { k with window := true }))
    let q := holding (fun p => { p with quiesced := true }) (withBank (fun k => { k with frozen := true }))
    (coreOf s 0).active = some 0 ∧ (stopCopies 0 0).go s = (.ok (), after (stopCopies 0 0) s) ∧
    leads (.finalisationWindowEnd 0) s (closeWindow (after (stopCopies 0 0) s) 0 0) = true ∧
    windowsLeft (holding id (withBank (fun k => { k with frozen := true }))) = false ∧
    (∃ recs u, (allRecords q.ctxs).go q = (.ok recs, u)) ∧ runs .holdUpSave q = true ∧
    leads .supplyRecovery s { s with pm := { s.pm with supply := true } } = true ∧
    runs .quiesceEnd (holding id (withBank (fun k => { k with frozen := true }))) = true :=
  ⟨by decide +kernel, go_answers (by decide +kernel), by decide +kernel, by decide +kernel, goes (by decide +kernel), by decide +kernel,
    by decide +kernel, by decide +kernel⟩

theorem witness_hold_up_end : let s := holding (fun p => { p with quiesced := true, saved := true, supply := true }) base
    s.pm.st = .holdUp ∧ s.pm.quiesced = true ∧ s.pm.saved = true ∧ (nextOf .holdUpSequenceEnd s).pm = { s.pm with st := .spent } ∧
    (nextOf .holdUpSequenceEnd s).cores = [] ∧
    (nextOf .holdUpSequenceEnd (holding (fun p => { p with quiesced := true, saved := true }) base)).pm.st = .off := by decide +kernel

theorem test_resets : (nextOf .fundamentalReset (writeBytes base 0x2000 [7])).pm.st = .idle ∧ (nextOf .hotReset base).host.cfgd = false ∧
    (nextOf .functionLevelReset base).ctxs = [] := by decide +kernel

theorem test_configuration :
    leads (.cfgCmdGo 0x8000000000000010) State.reset { State.reset with host := { State.reset.host with cfgBusy := true, cfgLen := 16 } } = true ∧
    leads (.cfgCmdGo 0x10) State.reset State.reset = true ∧ leads (.cfgCmdGo 0x8000000000000010) base base = true ∧
    (let s := { State.reset with host := { State.reset.host with cfgBusy := true, cfgLen := 16 } }
     ((nextOf (.configurationCheckComplete 1) s).host.cfgd = true ∧ (nextOf (.configurationCheckComplete 1) s).pm.clk = 17 ∧
      (nextOf (.configurationCheckComplete 4) s).host.cfgRes = 4)) ∧
    leads (.gangLinkTrainingComplete 100 2 3) base { base with gang := { tick := 100, gidx := 2, gsize := 3, linksUp := true } } = true ∧
    leads .gangTimeBaseTick base { base with gang := { base.gang with tick := 1 } } = true := by decide +kernel

theorem witness_configuration : State.reset.host.cfgBusy = false ∧ State.reset.host.cfgd = false ∧ (0x8000000000000010 : Word).getLsbD 63 = true ∧
    (0x8000000000000010 : Word).extractLsb' 27 36 = 0 ∧ (0x0400_0001 : BitVec 27).toNat > 2 ^ 26 ∧ (1 : BitVec 27).toNat ≤ 2 ^ 26 ∧
    base.gang.linksUp = false ∧ (64 : BitVec 7).toNat ≤ 64 ∧ (63 : BitVec 6).toNat < (64 : BitVec 7).toNat ∧ base.programs = [] := by decide

/-! ### The host's window, its contexts, the shepherd -/

theorem test_aperture : (nextOf (.hostApertureRead 0x1000 4) base).host.lastRead = [1, 0xFF, 0xFF, 0xFF] ∧
    readByte (nextOf (.hostApertureWrite 0x3000 [1, 2]) base) 0x3001 = 2 ∧
    sget 0 (nextOf (.hostApertureWrite 5 [1, 2]) State.reset).host.cfgBuf 6 = 2 := by decide +kernel

theorem witness_aperture : base.host.cfgd = true ∧ ckptPending base (aperturePlace base 0x3000) = false ∧ ckptPending base (aperturePlace base 0x3001) = false ∧
    (let s := updCtx base 0 (fun k => { k with ckpt := { k.ckpt with busy := true, phase := 1, pending := [(0, 0, 0x3000)] } })
     ckptPending s (aperturePlace s 0x3000) = true) ∧ rowOf (aperturePlace base 0x3000) = some (.near 0) ∧
    State.reset.host.cfgd = false ∧ (0x3FFFFFF : BitVec 36).toNat + [(1 : BitVec 8)].length ≤ 0x4000000 := by decide +kernel

theorem test_doorbell : (ctxOf (nextOf (.doorbell 0x0000000200000000) base) 0).map (fun k => (k.lastTail, k.launchSeq, k.queued)) = some (2, 2, [0, 1]) ∧
    leads (.doorbell 0) base base = true ∧ leads (.doorbell 0x40) base base = true ∧
    leads (.doorbell 0x0000000200000040) base (bellError base 0 2) = true ∧ leads (.doorbell 1) base (bellError base 1 1) = true ∧
    leads (.doorbell 0x0000004100000000) base (bellError base 0 3) = true ∧ leads (.doorbell 0) State.reset (bellError State.reset 0 1) = true := by
  decide +kernel

theorem witness_doorbell : (0x0000000200000000 : Word).extractLsb' 6 26 = 0 ∧ (0x40 : Word).extractLsb' 6 26 ≠ 0 ∧ ctxOf base 1 = none ∧
    ∃ k, ctxOf base 0 = some k ∧ ((0x0000000200000000 : Word).extractLsb' 32 32 - k.lastTail).toNat ≤ 2 ^ k.sqLog - (k.launchSeq - k.freed) ∧
      2 ^ k.sqLog - (k.launchSeq - k.freed) < ((0x0000004100000000 : Word).extractLsb' 32 32 - k.lastTail).toNat :=
  ⟨by decide, by decide, by decide, _, rfl, by decide, by decide⟩

/-- Two pool decoders of 256 MiB, the first one draining. -/
def decoders : State :=
  let at_ : Word → BitVec 128 := fun w => w ++ (0 : Word)
  { base with host := { base.host with poolDec := [(0, at_ 0x8002000000000001), (1, at_ 0x8002000010000001)], poolDrain := [(0, base.nextId, 1)] } }

theorem witness_decoders : decEn (poolDecOf decoders 0) = true ∧ decEn (poolDecOf base 0) = false ∧
    decOk base 0 ((0x8002000000000001 : Word) ++ (poolDecOf base 0).extractLsb' 0 64) = true ∧
    (aget decoders.host.poolDrain 0).isSome = true ∧ decBusy decoders (poolDecOf decoders 0) = false ∧
    decEn (poolDecOf (nextOf (.poolDecoderDrained 0) decoders) 0) = false ∧ poolDecOf (nextOf (.poolDecoderDrained 0) decoders) 1 = poolDecOf decoders 1 ∧
    leads (.poolDecoderEnable 0 0x8002000000000001) decoders decoders = true ∧
    decEn (poolDecOf (nextOf (.poolDecoderEnable 0 0x8002000000000001) base) 0) = true ∧
    (aget (nextOf (.poolDecoderDisable 1 0) decoders).host.poolDrain 1).isSome = true := by decide +kernel

theorem witness_arm : let w : Word := 0x8000000000000005
    base.host.cfgd = true ∧ (w.extractLsb' 48 5).toNat ≤ 5 ∧ (∃ k, ctxOf base (w.extractLsb' 53 6).toNat = some k ∧ (w.extractLsb' 60 3).toNat ≤ k.ceiling.toNat) ∧
    (thrOf base 3).hi.toNat % 64 = 0 ∧
    leads (.thresholdArm 3 w) base (setThr base 3 { thrOf base 3 with lo := w, fired := false, seen := false }) = true :=
  ⟨rfl, by decide, ⟨_, rfl, by decide⟩, by decide, by decide +kernel⟩

/-- Registration 3 tests the pool's task count, 1, against a threshold; its task's record lies at 0x3000. -/
def armed (thr : Word) : State :=
  let s := setThr recorded 3 { thrOf recorded 3 with lo := 0x8003000000000000 + thr, hi := 0x3000, seen := true, last := 0 }
  { s with tasks := aset s.tasks 7 { placedTask with place := .pool } }

theorem witness_sampling (thr : Word) (h : thr = 1 ∨ thr = 2) : let s := armed thr
    ThrDue false (thrOf s 3) ∧ (∀ n < 64, n ≠ 3 → (thrOf s n).lo.getLsbD 63 = false) ∧
    (thrValue 3 (thrOf s 3)).go s = (.ok 1, after (thrValue 3 (thrOf s 3)) s) ∧ runs (.thresholdSample false) s = true := by
  rcases h with rfl | rfl <;>
    exact ⟨⟨by decide, by decide⟩, by decide +kernel, go_answers (by decide +kernel), by decide +kernel⟩

theorem test_sampling : (thrOf (nextOf (.thresholdSample false) (armed 1)) 3).fired = true ∧
    ((thrOf (nextOf (.thresholdSample false) (armed 1)) 3).task).isSome = true ∧
    (thrOf (nextOf (.thresholdSample false) (armed 2)) 3).fired = false ∧ (thrOf (nextOf (.thresholdSample false) (armed 2)) 3).last = 1 := by
  decide +kernel

/-- A monitor unit that captures 5 in the log mode and in the linear one (03 R80); its minimum is 0 after reset, until CLR. -/
def monitored (cfg : Word) : State := setMon base 3 { Monitor.reset with cfg := cfg }

theorem test_monitors :
    (let m := sget Monitor.reset (nextOf (.monitorSample 3 5) (monitored 0x8004000000000000)).host.mon 3
     (m.mn = 0 ∧ m.mx = 5 ∧ m.count = 1 ∧ sget 0 m.bins 3 = 1)) ∧
    (let m := sget Monitor.reset (nextOf (.monitorSample 3 5) (monitored 0x8004008100000003)).host.mon 3
     (m.count = 1 ∧ sget 0 m.bins 1 = 1)) ∧
    leads (.monCfgWrite 3 0x8007000000000000) (monitored 0) (monitored 0) = true ∧
    (sget Monitor.reset (nextOf (.monCfgWrite 3 0x8006000000000000) (monitored 0)).host.mon 3).cfg.getLsbD 63 = true := by decide +kernel

theorem witness_monitors : base.host.cfgd = true ∧ enginesRun base = true ∧
    (sget Monitor.reset (monitored 0x8000000000000000).host.mon 3).cfg.getLsbD 63 = true ∧
    MonLegal 0x8006000000000000 ∧ ¬ MonLegal 0x8007000000000000 ∧ ¬ MonLegal 0x8100000000000000 ∧ MonLegal 0x0100000000000000 ∧
    monitorBin 0 0 = 0 ∧ monitorBin 0 5 = 3 ∧ monitorBin 0 0xFFFFFFFF = 31 ∧ monitorBin 0x8000000003 2 = 0 := by
  refine ⟨rfl, by decide, by decide, .inr (by decide), fun h => ?_, fun h => ?_, .inl (by decide), by decide +kernel, by decide +kernel, by decide +kernel,
    by decide +kernel⟩ <;>
  · rcases h with h | h
    · exact absurd h (by decide)
    · exact absurd h (by decide)

/-- A context block at 0x4000 that fits Table 3 of file 03. -/
def ctxDescribed : State := writeBytes (writeBytes (writeBytes base 0x4038 [1]) 0x4048 [4]) 0x4058 [4]

/-- CTX_CMD writes that create it as context 1, remove it, and reload its grants. -/
theorem test_contexts : (nextOf (.ctxCmdCreate 0) base).host.ctxPending = some (0, 1) ∧
    (nextOf (.ctxCmdRemove 0x41) base).host.ctxPending = some (0x41, 4) ∧ (nextOf (.ctxCmdReloadGrants 0x81) base).host.ctxPending = some (0x81, 4) ∧
    (nextOf (.ctxCmdReloadGrants 0x4080) base).host.ctxPending = some (0x4080, 2) ∧
    (nextOf (.ctxCmdReloadGrants 0x4080) ctxDescribed).host.ctxPending = some (0x4080, 0) ∧
    ctxOf (nextOf (.ctxCmdRemove 0x40) base) 0 = none ∧
    (nextOf (.ctxCmdRemove 0x40) { base with host := { base.host with ctxBusy := true } }).host.ctxRes = 1 ∧
    leads .ctxCmdComplete { base with host := { base.host with ctxBusy := true, ctxPending := some (5, 3) } }
      { base with host := { base.host with ctxRes := 3 } } = true := by decide +kernel

theorem witness_contexts : ctxRefused base = false ∧ ctxRefused State.reset = true ∧ (0x4081 : Word).extractLsb' 52 12 = 0 ∧
    (0x4081 : Word).extractLsb' 8 4 = 0 ∧ (0x4081 : Word).extractLsb' 6 2 = 2 ∧ (0x41 : Word).extractLsb' 6 2 = 1 ∧ (ctxOf base 0).isSome = true ∧
    ctxOf base 1 = none ∧ reachable base 0x4000 = true ∧ descriptorOk (readBytes base 0x4000 512) = false ∧ descriptorOk (readBytes ctxDescribed 0x4000 512) = true ∧
    (ctxOf ctxDescribed 0).isSome = true ∧ ctxRefused ctxDescribed = false ∧ reachable ctxDescribed 0x4000 = true ∧
    (∃ r u, (createContext 1 0x4000).go base = (.ok r, u)) ∧ (∃ r u, (removeContext 0).go base = (.ok r, u)) :=
  ⟨by decide +kernel, by decide +kernel, by decide, by decide, by decide, by decide, by decide, by decide, by decide +kernel, by decide +kernel, by decide +kernel,
    by decide +kernel, by decide +kernel, by decide +kernel, goes (by decide +kernel), goes (by decide +kernel)⟩

/-! ### The shepherd's choices -/

theorem chosen_of_one {s : State} {c b : Nat} (h : freeBanks s c = [b]) (n : Nat) : chosenBank s c n = b := by
  simp [chosenBank, h, Nat.mod_one]

/-- Core 1 holds shadows 8 and 9 in banks 0 and 1; task 7 of greater priority is in the pool. -/
def shadowed : State :=
  let s := { base with tasks := [(1, placedTask), (7, { placedTask with place := .pool, prio := 5 }),
    (8, { placedTask with place := .shadow, core := 1, bank := 0 }), (9, { placedTask with place := .shadow, core := 1, bank := 1 })] }
  updBank (updBank (updCore s 1 (fun c => { c with shadows := [0, 1] })) 1 0 (fun k => { k with task := some 8 })) 1 1
    (fun k => { k with task := some 9 })

theorem witness_placement : ∃ q p, shepherdsRun shadowed = true ∧ bestOf shadowed 1 (candidates shadowed 1) = some (7, q) ∧ q.place = .pool ∧
    (coreOf shadowed 1).active = none ∧ freeBanks shadowed 1 = [2] ∧ partitionFor shadowed 1 (heldBanks shadowed 1) q = some p ∧
    let t := { updCore shadowed 1 (fun k => { k with preReq := none }) with fresh := shadowed.fresh + 1 }
    (startTask 7 1 2 p).go t = (.ok (), after (startTask 7 1 2 p) t) ∧ (coreOf (after (startTask 7 1 2 p) t) 1).active = some 2 :=
  ⟨_, _, by decide +kernel, rfl, by decide +kernel, by decide +kernel, by decide +kernel, rfl, go_answers (by decide +kernel), by decide +kernel⟩

theorem witness_resume : let s := { shadowed with tasks := adel shadowed.tasks 7 }
    ∃ q, bestOf s 1 (candidates s 1) = some (8, q) ∧ q.place = .shadow ∧ q.bank = 0 ∧
      leads (.placement 1) s (resumeBank (updCore s 1 (fun k => { k with preReq := none })) 1 0) = true :=
  ⟨_, rfl, by decide +kernel, by decide +kernel, by decide +kernel⟩

/-- Every core of die 0 but core 1 runs a task. -/
def busyDie (s : State) : State := { s with cores := (List.range 64).foldl (fun m c =>
  if c = 1 then m else sset Core.reset m c { coreOf s c with active := some 0 }) s.cores }

/-- Task 7 waits in cluster 3. -/
def stealing : State :=
  let s := { base with tasks := [(1, placedTask), (7, { placedTask with place := .pool, cluster := 3 })] }
  updBank (updBank (busyDie s) 1 0 (fun k => { k with task := some 1 })) 1 1 (fun k => { k with task := some 1 })

theorem witness_steal : ∃ k p, shepherdsRun stealing = true ∧
    ((List.range 64).map (64 * 0 + ·)).filter (fun c => steals stealing c && victimOf stealing c == some 3) = [1] ∧
    bestOf stealing 1 (stealable stealing 1 3) = some (7, k) ∧ k.launch = none ∧
    partitionFor stealing 1 (heldBanks stealing 1) k = some p ∧ freeBanks stealing 1 = [2] ∧ PoolFilled stealing 0 :=
  ⟨{ placedTask with place := .pool, cluster := 3 }, _, by decide +kernel, by decide +kernel, by decide +kernel, rfl, rfl,
    by decide +kernel, by intro e h; revert e; decide +kernel⟩

/-- Task 7 of priority 7 waits, and every core runs. -/
def pressing : State :=
  updCore { busyDie { base with tasks := [(1, placedTask), (7, { placedTask with place := .pool, prio := 7 })] } with fresh := 0 } 1
    (fun c => { c with active := some 0 })

theorem witness_victim : ∃ k e, shepherdsRun pressing = true ∧ taskOf pressing 7 = some k ∧ isQueued k = true ∧ takenElsewhere pressing 7 k = false ∧
    (∀ n < 64, (coreOf pressing (64 * k.die + n)).preReq = none) ∧ bestVictim pressing k = some e ∧ e.2.1 = 0 ∧
    leads (.preEmptionVictim 7) pressing (updCore pressing 0 (fun q => { q with preReq := some (7, e.2.2) })) = true :=
  ⟨_, _, by decide +kernel, rfl, by decide +kernel, by decide +kernel, by decide +kernel, (Option.some_get (by decide +kernel)).symm,
    by decide +kernel, by decide +kernel⟩

theorem witness_preempt : let s := withBank (fun k => { k with leaving := true })
    (coreOf s 0).active = some 0 ∧ (coreOf s 0).preReq = none ∧ enginesRun s = true ∧ (bankOf s 0 0).miss = none ∧ (bankOf s 0 0).pend = [] ∧
    let m : Act Unit := do stopCopies 0 0; leaveCore 0 0
    m.go s = (.ok (), after m s) ∧ leads (.preempt 0) s (after m s) = true ∧ (coreOf (after m s) 0).active = none :=
  ⟨by decide +kernel, by decide +kernel, by decide +kernel, by decide +kernel, by decide +kernel, go_answers (by decide +kernel), by decide +kernel,
    by decide +kernel⟩

/-! ### Traps at the boundary -/

/-- A trap of an engine waits. -/
def trapped (src : TrapSource) (code : Trap) : State :=
  updBank (handler 0) 0 0 (fun k => { k with pend := [{ src := src, code := code, info := some 5, pc := 0x1004, miss := none }] })

theorem witness_traps : let s := trapped .engine .formatMismatch
    boundaryBank s 0 = some 0 ∧ firstPend (bankOf s 0 0).pend = some (⟨.engine, .formatMismatch, some 5, 0x1004, none⟩, []) ∧
    (deliver 0 0 ⟨.engine, .formatMismatch, some 5, 0x1004, none⟩ []).go s =
      (.ok (), after (deliver 0 0 ⟨.engine, .formatMismatch, some 5, 0x1004, none⟩ []) s) ∧
    firstPend (bankOf (trapped .collective .collectiveMismatch) 0 0).pend = some (⟨.collective, .collectiveMismatch, some 5, 0x1004, none⟩, []) ∧
    firstPend (bankOf (trapped .engine .break_) 0 0).pend = some (⟨.engine, .break_, some 5, 0x1004, none⟩, []) ∧
    (regs w0 (trapped .engine .break_)).evec ≠ 0 ∧ (regs w0 (trapped .engine .break_)).depth = 0 :=
  ⟨by decide +kernel, by decide +kernel, go_answers (by decide +kernel), by decide +kernel, by decide +kernel, by decide +kernel, by decide +kernel⟩

theorem test_traps : taskOf (nextOf (.terminatingTrap 0) (trapped .engine .formatMismatch)) 1 = none ∧
    taskOf (nextOf (.engineTrapDelivery 0) (trapped .engine .formatMismatch)) 1 = none ∧
    taskOf (nextOf (.collectiveFault 0) (trapped .collective .collectiveMismatch)) 1 = none ∧
    pcAfter (.trapEntry 0) (trapped .engine .break_) = some 0x1024 := by decide +kernel

/-- A running peel core whose PC lies outside its store. -/
theorem witness_side_fetch : let s := updSide base 0 0 false (fun k => { k with run := true, pc := 0x20000 })
    whoRuns s 0 = some w0 ∧ sideRuns s w0 false = true ∧ (∃ t, fetchSide s w0 false = .error t) ∧
    (bank w0 (nextOf (.sideCoreException 0) s)).peel.halt = true :=
  ⟨by decide +kernel, by decide +kernel, ⟨_, rfl⟩, by decide +kernel⟩

/-! ### Launches -/

/-- A launch header at 0x8000 (SPART `sp`), its shape descriptor of one task at 0x9000, its record at 0x3000. -/
def queued (sp : Byte) : State :=
  let header := leBytes 8 0x9000 ++ leBytes 8 0 ++ leBytes 8 0x3000 ++ leBytes 8 0xB000 ++ [0, 0, 0, 0, sp, 0]
  let shape := leBytes 8 1 ++ leBytes 8 0 ++ leBytes 8 0 ++ leBytes 8 0xA000
  updCtx (writeBytes (writeBytes recorded 0x8000 header) 0x9000 shape) 0 (fun k => { k with sqBase := 0x8000, launchSeq := 1, lastTail := 1, queued := [0] })

theorem test_launch : (nextOf (.launchRead 0) (queued 1)).launches.map (fun e => (e.2.ntask, e.2.spart, e.2.caddr)) = [(1, 1, 0xB000)] ∧
    ((nextOf (.launchRead 0) (queued 1)).tasks.map (fun e => (e.2.launch, e.2.weight))) = [(none, 0x100000001), (some 2, 0x8000000000000000)] ∧
    (nextOf (.launchRead 0) (queued 0)).launches = [] ∧ readBytes (nextOf (.launchRead 0) (queued 0)) 0xB004 2 = [2, 3] := by decide +kernel

/-- The header that is read. -/
def headerRead (s : State) : State := after (devRead 0 0x8000 256) (updCtx s 0 (fun k => { k with queued := k.queued.drop 1 }))

def launchCtx : Context := (ctxOf (queued 1) 0).getD placedContext
def launchHeader : Header := headerOf (readBytes (queued 1) 0x8000 256)
def launchShape : Shape := ⟨1, 0, 0, 0xA000, 0, 0, 0, 0, 0⟩
def launchStatics : List (Record × List Nat) := [(recordOf (readBytes (queued 1) 0x3000 64), [])]

theorem witness_launch : let s1 := headerRead (queued 1)
    let s2 := after (readShape 0 launchHeader) s1
    let s3 := after (readStatics 0 launchCtx launchHeader launchShape [0]) s2
    let q := newLaunch 0 0 launchCtx launchHeader launchShape launchStatics (launchHash launchHeader launchShape launchStatics [])
    shepherdsRun (queued 1) = true ∧ ctxOf (queued 1) 0 = some launchCtx ∧ launchCtx.queued = [0] ∧
    (devRead 0 (launchCtx.sqBase.toNat + 256 * (0 % 2 ^ launchCtx.sqLog)) 256).go (updCtx (queued 1) 0 (fun k => { k with queued := k.queued.drop 1 })) =
      (.ok (.ok (readBytes (queued 1) 0x8000 256)), s1) ∧ headerReason launchCtx launchHeader = none ∧
    (readShape 0 launchHeader).go s1 = (.ok (some (launchShape, [])), s2) ∧
    (readStatics 0 launchCtx launchHeader launchShape (List.range launchShape.ntask)).go s2 = (.ok (some launchStatics), s3) ∧
    launchHeader.policy = 0 ∧ (startLaunch launchCtx q launchStatics).go s3 = (.ok (), after (startLaunch launchCtx q launchStatics) s3) :=
  ⟨by decide +kernel, by decide +kernel, by decide +kernel, go_answers (by decide +kernel), by decide +kernel, go_answers (by decide +kernel),
    go_answers (by decide +kernel), by decide +kernel, go_answers (by decide +kernel)⟩

theorem witness_launch_rejected : let s := queued 0
    let h := headerOf (readBytes s 0x8000 256)
    headerReason launchCtx h = some 3 ∧
    ∃ x u, (completionRecord (headerLaunch 0 0 launchCtx h) 2 3).go (headerRead s) = (.ok x, u) :=
  ⟨by decide +kernel, goes (by decide +kernel)⟩

/-- A launch whose whole weight has come back. -/
def returned : State :=
  let s := match execLaunchRead 0 (queued 1) with
    | .next t => t
    | _ => base
  updLaunch { s with tasks := adel s.tasks 3 } 2 (fun q => { q with returned := 2 ^ 63 })

theorem witness_launch_complete : ∃ q, shepherdsRun returned = true ∧ launchOf returned 2 = some q ∧
    q.returned = 2 ^ 63 + q.loans.toNat * 2 ^ 32 ∧
    (let m : Act Unit := do leaveBody 2; completionRecord q 0 0; publish 2
     (answers m ((launchTasks returned 2).foldl dropTask returned)).isSome = true) ∧
    (nextOf (.launchComplete 2) returned).launches = [] ∧ readByte (nextOf (.launchComplete 2) returned) 0xB004 = 0 :=
  ⟨_, by decide +kernel, (Option.some_get (by decide +kernel)).symm, by decide +kernel, by decide +kernel, by decide +kernel, by decide +kernel⟩

/-! ### Collectives -/

def lArgs : LcArgs := ⟨5, 0, 0, 0, 0, 0⟩

/-- An l.run or l.cav on fold 5 with members 0 and 1, in its queue. -/
def lCmd (i : Instr) : Cmd := { newCmd i 0 0 0 false 0 with id := 9, mask := 3, block := List.replicate 32 0 ++ [1] ++ List.replicate 95 0 }
def collQueue (i : Instr) : State := setQueue engines 0 0 3 [lCmd i]

theorem witness_collective_start (i : Instr) (h : i = .lRun lArgs ∨ i = .lCav lArgs) : let s := collQueue i
    whoRuns s 0 = some w0 ∧ queueOf s 0 0 3 = [lCmd i] ∧ enginesRun s = true ∧ (bankOf s 0 0).frozen = false ∧
    mayStart s 0 0 3 0 (lCmd i) = true ∧ freeProgram s 0 = some 0 ∧ s.programs = [] ∧
    (match exec (.collectiveStart 0) s with
      | .next t => t.programs.map (fun e => (e.1, e.2.fold, e.2.seq)) = [(0, 5, 0)] ∧ sget 0 (coreOf t 0).collSeq 5 = 1 ∧ queueOf t 0 0 3 = []
      | _ => False) := by
  rcases h with rfl | rfl
  all_goals
    intro s
    have free : enginesRun s = true ∧ (bankOf s 0 0).frozen = false ∧ freeProgram s 0 = some 0 ∧ s.programs = [] := by decide +kernel
    exact ⟨by decide +kernel, by decide +kernel, free.1, free.2.1, by decide +kernel, free.2.2.1, free.2.2.2,
      ⟨by decide +kernel, by decide +kernel, by decide +kernel⟩⟩

/-- A program of core 0 on fold 5 whose step is `i`. -/
def prog (i : Instr) : Program :=
  { newProgram w0 (lCmd (.lRun lArgs)) false lArgs 0 [] with
    fmt := 1, count := 1, stage := 0x6000, slen := 4, nstep := 5, bases := [0x2000, 0x2100, 0, 0], verdict := .matched, cur := some i, idx := 3 }

def atStep (i : Instr) : State := { writeBytes engines 0x2000 [1, 2, 3, 4] with programs := [(0, prog i)], actor := .program 0 }

/-- A step from base 0 to base 1, to and from the next member. -/
def sArgs : StepArgs := ⟨false, false, false, 0, false, 0, 0, 1, 1, false, 0, false, 1, false, 0, 0, false, false, 4, 2, 0⟩
def loopArgs : StepArgs := ⟨false, false, false, 0, false, 1, 3, 1, 0, false, 0, false, 0, false, 0, 0, false, false, 0, 0, 0⟩

/-- A block of member 1 that is in staging at member 0. -/
def blk (st : Nat) : CBlock :=
  { src := 77, fromCore := 1, dstCore := 0, fold := 5, seq := 0, sig := signatureOf (prog (.stepWait sArgs)), sweep := none, fmt := 1, mx := false,
    bytes := [0, 0, 0x80, 0x3F], st := st, order := 1, refused := none, route := 0 }
def withBlock (s : State) (st : Nat) : State := { s with net := { s.net with blocks := [blk st] } }

theorem at_step {i : Instr} {t : StepArgs} {s : State} {g : Program} (h1 : s.actor = .program 0) (h2 : stepArgs i = some t)
    (h3 : aget s.programs 0 = some g) (h4 : g.cur = some i)
    (h : enginesRun s = true ∧ g.code = none ∧ g.issued = false ∧ stepFault s g i t = none ∧
      (t.ten = true → g.released ≠ 0 ∧ releasedAhead s (g.core / 64) g.released = false) ∧ (g.locked = true → g.ticked = true)) :
    AtStep 0 i t g s where
  actor := h1
  args := h2
  runs := h3
  at_ := h4
  engines := h.1
  going := h.2.1
  fresh := h.2.2.1
  fine := h.2.2.2.1
  trigger := h.2.2.2.2.1
  tick := h.2.2.2.2.2

theorem witness_steps : (AtStep 0 (.stepSend sArgs) sArgs (prog (.stepSend sArgs)) (atStep (.stepSend sArgs)) ∧
      ∃ x u, (issueSend (prog (.stepSend sArgs)) sArgs).go (atStep (.stepSend sArgs)) = (.ok x, u)) ∧
    (AtStep 0 (.stepRecv sArgs) sArgs (prog (.stepRecv sArgs)) (withBlock (atStep (.stepRecv sArgs)) 3) ∧
      ∃ x u, (issueRecv 0 (prog (.stepRecv sArgs)) sArgs).go (withBlock (atStep (.stepRecv sArgs)) 3) = (.ok x, u)) ∧
    (AtStep 0 (.stepRecvReduceSend sArgs) sArgs (prog (.stepRecvReduceSend sArgs)) (withBlock (atStep (.stepRecvReduceSend sArgs)) 3) ∧
      ∃ x u, (issueRrs 0 (prog (.stepRecvReduceSend sArgs)) sArgs).go (withBlock (atStep (.stepRecvReduceSend sArgs)) 3) = (.ok x, u)) ∧
    AtStep 0 (.stepWait sArgs) sArgs (prog (.stepWait sArgs)) (atStep (.stepWait sArgs)) ∧
    AtStep 0 (.stepLoop loopArgs) loopArgs (prog (.stepLoop loopArgs)) (atStep (.stepLoop loopArgs)) :=
  ⟨⟨at_step rfl rfl rfl rfl (by decide +kernel), goes (by decide +kernel)⟩, ⟨at_step rfl rfl rfl rfl (by decide +kernel), goes (by decide +kernel)⟩,
    ⟨at_step rfl rfl rfl rfl (by decide +kernel), goes (by decide +kernel)⟩, at_step rfl rfl rfl rfl (by decide +kernel),
    at_step rfl rfl rfl rfl (by decide +kernel)⟩

theorem witness_copy_step : let s := atStep (.stepCopy sArgs)
    let g := prog (.stepCopy sArgs)
    AtStep 0 (.stepCopy sArgs) sArgs g s ∧ g.verdict = .matched ∧ (sourceAddr g sArgs).go s = (.ok 0x2000, after (sourceAddr g sArgs) s) ∧
    (destAddr g sArgs g.size).go s = (.ok 0x2100, after (destAddr g sArgs g.size) s) ∧
    (readColl g 0x2000 (g.count * g.size)).go s = (.ok [1, 2, 3, 4], after (readColl g 0x2000 (g.count * g.size)) s) ∧
    ∃ x u, (writeColl g 0x2100 [1, 2, 3, 4]).go s = (.ok x, u) :=
  ⟨at_step rfl rfl rfl rfl (by decide +kernel), rfl, go_answers (by decide +kernel), go_answers (by decide +kernel), go_answers (by decide +kernel),
    goes (by decide +kernel)⟩

/-- What steps leave: a block sent, blocks taken and reduced (1.0 + 1.0), bytes copied, the next step, a loop's target. -/
theorem test_steps :
    ((nextOf (.stepSend sArgs) (atStep (.stepSend sArgs))).net.blocks.map (fun b => (b.dstCore, b.bytes, b.st)) = [(1, [1, 2, 3, 4], 0)]) ∧
    readBytes (nextOf (.stepRecv sArgs) (withBlock (atStep (.stepRecv sArgs)) 3)) 0x2100 4 = [0, 0, 0x80, 0x3F] ∧
    (let s := writeBytes (withBlock (atStep (.stepRecvReduceSend sArgs)) 3) 0x2000 [0, 0, 0x80, 0x3F]
     readBytes (nextOf (.stepRecvReduceSend sArgs) s) 0x2100 4 = [0, 0, 0, 0x40]) ∧
    readBytes (nextOf (.stepCopy sArgs) (atStep (.stepCopy sArgs))) 0x2100 4 = [1, 2, 3, 4] ∧
    ((nextOf (.stepWait sArgs) (atStep (.stepWait sArgs))).programs.map (fun e => e.2.idx) = [4]) ∧
    ((nextOf (.stepLoop loopArgs) (atStep (.stepLoop loopArgs))).programs.map (fun e => (e.2.idx, e.2.loops)) = [(1, [(1, 1)])]) ∧
    ctrOf (nextOf (.stepWait sArgs) (atStep (.stepWait sArgs))) 0 4 = 2 := by decide +kernel

/-! What arrives at a collective -/

theorem witness_post : let q : Post := ⟨5, 0, 0, some 7, 3, false, false, []⟩
    let s := { atStep (.stepWait sArgs) with net := { base.net with posts := [q] } }
    enginesRun s = true ∧ s.net.posts[0]? = some q ∧ q.arrived = false ∧ (nextOf (.signaturePost 0) s).net.posts.map (fun q => q.arrived) = [true] := by
  decide +kernel

/-- A block of one byte of an 8-bit format; staging holds one byte. -/
def prog1 : Program := { prog (.stepWait sArgs) with fmt := 7, slen := 1 }
def blk1 (st : Nat) : CBlock := { blk st with sig := signatureOf prog1, fmt := 7, bytes := [0x38], fold := 5 }
def withBlock1 : State := { atStep (.stepWait sArgs) with programs := [(0, prog1)], net := { base.net with blocks := [blk1 0] } }

theorem land_one : ∃ x u, (landBlock 0 0 prog1 (blk1 0) (some 0)).go { withBlock1 with fresh := withBlock1.fresh + 1 } = (.ok x, u) := by
  exact goes (by decide +kernel)

theorem witness_blocks : let s := withBlock1
    s.net.blocks[0]? = some (blk1 0) ∧ programAt s 0 5 = some (0, prog1) ∧ prog1.seq = (blk1 0).seq ∧ (blk1 0).sig = signatureOf prog1 ∧
    prog1.code = none ∧ prog1.cav = false ∧ (blk1 0).bytes.length ≤ prog1.slen.toNat ∧
    ((staged s prog1).map (fun e => e.1.bytes.length)).sum + (blk1 0).bytes.length ≤ prog1.slen.toNat ∧
    (∃ x u, (landBlock 0 0 prog1 (blk1 0) (some (Config.freeIndex s.fresh % (prog1.slen.toNat - (blk1 0).bytes.length + 1)))).go
      { s with fresh := s.fresh + 1 } = (.ok x, u)) ∧
    (let full := { s with net := { s.net with blocks := [blk1 0, blk1 3] } }
     prog1.slen.toNat < ((staged full prog1).map (fun e => e.1.bytes.length)).sum + (blk1 0).bytes.length) := by
  refine ⟨by decide +kernel, by decide +kernel, by decide +kernel, by decide +kernel, by decide +kernel, by decide +kernel, by decide +kernel,
    by decide +kernel, ?_, by decide +kernel⟩
  have h : Config.freeIndex withBlock1.fresh % (prog1.slen.toNat - (blk1 0).bytes.length + 1) = 0 := Nat.mod_one _
  rw [h]
  exact land_one

theorem witness_block_past : let s := { updCore (withBlock base 0) 0 (fun c => { c with collSeq := [(5, 1)] }) with programs := [] }
    programAt s (blk 0).dstCore (blk 0).fold = none ∧ isPast (sget 0 (coreOf s (blk 0).dstCore).collSeq (blk 0).fold) (blk 0).seq = true ∧
    (nextOf (.collectiveBlockArrival 0) s).net.blocks.map (fun b => b.st) = [4] ∧
    ({ blk 0 with sig := 1 } : CBlock).sig ≠ signatureOf (prog (.stepWait sArgs)) := by decide +kernel

/-- A resend, an acknowledgement that completes a step, and one whose program is gone. -/
theorem witness_acknowledged : let b := { blk 3 with src := 9, fromCore := 0, dstCore := 1 }
    let s := { atStep (.stepWait sArgs) with programs := [(0, { prog (.stepWait sArgs) with issued := true })], net := { base.net with blocks := [b] } }
    s.net.blocks[0]? = some b ∧ b.st = 3 ∧ (programOf s b.src).isSome = true ∧ programOf s 77 = none ∧
    (nextOf (.collectiveBlockAcknowledged 0) s).programs.map (fun e => e.2.idx) = [4] ∧
    (nextOf (.collectiveBlockAcknowledged 0) s).net.blocks.map (fun b => b.st) = [6] ∧
    (let r := withBlock (atStep (.stepWait sArgs)) 5
     r.net.blocks[0]? = some (blk 5) ∧ (blk 5).refused = none ∧ (nextOf (.stagingResend 0) r).net.blocks.map (fun b => b.st) = [0]) := by
  decide +kernel

theorem witness_triggers : let t : StepArgs := { sArgs with ten := true, tctr := 4, tthr := 0 }
    let s := atStep (.stepWait t)
    aget s.programs 0 = some (prog (.stepWait t)) ∧ (prog (.stepWait t)).cur.bind stepArgs = some t ∧ (prog (.stepWait t)).released = 0 ∧
    t.tthr.toNat ≤ (ctrOf s 0 4).toNat ∧ ((nextOf (.triggerRelease true 0) s).programs.map (fun e => e.2.released != 0) = [true]) ∧
    (let g := { prog (.stepWait sArgs) with locked := true }
     let r := { atStep (.stepWait sArgs) with programs := [(0, g)] }
     tickReady r g = true ∧ ((nextOf (.scheduleTickIssue 0) r).programs.map (fun e => e.2.ticked) = [true])) := by decide +kernel

theorem witness_copy_trigger : let x : XoArgs := ⟨0, 0, 0, 4, true, 0, false, 0, 0, 0⟩
    let m : Cmd := { newCmd (.xLd x) 0 0 0 false 0 with id := 9 }
    let s := setQueue engines 0 0 2 [m]
    (queueOf s 0 0 2)[0]? = some m ∧ copyTrigger m.instr = some x ∧ m.released = 0 ∧ x.tthr.toNat ≤ (ctrOf s 0 4).toNat ∧
    (queueOf (nextOf (.triggerRelease false 0) s) 0 0 2).map (fun m => m.released != 0) = [true] := by decide +kernel

theorem witness_chain : let h : Chain := ⟨4, 0, 6, 7, 0⟩
    let s := updDie engines 0 (fun d => { d with chains := [h] })
    (dieOf s 0).chains[0]? = some h ∧ h.thr.toNat ≤ (ctrOf s 0 h.ca).toNat ∧ ctrOf (nextOf (.counterChainFire 0 0) s) 0 6 = 7 ∧
    (dieOf (nextOf (.counterChainFire 0 0) s) 0).chains = [] := by decide +kernel

/-- A collective that is done, one that has failed. -/
theorem witness_collective_end : let g := { prog (.stepWait sArgs) with done := true, cur := none, cdone := 0x0244 }
    let s := { engines with programs := [(0, g)] }
    let f := { g with code := some .collectiveMismatch }
    aget s.programs 0 = some g ∧ g.crec = 0 ∧ g.code = none ∧ g.cav = false ∧ g.done = true ∧ g.verdict = .matched ∧ unacked s g = false ∧
    (nextOf (.collectiveComplete 0) s).programs = [] ∧ ctrOf (nextOf (.collectiveComplete 0) s) 0 4 = 2 ∧ f.task = some 1 ∧
    (bank w0 (nextOf (.collectiveComplete 0) { s with programs := [(0, f)] })).pend.map (fun p => (p.src, p.code)) = [(.collective, .collectiveMismatch)] := by
  decide +kernel

theorem witness_cavity_end : let g := { prog (.stepWait sArgs) with cav := true, mask := 1, cur := none }
    let s := { engines with programs := [(0, g)] }
    aget s.programs 0 = some g ∧ g.code = none ∧ g.verdict = .matched ∧ unacked s g = false ∧ (cavResult g).isSome = true ∧ cavSent g = true ∧
    g.task = some 1 ∧ bankHolding s 0 1 = some 0 ∧ inPlace s 0 0 = true ∧ (nextOf (.collectiveComplete 0) s).programs = [] := by decide +kernel

/-! Images of other cores -/

def img (off : Nat) (rsw : Bool) : Arrival :=
  { rsw := rsw, fromCore := 1, fromBank := 0, core := 0, off := off, bytes := [7, 8], tags := [(8, 0)], add := false, ctr := 4, cen := true,
    phase := 0, cmd := 0, route := 0 }
def imaged (off : Nat) (rsw : Bool) : State := { engines with net := { engines.net with arrivals := [img off rsw] } }

theorem witness_images : findArrival (imaged 4096 false) false 0 = some (img 4096 false, 0) ∧
    landingOf (imaged 4096 false) (img 4096 false) = .land 0 ∧
    (∃ x u, (landArrival (img 4096 false) 0).go { imaged 4096 false with net := { engines.net with arrivals := [] } } = (.ok x, u)) ∧
    landingOf (imaged 8191 true) (img 8191 true) = .beyond ∧ landingOf (imaged 20000 false) (img 20000 false) = .hold ∧
    (dieOf (imaged 20000 false) 0).held.length < 32 ∧ (bankOf (imaged 4096 false) 0 0).task = some 1 ∧ w0.launch = none ∧
    2048 * (bankOf (imaged 4096 false) 0 0).part.s0 ≤ 4096 :=
  ⟨by decide +kernel, by decide +kernel, goes (by decide +kernel), by decide +kernel, by decide +kernel, by decide +kernel, by decide +kernel,
    rfl, by decide +kernel⟩

theorem test_images : (let t := nextOf (.epiSendArrival 0) (imaged 4096 false)
      (sByte t 0 4096 = 7 ∧ sByte t 0 4097 = 8 ∧ ctrOf t 0 4 = 1 ∧ t.net.arrivals = [])) ∧
    (dieOf (nextOf (.epiSendArrival 0) (imaged 20000 false)) 0).held = [img 20000 false] ∧
    (let s := updDie engines 0 (fun d => { d with held := [img 4096 false, img 20000 false] })
     (sByte (nextOf (.heldArrivalRelease 0 0) s) 0 4096 = 7 ∧ leads (.heldArrivalRelease 0 1) s s = true)) ∧
    (nextOf (.rswArrival 0) (imaged 8191 true)).net.arrivals = [] := by decide +kernel

/-! ### The checkpoint engine -/

/-- A descriptor at 0x3000: step 5, one shard of 64 KiB from 0x10000 to 0x40000. -/
def shardMem : State :=
  writeBytes (writeBytes (writeBytes base 0x3000 [5, 0, 0, 0, 0, 0, 0, 0, 1]) 0x3040 [0, 0, 1, 0, 0, 0, 0, 0, 0, 0, 4, 0, 0, 0, 0, 0, 0, 0, 1]) 0x10000 [9]

def ckptAt (phase : Nat) (restore : Bool) (pending : List (Nat × Nat × Nat)) : Ckpt :=
  { Ckpt.reset with desc := 0xC0, opDesc := 0xC0, busy := true, restore := restore, step := 5, shards := [(0x10000, 0x40000, 0x10000)], pending := pending,
                    phase := phase, core := 0, task := 1, since := 100 }
def ckpting (q : Ckpt) : State := updCkpt shardMem 0 (fun _ => q)

theorem witness_checkpoint_begins : let q := ckptAt 0 false []
    ckptOf (ckpting q) 0 = some q ∧ q.busy = true ∧ enginesRun (ckpting q) = true ∧ q.phase = 0 ∧
    (∃ x u, (beginCheckpoint 0 q).go (ckpting q) = (.ok x, u)) ∧
    (let t := nextOf (.checkpointEngineRun 0) (ckpting q)
     (readBytes t 0x40000 12 = [0x44, 0x52, 0x48, 0x53, 0, 0, 0, 0, 5, 0, 0, 0] ∧ (ckptOf t 0).map (fun q => (q.phase, q.pending)) = some (1, [(0, 0, 0x10000)]))) :=
  ⟨by decide +kernel, rfl, by decide +kernel, rfl, goes (by decide +kernel), by decide +kernel⟩

theorem witness_restore_begins : let q := ckptAt 0 true []
    ckptOf (ckpting q) 0 = some q ∧ (∃ x u, (beginRestore 0 q).go (ckpting q) = (.ok x, u)) ∧
    (ckptOf (nextOf (.checkpointEngineRun 0) (ckpting q)) 0).map (fun q => (q.phase, q.complete)) = some (4, [0]) :=
  ⟨by decide +kernel, goes (by decide +kernel), by decide +kernel⟩

theorem readBytes_length (s : State) (a n : Nat) : (readBytes s a n).length = n := by simp [readBytes]

theorem witness_granule : let q := ckptAt 1 false [(0, 0, 0x10000)]
    ckptOf (ckpting q) 0 = some q ∧ 0 < q.pending.length ∧ ∃ u, (copyGranule 0 q 0).go (ckpting q) = (.ok (), u) := by
  refine ⟨by decide +kernel, by decide, ?_⟩
  have h : (ckptRange 0 (ckptAt 1 false [(0, 0, 0x10000)]) .ew 0x40040 65536).go (ckpting (ckptAt 1 false [(0, 0, 0x10000)])) = (.ok _, _) :=
    go_some (by decide +kernel)
  have e : (copyGranule 0 (ckptAt 1 false [(0, 0, 0x10000)]) 0) = (do
      let s ← state
      ckptWrite 0 (ckptAt 1 false [(0, 0, 0x10000)]) 0x40040 (readBytes s 0x10000 65536)
      change (fun s => updCkpt s 0 (fun q => { q with pending := removeAt q.pending 0 }))) := rfl
  rw [e, go_bind_ok (go_state _)]
  simp only [ckptWrite, readBytes_length, bind_assoc]
  rw [go_bind_ok h]
  exact ⟨_, rfl⟩

theorem witness_checkpoint_phases : let q := ckptAt 1 false []
    let t := nextOf (.checkpointEngineRun 0) (ckpting q)
    let q2 := ckptAt 2 false []
    let q3 := ckptAt 3 false []
    let r := ckptAt 1 true []
    let r4 := { ckptAt 4 true [] with complete := [0] }
    ckptOf (ckpting q) 0 = some q ∧ (ckptOf t 0).map (fun q => q.phase) = some 2 ∧
    ckptOf (ckpting q2) 0 = some q2 ∧ (∃ x u, (completeShard 0 q2).go (ckpting q2) = (.ok x, u)) ∧
    readBytes (nextOf (.checkpointEngineRun 0) (ckpting q2)) 0x40000 5 = [0x44, 0x52, 0x48, 0x53, 1] ∧
    ckptOf (ckpting q3) 0 = some q3 ∧ (ckptOf (nextOf (.checkpointComplete 0) (ckpting q3)) 0).map (fun q => (q.busy, q.res)) = some (false, 0) ∧
    ckptOf (ckpting r) 0 = some r ∧ (ckptOf (nextOf (.restoreComplete 0) (ckpting r)) 0).map (fun q => (q.busy, q.res)) = some (false, 0) ∧
    ckptOf (ckpting r4) 0 = some r4 ∧ (ckptOf (nextOf (.restoreComplete 0) (ckpting r4)) 0).map (fun q => (q.busy, q.res)) = some (false, 5) ∧
    (bankOf (nextOf (.restoreComplete 0) (ckpting r4)) 0 0).pend.map (fun p => (p.code, p.info)) = [(.restoreStep, some 1)] :=
  ⟨by decide +kernel, by decide +kernel, by decide +kernel, goes (by decide +kernel), by decide +kernel, by decide +kernel, by decide +kernel,
    by decide +kernel, by decide +kernel, by decide +kernel, by decide +kernel, by decide +kernel⟩

/-! ### Remote traffic -/

def acc0 : Access :=
  { id := 40, kind := .store, cls := 0, ctx := 0, va := 0x2000, pa := 0, len := 2, off := 0, size := 2, data := [7, 8], fwd := [], target := .die 0, dieLocal := false,
    remote := true, notify := 0, aop := 0, opB := 0, opD := 0, log := false }
def reqAt (kind : BitVec 4) : Request :=
  { kind := kind, req := 0, bank := 0, owner := 0, entry := 3, seq := 6, acc := { acc0 with kind := if kind = 0 then .load else .store },
    replay := false, final := false, route := 0, orte := 0, cnt := [] }
def tkt (st : BitVec 2) (busy : Bool) : Ticket :=
  { ticket := 9, owner := 0, state := st, disc := false, seq := 6, kind := 1, acc := acc0, orte := 0, cnt := [], replaying := false, busy := busy }

/-- A request is in flight, its entry in the table. -/
def requested (r : Request) : State :=
  let s := withBank (fun k => { k with tickets := [(3, tkt 1 false)] })
  { s with net := { s.net with reqs := [r] } }

/-- The page may be read only. -/
def readOnly (s : State) : State := writeBytes s 0x200000 (leBytes 4 0x4001)

theorem witness_requests : ∃ x l u, (requested (reqAt 1)).net.reqs[0]? = some (reqAt 1) ∧ OwnerReady (reqAt 1) x l (requested (reqAt 1)) u ∧
    l.allows (reqRight 1) = true ∧ (reqAt 1).acc.kind ≠ .atomic ∧ (reqAt 1).acc.kind ≠ .casSec ∧
    (∃ y v, (performRequest { reqAt 1 with acc := { (reqAt 1).acc with pa := l.pa, target := leafTarget l } }).go u = (.ok y, v)) ∧
    (∃ y v, (ownerArrival (reqAt 1)).go (requested (reqAt 1)) = (.ok y, v)) ∧
    (let t := nextOf (.remoteRequest 0) (requested (reqAt 1))
     (readBytes t 0x2000 2 = [7, 8] ∧ t.net.reqs = [] ∧ t.net.resps.map (fun a => (a.status, a.entry)) = [(0, 3)])) :=
  ⟨placedContext, _, _, rfl, ⟨by decide +kernel, by decide, by decide +kernel, by decide +kernel, go_answers rfl⟩, by decide +kernel, by decide, by decide,
    goes (by decide +kernel), goes (by decide +kernel), by decide +kernel⟩

theorem witness_refused : ∃ l u, OwnerReady (reqAt 1) placedContext l (readOnly (requested (reqAt 1))) u ∧ l.allows (reqRight 1) = false ∧
    (nextOf (.remoteRequest 0) (readOnly (requested (reqAt 1)))).net.resps.map (fun a => (a.status, a.code)) = [(3, some .protection)] :=
  ⟨_, _, ⟨by decide +kernel, by decide, by decide +kernel, by decide +kernel, go_answers rfl⟩, by decide +kernel, by decide +kernel⟩

theorem witness_close : (requested (reqAt 7)).net.reqs[0]? = some (reqAt 7) ∧ ctxOf (requested (reqAt 7)) 0 = some placedContext ∧
    (nextOf (.remoteRequest 0) (requested (reqAt 7))).net.resps.map (fun a => a.status) = [0] := by decide +kernel

def answer0 (st : BitVec 2) : Response :=
  { req := 0, bank := 0, ctx := 0, owner := 0, entry := 3, cls := 0, seq := 6, status := st, ticket := 9, code := none, data := [], final := false, route := 0 }

theorem witness_responses : ∀ st ∈ [(0 : BitVec 2), 1, 2, 3],
    let s := { requested (reqAt 1) with net := { base.net with resps := [answer0 st] } }
    s.net.resps[0]? = some (answer0 st) ∧
    (answers (responseArrival (answer0 st)) { s with net := { s.net with resps := removeAt s.net.resps 0 } }).isSome = true ∧
    (bankOf (nextOf (.remoteResponse 0) s) 0 0).tickets.map (fun e => (e.2.state, e.2.busy)) =
      (if st = 0 then [] else if st = 1 then [(2, false)] else if st = 2 then [(1, true)] else [(1, false)]) ∧
    (bankOf (nextOf (.remoteResponse 0) s) 0 0).pend.map (fun p => p.code) = (if st = 3 then [.protection] else []) := by
  decide +kernel

theorem witness_notice : let n : Notice := ⟨0, 0, 0, 0, 9, none, 0⟩
    let s := { withBank (fun k => { k with tickets := [(3, tkt 2 false)] }) with net := { base.net with notices := [n] } }
    s.net.notices[0]? = some n ∧ (bankOf (nextOf (.replayNotice 0) s) 0 0).tickets.map (fun e => e.2.state) = [3] := by decide +kernel

theorem witness_resend : let s := withBank (fun k => { k with tickets := [(3, tkt 1 true)] })
    aget (bankOf s (3 / 96) (3 % 96 / 32)).tickets (3 % 32) = some (tkt 1 true) ∧ (tkt 1 true).busy = true ∧ (tkt 1 true).replaying = false ∧
    (nextOf (.remoteResend 3) s).net.reqs.map (fun r => r.entry) = [3] := by decide +kernel

theorem witness_replay : let s := withBank (fun k => { k with tickets := [(3, tkt 3 false)] })
    aget (bankOf s 0 0).tickets 3 = some (tkt 3 false) ∧ contextRuns s 0 0 = true ∧
    (∀ e ∈ (keyEntries s 0 0 0 0).filter (fun e => e.seq != 6), e.replaying = false ∧ younger 6 e.seq = false) ∧
    (∀ e ∈ (bankOf s 0 0).inflight ++ (bankOf s 0 0).tickets.map (fun e => e.2.acc), e.id < 40 → stfWaits (seen s e) (seen s acc0) = false) ∧
    (nextOf (.ticketReplay 0 3) s).net.reqs.map (fun r => (r.entry, r.replay, r.final)) = [(3, true, true)] := by decide +kernel

theorem witness_held_stf : let r := { reqAt 2 with acc := { acc0 with kind := .stf, pa := 0x2000 }, cnt := [0, 0, 0, 0] }
    let s := updDie base 0 (fun d => { d with heldStf := [r] })
    (dieOf s 0).heldStf[0]? = some r ∧ countsReached s r = true ∧ (answers (performRequest r) s).isSome = true ∧
    readBytes (nextOf (.stfHeldPerform 0 0) s) 0x2000 2 = [7, 8] ∧ (dieOf (nextOf (.stfHeldPerform 0 0) s) 0).heldStf = [] := by
  decide +kernel

/-! ### Misses, descriptors, invalidations, tokens -/

def missed : State := updDie (withBank (fun k => { k with miss := some { die := 0, va := 0x300000, kind := 0, level := 3 } })) 0
  (fun d => { d with keeper := 0x8000000000000000 ||| 0x8000, keeperCtx := 0 })

theorem witness_miss : (coreOf missed 0).active = some 0 ∧ (bankOf missed 0 0).miss.isSome = true ∧ (∃ x u, (finishMiss 0 0).go missed = (.ok x, u)) ∧
    (let t := nextOf (.translation 0) missed
     ((coreOf t 0).active = none ∧ (dieOf t 0).descs.map (fun k => (k.va, k.written)) = [(0x300000, false)])) :=
  ⟨by decide +kernel, by decide +kernel, goes (by decide +kernel), by decide +kernel⟩

def desc1 : Desc := ⟨4, 0, 0x300000, 0, 3, 0, false, 0, false, []⟩

/-- The ring's word 0 names the keeper's record at 0x9000, whose entry is 0x1000. -/
def pendingDesc : State :=
  writeBytes (writeBytes (updDie { missed with ctxs := [(0, { placedContext with maxS := 8, maxC := 8 })] } 0
    (fun d => { d with descs := [desc1] })) 0x8000 [0, 0x90]) 0x9000 [0, 0, 0, 0, 0, 0, 0, 0, 0, 0x10]

theorem witness_descriptor :
    (dieOf pendingDesc 0).descs.find? (fun k => !k.written) = some desc1 ∧ shepherdsRun pendingDesc = true ∧ keeperOn pendingDesc 0 = true ∧
    (let x := (dieOf pendingDesc 0).keeperCtx
     let ring := ((dieOf pendingDesc 0).keeper.extractLsb' 6 50).toNat * 64
     ∃ hd s1 s2 r s3, (devRead x ring 24).go pendingDesc = (.ok (.ok hd), s1) ∧
       (leWord ((hd.drop 8).take 8) - leWord ((hd.drop 16).take 8)).toNat < 256 ∧
       (devWrite x (ring + 64 + 32 * ((leWord ((hd.drop 8).take 8)).toNat % 256)) (descBytes desc1)).go s1 = (.ok (.ok ()), s2) ∧
       (devWriteWord x (ring + 8) (leWord ((hd.drop 8).take 8) + 1)).go s2 = (.ok r, s3) ∧
       ∃ y u, (keeperCopy 0 4 (leWord (hd.take 8))).go (markWritten s3 0 4) = (.ok y, u)) ∧
    (let t := nextOf (.faultDescriptorWrite 0 4) pendingDesc
     (readBytes t 0x8008 8 = [1, 0, 0, 0, 0, 0, 0, 0] ∧ (dieOf t 0).descs.map (fun k => k.written) = [true])) :=
  ⟨by decide +kernel, by decide +kernel, by decide +kernel,
    ⟨_, _, _, _, _, go_answers rfl, by decide +kernel, go_answers rfl, go_answers rfl, goes (by decide +kernel)⟩, by decide +kernel⟩

theorem witness_walk : let s := withBank (fun k => { k with inflight := [{ acc0 with kind := .load, remote := false }] })
    whoRuns s 0 = some w0 ∧ ctxOf s 0 = some placedContext ∧ enginesRun s = true ∧ (0x2000 : Word).toNat < 2 ^ 56 ∧
    (walkRights s 0 0 0 0x2000).find? (fun r => r.writes == false) = some .rd ∧ runs (.pageWalk 0 0x2000 false) s = true :=
  ⟨by decide +kernel, by decide +kernel, by decide +kernel, by decide, by decide +kernel, by decide +kernel⟩

theorem witness_invalidated : let s := updDie base 0 (fun d => { d with xinv := some 0x0600000000000000 })
    (dieOf s 0).xinv = some 0x0600000000000000 ∧ (xinvOf 0x0600000000000000).kind = 3 ∧
    xinvBusy s (xinvOf 0x0600000000000000) (fun n => (xinvOf 0x0600000000000000).package || n == 0) = false ∧
    (dieOf (nextOf (.xinvComplete 0) s) 0).xinv = none := by decide +kernel

theorem witness_token : let t : TokenDue := ⟨1, 5, 0, 77⟩
    let s := withBank (fun k => { k with tokens := [t], regs := { k.regs with gWait := [(5, 1)] } })
    findToken s 0 0 = some (0, t) ∧ sget 0 (regs w0 (nextOf (.copyTokenWrite 0 0) s)).g 5 = 77 := by decide +kernel

/-! ### Replay streams and guards -/

/-- A body at 0x4000: one task, the six stream entries `es`, guard slots `gs`, one semaphore. -/
def bodyAt (es gs : List (List Byte)) (s : State) : State :=
  let head := leBytes 8 0 ++ leBytes 4 1 ++ leBytes 4 es.length ++ leBytes 4 gs.length ++ leBytes 4 0 ++ leBytes 2 0 ++ leBytes 2 1
  let task := leBytes 10 0 ++ leBytes 2 gs.length ++ leBytes 4 0 ++ (List.range 6).flatMap (leBytes 4)
  writeBytes (writeBytes (writeBytes (writeBytes s 0x4000 head) 0x4040 task) 0x4080 es.flatten) 0x4100 gs.flatten

def entryEnd : List Byte := List.replicate 15 0 ++ [0x50]
def entryFlip : List Byte := List.replicate 13 0 ++ [1, 0, 0x30]

def cursor0 : Cursor :=
  { body := 0x4000, task := 0, iter := 0, version := 0, pos := [0, 1, 2, 3, 4, 5], markPos := [0, 0, 0, 0, 0, 0], setPos := [0, 9, 0, 0, 0, 0],
    ended := [false, false, false, false, false, false], live := false, shapeOk := true, healthOk := true, branchOk := false, route := 0 }

/-- Launch 2 replays the body; its semaphore 0 has counted to 3. -/
def replayLaunch : Launch :=
  { newLaunch 0 0 placedContext (headerOf []) ⟨1, 0, 0, 0xA000, 0, 0, 0, 0, 0⟩ [] 0 with
    replay := some { body := 0x4000, version := 0, variant := 0, sems := [(semKey 0x4000 0, 3)], started := [0], retired := [], passed := false, earlier := [] } }

/-- The task of launch 2 replays the entry under a cursor. -/
def replaying (es gs : List (List Byte)) (c : Cursor) : State :=
  let s := bodyAt es gs (updTask engines 1 (fun k => { k with launch := some 2, repEntry := 1 }))
  updBank { s with launches := [(2, replayLaunch)], actor := .stream 0 1 } 0 0 (fun k => { k with cursor := some c })

def ends : List (List Byte) := List.replicate 6 entryEnd
def flips : List (List Byte) := List.replicate 6 entryFlip ++ [entryEnd]
def w2 : Who := { w0 with launch := some 2 }
def strm (k pos : Nat) : Strm := ⟨w2, cursor0, 2, k, pos⟩

theorem go_same {α : Type} {m : Act α} {s : State} {x : α} (h : answers m s = some x) (k : after m s = s) : m.go s = (.ok x, s) := by
  have := go_answers h
  rw [k] at this
  exact this

theorem stream_turn (es gs : List (List Byte)) (k pos : Nat)
    (h : (answers (streamAgent 0 k) { replaying es gs cursor0 with actor := .stream 0 k } = some (strm k pos)) ∧
      after (streamAgent 0 k) { replaying es gs cursor0 with actor := .stream 0 k } = { replaying es gs cursor0 with actor := .stream 0 k }) :
    StreamTurn (strm k pos) { replaying es gs cursor0 with actor := .stream 0 k } := ⟨rfl, go_same h.1 h.2, rfl⟩

theorem witness_stream : let s := { replaying ends [] cursor0 with actor := .stream 0 1 }
    StreamTurn (strm 1 1) s ∧ streamBusy s (strm 1 1) = false ∧ (strm 1 1).pos < (strm 1 1).cur.setPos.getD 1 0 ∧
    ((0x10000 : BitVec 28).extractLsb' 16 8).toNat * (cursor0.iter + 1) ≤ semCount s 2 0x4000 0 ∧
    (bankOf s 0 0).tickets = [] ∧ (changeAt (fun _ => true) cursor0.ended 1).all id = false :=
  ⟨stream_turn ends [] 1 1 (by decide +kernel), by decide +kernel, by decide, by decide +kernel, by decide +kernel, by decide⟩

/-- The v.add of addArgs as the CMD of an entry. -/
def addCmd : BitVec 96 := (commandBits (encode (.vAdd addArgs))).setWidth 96

theorem witness_stream_command : let s := { replaying ends [] cursor0 with actor := .stream 0 1 }
    StreamTurn (strm 1 1) s ∧ decodeCommand (streamQueue 1) addCmd = .ok (.vAdd addArgs) ∧
    (∃ s1, (substitute 0 cursor0 1 addCmd).go s = (.ok (some addCmd), s1) ∧
      ∃ x u, (dispatchCmd w2 (addSpec addArgs) { newCmd (.vAdd addArgs) 0 0 0 true 0 with entry := 1 }).go s1 = (.ok x, u)) ∧
    (queueOf (nextOf (.streamCmd 0 addCmd) s) 0 0 1).map (fun m => (m.instr, m.starter)) = [(.vAdd addArgs, true)] ∧
    ((bankOf (nextOf (.streamCmd 0 addCmd) s) 0 0).cursor.map (fun c => c.pos)) = some [0, 2, 2, 3, 4, 5] :=
  ⟨stream_turn ends [] 1 1 (by decide +kernel), by decide +kernel, ⟨_, go_answers (by decide +kernel), goes (by decide +kernel)⟩,
    by decide +kernel, by decide +kernel⟩

theorem witness_stream_set : let s := { replaying ends [] cursor0 with actor := .stream 0 2 }
    StreamTurn (strm 2 2) s ∧ streamBusy s (strm 2 2) = false ∧ cursor0.setPos.getD 2 0 ≤ 2 ∧
    (∃ x u, (setSem 2 1 0x4000 0).go (updCursor (passed (strm 2 2) s) w2
      (fun q => { q with setPos := changeAt (fun _ => 3) q.setPos 2 })) = (.ok x, u)) ∧
    semCount (nextOf (.streamSet 0 0) s) 2 0x4000 0 = 4 ∧
    semCount s 2 0x4000 0 < ((0x40000 : BitVec 28).extractLsb' 16 8).toNat * (cursor0.iter + 1) ∧
    (∃ x u, (countStall 0 0x4000 2).go s = (.ok x, u)) :=
  ⟨stream_turn ends [] 2 2 (by decide +kernel), by decide +kernel, by decide, goes (by decide +kernel), by decide +kernel, by decide +kernel,
    goes (by decide +kernel)⟩

theorem witness_stream_flip : let s := { replaying flips [] cursor0 with actor := .stream 0 1 }
    StreamTurn (strm 1 1) s ∧ (∃ u, (flipState (strm 1 1)).go s = (.ok .reached, u) ∧ (0 : Nat) < (bankOf u 0 0).part.sn) ∧
    (0x100 : BitVec 28).getLsbD 8 = true ∧ ((bankOf (nextOf (.streamFlip 0x100 0) s) 0 0).cursor.map (fun c => c.pos)) = some [1, 2, 3, 4, 5, 6] :=
  ⟨stream_turn flips [] 1 1 (by decide +kernel), ⟨_, go_answers (by decide +kernel), by decide +kernel⟩, by decide, by decide +kernel⟩

theorem test_stream_rest : let s := { replaying ends [] cursor0 with actor := .stream 0 1 }
    (((bankOf (nextOf (.streamMark 0 0) s) 0 0).cursor.map (fun c => (c.markPos, c.pos))) = some ([0, 1, 0, 0, 0, 0], [0, 2, 2, 3, 4, 5])) ∧
    (((bankOf (nextOf (.streamEnd 0 0) s) 0 0).cursor.map (fun c => c.ended)) = some [false, true, false, false, false, false]) ∧
    (((bankOf (nextOf (.streamRoute 0 77) s) 0 0).cursor.map (fun c => c.route)) = some 77) ∧
    (((bankOf (nextOf (.streamWait 0x40000 0) s) 0 0).cursor.map (fun c => c.pos)) = some [0, 1, 2, 3, 4, 5]) := by decide +kernel

/-! Guards -/

def gd0 (c : Cursor) : Guarded := ⟨w2, c, 2⟩
def unguarded : Cursor := { cursor0 with shapeOk := false, healthOk := false }

/-- A shape guard that holds and a health guard of the matrix engine. -/
def slots1 : List (List Byte) := [guardBytes 1 0 0 (sieve 0 0) 0 0, guardBytes 3 0 0 1 0 0]
/-- A branch guard: the 4 bytes at 0x2000 equal `v`, as they did. -/
def slots2 (v : Word) : List (List Byte) := [guardBytes 2 0x14 0 v 0x2000 0x1000]

theorem witness_guards : let s := replaying ends slots1 unguarded
    (guardedTask 0).go s = (.ok (gd0 unguarded), s) ∧
    (∃ h l s1 s2 s3 qs hash, (guardSlots (gd0 unguarded)).go s = (.ok (some (h, l)), s1) ∧ (wholeOf 0 unguarded).go s1 = (.ok qs, s2) ∧
      (shapeHash 0 (objectsOf qs)).go s2 = (.ok hash, s3) ∧
      (∀ e ∈ l, ∃ k, e.2 = some k ∧ 1 ≤ k.kind ∧ k.kind ≤ 3 ∧ (k.kind = 1 → hash = some k.gval)) ∧
      (∀ e ∈ l, ∀ k, e.2 = some k → k.kind = 3 → healthMask s1 0 &&& k.gval.setWidth 3 = 0)) ∧
    ((bankOf (nextOf (.guardShape 0) s) 0 0).cursor.map (fun c => c.shapeOk)) = some true ∧
    ((bankOf (nextOf (.guardHealth 0) s) 0 0).cursor.map (fun c => c.healthOk)) = some true := by
  refine ⟨go_same (by decide +kernel) (by decide +kernel),
    ⟨⟨1, 6, 2, 0, 0, 1, 0, false⟩, [(0, some ⟨1, 0, 0, sieve 0 0, 0, 0⟩), (1, some ⟨3, 0, 0, 1, 0, 0⟩)], _, _, _,
      List.replicate 6 [0x50000000000000000000000000000000], some (sieve 0 0), go_answers (by decide +kernel), go_answers (by decide +kernel),
      go_answers (by decide +kernel), ?_, ?_⟩, by decide +kernel, by decide +kernel⟩
  · intro e he
    simp only [List.mem_cons, List.not_mem_nil, or_false] at he
    rcases he with rfl | rfl
    · exact ⟨_, rfl, by decide, by decide, fun _ => rfl⟩
    · exact ⟨_, rfl, by decide, by decide, fun x => absurd x (by decide)⟩
  · intro e he k hk _
    simp only [List.mem_cons, List.not_mem_nil, or_false] at he
    rcases he with rfl | rfl <;> cases hk <;> decide +kernel

theorem witness_no_branch : let s := replaying ends slots1 cursor0
    (guardedTask 0).go s = (.ok (gd0 cursor0), s) ∧
    (∃ s1 s2, (beforeEnd (gd0 cursor0)).go s = (.ok true, s1) ∧ (guardSlots (gd0 cursor0)).go s1 =
      (.ok (some (⟨1, 6, 2, 0, 0, 1, 0, false⟩, [(0, some ⟨1, 0, 0, sieve 0 0, 0, 0⟩), (1, some ⟨3, 0, 0, 1, 0, 0⟩)])), s2)) ∧
    ((bankOf (nextOf (.guardBranch 0) s) 0 0).cursor.map (fun c => c.branchOk)) = some true :=
  ⟨go_same (by decide +kernel) (by decide +kernel), ⟨_, _, go_answers (by decide +kernel), go_answers (by decide +kernel)⟩, by decide +kernel⟩

theorem witness_branch (v : Word) (h : v = 0 ∨ v = 9) : let s := replaying ends (slots2 v) cursor0
    let k : BodyGuard := ⟨2, 0x14, 0, v, 0x2000, 0x1000⟩
    (guardedTask 0).go s = (.ok (gd0 cursor0), s) ∧
    (∃ s1 s2 s3 x, (beforeEnd (gd0 cursor0)).go s = (.ok true, s1) ∧
      (guardSlots (gd0 cursor0)).go s1 = (.ok (some (⟨1, 6, 1, 0, 0, 1, 0, false⟩, [(0, some k)])), s2) ∧
      (guardValue (gd0 cursor0) k).go s2 = (.ok x, s3) ∧ branchHolds k x = decide (v = 0) ∧
      (v = 9 → ∃ y u, (guardFailsLate (gd0 cursor0) 0 0x1000).go s3 = (.ok y, u))) := by
  rcases h with rfl | rfl
  · exact ⟨go_same (by decide +kernel) (by decide +kernel), ⟨_, _, _, 0, go_answers (by decide +kernel), go_answers (by decide +kernel),
      go_answers (by decide +kernel), by decide +kernel, fun h => absurd h (by decide)⟩⟩
  · exact ⟨go_same (by decide +kernel) (by decide +kernel), ⟨_, _, _, 0, go_answers (by decide +kernel), go_answers (by decide +kernel),
      go_answers (by decide +kernel), by decide +kernel, fun _ => goes (by decide +kernel)⟩⟩

theorem test_branch_guard :
    ((bankOf (nextOf (.guardBranch 0) (replaying ends (slots2 0) cursor0)) 0 0).cursor.map (fun c => c.branchOk)) = some true ∧
    (bankOf (nextOf (.guardBranch 0) (replaying ends (slots2 9) cursor0)) 0 0).cursor = none ∧
    pcAfter (.guardBranch 0) (replaying ends (slots2 9) cursor0) = some 0x1004 := by decide +kernel

/-! ### Side cores -/

/-- Ring 3 of four tiles of one slot that holds two; the peel core runs with x1 = a, x2 = b. -/
def ringWord : Word := BitVec.ofNat 64 (2 ^ 63 + 4 * 2 ^ 54 + 2 ^ 41 + 2 * 2 ^ 16)
def siding (a b : Word) : State :=
  { updBank engines 0 0 (fun k => { k with rings := [(3, ringWord)], peel := { k.peel with run := true, pc := 0x100, x := [(1, a), (2, b)] } }) with
    actor := .side 0 false }

theorem side_turn (a b : Word) : SideTurn w0 false (siding a b) := ⟨rfl, rfl, rfl⟩

theorem witness_ring : let s := siding 3 2
    SideTurn w0 false s ∧ RingOk w0 s (sx w0 false s 1) (sx w0 false s 2) ∧
    ringOcc (ringOf s 0 0 3) + feeding w0 s 3 + 2 ≤ ringCap (ringOf s 0 0 3) ∧ 2 ≤ ringOcc (ringOf s 0 0 3) ∧
    (let t := siding 3 4
     RingOk w0 t (sx w0 false t 1) (sx w0 false t 2) ∧ ringOcc (ringOf t 0 0 3) < 4 ∧
     (side w0 false (nextOf (.rwaitTiles 5 1 2) t)).pc = 0x100 ∧ (side w0 false (nextOf (.rwaitPop 5 1 2) t)).pc = 0x100) ∧
    ringOcc (ringOf (nextOf (.rpush 1 2) s) 0 0 3) = 4 ∧ ringHead (ringOf (nextOf (.rwaitPop 5 1 2) s) 0 0 3) = 2 ∧
    (side w0 false (nextOf (.rwaitFree 5 1 2) s)).pc = 0x104 ∧ (side w0 false (nextOf (.rwaitTiles 5 1 2) s)).pc = 0x104 :=
  ⟨side_turn 3 2, ⟨by decide, by decide +kernel, by decide +kernel, by decide +kernel⟩, by decide +kernel, by decide +kernel,
    ⟨⟨by decide, by decide +kernel, by decide +kernel, by decide +kernel⟩, by decide +kernel, by decide +kernel, by decide +kernel⟩, by decide +kernel,
    by decide +kernel, by decide +kernel, by decide +kernel⟩

theorem witness_ring_counter : let s := setCtr (siding 4 2) 0 4 7
    SideTurn w0 false s ∧ counterGranted s 0 0 4 = true ∧ (2 : Nat) ≤ (ctrOf s 0 4).toNat ∧
    sx w0 false (nextOf (.rwaitCounter 5 1 2) s) 5 = 7 :=
  ⟨⟨rfl, rfl, rfl⟩, by decide +kernel, by decide +kernel, by decide +kernel⟩

/-- x.pref as two registers. -/
theorem witness_xiss : let a : Word := 0b00000001010101_000000000000000000_001000_00000000000000000000000000
    let s := siding a 0
    SideTurn w0 false s ∧ (0 : Word).extractLsb' 32 32 = 0 ∧ (a.extractLsb' 26 6).toNat = 8 ∧
    decodeCommand 2 ((0 : Word).setWidth 32 ++ a) = .ok (.xPref 0x55) ∧
    (∃ x u, (dispatchCmd w0 prefSpec (newCmd (.xPref 0x55) ((regs w0 s).rm.setWidth 3) (side w0 false s).pc 1 false (regs w0 s).route)).go s =
      (.ok x, u)) ∧
    (queueOf (nextOf (.xiss 1 2) s) 0 0 2).map (fun m => (m.instr, m.issuer)) = [(.xPref 0x55, 1)] :=
  ⟨side_turn _ 0, by decide, by decide, by decide +kernel, goes (by decide +kernel), by decide +kernel⟩

theorem witness_tkrd : let s := siding 5 0
    (∀ m ∈ queueOf s 0 0 2, namesToken 1 5 m = false) ∧ (∀ t ∈ (bankOf s 0 0).tokens, t.issuer ≠ 1 ∨ t.reg ≠ 5) ∧
    (let t := updCore s 0 (fun c => { c with peelD := ssetAll 0 c.peelD (0x3E00 + 40) [9, 1] })
     sx w0 false (nextOf (.tkrd 6 1) t) 6 = 0x109) := by decide +kernel

/-- Standard instructions written out from the RISC-V encodings. -/
theorem witness_riscv :
    decodeRv 0b0000000_00010_00001_000_00101_0110011 = some (.alu .add false 5 1 2) ∧
    decodeRv 0b111111111111_00001_000_00101_0010011 = some (.aluImm .add false 5 1 (-1)) ∧
    decodeRv 0b00000000000000000001_00101_0110111 = some (.lui 5 0x1000) ∧
    decodeRv 0b00000000000000000001_00101_0010111 = some (.auipc 5 0x1000) ∧
    decodeRv 0b000011111111_00000_000_00000_0001111 = some .fence ∧
    decodeRv 0b0_000000_00010_00001_000_0100_0_1100011 = some (.branch 0 1 2 8) ∧
    decodeRv 0b0_0000001000_0_00000000_00101_1101111 = some (.jal 5 16) ∧
    decodeRv 0b000000000100_00001_000_00101_1100111 = some (.jalr 5 1 4) ∧
    decodeRv 0b000000000000_00001_010_00101_0000011 = some (.load 4 true 5 1 0) ∧ decodeRv 0 = none ∧ rvLength 0 = 2 := by decide

def peelX (w : BitVec 32) (s : State) (n : Nat) : Word × Word :=
  let t := nextOf (.rv64imcInstruction w) s
  (sx w0 false t n, (side w0 false t).pc)

theorem test_riscv : peelX 0b0000000_00010_00001_000_00101_0110011 (siding 3 4) 5 = (7, 0x104) ∧
    peelX 0b111111111111_00001_000_00101_0010011 (siding 3 4) 5 = (2, 0x104) ∧ peelX 0b00000000000000000001_00101_0010111 (siding 3 4) 5 = (0x1100, 0x104) ∧
    peelX 0b0_000000_00010_00001_000_0100_0_1100011 (siding 3 3) 1 = (3, 0x108) ∧ peelX 0b0_000000_00010_00001_000_0100_0_1100011 (siding 3 4) 1 = (3, 0x104) ∧
    peelX 0b0_0000001000_0_00000000_00101_1101111 (siding 3 4) 5 = (0x104, 0x110) ∧ peelX 0b000000000100_00001_000_00101_1100111 (siding 0x201 4) 5 = (0x104, 0x204) ∧
    peelX 0b0000001_00010_00001_100_00101_0110011 (siding (-7) 2) 5 = (-3, 0x104) ∧ peelX 0b0000001_00010_00001_110_00101_0110011 (siding (-7) 2) 5 = (-1, 0x104) ∧
    (side w0 false (nextOf (.rv64imcInstruction 0) (siding 3 4))).halt = true := by decide +kernel

theorem test_side_load : let s := updCore (siding 0x10004 4) 0 (fun c => { c with peelD := ssetAll 0 c.peelD 4 [0xFE, 0xFF, 0xFF, 0xFF] })
    ((0x10004 : Word) + 0).toNat % 4 = 0 ∧ peelX 0b000000000000_00001_010_00101_0000011 s 5 = (-2, 0x104) := by decide +kernel

/-! ### Steps -/

/-- The machine of withFetchWord steps into the instruction. -/
def adding : State := State.reset.withFetchWord 32 0b000010_00000000_000100_000101_000110

theorem witness_step : let s' := { adding with agenda := [], actor := .control 0, raised := false }
    adding.agenda = [.control 0] ∧ adding.pm.st ≠ .off ∧ powerFailDue s' 0 = none ∧ whoRuns s' 0 = some w0 ∧ controlRuns s' 0 0 = true ∧
    (bank w0 s').miss = none ∧ (bank w0 s').leaving = false ∧ (bank w0 s').cursor = none ∧ enterAt (regs w0 s').pc = 0x1004 ∧
    (∃ line t, (fetchLine w0 (lineAddr 0x1004)).go s' = (.ok line, t) ∧ headerOk line = true ∧ queueNibble line (sliceNum 0x1004) ≠ 0xE ∧
      queueNibble line (sliceNum 0x1004) ≠ 0xF ∧ decodeSlice line (sliceNum 0x1004) = .ok (.add gd 4 5 6, 1) ∧
      preemptDue w0 (updBank t 0 0 (fun k => { k with mustTgt := false, regs := { k.regs with pc := 0x1004 } })) = false) ∧
    (bank w0 s').mustTgt = false ∧ 1 ≤ sliceNum 0x1004 ∧ (bank w0 s').pend = [] ∧
    taskEnds s' 1 = false ∧ (bank w0 s').checked = false := by
  intro s'
  have runs : adding.agenda = [.control 0] ∧ adding.pm.st ≠ .off ∧ powerFailDue s' 0 = none ∧ controlRuns s' 0 0 = true := by decide +kernel
  have plain : (bank w0 s').miss = none ∧ (bank w0 s').leaving = false ∧ (bank w0 s').cursor = none := by decide +kernel
  exact ⟨runs.1, runs.2.1, runs.2.2.1, by decide +kernel, runs.2.2.2, plain.1, plain.2.1, plain.2.2, by decide +kernel, ⟨_, _, go_some (by decide +kernel), by decide +kernel, by decide +kernel, by decide +kernel,
      by decide +kernel, by decide +kernel⟩, by decide +kernel, by decide, by decide +kernel, by decide +kernel, by decide +kernel⟩

/-- A step goes on to a state with a property. -/
def stepsTo (s : State) (p : State → Bool) : Bool :=
  match step s with
  | .next t => p t
  | _ => false

theorem test_step : stepsTo adding (fun t => (regs w0 t).pc == 0x1008) = true := by decide +kernel

/-- In OFF a reset comes, and nothing else. -/
theorem witness_off : let s := { base with pm := { base.pm with st := .off }, agenda := [.event .hotReset] }
    s.pm.st = .off ∧ stepsTo s (fun t => t.ctxs.isEmpty && t.tasks.isEmpty) = true ∧
    stepsTo { s with agenda := [.control 0] } (fun _ => true) = false ∧ stepsTo { s with agenda := [.idle] } (fun t => t.ctxs == s.ctxs) = true := by
  decide +kernel

/-- A line that can be fetched. -/
theorem witness_fetch : ∃ r u, (fetchLine w0 0x1000).go base = (r, u) := ⟨_, _, rfl⟩

/-! ### Round trips: an instruction of each clause -/

theorem witness_encodings : (Instr.add gd 4 5 6).wellFormed = true ∧ isControl (.add gd 4 5 6) = true ∧
    (Instr.vAdd addArgs).wellFormed = true ∧ (specOf (.vAdd addArgs)).isSome = true ∧
    decodeCommand 1 (commandBits (encode (.vAdd addArgs))) = .ok (.vAdd addArgs) ∧
    (Instr.stepWait sArgs).wellFormed = true ∧ (stepArgs (.stepWait sArgs)).isSome = true ∧
    decodeStep (word128 (encode (.stepWait sArgs))) = .ok (.stepWait sArgs) := by decide +kernel


/-! ### Whole rows of the map, and the WAITs of a task -/

/-- 07 R166, Table 1: a heap may run from C0's near tier into C1's, one row; it may not run from one I/O die's second tier into the
other's. -/
theorem test_heap_rows : heapOk 0x7F0000000000 0x600000 (0x1FFC00000 - 0x7F0000000000) 0x30001000 = true ∧
    heapOk 0x7F0000000000 0x600000 (0x11FFFFC00000 - 0x7F0000000000) 0x30001000 = false := by decide +kernel

/-- 15 Table 6 and R411: addpq's streams begin with WAIT on semaphore 4, M = 12; the vector stream's WAITs on 5 and 6 order its own
commands. -/
theorem test_task_waits :
    let wait := fun (sem m : Nat) => BitVec.ofNat 128 (2 * 2 ^ 124 + (m * 65536 + sem) * 2 ^ 96)
    let fin : BitVec 128 := BitVec.ofNat 128 (5 * 2 ^ 124)
    taskWaits [[wait 4 12, fin], [wait 4 12, wait 5 1, wait 6 1, 0, fin], [wait 4 12, 0, fin], [wait 4 12, fin],
      [wait 4 12, fin], [wait 4 12, fin]] = [wait 4 12] := by decide +kernel

/-- 14 R387, Table 4: rows of x.scat count for themselves; byte 40 of a 16-byte-window image lies in row 2. -/
theorem test_scatter_rows :
    let o := objOf 0
    bufRow { o := o, fmt := 2, geo := 0, nw := 8, wb := 16, count := 5, fill := [] } 0 40 = 2 := by decide +kernel

/-! ### Where instructions and events complete -/

theorem witness_ends : Settled w0 (richG 0 0) ∧ Ends w0 (richG 0 0) ∧ (taskOf (richG 0 0) 1).isSome = true ∧
    taskOf (nextOf (.exit gd) (richG 0 0)) 1 = none :=
  ⟨⟨rfl, rfl, rfl⟩, ⟨⟨rfl, rfl, rfl⟩, rfl, rfl, by decide, rfl⟩, by decide +kernel, by decide +kernel⟩

/-- A copy that has read and not written stands where it is and reads anew. -/
theorem witness_copies : let m : Cmd := { newCmd (.xPref 0) 0 0 0 false 0 with phase := 1, started := true }
    let s := withBank (fun k => { k with queues := [(2, [m])] })
    queueOf s 0 0 2 = [m] ∧ CopiesStand s 0 0 :=
  ⟨by decide +kernel, List.all_eq_true.mp (by decide +kernel)⟩

theorem witness_context_created :
    let s := writeBytes (writeBytes (writeBytes base 0x5038 [1]) 0x5048 [4]) 0x5058 [4]
    ctxOf s 1 = none ∧ reachable s 0x5000 = true ∧ descriptorOk (readBytes s 0x5000 512) = true ∧ fieldAt (readBytes s 0x5000 512) 0xC8 8 = 0 ∧
    admitted s [] = true ∧ (ctxOf (nextOf (.ctxCmdCreate 0x5001) s) 1).isSome = true :=
  ⟨by decide +kernel, by decide +kernel, by decide +kernel, by decide +kernel, by decide +kernel, by decide +kernel⟩

/-- Task 9 is streamed out to position 0 of core 1. -/
def streamed9 : State :=
  updCore { base with tasks := [(1, placedTask), (9, { placedTask with place := .streamedOut, core := 1 })], fresh := 0 } 1 (fun c =>
    { c with streamed := [{ pos := 0, task := 9, awaiting := none, awaitOuter := [], waitDesc := none, pend := [], mustTgt := false,
                            saved := some { Bank.reset with task := some 9 } }] })
def streamed : Streamed := (coreOf streamed9 1).streamed.getD 0 ⟨0, 0, none, [], none, [], false, none⟩

theorem witness_streamed : ∃ q, bestOf streamed9 1 (candidates streamed9 1) = some (9, q) ∧ q.place = .streamedOut ∧
    freeBanks streamed9 1 ≠ [] ∧ (coreOf streamed9 1).streamed.find? (fun e => e.task == 9) = some streamed ∧ streamed.saved.isSome = true ∧
    runs (.placement 1) streamed9 = true :=
  ⟨((bestOf streamed9 1 (candidates streamed9 1)).get (by decide +kernel)).2, by decide +kernel, by decide +kernel, by decide +kernel,
    by decide +kernel, by decide +kernel, by decide +kernel⟩

theorem witness_granule_range : let q := ckptAt 1 false [(0, 0, 0x10000)]
    q.pending[0]? = some (0, 0, 0x10000) ∧ q.shards[0]? = some (0x10000, 0x40000, 0x10000) ∧
    ∃ ps u, (ckptRange 0 q .ew (0x40000 + 64 + 65536 * 0) 65536).go (ckpting q) = (.ok ps, u) :=
  ⟨rfl, rfl, goes (by decide +kernel)⟩

theorem witness_shards_complete : let q := { ckptAt 2 false [] with complete := [0] }
    ckptOf (ckpting q) 0 = some q ∧ (∀ j < q.shards.length, j ∈ q.complete) ∧
    (ckptOf (nextOf (.checkpointEngineRun 0) (ckpting q)) 0).map (fun q => q.phase) = some 3 := by decide +kernel

theorem witness_staging : ∃ u ps u1, (stagingMiss prog1 (prog1.stage.toNat + 0) 1).go { withBlock1 with fresh := withBlock1.fresh + 1 } = (.ok none, u) ∧
    (destPieces prog1 (prog1.stage.toNat + 0) 1).go u = (.ok ps, u1) :=
  ⟨_, _, _, go_answers (by decide +kernel), go_some (by decide +kernel)⟩

theorem witness_stores_perform : writeStalls base 0x2000 2 = false ∧ writeStalls (updDie base 0 (fun d => { d with heldStf := [] })) 0x2000 2 = false ∧
    commandsRun (bankOf missed 0 0) = false ∧ (bankOf missed 0 0).task.isSome = true := by decide +kernel

/-- A miss that an engine raised waits for the boundary. -/
theorem witness_engine_miss : let p : PendTrap := ⟨.engine, .translation, none, 0x1004, some { die := 0, va := 0x300000, kind := 0, level := 3, queue := 1 }⟩
    let s := updBank (handler 0) 0 0 (fun k => { k with pend := [p] })
    boundaryBank s 0 = some 0 ∧ firstPend (bankOf s 0 0).pend = some (p, []) ∧ (bankOf s 0 0).task.isSome = true ∧
    runs (.translation 0) s = true := by decide +kernel

theorem witness_xiss_enters : let a : Word := 0b00000001010101_000000000000000000_001000_00000000000000000000000000
    let s := siding a 0
    (queueOf s 0 0 prefSpec.queue).length < 16 ∧ ∃ m u u1,
      (prefSpec.check w0 { newCmd (.xPref 0x55) ((regs w0 s).rm.setWidth 3) (side w0 false s).pc 1 false (regs w0 s).route with
        id := s.nextId }).go { s with nextId := s.nextId + 1 } = (.ok m, u) ∧
      (raceRanges w0 (coreOf u 0).phase m.ranges).go u = (.ok (), u1) ∧ m.starter = false :=
  ⟨by decide +kernel, _, _, _, go_some (by decide +kernel), go_answers (by decide +kernel), by decide +kernel⟩

/-! ### A block that SY_SWLOAD takes -/

/-- Three heap pages are mapped and have been used; a block of context 0 lies at 0x3000, and the positions of die 0 are enabled. -/
def blockMem : State :=
  let bs := leBytes 4 0x4358424B ++ [1]
  let s := updCtx (richG 0 0x8000000000003000) 0 (fun k => { k with heapLimit := 0x600000 })
  let s := writeBytes (writeBytes s 0x3000 bs) 0x200000 (leBytes 4 0x7C001 ++ leBytes 4 0x7C001 ++ leBytes 4 0x7C001)
  updDie (updCore s 0 (fun c => { c with hatCache := [(0, 0, 0x7C001), (0, 1, 0x7C001), (0, 2, 0x7C001)] })) 0
    (fun d => { d with swarea := 0x8000000000000000 })
def blockState : State := ready blockMem
def blockCtx : Context := (ctxOf blockState 0).get (by decide +kernel)

theorem near_row {va : Nat} (h : va < 0x600000) : rowOf va = some (.near 0) := by
  unfold rowOf
  rw [if_pos (by omega), Nat.div_eq_of_lt (by omega)]

/-- A read of the mapped heap answers its own address and keeps the state. -/
theorem block_leaf {va : Nat} (h : va < 0x600000) :
    (reachLeaf w0 blockCtx va 0 .rd).go blockState = (.ok ⟨va, 0, 0, 0, true, true, true, true, true, true⟩, blockState) := by
  have row := near_row h
  have used : ∀ n < 3, (heapEntryUsed (some 0) 0 blockCtx n).go blockState = (.ok 0x7C001, blockState) := by
    intro n hn
    have kept : after (heapEntryUsed (some 0) 0 blockCtx n) blockState = blockState := by interval_cases n <;> decide +kernel
    have e : answers (heapEntryUsed (some 0) 0 blockCtx n) blockState = some 0x7C001 := by interval_cases n <;> decide +kernel
    have g := go_answers e
    rwa [kept] at g
  have leaf : heapLeaf blockState blockCtx 0x7C001 va = .leaf ⟨va, 0, 0, 0, true, true, true, true, true, true⟩ := by
    have off : blockCtx.heapOff.toNat = 0 := by decide +kernel
    have small : va % 18446744073709551616 = va := Nat.mod_eq_of_lt (by omega)
    simp [heapLeaf, finishLeaf, reachable, holdUpOk, tierOf, nearDie, Row.isNear, row, off, small]
  have heap : inHeap blockCtx va = true := by
    have b : blockCtx.heapBase.toNat = 0 := by decide +kernel
    have l : blockCtx.heapLimit.toNat = 0x600000 := by decide +kernel
    have z : blockCtx.heapLimit ≠ 0#64 := by decide +kernel
    simp [inHeap, b, l, z, h]
  have base : blockCtx.heapBase.toNat = 0 := by decide +kernel
  have t : (Machine.translate (some 0) 0 (some 0) 0 blockCtx va .rd).go blockState =
      (.ok (.leaf ⟨va, 0, 0, 0, true, true, true, true, true, true⟩), blockState) := by
    have plain : isNva va = false := by unfold isNva nva; rw [decide_eq_false (by omega), Bool.false_and]
    unfold Machine.translate
    rw [if_neg (by simp [plain]), if_pos heap, base, Nat.sub_zero, go_bind_ok (used _ (by omega)), go_bind_ok (go_state _), leaf]
    rfl
  unfold reachLeaf
  exact (go_bind_ok t _).trans rfl

/-- What a read of the mapped heap answers. -/
def blockBytes (n : Nat) : List Byte := (pieces 0x3000 n).flatMap (fun p => readBytes blockState p.va p.len)

theorem pieces_within (fuel off va n : Nat) : ∀ p ∈ piecesFrom fuel off va n, p.va ≤ va + n := by
  induction fuel generalizing off va n with
  | zero => intro p hp; cases hp
  | succ fuel ih =>
    intro p hp
    unfold piecesFrom at hp
    split at hp
    · cases hp
    · rcases List.mem_cons.mp hp with rfl | hp
      · exact Nat.le_add_right _ _
      · have b := ih _ _ _ p hp
        have m : n.min (32 - va % 32) ≤ n := Nat.min_le_left _ _
        generalize n.min (32 - va % 32) = d at b m
        omega

theorem block_loop (l : List Piece) (r : List Byte) (h : ∀ p ∈ l, p.va < 0x600000) :
    (forIn l r (fun p r => do
      let l ← reachLeaf w0 blockCtx p.va 0 .rd
      require (l.allows .rd) .protection (BitVec.ofNat 64 p.va)
      waitUntil (portClear (← state) w0.core (← state).nextId l.pa p.len)
      pure (ForInStep.yield (r ++ readBytes (← state) l.pa p.len))) : Act (List Byte)).go blockState =
      (.ok (r ++ l.flatMap (fun p => readBytes blockState p.va p.len)), blockState) := by
  induction l generalizing r with
  | nil => simp
  | cons p l ih =>
    rw [List.forIn_cons]
    have port : portClear blockState w0.core blockState.nextId p.va p.len = true := by
      have : ∀ b < bankCount, (bankOf blockState w0.core b).inflight = [] := by decide +kernel
      simp only [portClear, List.all_eq_true, List.mem_range]
      intro b hb
      rw [this b hb]
      exact fun _ h => nomatch h
    have body : (do
        let l ← reachLeaf w0 blockCtx p.va 0 .rd
        require (l.allows .rd) .protection (BitVec.ofNat 64 p.va)
        waitUntil (portClear (← state) w0.core (← state).nextId l.pa p.len)
        pure (ForInStep.yield (r ++ readBytes (← state) l.pa p.len)) : Act (ForInStep (List Byte))).go blockState =
        (.ok (.yield (r ++ readBytes blockState p.va p.len)), blockState) := by
      rw [go_bind_ok (block_leaf (h p List.mem_cons_self))]
      simp [go_bind, go_map, Leaf.allows, port]
    rw [go_bind_ok body]
    simpa using ih (r ++ readBytes blockState p.va p.len) (fun q hq => h q (List.mem_cons_of_mem _ hq))

theorem block_read (n : Nat) (h : n ≤ imageLen) : (reachBytes w0 0x3000 n 0 .rd).go blockState = (.ok (blockBytes n), blockState) := by
  have found : ctxOf blockState w0.ctx = some blockCtx := by decide +kernel
  have within : ∀ p ∈ pieces 0x3000 n, p.va < 0x600000 := fun p hp => by
    have := pieces_within _ _ _ _ p hp
    unfold imageLen at h
    omega
  have idle : (bankOf blockState w0.core w0.bank).inflight = [] ∧ (bankOf blockState w0.core w0.bank).tickets = [] := by decide +kernel
  unfold reachBytes
  have va : (checkVa 0x3000).go blockState = (.ok (), blockState) := rfl
  have free : (waitUntil true).go blockState = (.ok (), blockState) := rfl
  rw [go_bind_ok va, go_bind_ok (go_state _)]
  simp only [found]
  rw [go_bind_ok (go_state _)]
  simp only [idle.1, idle.2, List.any_nil, Bool.not_false, Bool.and_self]
  rw [go_bind_ok free]
  exact (go_bind_ok (block_loop _ [] within) _).trans rfl

theorem witness_block_write : Issues w0 gd blockMem ∧
    (commitRegion w0 false).go blockMem = (.ok (), after (commitRegion w0 false) blockMem) ∧
    (readSrc w0 5).go (after (commitRegion w0 false) blockMem) = (.ok ⟨0x8000000000003000, .clean⟩, blockState) :=
  ⟨⟨⟨rfl, rfl, rfl, rfl, rfl⟩, rfl⟩, go_answers (by decide +kernel), go_answers (by decide +kernel)⟩

/-- The block is read, fits and takes position 0. -/
theorem witness_block : BlockTaken w0 0x8000000000003000 blockState blockState 0 0 (blockBytes imageLen) := by
  refine ⟨⟨blockCtx, by decide +kernel, by decide +kernel⟩, by decide +kernel, block_read _ (Nat.le_refl _), by decide +kernel, by decide +kernel,
    ⟨blockCtx, ?_, ?_⟩, ?_, ⟨_, rfl⟩, ?_⟩
  · decide +kernel
  · decide +kernel
  · decide +kernel
  · decide +kernel

/-! ### What engine commands compute: for each kind of command a turn that meets its premises -/

/-- The first command of a queue of core 0, alone there, at a turn of its engine. -/
theorem engine_turn {s : State} {i : Instr} {e : Nat} {sp : CmdSpec} (spec : specOf i = some sp) (turn : s.actor = .engine 0 e 0)
    (queue : e = sp.queue) (h : whoRuns s 0 = some w0 ∧ (queueOf s 0 0 e)[0]? = some (engAt s e).cmd ∧ (engAt s e).cmd.instr = i ∧
      enginesRun s = true ∧ (bankOf s 0 0).frozen = false ∧ (engAt s e).cmd.raw = false ∧ (engAt s e).cmd.halted = false)
    (g : (engAt s e).cmd.started = true ∧ Machine.mayRun s 0 0 e 0 (engAt s e).cmd = true ∧ s.flaws = [] ∧ queueOf s 0 0 e = [(engAt s e).cmd]) :
    EngineTurn (engAt s e) i sp s where
  toAtEngine := at_engine spec turn queue h
  started := g.1
  mayRun := g.2.1
  sound := g.2.2.1
  alone := by
    intro m hm _
    have : m ∈ [(engAt s e).cmd] := g.2.2.2 ▸ hm
    simpa using this

/-- The premises of a vector command that maps elements. -/
structure MapsReady (i : Instr) (d : Region) (n : Nat) (srcs : List Region) (dest : List TileTag → TileTag) (legal : List TileTag → Bool)
    (s : State) : Prop where
  turn : ∃ sp, EngineTurn (engAt s 1) i sp s
  tags : legal (srcs.map (fun r => tagOf (engAt s 1) s (r.base / 2048))) = true
  apart : (engAt s 1).cmd.upc = 0 → ∀ x ∈ srcs.zip (srcs.map (fun r => tagOf (engAt s 1) s (r.base / 2048))),
    let size := sizeOf' (dest (srcs.map (fun r => tagOf (engAt s 1) s (r.base / 2048)))).1
    x.1.base % sizeOf' x.2.1 = 0 ∧ ((x.1 = d ∧ sizeOf' x.2.1 = size) ∨
      bytesMeet x.1.base (x.1.span (sizeOf' x.2.1) n) d.base (d.span size n) = false)
  there : let tags := srcs.map (fun r => tagOf (engAt s 1) s (r.base / 2048))
    let size := sizeOf' (dest tags).1
    ∀ k ∈ todoOf (engAt s 1) (256 / (tags.foldl (fun m t => Nat.max m (sizeOf' t.1)) size)) n,
      Owned (engAt s 1) s (d.at size k) size ∧
      ∀ x ∈ srcs.zip tags, Readable (engAt s 1) s x.2 (x.1.at (sizeOf' x.2.1) k) (sizeOf' x.2.1)

/-- FP32 in slots 0, 1 and 3 and INT32 in slot 2. -/
def floats : State := updCore engines 0 (fun c => { c with slots := [(0, ⟨true, 1, 0⟩), (1, ⟨true, 1, 0⟩), (2, ⟨true, 8, 0⟩), (3, ⟨true, 1, 0⟩)] })

/-- Two elements, A in slot 0, B in slot 1, D in slot 3. -/
def args2 : V3Args := ⟨2048, 0, 6144, 1, 1, 1, 2, 1, false⟩

def heldCmd (s : State) (i : Instr) (e : Nat) (f : Cmd → Cmd) : State :=
  { setQueue s 0 0 e [f { newCmd i 0 0 0 false 0 with id := 50, started := true }] with actor := .engine 0 e 0 }

theorem witness_vector_elements : ∀ i ∈ [Instr.vAdd args2, .vSub args2, .vMul args2, .vMin args2, .vMax args2],
    MapsReady i (regD args2) 2 [regA args2, regB args2] (fun _ => (1, 0)) (numericTags args2) (heldCmd floats i 1 id) := by
  intro i h
  simp only [List.mem_cons, List.not_mem_nil, or_false] at h
  rcases h with rfl | rfl | rfl | rfl | rfl <;>
    exact ⟨⟨_, engine_turn rfl rfl rfl (by decide +kernel) (by decide +kernel)⟩, by decide +kernel, by decide +kernel,
      by unfold Readable Owned; decide +kernel⟩

theorem witness_vector_one : ∀ i ∈ [Instr.vAbs args2, .vNeg args2, .vCvt args2, .vExp2 args2, .vExp args2, .vLog2 args2, .vRcp args2, .vRsqrt args2,
    .vSqrt args2, .vTanh args2],
    MapsReady i (regD args2) 2 [regA args2] (fun _ => (1, 0)) (numericTags args2) (heldCmd floats i 1 id) := by
  intro i h
  simp only [List.mem_cons, List.not_mem_nil, or_false] at h
  rcases h with rfl | rfl | rfl | rfl | rfl | rfl | rfl | rfl | rfl | rfl <;>
    exact ⟨⟨_, engine_turn rfl rfl rfl (by decide +kernel) (by decide +kernel)⟩, by decide +kernel, by decide +kernel,
      by unfold Readable Owned; decide +kernel⟩

theorem witness_vector_fma : MapsReady (.vFma args2) (regD args2) 2 [regA args2, regB args2, regD args2] (fun _ => (1, 0)) (numericTags args2)
    (heldCmd floats (.vFma args2) 1 id) :=
  ⟨⟨_, engine_turn rfl rfl rfl (by decide +kernel) (by decide +kernel)⟩, by decide +kernel, by decide +kernel,
    by unfold Readable Owned; decide +kernel⟩

/-- INT32 lanes of slots 0, 1 and 3. -/
def lanes2 : V3Args := { args2 with f := 0 }
def lanes : State := updCore engines 0 (fun c => { c with slots := [(0, ⟨true, 8, 0⟩), (1, ⟨true, 8, 0⟩), (2, ⟨true, 8, 0⟩), (3, ⟨true, 8, 0⟩)] })

theorem witness_vector_lanes : ∀ i ∈ [Instr.vAnd lanes2, .vOr lanes2, .vXor lanes2, .vShl lanes2, .vShr lanes2],
    MapsReady i (regD lanes2) 2 [regA lanes2, regB lanes2] (fun tags => tags.getD 0 (0, 0))
      (fun tags => tags.all (fun t => isBits t && sizeOf' t.1 == sizeOf' (tags.getD 0 (0, 0)).1)) (heldCmd lanes i 1 id) := by
  intro i h
  simp only [List.mem_cons, List.not_mem_nil, or_false] at h
  rcases h with rfl | rfl | rfl | rfl | rfl <;>
    exact ⟨⟨_, engine_turn rfl rfl rfl (by decide +kernel) (by decide +kernel)⟩, by decide +kernel, by decide +kernel,
      by unfold Readable Owned; decide +kernel⟩

theorem witness_vector_moves :
    MapsReady (.vCmp { args2 with f := 2 }) (regD args2) 2 [regA args2, regB args2] (fun tags => tags.getD 0 (0, 0))
      (fun tags => tags.all (fun t => isNumeric t || t == (0, 0))) (heldCmd floats (.vCmp { args2 with f := 2 }) 1 id) ∧
    MapsReady (.vSel lanes2) (regD args2) 2 [regA args2, regB args2, regD args2] (fun tags => tags.getD 0 (0, 0))
      (fun tags => tags.all (fun t => isMove t && t == tags.getD 0 (0, 0))) (heldCmd lanes (.vSel lanes2) 1 id) ∧
    MapsReady (.vMov lanes2) (regD args2) 2 [regA args2] (fun tags => if lanes2.f = 0 then tags.getD 0 (0, 0) else (lanes2.f, 0))
      (fun tags => tags.all isMove && (lanes2.f == 0 || (isMove (lanes2.f, 0) && sizeOf' lanes2.f == sizeOf' (tags.getD 0 (0, 0)).1)))
      (heldCmd lanes (.vMov lanes2) 1 id) ∧
    (∀ i ∈ [Instr.vIota ⟨6144, 7, 8, 2, 1, false⟩, .vFill ⟨6144, 7, 8, 2, 1, false⟩],
      MapsReady i ⟨6144, 1⟩ 2 [] (fun _ => (8, 0)) (fun _ => isNumeric (8, 0)) (heldCmd lanes i 1 id)) := by
  refine ⟨?_, ?_, ?_, ?_⟩
  case refine_4 =>
    intro i h
    simp only [List.mem_cons, List.not_mem_nil, or_false] at h
    rcases h with rfl | rfl <;>
      exact ⟨⟨_, engine_turn rfl rfl rfl (by decide +kernel) (by decide +kernel)⟩, by decide +kernel, by decide +kernel,
        by unfold Readable Owned; decide +kernel⟩
  all_goals exact ⟨⟨_, engine_turn rfl rfl rfl (by decide +kernel) (by decide +kernel)⟩, by decide +kernel, by decide +kernel,
        by unfold Readable Owned; decide +kernel⟩

/-! ### Reductions, multiplies, tiles and epilogues -/

def seg2 : V3Args := { args2 with b := 2 }

theorem witness_reductions : ∀ i ∈ [(Instr.vRsum { lanes2 with b := 2, f := 8 }, (8 : BitVec 6)), (.vRmax seg2, 1), (.vRmin seg2, 1), (.vArgmax seg2, 8)],
    let s := heldCmd (if i.2 = 8 ∧ i.1 ≠ .vArgmax seg2 then lanes else floats) i.1 1 id
    (∃ sp, EngineTurn (engAt s 1) i.1 sp s) ∧ isNumeric (tagOf (engAt s 1) s 0) = true ∧
      (bytesMeet 0 ((regA args2).span 4 2) 6144 ((regD args2).span 4 1) = false) ∧
      (∀ o ∈ [0, 4], Readable (engAt s 1) s (tagOf (engAt s 1) s 0) o 4) ∧ Owned (engAt s 1) s 6144 4 := by
  intro i h
  simp only [List.mem_cons, List.not_mem_nil, or_false] at h
  rcases h with rfl | rfl | rfl | rfl <;>
    exact ⟨⟨_, engine_turn rfl rfl rfl (by decide +kernel) (by decide +kernel)⟩, by decide +kernel, by decide +kernel,
      by unfold Readable Owned; decide +kernel, by unfold Owned; decide +kernel⟩

/-- Sixteen slots: FP8 in slots 0 to 3, `b` from slot 4 on, FP32 from slot 8 on; two rings of two tiles with one tile each. -/
def tiles (b : Slot) (r : Word) : State :=
  updCore (updBank engines 0 0 (fun k => { k with part := ⟨0, 16, 0, 2⟩, rings := [(0, 0x8100040000010000), (1, r)] })) 0 (fun c => { c with
    slots := (List.range 16).map (fun i => (i, if i < 4 then ⟨true, 4, 0⟩ else if i < 8 then b else ⟨true, 1, 0⟩)) })

def mm : MmArgs := ⟨8, 2, 1, 1, 1, 0, 1⟩
def fp8Tiles : State := tiles ⟨true, 4, 0⟩ 0x8101040000010000
def vqTiles : State := tiles ⟨true, 10, 1⟩ 0x8101020000010000

theorem witness_multiplies : (∃ sp, MmaTurn false mm (engAt (heldCmd fp8Tiles (.mMma mm) 0 id) 0) (.mMma mm) sp 0x8100040000010000 0x8101040000010000
      (4, 0) (4, 0) (heldCmd fp8Tiles (.mMma mm) 0 id)) ∧
    (∃ sp, MmaTurn false mm (engAt (heldCmd fp8Tiles (.mMmaz mm) 0 id) 0) (.mMmaz mm) sp 0x8100040000010000 0x8101040000010000
      (4, 0) (4, 0) (heldCmd fp8Tiles (.mMmaz mm) 0 id)) ∧
    (∃ sp, MmaTurn true mm (engAt (heldCmd vqTiles (.mMmv mm) 0 id) 0) (.mMmv mm) sp 0x8100040000010000 0x8101020000010000
      (4, 0) (10, 1) (heldCmd vqTiles (.mMmv mm) 0 id)) ∧
    (∃ sp, MmaTurn true mm (engAt (heldCmd vqTiles (.mMmvz mm) 0 id) 0) (.mMmvz mm) sp 0x8100040000010000 0x8101020000010000
      (4, 0) (10, 1) (heldCmd vqTiles (.mMmvz mm) 0 id)) := by
  refine ⟨?_, ?_, ?_, ?_⟩ <;>
    exact ⟨_, engine_turn rfl rfl rfl (by decide +kernel) (by decide +kernel), by decide +kernel, by decide +kernel, by decide +kernel,
      by decide +kernel, by decide +kernel, by decide +kernel, by decide +kernel, by decide +kernel, by decide +kernel,
      by unfold Owned; decide +kernel⟩

def moved (i : Instr) : State := heldCmd fp8Tiles i 0 (fun m => { m with block := [2] ++ List.replicate 2047 0 })

def pm : PmArgs := ⟨24576, 16384, 0, 0⟩

theorem witness_tile_moves : (∃ sp, EngineTurn (engAt (moved (.mAcopy 0 0 1)) 0) (.mAcopy 0 0 1) sp (moved (.mAcopy 0 0 1))) ∧
    ((∃ sp, EngineTurn (engAt (moved (.mAload 16384 1 0)) 0) (.mAload 16384 1 0) sp (moved (.mAload 16384 1 0))) ∧
      ∀ i ∈ [0, 1], Readable (engAt (moved (.mAload 16384 1 0)) 0) (moved (.mAload 16384 1 0)) (1, 0) (16384 + 512 * i) 512) ∧
    ((∃ sp, EngineTurn (engAt (moved (.mAstore 16384 1 0)) 0) (.mAstore 16384 1 0) sp (moved (.mAstore 16384 1 0))) ∧
      ∀ i ∈ [0, 1], Owned (engAt (moved (.mAstore 16384 1 0)) 0) (moved (.mAstore 16384 1 0)) (16384 + 512 * i) 512) ∧
    ((∃ sp, EngineTurn (engAt (moved (.mPerm pm)) 0) (.mPerm pm) sp (moved (.mPerm pm))) ∧
      tagOf (engAt (moved (.mPerm pm)) 0) (moved (.mPerm pm)) 8 = (1, 0) ∧ todoOf (engAt (moved (.mPerm pm)) 0) 8 1 = [0] ∧
      Readable (engAt (moved (.mPerm pm)) 0) (moved (.mPerm pm)) (1, 0) 16384 512 ∧
      Owned (engAt (moved (.mPerm pm)) 0) (moved (.mPerm pm)) 24576 512) := by
  refine ⟨⟨_, engine_turn rfl rfl rfl (by decide +kernel) (by decide +kernel)⟩, ⟨⟨_, engine_turn rfl rfl rfl (by decide +kernel) (by decide +kernel)⟩, ?_⟩,
    ⟨⟨_, engine_turn rfl rfl rfl (by decide +kernel) (by decide +kernel)⟩, ?_⟩, ⟨⟨_, engine_turn rfl rfl rfl (by decide +kernel) (by decide +kernel)⟩, ?_⟩⟩ <;>
    first | (unfold Readable Owned; decide +kernel) | (unfold Owned; decide +kernel)

def ep : EpArgs := ⟨18432, 16384, 24576, 0, 1, false, 0, true, true, 0⟩

theorem witness_epilogues : (let s := moved (.mEpi ep);
      (∃ sp, EngineTurn (engAt s 0) (.mEpi ep) sp s) ∧ EpiReads ep (engAt s 0) s ∧
      ∀ o ∈ ((todoOf (engAt s 0) 8 1).flatMap (fun i => epOut (engAt s 0) ep 24576 i [])).map (fun o => (24576 + o.1, o.2)),
        Owned (engAt s 0) s o.1 o.2.length) ∧
    (let s := moved (.mEpiSend ep);
      (∃ sp, EngineTurn (engAt s 0) (.mEpiSend ep) sp s) ∧ EpiReads ep (engAt s 0) s ∧ (engAt s 0).cmd.phase < 1) ∧
    (let s := heldCmd fp8Tiles (.mEpiSend ep) 0 (fun m => { m with phase := 1, buf := List.replicate 512 0 });
      (∃ sp, EngineTurn (engAt s 0) (.mEpiSend ep) sp s) ∧ EpiReads ep (engAt s 0) s ∧ 1 ≤ (engAt s 0).cmd.phase ∧
      ((engAt s 0).cmd.route.extractLsb' 50 6).toNat = s.gang.gidx.toNat ∧ (dieOf s 0).held.length < 32) := by
  refine ⟨⟨⟨_, engine_turn rfl rfl rfl (by decide +kernel) (by decide +kernel)⟩, ?_, ?_⟩,
    ⟨⟨_, engine_turn rfl rfl rfl (by decide +kernel) (by decide +kernel)⟩, ?_, by decide +kernel⟩,
    ⟨⟨_, engine_turn rfl rfl rfl (by decide +kernel) (by decide +kernel)⟩, ?_, by decide +kernel, by decide +kernel, by decide +kernel⟩⟩ <;>
    first | (unfold EpiReads Readable Owned; decide +kernel) | (unfold Owned; decide +kernel)

/-- A ring descriptor of one tile of two slots, enabled, in S at 16,384. -/
def bound : State := updCore (moved (.mBind 16384 2)) 0 (fun c => { c with sBytes := [(16389, 4), (16390, 128), (16391, 128)] })

theorem witness_bind : (∃ sp, EngineTurn (engAt bound 0) (.mBind 16384 2) sp bound) ∧ queueOf bound 0 0 2 = [] ∧
    Owned (engAt bound 0) bound 16384 8 ∧ ringEn (leWord (readS bound 0 (engAt bound 0).part 16384 8)) = true ∧
    bindTrap bound 0 (engAt bound 0).part (leWord (readS bound 0 (engAt bound 0).part 16384 8)) = none := by
  refine ⟨⟨_, engine_turn rfl rfl rfl (by decide +kernel) (by decide +kernel)⟩, by decide +kernel, ?_, by decide +kernel, by decide +kernel⟩
  unfold Owned; decide +kernel

/-! ### Copies -/

/-- A window of four FP32 elements in the sector at 0x2000, rank 1, and the page that holds it. -/
def objNum : Nat := 0x2000 + 2 ^ 64 + 2 ^ 72 + 31 * 2 ^ 75 + 4 * 2 ^ 128 + 4 * 2 ^ 320 + 4 * 2 ^ 560
def copyPage (w : Bool) : PageMap := ⟨0, 0, 1, 0, 0, w, false, false, false, 0x2000⟩
def xo : XoArgs := ⟨0, 0, 0, 0, false, 0, false, 5, 0, 0⟩

/-- A copy of that window at its turn, in the queue of core 0 alone; its parameter block and its place in the command set. -/
def copies (i : Instr) (w : Bool) (block : List Byte) (f : Cmd → Cmd) : State :=
  heldCmd floats i 2 (fun m => f { m with
    obj := (List.range 12).map (fun k => BitVec.ofNat 64 (objNum / 2 ^ (64 * k))), pages := [copyPage w], tok := 5, block := block })

def zeros : List Byte := List.replicate 128 0

theorem copy_turn {s : State} {i : Instr} {sp : CmdSpec} (spec : specOf i = some sp) (turn : s.actor = .engine 0 2 0)
    (queue : 2 = sp.queue) (h : whoRuns s 0 = some w0 ∧ (queueOf s 0 0 2)[0]? = some (engAt s 2).cmd ∧ (engAt s 2).cmd.instr = i ∧
      enginesRun s = true ∧ (bankOf s 0 0).frozen = false ∧ (engAt s 2).cmd.raw = false ∧ (engAt s 2).cmd.halted = false)
    (g : ((engAt s 2).cmd.started = true ∧ Machine.mayRun s 0 0 2 0 (engAt s 2).cmd = true ∧ s.flaws = [] ∧ queueOf s 0 0 2 = [(engAt s 2).cmd]) ∧
      copyParked (bankOf s 0 0) (engAt s 2).cmd.id = false) : CopyTurn (engAt s 2) i sp s :=
  ⟨engine_turn spec turn queue h g.1, g.2⟩

theorem sector_free {e : Eng} {p : PageMap} {t : Nat} {w : Bool} {s : State} (h : p.remote = false ∧
    behindBarrier (e.cmd.cls.getD 0) e.cmd.id (bankOf s e.w.core e.w.bank).inflight = false ∧
    portClear s e.w.core e.cmd.id (p.pa + 32 * t % 0x10000) 32 = true ∧ writeStalls s (p.pa + 32 * t % 0x10000) 32 = false) :
    SectorFree e p t w s := ⟨h.1, fun _ => h.2.1, h.2.2.1, fun _ => h.2.2.2⟩

/-- Blocks of x.kvg (tile base 0, one image), x.scat (list at 2,048, one row) and x.mcpy (64 bytes from 0x2040 to 0x2000). -/
def kvgBlock : List Byte := List.replicate 0x18 0 ++ [1] ++ List.replicate 103 0
def scatBlock : List Byte := List.replicate 16 0 ++ [0, 8, 0, 0, 1] ++ List.replicate 107 0
def mcpyBlock : List Byte := [0, 0x20, 0, 0, 0, 0, 0, 0, 0x40, 0x20, 0, 0, 0, 0, 0, 0, 64] ++ List.replicate 111 0
/-- The same with an arrival flag at 0x2060. -/
def flagged (b : List Byte) : List Byte := b.take 0x18 ++ [0x60, 0x20, 0, 0, 0, 0, 0, 0] ++ b.drop 0x20

/-- Before a micro-step; with a sector to read, or to write; with none left; after the last. -/
def fresh0 : Cmd → Cmd := id
def reading (t : List Nat) : Cmd → Cmd := fun m => { m with phase := 1, todo := t, buf := List.replicate 2048 1 }
def writing (t : List Nat) : Cmd → Cmd := fun m => { m with phase := 2, todo := t, buf := List.replicate 2048 1 }
def stepsDone (n : Nat) : Cmd → Cmd := fun m => { m with upc := n }

theorem witness_copy_steps : ∀ i ∈ [Instr.xLd xo, .xFeed xo, .xSt xo, .xFill xo, .xMcpy xo, .xScat xo, .xKvg xo],
    let b := if i = .xMcpy xo then mcpyBlock else if i = .xScat xo then scatBlock else if i = .xKvg xo then kvgBlock else zeros
    ∀ f ∈ [fresh0, reading [0x100], reading [], writing [0x100], writing [], stepsDone 1], ∃ sp, CopyTurn (engAt (copies i true b f) 2) i sp (copies i true b f) := by
  intro i h
  simp only [List.mem_cons, List.not_mem_nil, or_false] at h
  rcases h with rfl | rfl | rfl | rfl | rfl | rfl | rfl <;>
    (intro b f hf
     simp only [List.mem_cons, List.not_mem_nil, or_false] at hf
     rcases hf with rfl | rfl | rfl | rfl | rfl | rfl <;>
       exact ⟨_, copy_turn rfl rfl rfl (by decide +kernel) (by decide +kernel)⟩)

theorem witness_copy_windows : (let e := engAt (copies (.xLd xo) true zeros id) 2;
      ((window e).steps = 1 ∧ sectorsOf (windowCells e) = [0x100] ∧ (gathered e).steps = 0)) ∧
    (gathered (engAt (copies (.xKvg xo) true kvgBlock id) 2)).steps = 1 ∧
    (scattered (engAt (copies (.xScat xo) true scatBlock id) 2)).steps = 1 ∧
    (let e := engAt (copies (.xMcpy xo) true mcpyBlock id) 2;
      (mcpyLen e = 64 ∧ sectorsOf (mcpyTarget e) = [0x100, 0x101] ∧ sectorsOf (mcpySource e) = [0x102, 0x103])) ∧
    (let s := copies (.xFeed xo) true zeros id;
      (feedFits (ringOf (setRing s 0 0 0 0x8100040000000000) 0 0 0) (engAt s 2).cmd = true ∧ feedsAhead s 0 0 0 0 = 0)) := by
  decide +kernel

theorem witness_copy_sectors : ∀ i ∈ [Instr.xLd xo, .xSt xo, .xMcpy xo], ∀ w : Bool,
    let s := copies i w (if i = .xMcpy xo then mcpyBlock else zeros) (reading [0x100])
    ∃ p, sectorPage (engAt s 2).cmd 0x100 w = some p ∧
      (sectorBytes (engAt s 2) s p 0x100).isSome = true ∧ SectorFree (engAt s 2) p 0x100 w s := by
  intro i h w
  simp only [List.mem_cons, List.not_mem_nil, or_false] at h
  refine ⟨copyPage w, ?_⟩
  rcases h with rfl | rfl | rfl <;> cases w <;>
    exact ⟨by decide +kernel, by decide +kernel, sector_free (by decide +kernel)⟩

/-- A sector on a page of another die: its owner has answered. -/
theorem witness_copy_remote : let s := copies (.xLd xo) false zeros (fun m => { reading [0x100] m with
      pages := [{ copyPage false with remote := true }], got := [(0x100, List.replicate 32 7)] })
    ∃ p, sectorPage (engAt s 2).cmd 0x100 false = some p ∧ p.remote = true ∧ (sectorBytes (engAt s 2) s p 0x100).isSome = true :=
  ⟨{ copyPage false with remote := true }, by decide +kernel, rfl, by decide +kernel⟩

theorem witness_copy_lands : ∀ i ∈ [Instr.xLd xo, .xFeed xo],
    let e := engAt (copies i false zeros (reading [])) 2
    ∀ o ∈ landed e (window e) 0 (cellsOf (window e) (windowOrg e) 0), Owned e (copies i false zeros (reading [])) o.1 o.2.length := by
  intro i h
  simp only [List.mem_cons, List.not_mem_nil, or_false] at h
  rcases h with rfl | rfl <;> (unfold Owned; decide +kernel)

theorem witness_kvg_lands : let e := engAt (copies (.xKvg xo) false kvgBlock (reading [])) 2
    ∀ o ∈ landed e (gathered e) 0 (cellsOf (gathered e) (gatheredOrg e) 0), Owned e (copies (.xKvg xo) false kvgBlock (reading [])) o.1 o.2.length := by
  unfold Owned; decide +kernel

theorem witness_copy_sources : (let s := copies (.xSt xo) true zeros id;
      (SourceTags (engAt s 2) s (window (engAt s 2)) 0 ∧ (window (engAt s 2)).fmt ≠ 9 ∧
        ∀ c ∈ windowCells (engAt s 2), c.va.isSome = true → Owned (engAt s 2) s (cellPlace (window (engAt s 2)) 0 0 c) c.len)) ∧
    (let s := copies (.xScat xo) true scatBlock id;
      (ListReads (engAt s 2) s ∧ SourceTags (engAt s 2) s (scattered (engAt s 2)) 0 ∧ scatAligned s (engAt s 2) (scattered (engAt s 2)) = true)) := by
  unfold ListReads SourceTags Owned; decide +kernel

/-- The flag's sector can be written. -/
theorem witness_copy_flags : let s := copies (.xSt xo) true (flagged zeros) (stepsDone 1)
    leNat (((engAt s 2).cmd.block.drop 0x18).take 8) = 0x2060 ∧ (window (engAt s 2)).steps ≤ (engAt s 2).cmd.upc ∧
    ∃ p, sectorPage (engAt s 2).cmd (0x2060 / 32) true = some p ∧ SectorFree (engAt s 2) p (0x2060 / 32) true s :=
  ⟨by decide +kernel, by decide +kernel, copyPage true, by decide +kernel, sector_free (by decide +kernel)⟩

/-- x.rsw: 64 bytes to core 1 of this die, at 2,048. -/
def rswBlock : List Byte := [64, 0, 0, 0, 0, 8, 0, 0, 1] ++ List.replicate 119 0

theorem witness_image_sent : ∀ f ∈ [fresh0, fun m => { m with upc := 1, buf := List.replicate 64 1 }, fun m => { m with upc := 1, phase := 3 }],
    let s := copies (.xRsw xo) false rswBlock f
    (∃ sp, CopyTurn (engAt s 2) (.xRsw xo) sp s) ∧ leNat (((engAt s 2).cmd.block.drop 9).take 1) = s.gang.gidx.toNat ∧
      Owned (engAt s 2) s 0 64 ∧ fmtOk (tagOf (engAt s 2) s 0).1 (tagOf (engAt s 2) s 0).2 = true := by
  intro f hf
  simp only [List.mem_cons, List.not_mem_nil, or_false] at hf
  rcases hf with rfl | rfl | rfl <;>
    exact ⟨⟨_, copy_turn rfl rfl rfl (by decide +kernel) (by decide +kernel)⟩, by decide +kernel, by unfold Owned; decide +kernel, by decide +kernel⟩

/-! ### Widened statements: transfers, registers, monitors, collectives, images, side cores, operands, pieces, steals -/

/-- The lane operations, whose F is 0. -/
def lanes1 : V3Args := { addArgs with f := 0 }

theorem witness_int32_lanes (i : Instr) (h : i ∈ [Instr.vAnd lanes1, .vOr lanes1, .vXor lanes1]) :
    (∃ sp, AtEngine (engAt (turnOf i 1) 1) i sp (turnOf i 1)) ∧ OneInt32 0 (engAt (turnOf i 1) 1) lanes1 (turnOf i 1) := by
  simp only [List.mem_cons, List.not_mem_nil, or_false] at h
  rcases h with rfl | rfl | rfl <;>
    exact ⟨⟨_, at_engine rfl rfl rfl (by decide +kernel)⟩, by decide +kernel, rfl, rfl, rfl, by decide +kernel, by decide +kernel, by decide +kernel,
      by decide +kernel, by decide, by decide, by decide, by decide +kernel, by decide +kernel, by decide +kernel, by decide +kernel, by decide +kernel,
      by decide +kernel⟩

/-- A transfer, and a loop that goes on, to the line at 0x1040, which carries no TGT. -/
theorem witness_needs_tgt : ((regs w0 (lines 0)).pc &&& ~~~31) + 32 * (2 : BitVec 18).signExtend 64 = 0x1040 ∧ (0x1040 : Word) &&& 31 = 0 ∧
    (∃ line u, (fetchLine w0 0x1040).go (lines 0) = (.ok line, u) ∧ lineTgt line = false) ∧
    ((regs w0 (lines 2)).pc &&& ~~~31) + 32 * (2 : BitVec 12).signExtend 64 = 0x1040 ∧
    (∃ line u, (fetchLine w0 0x1040).go (lines 2) = (.ok line, u) ∧ lineTgt line = false) :=
  ⟨by decide, by decide, ⟨_, _, rfl, by decide +kernel⟩, by decide, ⟨_, _, rfl, by decide +kernel⟩⟩

/-- Values that SY_EVEC and SY_ESTAT refuse. -/
theorem witness_reserved_values : (0x1024 : Word).toNat % 32 ≠ 0 ∧ (0x1000000 : Word).extractLsb' 24 40 ≠ 0 ∧ (0x4 : Word).extractLsb' 2 6 ≠ 0 := by decide

theorem witness_privilege : (commitRegion w0 false).go base = (.ok (), after (commitRegion w0 false) base) ∧
    (readSrc w0 5).go (after (commitRegion w0 false) base) = (.ok ⟨0, .clean⟩, ready base) ∧ ¬ KeeperContext w0 (ready base) :=
  ⟨go_answers (by decide +kernel), go_answers (by decide +kernel), by
    rintro ⟨k, hk, h⟩
    have e : ctxOf (ready base) 0 = ctxOf base 0 := by decide +kernel
    rw [show (w0.ctx) = 0 from rfl, e] at hk
    cases hk; exact absurd h (by decide)⟩

/-- Units 0 and 1 of die 0 capture source 0 and source 3 of core 0. -/
def capturing (s : State) : State :=
  setMon (setMon s 0 { Monitor.reset with cfg := 0x8000000000000000 }) 1 { Monitor.reset with cfg := 0x8003000000000000 }

theorem witness_captures : CapturesCore (capturing base) 0 0 0 ∧ CapturesCore (capturing base) 1 3 0 ∧ ¬ CapturesCore (capturing base) 1 0 0 ∧
    (findToken (capturing (withBank (fun k => { k with tokens := [⟨1, 5, 0, 77⟩] }))) 0 0).isSome = true ∧
    (let s := capturing (siding 3 2)
     (sx w0 false s 2).toNat ≤ ringOcc (ringOf s 0 0 3) ∧
     (unitOf (nextOf (.rwaitPop 5 1 2) s) 1).count = 1 ∧ (unitOf (nextOf (.rwaitPop 5 1 2) s) 0).count = 0) := by
  refine ⟨⟨by decide, by decide, by decide +kernel, by decide +kernel, by decide +kernel⟩,
    ⟨by decide, by decide, by decide +kernel, by decide +kernel, by decide +kernel⟩, fun h => absurd h.2.2.2.1 (by decide +kernel), by decide +kernel,
    by decide +kernel⟩

/-- A collective with a completion record at 0x2200, done or failed. -/
theorem witness_records : ∀ code ∈ [none, some Trap.collectiveMismatch],
    let g := { prog (.stepWait sArgs) with done := true, cur := none, crec := 0x2200, code := code }
    let s := { engines with programs := [(0, g)] }
    (∃ u, RecordWritten g s u) ∧ readBytes (nextOf (.collectiveComplete 0) s) 0x2204 1 = [if code.isSome then 2 else 0] := by
  intro code h
  simp only [List.mem_cons, List.not_mem_nil, or_false] at h
  rcases h with rfl | rfl <;> exact ⟨⟨_, .inr ⟨by decide, go_answers (by decide +kernel)⟩⟩, by decide +kernel⟩

/-- The rack core's fetch fails where the peel core does not run, or its own fetch does not fail. -/
theorem witness_rack_fetch : ∀ run : Bool,
    let s := updSide (updSide base 0 0 true (fun k => { k with run := true, pc := 0x20000 })) 0 0 false (fun k => { k with run := run, pc := 0x100 })
    sideRuns s w0 true = true ∧ (∃ t, fetchSide s w0 true = .error t) ∧ (sideRuns s w0 false = false ∨ ∃ i, fetchSide s w0 false = .ok i) ∧
    (bank w0 (nextOf (.sideCoreException 0) s)).rack.halt = true := by
  intro run
  cases run
  · exact ⟨by decide +kernel, ⟨_, rfl⟩, .inl (by decide +kernel), by decide +kernel⟩
  · exact ⟨by decide +kernel, ⟨_, rfl⟩, .inr ⟨_, rfl⟩, by decide +kernel⟩

/-- Images of an x.rsw, of FP32 sums, without a counter. -/
theorem witness_image_kinds : ∀ a ∈ [img 4096 true, { img 4096 false with add := true, bytes := [0, 0, 0x80, 0x3F] }, { img 4096 false with cen := false }],
    let s := { engines with net := { engines.net with arrivals := [a] } }
    findArrival s a.rsw 0 = some (a, 0) ∧ landingOf s a = .land 0 ∧ (bankOf s a.core 0).task = some 1 ∧
      (taskOf s 1).map (fun q => q.launch) = some none ∧ a.tags.length = (slotsOf a.off a.bytes.length).length ∧
      (coreOf s a.fromCore).streamed = [] ∧ (nextOf (if a.rsw then .rswArrival 0 else .epiSendArrival 0) s).net.arrivals = [] := by
  decide +kernel

theorem witness_side_map : let s := siding 0x100000 4
    SideInS w0 0x100000 4 s ∧ (raceCheck w0 0x102 0 0 4 true).go s = (.ok (), s) ∧
    SideFaults w0 0x10002 4 true .alignment s ∧ SideFaults w0 0x100 4 true .protection s ∧ SideFaults w0 0x8000 4 false .protection s ∧
    SideFaults w0 0xFFFC 4 false .protection s ∧ SideFaults w0 0x14000 4 false .protection s ∧
    SideFaults w0 (0x100000 + 2048 * 4) 4 false .protection s ∧
    SideFaults w0 0x100000 4 false .ownerViolation (updCore s 0 (fun c => { c with slots := [] })) :=
  ⟨⟨by decide, by decide +kernel, by decide +kernel⟩, go_same (by decide +kernel) rfl, .inl (by decide), .inr (.inl (by decide +kernel)),
    .inr (.inl (by decide +kernel)), .inr (.inl (by decide +kernel)), .inr (.inl (by decide +kernel)), .inr (.inl (by decide +kernel)),
    .inr (.inr (by decide +kernel))⟩

/-- sw, csrrs of each CSR, ebreak and ecall, written out from the RISC-V encodings. -/
theorem witness_side_words : decodeRv 0b0000000_00010_00001_010_00000_0100011 = some (.store 4 1 2 0) ∧
    decodeRv 0b110000000000_00000_010_00101_1110011 = some (.csr 5 0xC00) ∧ decodeRv 0b110000000001_00000_010_00101_1110011 = some (.csr 5 0xC01) ∧
    decodeRv 0b110000000010_00000_010_00101_1110011 = some (.csr 5 0xC02) ∧ decodeRv 0b111100010100_00000_010_00101_1110011 = some (.csr 5 0xF14) ∧
    decodeRv 0b000000000001_00000_000_00000_1110011 = some .ebreak ∧ decodeRv 0b000000000000_00000_000_00000_1110011 = none ∧
    sByte (nextOf (.rv64imcInstruction 0b0000000_00010_00001_010_00000_0100011) (siding 0x100000 0x77)) 0 0 = 0x77 ∧
    (side w0 false (nextOf (.rv64imcInstruction 0b000000000001_00000_000_00000_1110011) (siding 0 0))).halt = true := by decide +kernel

/-- Operands that wait: a first destination, a source, a last destination; and a pop of an empty queue. -/
theorem witness_operands_wait : let s := withR (fun r => { r with gWait := [(5, 9)] })
    Issues w0 gd s ∧ DestWaits (regs w0 s) 5 ∧ ¬ DestWaits (regs w0 s) 4 ∧ Pending (regs w0 s) 5 ∧
    ((operands (.ldN gd 5 4 0 1)).map (fun o => o.first), (operands (.add gd 5 4 6)).map (fun o => o.last)) = (some (some 5), some (some 5)) ∧
    readAll (regs w0 s) [4, 6] = some (regs w0 s) ∧ sget [] (regs w0 s).q 0 = [] ∧
    (regs w0 (nextOf (.ldN gd 5 4 0 1) s)).pc = (regs w0 s).pc ∧ (regs w0 (nextOf (.add gd 5 4 6) s)).pc = (regs w0 s).pc ∧
    (regs w0 (nextOf (.trap gd 5) s)).pc = (regs w0 s).pc :=
  ⟨⟨⟨rfl, rfl, rfl, rfl, rfl⟩, rfl⟩, ⟨by decide, by decide⟩, fun h => absurd h.2 (by decide), .inl ⟨by decide, by decide⟩, by decide, by decide, by decide,
    by decide +kernel, by decide +kernel, by decide +kernel⟩

theorem witness_fold_operand : let s := updRegs (folded 1) 0 0 (fun r => { r with gWait := [(4, 9)] })
    Issues w0 gd s ∧ (ctxOf s 0).map (fun k => maskHas k.foldMask 5) = some true ∧ Pending (regs w0 s) 4 ∧
    (commitRegion w0 false).go s = (.ok (), after (commitRegion w0 false) s) ∧ accessesDone (bank w0 (after (commitRegion w0 false) s)) = true ∧
    Pending (regs w0 (after (commitRegion w0 false) s)) 4 :=
  ⟨⟨⟨rfl, rfl, rfl, rfl, rfl⟩, rfl⟩, by decide +kernel, .inl ⟨by decide, by decide +kernel⟩, go_answers (by decide +kernel), by decide +kernel,
    .inl ⟨by decide, by decide +kernel⟩⟩

theorem witness_moves : (Instr.mov gd 4 5).wellFormed = true ∧ (Instr.li gd 4 7).wellFormed = true ∧ (Instr.lih gd 4 7).wellFormed = true ∧
    (Instr.lea gd 4 5 6 2 8).wellFormed = true ∧ (5 : BitVec 6) ≠ 0 := by decide

/-- A load that crosses a sector: two pieces, and the first is not the whole. -/
theorem witness_two_pieces : let s := flying (.ldN gd 4 5 0 3) (two 0x201C 5)
    ∃ a l, MayPerform s 0 0 0 0 a ∧ a.kind = .load ∧ PieceOf s 0 0 a l ∧ a.fwd.length = a.len ∧ none ∈ come l a (List.replicate 4 7) ∧
      (bankOf (nextOf (.loadDataArrival 0 0) s) 0 0).inflight.length = 1 :=
  ⟨_, _, ⟨by decide +kernel, rfl, by decide +kernel, by decide +kernel, by decide +kernel⟩, by decide +kernel, ⟨rfl, by decide +kernel, by decide +kernel⟩,
    by decide +kernel, by decide +kernel, by decide +kernel⟩

/-- A sector compare-and-swap that may perform; 32 bytes of zeros are expected. -/
theorem witness_sector_swap : let s := flying (.casSec gd 5 4 0) (withS 0x2000 0)
    ∃ a l, MayPerform s 0 0 0 0 a ∧ a.kind = .casSec ∧ a.log = false ∧ a.len = 32 ∧ a.data.length = 64 ∧ PieceOf s 0 0 a l ∧ none ∉ come l a (List.replicate 32 7) :=
  ⟨_, _, ⟨by decide +kernel, rfl, by decide +kernel, by decide +kernel, by decide +kernel⟩, by decide +kernel, by decide +kernel, by decide +kernel,
    by decide +kernel, ⟨rfl, by decide +kernel, by decide +kernel⟩, by decide +kernel⟩

/-- A deterministic launch that logs its choices at 0x5000; or forces the two entries there. -/
def detLaunch (force : Nat) : Launch := { newLaunch 0 0 launchCtx launchHeader launchShape [] 0 with
  determ := true, logs := force == 0, olog := 0x5000, ologn := 4, forceAt := 0x5008, forceCount := force }

/-- Its task issues a logged atomic; the log gives its first turn to `core`. -/
def logged (force core : Nat) : State :=
  let s := flying (.atomAdd gd 4 5 6 true true 0) { two 0x2008 5 with launches := [(2, detLaunch force)], tasks := [(1, { placedTask with launch := some 2 })] }
  writeBytes s 0x5008 (leBytes 8 (logEntry 2 0 (0x2008 / 32) 0 core).toNat)

theorem witness_logged_atomic : ∃ a l u, MayPerform (logged 0 0) 0 0 0 0 a ∧ a.kind = .atomic ∧ a.len = 8 ∧ PieceOf (logged 0 0) 0 0 a l ∧
    HasTurn (logged 0 0) 0 0 a u :=
  ⟨_, _, _, ⟨by decide +kernel, rfl, by decide +kernel, by decide +kernel, by decide +kernel⟩, by decide +kernel, by decide +kernel,
    ⟨rfl, by decide +kernel, by decide +kernel⟩,
    .inr ⟨2, none, logged 0 0, by decide +kernel, ⟨1, _, _, by decide +kernel, rfl, by decide +kernel, rfl, by decide +kernel⟩,
      go_kept (by decide +kernel) (by decide +kernel), .inl rfl, go_some (by decide +kernel), by decide +kernel⟩⟩

theorem witness_forced_atomic : ∃ a u, MayPerform (logged 1 9) 0 0 0 0 a ∧ a.log = true ∧ Deterministic (logged 1 9) 0 0 2 ∧
    (forcedWinner 2 2 (targetDie a.target) (a.pa / 32 % 2 ^ 26)).go (logged 1 9) = (.ok (some 9), u) :=
  ⟨_, _, ⟨by decide +kernel, rfl, by decide +kernel, by decide +kernel, by decide +kernel⟩, by decide +kernel,
    ⟨1, _, _, by decide +kernel, rfl, by decide +kernel, rfl, by decide +kernel⟩, go_answers (by decide +kernel)⟩

/-- A steal of a task of a launch, plain and with a log that gives the cluster's turn to cluster `q`. -/
def stealingFor (force q : Nat) : State :=
  writeBytes { stealing with launches := [(2, detLaunch force)], tasks := [(1, placedTask), (7, { placedTask with place := .pool, cluster := 3, launch := some 2 })] }
    0x5008 (leBytes 8 (logEntry 1 0 3 0 q).toNat)

theorem witness_launch_steal : ∀ f ∈ [(0, 0), (1, 0), (1, 5)], let s := stealingFor f.1 f.2
    shepherdsRun s = true ∧ ((List.range 64).map (64 * 0 + ·)).filter (fun c => steals s c && victimOf s c == some 3) = [1] ∧
    (bestOf s 1 (stealable s 1 3)).map (fun e => (e.1, e.2.launch)) = some (7, some 2) ∧
    answers (forcedWinner 2 1 0 3) { s with fresh := s.fresh + 1 } = some (if f.1 = 0 then none else some f.2) ∧
    (∀ e ∈ s.tasks, e.2.die = 0 → e.2.place ≠ .overflow ∧ e.2.place ≠ .state1) := by
  intro f h
  simp only [List.mem_cons, List.not_mem_nil, or_false] at h
  rcases h with rfl | rfl | rfl <;>
    exact ⟨by decide +kernel, by decide +kernel, by decide +kernel, by decide +kernel, by decide +kernel⟩

theorem witness_launch_start : let s := stealingFor 0 0
    let a : State := { s with fresh := s.fresh + 1 }
    let g : State := { updDie a 0 (fun x => { x with stealLast := sset 0 x.stealLast 3 0 }) with fresh := a.fresh + 1 }
    let p := (partitionFor s 1 (heldBanks s 1) ((taskOf s 7).getD placedTask)).getD ⟨0, 0, 0, 0⟩
    let s1 := after (logChoice 2 1 0 3 0) g
    freeBanks a 1 ≠ [] ∧ (logChoice 2 1 0 3 0).go g = (.ok (), s1) ∧ freeBanks s1 1 ≠ [] ∧
      partitionFor s 1 (heldBanks s 1) ((taskOf s 7).getD placedTask) = some p ∧
      (answers (startTask 7 1 2 p) { s1 with fresh := s1.fresh + 1 }).isSome = true :=
  ⟨by decide +kernel, go_answers (by decide +kernel), by decide +kernel, by decide +kernel, by decide +kernel⟩

/-- A noticed key with no entry left: its close leaves (07 R188). -/
theorem witness_close_leaves : let s := updCore base 0 (fun c => { c with holds := [⟨0, 1, 2, 9, true, false⟩] })
    (holdsOf s 0 0).find? (fun h => h.owner == (1 : BitVec 2).toNat && h.cls == 2) = some ⟨0, 1, 2, 9, true, false⟩ ∧ keyEntries s 0 0 1 2 = [] ∧
    (nextOf (.ticketReplay 0 (96 + 64 * 0 + 4 * 2 + 1)) s).net.reqs.map (fun r => (r.kind, r.final, r.owner)) = [(7, true, 1)] := by
  decide +kernel

/-- Invalidations of each kind, of one die and of the package, at their end. -/
def invalidating (v : Word) : State := updDie base 0 (fun d => { d with xinv := some v })

theorem witness_invalidations (v : Word) (h : v = 0x8000000000000002 ∨ v = 0x8200000000000002 ∨ v = 0x8400000000000002 ∨ v = 0x8600000000000000 ∨
    v = 0x9000000000000002) : (dieOf (invalidating v) 0).xinv = some v ∧
    xinvBusy (invalidating v) (xinvOf v) (fun n => (xinvOf v).package || n == 0) = false ∧
    (dieOf (nextOf (.xinvComplete 0) (invalidating v)) 0).xinv = none := by
  rcases h with rfl | rfl | rfl | rfl | rfl <;> exact ⟨by decide +kernel, by decide +kernel, by decide +kernel⟩

theorem witness_tlb_covered : TlbCovered (xinvOf 0x8600000000000000) ⟨0, 2, 0x4007, 3⟩ := .inl (by decide +kernel)
end Sys2Proof.Tests
end

section
/-!
PROOF. Power states: writes of PM_CMD, what happens in OFF, the transitions and the hold-up sequence (01 R15 to R22; 04 R83 to R96).
-/

namespace Sys2Proof.Proofs

open Sys2Proof.Machine Sys2Proof.Claims

/-! ### An action after a test that passes or a change -/

section
variable {β : Type} {s : State} {ok : Bool} {why : String}

theorem go_state_then (f : State → Act β) : Act.go (state >>= f) s = (f s).go s := go_bind_ok (go_state s) f

theorem go_needs_then (h : ok = true) (f : Unit → Act β) : Act.go (needs ok why >>= f) s = (f ()).go s :=
  go_bind_ok (by simp [h]) f

theorem go_need_then {α : Type} {o : Option α} {a : α} (h : o = some a) (f : α → Act β) :
    Act.go (need o why >>= f) s = (f a).go s :=
  go_bind_ok (by simp [h]) f

theorem go_waitUntil_then (h : ok = true) (f : Unit → Act β) : Act.go (waitUntil ok >>= f) s = (f ()).go s :=
  go_bind_ok (by simp [h]) f

theorem go_change_then (g : State → State) (f : Unit → Act β) : Act.go (change g >>= f) s = (f ()).go (g s) :=
  go_bind_ok (go_change g s) f

end

/-! ### Writes of PM_CMD (01 R16, R18; 04 R96) -/

/-- A field of a word is what the slice of its bits stands for. -/
theorem fld_eq_toNat_extractLsb' (w : Word) (lo n : Nat) : fld w lo n = (w.extractLsb' lo n).toNat := by
  simp [fld, BitVec.extractLsb'_toNat, Nat.shiftRight_eq_div_pow]

/-- A field is 0 where its bits are. -/
theorem fld_eq_zero_iff (w : Word) (lo n : Nat) : fld w lo n = 0 ↔ w.extractLsb' lo n = 0 := by
  rw [fld_eq_toNat_extractLsb', BitVec.toNat_eq]
  rfl

/-- The state that a code names, in the model's table and in the statement's list. -/
theorem targetState_eq_getD (n : Nat) : targetState n = [PState.run, .idle, .hold, .off].getD n .off := by
  match n with
  | 0 | 1 | 2 | 3 => rfl
  | _ + 4 => rfl

theorem targetState_pmTarget (w : Word) : targetState (pmTarget w) = pmTgt w := by
  rw [targetState_eq_getD, pmTarget, fld_eq_toNat_extractLsb', pmTgt]

/-- Code 0 alone names RUN. -/
theorem targetState_eq_run_iff (n : Nat) : targetState n = .run ↔ n = 0 := by
  match n with
  | 0 => simp [targetState]
  | 1 | 2 => simp [targetState]
  | _ + 3 => simp [targetState]

theorem pmTgt_eq_run_iff (w : Word) : pmTgt w = .run ↔ w.extractLsb' 0 3 = 0 := by
  rw [← targetState_pmTarget, targetState_eq_run_iff, pmTarget, fld_eq_zero_iff]

/-- The transitions that start are those of 01 Table 4. -/
theorem allowed_iff_mayMove (a b : PState) : allowed a b = true ↔ MayMove a b := by
  cases a <;> cases b <;> simp [allowed, MayMove]

/-- The test that result 2 reports. -/
def pmFieldsBad (w : Word) : Bool :=
  fld w 32 32 != 0 || fld w 3 5 != 0 || 3 < pmTarget w || (targetState (pmTarget w) == .run && 17 < (pmClk w).toNat)

theorem pmFieldsBad_eq_false_iff (w : Word) : pmFieldsBad w = false ↔ PmLegal w := by
  simp only [pmFieldsBad, Bool.or_eq_false_iff, Bool.and_eq_false_imp, bne_eq_false_iff_eq, beq_iff_eq, decide_eq_false_iff_not,
    not_lt, and_assoc, targetState_pmTarget, pmTgt_eq_run_iff]
  simp only [PmLegal, pmTarget, pmClk, fld_eq_zero_iff, fld_eq_toNat_extractLsb' w 0 3]

/-- The tests in their order (log 10). -/
theorem pmRefusal_eq (s : State) (w : Word) : pmRefusal s w =
    if s.pm.hup then some 5 else if !s.host.cfgd then some 1 else if s.pm.busy then some 3 else if pmFieldsBad w then some 2
    else if !allowed s.pm.st (pmTgt w) then some 1
    else if s.pm.st == .trip && pmTgt w == .idle && s.pm.tcause.getLsbD 7 then some 4 else none := by
  rw [← targetState_pmTarget]
  rfl

theorem pmCommand_refused {s : State} {w : Word} {r : BitVec 3} (h : pmRefusal s w = some r) :
    pmCommand w s = { s with pm := { s.pm with ltag := w.extractLsb' 16 16, res := r } } := by
  simp [pmCommand, h, pmTag]

theorem pmCommand_starts {s : State} {w : Word} (h : pmRefusal s w = none) : pmCommand w s =
    { s with pm := { s.pm with busy := true, pend := some (pmTgt w, w.extractLsb' 8 8, w.extractLsb' 16 16) } } := by
  simp [pmCommand, h, targetState_pmTarget, pmClk, pmTag]

/-- The four writes of PM_CMD are one operation. -/
theorem exec_pmCmd {w : Word} {i : Instr} (hi : i ∈ [Instr.pmCmdRun w, .pmCmdIdle w, .pmCmdHold w, .pmCmdOff w]) (s : State) :
    exec i s = .next (pmCommand w s) := by
  simp only [List.mem_cons, List.not_mem_nil, or_false] at hi
  rcases hi with rfl | rfl | rfl | rfl <;> rfl

/-- Settles O33: the model's tests, in their order, are the premises of the clauses. -/
theorem powerCommands : Obligations.PowerCommands := by
  intro w s i hi
  simp only [exec_pmCmd hi]
  have refused : ∀ r, pmRefusal s w = some r →
      (Host.Outcome.next (pmCommand w s) : Host.Outcome State Fault Refusal) =
        .next { s with pm := { s.pm with ltag := w.extractLsb' 16 16, res := r } } :=
    fun r h => by rw [pmCommand_refused h]
  refine ⟨fun hup => refused 5 ?_, fun hup cfg => refused 1 ?_, fun cfg hup busy => refused 3 ?_, fun cfg hup busy => ⟨fun bad => refused 2 ?_,
    fun legal move => refused 1 ?_, fun legal trip idle cause => refused 4 ?_, fun legal move free => ?_⟩⟩
  · simp [pmRefusal_eq, hup]
  · simp [pmRefusal_eq, hup, cfg]
  · simp [pmRefusal_eq, hup, cfg, busy]
  · have bad : pmFieldsBad w = true := by simpa [← pmFieldsBad_eq_false_iff] using bad
    simp [pmRefusal_eq, hup, cfg, busy, bad]
  · rw [← pmFieldsBad_eq_false_iff] at legal
    rw [← allowed_iff_mayMove] at move
    simp [pmRefusal_eq, hup, cfg, busy, legal, move]
  · rw [← pmFieldsBad_eq_false_iff] at legal
    have move : allowed .trip .idle = true := rfl
    simp [pmRefusal_eq, hup, cfg, busy, legal, trip, idle, cause, move]
  · rw [← pmFieldsBad_eq_false_iff] at legal
    rw [← allowed_iff_mayMove] at move
    rw [pmCommand_starts]
    simpa [pmRefusal_eq, hup, cfg, busy, legal, move] using free

/-! ### What a reset leaves (03 R56) and what happens in OFF (01 R15; 04 R96) -/

/-- The byte at a key whose cells a filter keeps. -/
theorem byteAt_filter {p : Host.Cell → Bool} {a : Nat} (h : ∀ v, p (a, v) = true) (m : List Host.Cell) :
    byteAt (m.filter p) a = byteAt m a := by
  induction m with
  | nil => rfl
  | cons e r ih =>
    obtain ⟨k, v⟩ := e
    unfold byteAt at ih ⊢
    by_cases hk : p (k, v) = true
    · simp [hk, sget, ih]
    · have : a ≠ k := by rintro rfl; exact hk (h v)
      simp [hk, sget, ih, this]

/-- The byte at a key that none of the writes names. -/
theorem byteAt_foldl_sset {a : Nat} (l : List Host.Cell) (h : ∀ e ∈ l, e.1 ≠ a) (m : List Host.Cell) :
    byteAt (l.foldl (fun m e => sset unlistedByte m e.1 e.2) m) a = byteAt m a := by
  induction l generalizing m with
  | nil => rfl
  | cons e r ih =>
    rw [List.foldl_cons, ih (fun e he => h e (by simp [he]))]
    exact sget_sset_other _ _ _ (h e (by simp)).symm

/-- The hold-up store outlasts every loss of state. -/
theorem byteAt_wipeMemory_holdUp (n : Nat) (m : List Host.Cell) {a : Nat} (h : rowOf a = some .holdUp) :
    byteAt (wipeMemory n m) a = byteAt m a := by
  unfold wipeMemory
  rw [byteAt_foldl_sset]
  · exact byteAt_filter (fun v => by simp [h]) m
  · intro e he hea
    have := (List.mem_filter.mp he).2
    simp [hea, h] at this

/-- Who moves in OFF. -/
theorem inOff_iff (a : Actor) : a.inOff = true ↔
    a = .event .fundamentalReset ∨ a = .event .hotReset ∨ a = .event .functionLevelReset ∨ a = .idle := by
  constructor
  · intro h
    unfold Actor.inOff at h
    split at h <;> simp_all
  · rintro (rfl | rfl | rfl | rfl) <;> rfl

/-- A turn in OFF does nothing or resets the device. -/
theorem turn_inOff {a : Actor} {s t : State} (ha : a.inOff = true) (h : turn a s = .next t) : t = s ∨ t = resetDevice s := by
  rcases (inOff_iff a).mp ha with rfl | rfl | rfl | rfl
  case inr.inr.inr => exact .inl (Host.Outcome.next.inj h).symm
  all_goals exact .inr (Host.Outcome.next.inj h).symm

theorem namedTurn_off {a : Actor} {s t : State} (off : s.pm.st = .off) (h : namedTurn a s = .next t) :
    t = { s with actor := a, raised := false } ∨ t = resetDevice { s with actor := a, raised := false } := by
  unfold namedTurn at h
  split at h
  · exact absurd h (by simp)
  · next inOff => exact turn_inOff (by simpa [off] using inOff) h

/-- A step in OFF: only bookkeeping of the model moves, and a reset may follow. -/
theorem step_off {s t : State} (off : s.pm.st = .off) (h : step s = .next t) :
    ∃ agenda actor fresh raised, let u := { s with agenda := agenda, actor := actor, fresh := fresh, raised := raised }
      t = u ∨ t = resetDevice u := by
  unfold step at h
  split at h
  · unfold anyTurn at h
    dsimp only at h
    split at h
    · next hn =>
      obtain rfl := Host.Outcome.next.inj h
      exact ⟨_, _, _, _, namedTurn_off (s := { s with fresh := s.fresh + 4 }) off hn⟩
    · exact ⟨s.agenda, s.actor, s.fresh + 4, s.raised, .inl (Host.Outcome.next.inj h).symm⟩
  · next a r _ => exact ⟨r, a, s.fresh, false, namedTurn_off (s := { s with agenda := r }) off h⟩

/-- Settles O59: a step in OFF moves bookkeeping only, and a reset keeps the hold-up store. -/
theorem offStays : Obligations.OffStays := by
  intro s t off h
  obtain ⟨agenda, actor, fresh, raised, rfl | rfl⟩ := step_off off h
  · exact .inl rfl
  · exact .inr ⟨rfl, rfl, rfl, rfl, rfl, rfl, rfl, rfl, fun a ha => byteAt_wipeMemory_holdUp _ _ ha⟩

/-! ### Transitions, trips and the loss of supply (01 R15 to R19, R22) -/

/-- Power after a commanded transition. -/
def powerMoved (p : Power) (dst : PState) (clk : BitVec 8) (tag : BitVec 16) : Power :=
  { p with st := dst, clk := if dst = .run then clk else p.clk, ltag := tag, res := 0, busy := false, pend := none }

theorem exec_powerTransitionComplete {s : State} {dst : PState} {clk : BitVec 8} {tag : BitVec 16}
    (pend : s.pm.pend = some (dst, clk, tag)) (stand : dst = .run ∨ copiesAtBoundary s = true) :
    exec .powerTransitionComplete s = .next (if dst = .off then powerOff s else { s with pm := powerMoved s.pm dst clk tag }) := by
  refine asStep_ok ?_
  rw [go_state_then, go_need_then pend, go_waitUntil_then (by simpa using stand)]
  by_cases off : dst = .off <;> simp [off, powerMoved]

/-- The causes that TRIP holds after a limit is reached in it or outside it (log 11). -/
def tripCauses (p : Power) (c : BitVec 7) : BitVec 8 := (if p.st = .trip then p.tcause else 0) ||| c.setWidth 8 ||| 0x80

/-- TRIP abandons a transition in progress with result 4. -/
def abandonMove (p : Power) : Power :=
  match p.pend with
  | some (_, _, tag) => { p with ltag := tag, res := 4, busy := false, pend := none }
  | none => p

theorem exec_tripEntry {s : State} {c : BitVec 7} (cause : c ≠ 0) (hup : s.pm.hup = false) (on : s.pm.st ≠ .off) :
    exec (.tripEntry c) s = .next { s with pm := { abandonMove s.pm with st := .trip, tcause := tripCauses s.pm c } } := by
  refine asStep_ok ?_
  rw [go_state_then]
  dsimp only
  rw [go_needs_then (bne_iff_ne.mpr cause), abandonMove]
  rcases s.pm.pend with _ | ⟨dst, clk, tag⟩ <;> simp [hup, on, tripCauses]

theorem exec_tripCauseCleared {s : State} (cause : s.pm.tcause.getLsbD 7 = true) :
    exec .tripCauseCleared s = .next { s with pm := { s.pm with tcause := s.pm.tcause &&& 0x7F } } := by
  refine asStep_ok ?_
  rw [go_state_then]
  dsimp only
  rw [go_needs_then cause, go_change]

/-- Power at the start of the hold-up sequence. -/
def powerAtLoss (p : Power) : Power :=
  { p with hup := true, st := .holdUp, lossState := p.st, supply := false, busy := false, pend := none, quiesced := false, saved := false }

/-- A context whose checkpoint or restore the loss abandons. -/
def cutShort (k : Context) : Context := { k with ckpt := abandonCkpt k.ckpt }

theorem exec_supplyLoss {s : State} (on : s.pm.st ≠ .off) (before : s.pm.st ≠ .holdUp) (supply : s.pm.supply = true) :
    exec .supplyLoss s = .next { s with pm := powerAtLoss s.pm, ctxs := s.ctxs.map (fun e => (e.1, cutShort e.2)) } := by
  refine asStep_ok ?_
  rw [go_state_then]
  dsimp only
  rw [go_needs_then (by simp [on, supply]), if_neg (by simpa using before), go_change_then, go_change]
  rfl

/-- A keyed list whose values are all changed. -/
theorem aget_map {α β : Type} (f : α → β) (m : List (Nat × α)) (k : Nat) :
    aget (m.map (fun e => (e.1, f e.2))) k = (aget m k).map f := by
  induction m with
  | nil => rfl
  | cons e r ih =>
    obtain ⟨j, v⟩ := e
    by_cases h : k = j <;> simp [aget, h, ih]

/-- A clause for each step of the power states; only the contexts' checkpoints need more than that step's lemma. -/
theorem powerTransitions : PowerTransitions := by
  refine ⟨fun s dst clk tag pend stand => ?_, fun s c cause hup on => ?_, fun s => exec_tripCauseCleared,
    fun s on before supply => ⟨_, exec_supplyLoss on before supply, rfl, rfl, rfl, rfl, fun x k hk => ?_⟩⟩
  · rw [exec_powerTransitionComplete pend stand]
    exact ⟨fun h => by rw [if_neg h]; rfl, fun h => by rw [if_pos h]⟩
  · rw [exec_tripEntry cause hup on, abandonMove]
    exact ⟨fun pend => by rw [pend]; rfl, fun dst clk tag pend => by rw [pend]; rfl⟩
  · unfold ctxOf at hk ⊢
    dsimp only
    rw [aget_map cutShort, hk]
    rfl

/-! ### The hold-up sequence (04 R83 to R96) -/

/-- POWER_FAIL at a task: its handler is entered and its window opens, or, with no handler, its state is frozen. -/
def powerFailed (s : State) (c b : Nat) : State :=
  if (regsOf s c b).evec ≠ 0
  then updBank s c b (fun k => { k.toHandler with regs := enterHandler k.regs .powerFail k.regs.pc, window := true })
  else closeWindow s c b

theorem go_takePowerFail {s : State} {c b t : Nat} (task : (bankOf s c b).task = some t) :
    (takePowerFail c b).go s = (.ok (), powerFailed s c b) := by
  unfold takePowerFail takeTrap powerFailed regsOf
  simp only [go_state_then, pure_bind, task, bne_iff_ne]
  by_cases evec : (bankOf s c b).regs.evec ≠ 0
  · rw [if_pos evec, if_pos evec, go_change]
  · rw [if_neg evec, if_neg evec, go_change]

theorem exec_powerFail {s : State} {c : BitVec 8} {b t : Nat} (due : powerFailDue s c.toNat = some b)
    (task : (bankOf s c.toNat b).task = some t) : exec (.powerFail c) s = .next (powerFailed s c.toNat b) := by
  refine asStep_ok ?_
  rw [go_state_then, go_need_then due, go_takePowerFail task]

/-- A change of a bank is read at that bank alone. -/
theorem updBank_congr {s : State} {c b : Nat} {f g : Bank → Bank} (h : f (bankOf s c b) = g (bankOf s c b)) :
    updBank s c b f = updBank s c b g := by
  simp [updBank, h]

theorem go_stopCopies {s : State} {c b : Nat} (stand : CopiesStand s c b) : (stopCopies c b).go s = (.ok (), copiesStopped s c b) := by
  unfold stopCopies
  rw [go_state_then, go_waitUntil_then (List.all_eq_true.mpr stand)]
  rfl

theorem exec_finalisationWindowEnd {s : State} {c : BitVec 8} {b : Nat}
    (first : (List.range bankCount).find? (fun b => (bankOf s c.toNat b).window) = some b) (st : s.pm.st = .holdUp)
    (stand : CopiesStand s c.toNat b) :
    exec (.finalisationWindowEnd c) s = .next (closeWindow (copiesStopped s c.toNat b) c.toNat b) := by
  refine asStep_ok ?_
  dsimp only
  rw [go_state_then, go_need_then first, go_needs_then (by simp [st]), go_bind_ok (go_stopCopies stand), go_change]

/-- The device once every context's state is frozen. -/
def quiescedState (s : State) : State :=
  { s with
    cores := s.cores.map (fun e => (e.1, { e.2 with banks := e.2.banks.map (fun b => (b.1, b.2.quiet)) }))
    programs := [], pm := { s.pm with quiesced := true, saved := !anySaveSet s } }

theorem exec_quiesceEnd {s : State} (st : s.pm.st = .holdUp) (during : s.pm.quiesced = false) (windows : windowsLeft s = false)
    (copies : copiesAtBoundary s = true) (done : drained s = true) : exec .quiesceEnd s = .next (quiescedState s) := by
  refine asStep_ok ?_
  rw [go_state_then, go_needs_then (by simp [st, during]), go_waitUntil_then (by simp [windows, copies, done]), go_change_then, go_change]
  rfl

/-- With no must-save set every context's is empty. -/
theorem not_anySaveSet (s : State) : (!anySaveSet s) = s.ctxs.all (fun e => e.2.save = []) := by
  simp [anySaveSet, List.all_eq_not_any_not, bne, beq_eq_decide]

/-- The save engine has written its directory, then its records in their order (04 R92 to R94). -/
def savedState (s u : State) (recs : List SaveRec) : State :=
  let l := placed recordBase (sortRecs recs)
  let epoch := (epochOf s + 1) % 2 ^ 32
  l.foldl (writeRec epoch) (writeBytes u storeBase (directory epoch l))

theorem exec_holdUpSave {s u : State} {recs : List SaveRec} (st : s.pm.st = .holdUp) (quiet : s.pm.quiesced = true)
    (unsaved : s.pm.saved = false) (h : (allRecords s.ctxs).go s = (.ok recs, u)) :
    exec .holdUpSave s = .next { savedState s u recs with pm := { (savedState s u recs).pm with saved := true } } := by
  refine asStep_ok ?_
  rw [go_state_then, go_needs_then (by simp [st, quiet, unsaved]), go_bind_ok h]
  rfl

theorem exec_supplyRecovery {s : State} (st : s.pm.st = .holdUp) (lost : s.pm.supply = false) :
    exec .supplyRecovery s = .next { s with pm := { s.pm with supply := true } } := by
  refine asStep_ok ?_
  rw [go_state_then]
  dsimp only
  rw [go_needs_then (by simp [st, lost]), go_change]

/-- The device after the hold-up sequence with supply present: SPENT, its window still answering. -/
def spentState (s : State) : State :=
  { wipe s with pm := { s.pm with st := .spent }, host := { s.host with ctxBusy := false, ctxPending := none } }

theorem exec_holdUpSequenceEnd {s : State} (st : s.pm.st = .holdUp) (quiet : s.pm.quiesced = true) (saved : s.pm.saved = true) :
    exec .holdUpSequenceEnd s = .next (if s.pm.supply then spentState s else powerOff s) := by
  refine asStep_ok ?_
  rw [go_state_then, go_needs_then (by simp [st, quiet, saved])]
  cases s.pm.supply <;> rfl

/-- A clause for each step of the hold-up sequence. The save has its records because reading them always answers. -/
theorem holdUpSequence : HoldUpSequence := by
  refine ⟨fun s c b t due task => ?_, fun s c b hb st window least stand => ?_, fun s st during windows copies done => ?_,
    fun s st quiet unsaved => ?_, fun s => exec_supplyRecovery, fun s st quiet saved => ?_⟩
  · rw [exec_powerFail due task, powerFailed]
    refine ⟨fun evec depth => ?_, fun evec => by rw [if_neg (not_not.mpr evec)]⟩
    rw [if_pos evec]
    unfold regsOf at depth
    exact congrArg _ (updBank_congr (by simp [enterHandler, depth, Trap.code]))
  · refine exec_finalisationWindowEnd (List.find?_range_eq_some.mpr ⟨window, List.mem_range.mpr hb, fun a ha => ?_⟩) st stand
    simp [least a ha]
  · rw [exec_quiesceEnd st during windows copies done, quiescedState, not_anySaveSet]
  · obtain ⟨recs, u, h⟩ := answers_allRecords s.ctxs s
    exact ⟨recs, u, h, exec_holdUpSave st quiet unsaved h⟩
  · rw [exec_holdUpSequenceEnd st quiet saved]
    exact ⟨fun supply => ⟨spentState s, by rw [if_pos supply], rfl, rfl, rfl, rfl, rfl⟩, fun supply => by rw [supply]; rfl⟩

/-- Settles O34: each step of the power states and of the hold-up sequence, by the lemma that says what the step does. -/
theorem powerAndHoldUp : Obligations.PowerAndHoldUp := ⟨powerTransitions, holdUpSequence⟩

end Sys2Proof.Proofs
end

section
/-!
SUPPORT FOR PROOFS. Fields and masks, tables, loops, what a write of the device leaves.
-/

namespace Sys2Proof.Proofs

open Sys2Proof.Machine

/-! ### Fields and masks of a register -/

theorem fld_ne_zero_iff (w : Word) (lo n : Nat) : (fld w lo n != 0) = true ↔ w.extractLsb' lo n ≠ 0 := by
  rw [bne_iff_ne, ne_eq, fld_eq_zero_iff]

theorem fld_lt (w : Word) (lo n : Nat) : fld w lo n < 2 ^ n := Nat.mod_lt _ (by positivity)

theorem topBit_eq : (0x8000000000000000 : Word) = BitVec.twoPow 64 63 := by decide

/-- A write with bit 63 set is what setting bit 63 leaves. -/
theorem or_topBit {w : Word} (h : w.getLsbD 63 = true) : w ||| 0x8000000000000000 = w := by
  rw [topBit_eq]
  refine BitVec.eq_of_getLsbD_eq fun i _ => ?_
  rw [BitVec.getLsbD_or, BitVec.getLsbD_twoPow]
  by_cases hi : 63 = i
  · subst hi
    simp [h]
  · simp [hi]

/-- A write with bit 63 clear is what clearing bit 63 leaves. -/
theorem and_lowBits {w : Word} (h : w.getLsbD 63 = false) : w &&& 0x7FFFFFFFFFFFFFFF = w := by
  rw [show (0x7FFFFFFFFFFFFFFF : Word) = ~~~ BitVec.twoPow 64 63 by decide]
  refine BitVec.eq_of_getLsbD_eq fun i hi => ?_
  rw [BitVec.getLsbD_and, BitVec.getLsbD_not, BitVec.getLsbD_twoPow]
  by_cases top : 63 = i
  · subst top
    rw [h, Bool.false_and]
  · simp [top, hi]

/-- A field that a mask keeps whole. -/
theorem extractLsb'_and_kept {w m : Word} {lo n : Nat} (h : m.extractLsb' lo n = BitVec.allOnes n) :
    (w &&& m).extractLsb' lo n = w.extractLsb' lo n := by
  rw [BitVec.extractLsb'_and, h, BitVec.and_allOnes]

/-- A field that a mask clears. -/
theorem extractLsb'_and_cleared {w m : Word} {lo n : Nat} (h : m.extractLsb' lo n = 0) : (w &&& m).extractLsb' lo n = 0 := by
  rw [BitVec.extractLsb'_and, h]
  exact BitVec.and_zero

/-- A bit that a mask keeps. -/
theorem getLsbD_and_kept {w m : Word} {i : Nat} (h : m.getLsbD i = true) : (w &&& m).getLsbD i = w.getLsbD i := by
  rw [BitVec.getLsbD_and, h, Bool.and_true]

/-! ### Tables and keyed lists -/

/-- A keyed list without a key. -/
theorem aget_adel {α : Type} (m : List (Nat × α)) (k j : Nat) : aget (adel m k) j = if j = k then none else aget m j := by
  induction m with
  | nil => simp [adel, aget]
  | cons e r ih =>
    obtain ⟨i, v⟩ := e
    unfold adel at ih ⊢
    by_cases hi : i = k
    · subst hi
      by_cases hj : j = i
      · subst hj
        simpa using ih
      · simp [aget, ih, hj]
    · by_cases hj : j = i <;> simp_all [aget]

/-- A run of entries written in order. -/
theorem sget_ssetAll {α : Type} [DecidableEq α] (d : α) (l : List α) (j : Nat) : ∀ (m : Sparse α) (k : Nat),
    sget d (ssetAll d m k l) j = if k ≤ j ∧ j < k + l.length then l.getD (j - k) d else sget d m j := by
  induction l with
  | nil => exact fun m k => (if_neg (by simp)).symm
  | cons v r ih =>
    intro m k
    rw [ssetAll, ih, sget_sset]
    rcases lt_trichotomy j k with h | rfl | h
    · rw [if_neg (by omega), if_neg (by omega), if_neg (by omega)]
    · simp
    · obtain ⟨i, rfl⟩ : ∃ i, j = k + 1 + i := ⟨j - (k + 1), by omega⟩
      simp [show k + 1 + i - k = i + 1 by omega, show k + 1 + i ≠ k by omega, show k ≤ k + 1 + i by omega,
        show k + 1 + i < k + (r.length + 1) ↔ i < r.length by omega]

/-- The byte at a key whose cells a filter drops. -/
theorem byteAt_filter_dropped {p : Host.Cell → Bool} {a : Nat} (h : ∀ v, p (a, v) = false) (m : List Host.Cell) :
    byteAt (m.filter p) a = unlistedByte := by
  induction m with
  | nil => rfl
  | cons e r ih =>
    obtain ⟨k, v⟩ := e
    unfold byteAt at ih ⊢
    by_cases hk : p (k, v) = true
    · have : a ≠ k := by rintro rfl; simp [h v] at hk
      simp [hk, sget, ih, this]
    · simp [hk, ih]

/-- A context's change is read there and nowhere else. -/
theorem ctxOf_updCtx (s : State) (x y : Nat) (f : Context → Context) :
    ctxOf (updCtx s x f) y = if y = x then (ctxOf s y).map f else ctxOf s y := aget_aupd s.ctxs x y f

/-- Updates that leave the contexts, one after another. -/
theorem foldl_ctxs {α : Type} {f : State → α → State} (h : ∀ s a, (f s a).ctxs = s.ctxs) (l : List α) :
    ∀ s, (l.foldl f s).ctxs = s.ctxs := by
  induction l with
  | nil => exact fun _ => rfl
  | cons a r ih => exact fun s => (ih _).trans (h s a)

/-! ### Loops -/

section
variable {f : Nat → PUnit → Act (ForInStep PUnit)} {s t : State}

/-- A loop goes past elements that do nothing. -/
theorem go_forIn_skips {l r : List Nat} (h : ∀ a ∈ l, ∀ x, (f a x).go s = (.ok (.yield ⟨⟩), s)) :
    (forIn (l ++ r) ⟨⟩ f).go s = (forIn r ⟨⟩ f).go s := by
  induction l with
  | nil => rfl
  | cons a l ih =>
    rw [List.cons_append, List.forIn_cons, go_bind_ok (h a (by simp) _)]
    exact ih fun b hb => h b (by simp [hb])

/-- A loop of which no element does anything. -/
theorem go_forIn_idle {l : List Nat} (h : ∀ a ∈ l, ∀ x, (f a x).go s = (.ok (.yield ⟨⟩), s)) :
    (forIn l ⟨⟩ f).go s = (.ok ⟨⟩, s) := by
  rw [← List.append_nil l, go_forIn_skips h]
  rfl

/-- A loop over the numbers below a bound whose first element to do anything is `k`. -/
theorem go_forIn_range {n k : Nat} (hk : k < n) (before : ∀ a < k, ∀ x, (f a x).go s = (.ok (.yield ⟨⟩), s))
    (turn : ∀ x, (f k x).go s = (.ok (.yield ⟨⟩), t)) :
    (forIn (List.range n) ⟨⟩ f).go s = (forIn ((List.range (n - k - 1)).map (k + 1 + ·)) ⟨⟩ f).go t := by
  have cut : List.range n = List.range k ++ (k :: (List.range (n - k - 1)).map (k + 1 + ·)) := by
    rw [show List.range n = List.range (k + (1 + (n - k - 1))) by congr 1; omega, List.range_add, List.range_add]
    simp [Function.comp_def, Nat.add_assoc]
  rw [cut, go_forIn_skips (by simpa using before), List.forIn_cons, go_bind_ok (turn _)]

end

/-! ### What the device's own writes leave (03 R422) -/

theorem keeps_devPieces (x : Nat) (k : Context) (r : Right) (l : List Piece) : Keeps Reads (devPieces x k r l) := by
  have C := reads_chains
  induction l with
  | nil => exact Keeps.pure C _
  | cons p q ih =>
    unfold devPieces
    refine Keeps.ite (Keeps.pure C _) (Keeps.bind C (keeps_translate _ _ _ _ _ _ _) (fun a => ?_))
    split
    · exact Keeps.pure C _
    · exact Keeps.pure C _
    · exact Keeps.pure C _
    · exact Keeps.pure C _
    · refine Keeps.ite (Keeps.pure C _) (Keeps.bind C ih (fun b => ?_))
      split <;> exact Keeps.pure C _

theorem reads_foldl {α : Type} {f : State → α → State} (h : ∀ s a, Reads s (f s a)) (l : List α) : ∀ s, Reads s (l.foldl f s) := by
  induction l with
  | nil => exact reads_chains.refl
  | cons a r ih => exact fun s => reads_chains.trans (h s a) (ih _)

/-- A write of a context structure changes memory, and what translation caches, alone. -/
theorem keeps_devWrite (x va : Nat) (bs : List Byte) : Keeps Reads (devWrite x va bs) := by
  have C := reads_chains
  unfold devWrite
  refine Keeps.bind C (Keeps.state C) (fun s => ?_)
  split
  · exact Keeps.pure C _
  · refine Keeps.bind C (keeps_devPieces _ _ _ _) (fun a => ?_)
    split
    · exact Keeps.pure C _
    · exact Keeps.bind C (Keeps.change (reads_foldl (fun s q => reads_writeBytes _ s _) _)) (fun _ => Keeps.pure C _)

theorem go_devWrite_ctxs (x va : Nat) (bs : List Byte) (s : State) :
    ∃ r u, (devWrite x va bs).go s = (.ok r, u) ∧ u.ctxs = s.ctxs := by
  obtain ⟨r, u, h⟩ := answers_devWrite x va bs s
  have kept := (keeps_devWrite x va bs s).ctxs
  rw [h] at kept
  exact ⟨r, u, h, kept⟩

end Sys2Proof.Proofs
end

section
/-!
PROOF. The host and command interface: doorbell, aperture, reset and configuration, the window and its thresholds, monitor units,
context commands, launches (03; 05 R111, R130; 06 R138, R156; 07 R164).
-/

namespace Sys2Proof.Proofs

open Sys2Proof.Machine Sys2Proof.Claims

/-! ### The doorbell (03 R63, R56) -/

/-- A doorbell write that has no launch to queue is discarded as the statement has it. -/
theorem discardBell_eq_bellError (s : State) (x cause : Nat) : discardBell s x cause = bellError s x cause := rfl

/-- A doorbell before configuration or in the hold-up sequence. -/
theorem ringBell_refused {w : Word} {s : State} (h : s.host.cfgd = false ∨ s.pm.hup = true) :
    ringBell w s = bellError s (fld w 0 6) 1 := by
  have : (!s.host.cfgd || s.pm.hup) = true := by simpa using h
  rw [ringBell, if_pos this, discardBell_eq_bellError]

/-- A doorbell of a context that is not live. -/
theorem ringBell_dead {w : Word} {s : State} (cfg : s.host.cfgd = true) (hup : s.pm.hup = false) (dead : ctxOf s (fld w 0 6) = none) :
    ringBell w s = bellError s (fld w 0 6) (if w.extractLsb' 6 26 = 0 then 1 else 2) := by
  have : ¬ (!s.host.cfgd || s.pm.hup) = true := by simp [cfg, hup]
  rw [ringBell, if_neg this]
  simp only [dead, fld_ne_zero_iff, discardBell_eq_bellError, ite_not]

/-- A context whose doorbell has been taken: `d` launches more are queued. -/
def belled (tail : BitVec 32) (d : Nat) (k : Context) : Context :=
  { k with lastTail := tail, launchSeq := k.launchSeq + d, queued := k.queued ++ (List.range d).map (k.launchSeq + ·) }

/-- A doorbell of a live context: no launch more, a reserved bit, an overrun, or its launches. -/
theorem ringBell_live {w : Word} {s : State} {k : Context} (cfg : s.host.cfgd = true) (hup : s.pm.hup = false)
    (live : ctxOf s (fld w 0 6) = some k) :
    ringBell w s =
      let x := fld w 0 6
      let d := (w.extractLsb' 32 32 - k.lastTail).toNat
      if d = 0 then s
      else if w.extractLsb' 6 26 ≠ 0 then bellError s x 2
      else if freeEntries k < d then bellError s x 3
      else updCtx s x (belled (w.extractLsb' 32 32) d) := by
  have : ¬ (!s.host.cfgd || s.pm.hup) = true := by simp [cfg, hup]
  rw [ringBell, if_neg this]
  simp only [live, fld_ne_zero_iff, discardBell_eq_bellError]
  rfl

/-- Settles O37: each test of a doorbell write, in its order, is the premise of a clause. -/
theorem doorbellWrites : Obligations.DoorbellWrites := by
  intro w s
  have hx : (w.extractLsb' 0 6).toNat = fld w 0 6 := (fld_eq_toNat_extractLsb' w 0 6).symm
  have bell : exec (.doorbell w) s = .next (ringBell w s) := rfl
  simp only [hx, bell]
  refine ⟨fun h => by rw [ringBell_refused h], fun cfg hup => ⟨fun dead => by rw [ringBell_dead cfg hup dead], fun k live => ?_⟩⟩
  simp only [ringBell_live cfg hup live]
  refine ⟨fun h => by rw [if_pos h], fun h res => by rw [if_neg h, if_pos res], fun res (full : freeEntries k < _) => ?_,
    fun res h (room : _ ≤ freeEntries k) => ?_⟩
  · have h : (w.extractLsb' 32 32 - k.lastTail).toNat ≠ 0 := by omega
    rw [if_neg h, if_neg (not_not.mpr res), if_pos full]
  · rw [if_neg h, if_neg (not_not.mpr res), if_neg (Nat.not_lt.mpr room)]
    refine ⟨_, rfl, rfl, rfl, ?_, fun y hy => ?_⟩
    · rw [ctxOf_updCtx, if_pos rfl, live]
      rfl
    · rw [ctxOf_updCtx, if_neg hy]

/-! ### The window after reset (03 R56, 01 R19) -/

/-- Before configuration the window answers at DEV_ID, CFG_STAT, PM_STAT, CTX_STAT and the message table alone. -/
theorem windowRead_unconfigured {s : State} {off : Nat} (cfg : s.host.cfgd = false) (lo : 0x200 ≤ off) (hi : off < 0x8000)
    (stat : off ≠ 0x308) : windowRead s off 8 = 0 := by
  have h0 : off ≠ 0 := by omega
  have h1 : off ≠ 0x18 := by omega
  have h2 : off ≠ 0x108 := by omega
  have h3 : off ≠ 0x9000 := by omega
  have h4 : ¬ 0x8000 ≤ off := by omega
  simp [windowRead, cfg, stat, h0, h1, h2, h3, h4]

/-- The error word of a doorbell discarded with cause 1. -/
theorem bellWord_fields {x : Nat} (h : x < 64) :
    (BitVec.ofNat 64 (2 ^ 63 + 1 * 256 + x)).getLsbD 63 = true ∧ (BitVec.ofNat 64 (2 ^ 63 + 1 * 256 + x)).extractLsb' 8 8 = 1 := by
  constructor
  · rw [BitVec.getLsbD_ofNat, Nat.testBit_eq_decide_div_mod_eq]
    simp only [Nat.reduceLT, decide_true, Bool.true_and, decide_eq_true_eq]
    omega
  · apply BitVec.eq_of_toNat_eq
    rw [← fld_eq_toNat_extractLsb', fld, BitVec.toNat_ofNat]
    have : (2 ^ 63 + 1 * 256 + x) % 2 ^ 64 / 2 ^ 8 % 2 ^ 8 = 1 := by omega
    simpa using this

/-- Settles O57: the reset state's registers are its initial values, and no command is taken before configuration. -/
theorem afterReset : Obligations.AfterReset := by
  refine ⟨by decide +kernel, by decide +kernel, by decide +kernel, fun off => windowRead_unconfigured rfl, rfl, rfl, rfl, rfl,
    fun w => ?_, fun w => ?_⟩
  · have : pmRefusal State.reset w = some 1 := by
      rw [pmRefusal_eq]
      rfl
    exact ⟨_, rfl, by rw [pmCommand_refused this], by rw [pmCommand_refused this]; rfl⟩
  · refine ⟨_, rfl, ?_⟩
    rw [ringBell_refused (.inl rfl)]
    exact bellWord_fields (fld_lt w 0 6)

/-! ### The aperture (03 R54, R57; 04 R102) -/

theorem aperturePa_eq (s : State) (off : Nat) : aperturePa s off = aperturePlace s off := by
  rw [aperturePa, fld_eq_toNat_extractLsb', aperturePlace]

theorem aperturePlace_inj (s : State) {i j : Nat} : aperturePlace s i = aperturePlace s j ↔ i = j := Nat.add_left_cancel_iff

theorem go_apertureByte {s : State} (cfg : s.host.cfgd = true) (off : Nat) :
    (apertureByte off).go s = (.ok (apertureValue s off), s) := by
  unfold apertureByte apertureValue
  rw [go_state_then, aperturePa_eq]
  by_cases beyond : 2 ^ 36 ≤ off
  · rw [if_pos beyond, if_pos beyond, go_pure]
  · rw [if_neg beyond, if_neg beyond, if_neg (by simp [cfg])]
    rcases rowOf (aperturePlace s off) with _ | _ | _ | _ | _ | _ <;> rfl

theorem go_apertureBytes {s : State} (cfg : s.host.cfgd = true) (n : Nat) : ∀ off,
    (apertureBytes off n).go s = (.ok ((List.range n).map (fun i => apertureValue s (off + i))), s) := by
  induction n with
  | zero => exact fun _ => rfl
  | succ n ih =>
    intro off
    rw [apertureBytes, go_bind_ok (go_apertureByte cfg off), go_bind_ok (ih (off + 1)), go_pure, List.range_succ_eq_map]
    simp [Function.comp_def, Nat.add_comm, Nat.add_left_comm]

theorem exec_hostApertureRead {s : State} (cfg : s.host.cfgd = true) (off : BitVec 36) (n : Nat) :
    exec (.hostApertureRead off n) s =
      .next { s with host := { s.host with lastRead := (List.range n).map (fun i => apertureValue s (off.toNat + i)) } } := by
  refine asStep_ok ?_
  rw [go_bind_ok (go_apertureBytes cfg n off.toNat), go_change]

/-- What the host may write lies below the second tier's end, outside the pool. -/
theorem apertureWritable_iff (pa : Nat) :
    ApertureWritable pa ↔ pa < 0x800000000 ∨ (0x100000000000 ≤ pa ∧ pa < 0x140000000000) := by
  unfold ApertureWritable rowOf
  constructor
  · rintro (⟨d, h⟩ | h) <;> split_ifs at h <;> simp_all
  · rintro (h | h)
    · exact .inl ⟨_, if_pos h⟩
    · exact .inr (by rw [if_neg (by omega), if_pos h])

theorem poolKey_ge (d : BitVec 128) (pa : Nat) : 2 ^ 68 ≤ poolKey d pa := by
  unfold poolKey
  dsimp only
  omega

/-- An address of the pool row is kept under itself or above every physical address. -/
theorem memKey_eq_or (s : State) (a : Nat) : memKey s a = a ∨ rowOf a = some .pool ∧ 2 ^ 68 ≤ memKey s a := by
  unfold memKey
  split
  · next pool =>
    split
    · exact .inr ⟨pool, poolKey_ge _ _⟩
    · exact .inl rfl
  · exact .inl rfl

theorem memKey_writable (s : State) {pa : Nat} (h : ApertureWritable pa) : memKey s pa = pa := by
  rcases memKey_eq_or s pa with key | ⟨pool, _⟩
  · exact key
  · rcases h with ⟨d, h⟩ | h <;> simp [h] at pool

/-- No other address shares its key with one that the host may write. -/
theorem eq_of_memKey_eq {s : State} {a pa : Nat} (h : ApertureWritable pa) (key : memKey s a = pa) : a = pa := by
  rcases memKey_eq_or s a with self | ⟨_, high⟩
  · rw [← self, key]
  · rw [apertureWritable_iff] at h
    omega

theorem readByte_writeByte_same (s : State) (pa : Nat) (v : BitVec 8) : readByte (writeByte s pa v) pa = v :=
  sget_sset_same unlistedByte s.mem (memKey s pa) v

theorem readByte_writeByte_other {s : State} {a pa : Nat} (v : BitVec 8) (h : memKey s a ≠ memKey s pa) :
    readByte (writeByte s pa v) a = readByte s a :=
  sget_sset_other unlistedByte s.mem v h

theorem aperturePut_writable {s : State} {off : Nat} (cfg : s.host.cfgd = true) (lt : off < 2 ^ 36)
    (w : ApertureWritable (aperturePlace s off)) (v : BitVec 8) : aperturePut s off v = writeByte s (aperturePlace s off) v := by
  rw [aperturePut, if_neg (by omega), if_neg (by simp [cfg]), aperturePa_eq]
  rcases w with ⟨d, h⟩ | h <;> rw [h]

theorem aperturePut_discarded {s : State} {off : Nat} (cfg : s.host.cfgd = true)
    (h : off < 2 ^ 36 → ¬ ApertureWritable (aperturePlace s off)) (v : BitVec 8) : aperturePut s off v = s := by
  rw [aperturePut]
  by_cases beyond : 2 ^ 36 ≤ off
  · rw [if_pos beyond]
  · have h := h (by omega)
    rw [if_neg beyond, if_neg (by simp [cfg]), aperturePa_eq]
    split
    · next d row => exact absurd (.inl ⟨d, row⟩) h
    · next row => exact absurd (.inr row) h
    · rfl

/-- One byte through the aperture: memory alone changes, and of it what is not the byte's own place stays. -/
theorem aperturePut_cases {s : State} (cfg : s.host.cfgd = true) (off : Nat) (v : BitVec 8) :
    ∃ m, aperturePut s off v = { s with mem := m } ∧
    (off < 2 ^ 36 → ApertureWritable (aperturePlace s off) → readByte { s with mem := m } (aperturePlace s off) = v) ∧
    ∀ a, (off < 2 ^ 36 → ApertureWritable a → a ≠ aperturePlace s off) → readByte { s with mem := m } a = readByte s a := by
  by_cases h : off < 2 ^ 36 ∧ ApertureWritable (aperturePlace s off)
  · obtain ⟨lt, w⟩ := h
    refine ⟨_, aperturePut_writable cfg lt w v, fun _ _ => readByte_writeByte_same s _ v, fun a ha => ?_⟩
    refine readByte_writeByte_other v (fun key => ?_)
    rw [memKey_writable s w] at key
    obtain rfl := eq_of_memKey_eq w key
    exact ha lt w rfl
  · exact ⟨s.mem, aperturePut_discarded cfg (fun lt w => h ⟨lt, w⟩) v, fun lt w => absurd ⟨lt, w⟩ h, fun _ _ => rfl⟩

/-- Bytes through the aperture: each that may be written is there, and all other memory is as it was. -/
theorem aperturePuts_cases (bytes : List (BitVec 8)) : ∀ {s : State} (_ : s.host.cfgd = true) (off : Nat),
    ∃ m, aperturePuts s off bytes = { s with mem := m } ∧
    (∀ i < bytes.length, off + i < 2 ^ 36 → ApertureWritable (aperturePlace s (off + i)) →
      readByte { s with mem := m } (aperturePlace s (off + i)) = bytes.getD i 0) ∧
    ∀ a, (∀ i < bytes.length, off + i < 2 ^ 36 → ApertureWritable a → a ≠ aperturePlace s (off + i)) →
      readByte { s with mem := m } a = readByte s a := by
  induction bytes with
  | nil => exact fun _ _ => ⟨_, rfl, by simp, fun _ _ => rfl⟩
  | cons v r ih =>
    intro s cfg off
    obtain ⟨m1, put, here, others⟩ := aperturePut_cases cfg off v
    obtain ⟨m, puts, there, rest⟩ := ih (s := { s with mem := m1 }) cfg (off + 1)
    refine ⟨m, by rw [aperturePuts, put, puts], fun i hi lt w => ?_, fun a ha => ?_⟩
    · cases i with
      | zero =>
        refine (rest _ fun j _ _ _ => ?_).trans (here lt w)
        exact fun same => by have := (aperturePlace_inj s).mp same; omega
      | succ j =>
        rw [show off + (j + 1) = off + 1 + j by omega] at lt w ⊢
        exact there j (by simpa using hi) lt w
    · refine (rest a fun j hj lt w => ?_).trans (others a fun lt w => ha 0 (by simp) lt w)
      have := ha (j + 1) (by simpa using hj)
      rw [show off + (j + 1) = off + 1 + j by omega] at this
      exact this lt w

/-- Before configuration bytes through the aperture fill the configuration buffer. -/
theorem aperturePuts_buffer (bytes : List (BitVec 8)) : ∀ {s : State} {off : Nat}, s.host.cfgd = false →
    off + bytes.length ≤ 0x4000000 →
    aperturePuts s off bytes = { s with host := { s.host with cfgBuf := ssetAll 0 s.host.cfgBuf off bytes } } := by
  induction bytes with
  | nil => exact fun _ _ => rfl
  | cons v r ih =>
    intro s off cfg room
    rw [List.length_cons] at room
    have put : aperturePut s off v = { s with host := { s.host with cfgBuf := sset 0 s.host.cfgBuf off v } } := by
      rw [aperturePut, if_neg (by omega), if_pos (by simp [cfg]), if_pos (by omega)]
    rw [aperturePuts, put]
    exact ih cfg (by omega)

/-- A write through the aperture waits on no granule. -/
def apertureOpen (s : State) (off n : Nat) : Bool :=
  !(s.host.cfgd && (List.range n).any (fun i => ckptPending s (aperturePa s (off + i))))

theorem apertureOpen_eq_true_iff (s : State) (off n : Nat) : apertureOpen s off n = true ↔
    (s.host.cfgd = true → ∀ i < n, ckptPending s (aperturePlace s (off + i)) = false) := by
  simp [apertureOpen, aperturePa_eq, imp_iff_not_or]

theorem exec_hostApertureWrite (s : State) (off : BitVec 36) (bytes : List (BitVec 8)) : exec (.hostApertureWrite off bytes) s =
    .next (if apertureOpen s off.toNat bytes.length = true then aperturePuts s off.toNat bytes else s) := by
  split
  · next h =>
    refine asStep_ok ?_
    rw [go_state_then]
    exact go_waitUntil_then h _
  · next h =>
    refine asStep_wait ?_
    rw [go_state_then]
    exact go_bind_error ((go_waitUntil _ s).trans (if_neg h)) _

/-- Settles O36: reads go byte by byte; a write waits for pending granules and then lands byte by byte. -/
theorem apertureAccesses : Obligations.ApertureAccesses := by
  refine ⟨fun s off n cfg => exec_hostApertureRead cfg off n, fun s off bytes cfg => ⟨fun ⟨i, hi, pending⟩ => ?_, fun clear => ?_⟩,
    fun s off bytes cfg room => ⟨_, ?_, fun o => sget_ssetAll 0 bytes o _ _⟩⟩
  · have : ¬ apertureOpen s off.toNat bytes.length = true := by
      rw [apertureOpen_eq_true_iff]
      exact fun h => by simp [h cfg i hi] at pending
    rw [exec_hostApertureWrite, if_neg this]
  · obtain ⟨m, puts, written, kept⟩ := aperturePuts_cases bytes cfg off.toNat
    rw [exec_hostApertureWrite, if_pos ((apertureOpen_eq_true_iff _ _ _).mpr fun _ => clear), puts]
    exact ⟨m, rfl, written, kept⟩
  · rw [exec_hostApertureWrite, if_pos ((apertureOpen_eq_true_iff _ _ _).mpr fun h => by simp [cfg] at h),
      aperturePuts_buffer bytes cfg room]

/-! ### Reset and configuration (03 R56, R57; 01 R14; 06 R156) -/

/-- The near tier is lost with every loss of state. -/
theorem byteAt_wipeMemory_near (n : Nat) (m : List Host.Cell) {a d : Nat} (h : rowOf a = some (.near d)) :
    byteAt (wipeMemory n m) a = 0 := by
  unfold wipeMemory
  rw [byteAt_foldl_sset]
  · exact byteAt_filter_dropped (fun v => by simp [h]) m
  · intro e he hea
    have := (List.mem_filter.mp he).2
    simp [hea, h] at this

/-- The three resets are one operation. -/
theorem exec_reset {i : Instr} (hi : i ∈ [Instr.fundamentalReset, .hotReset, .functionLevelReset]) (s : State) :
    exec i s = .next (resetDevice s) := by
  simp only [List.mem_cons, List.not_mem_nil, or_false] at hi
  rcases hi with rfl | rfl | rfl <;> rfl

theorem resetEffects : ResetEffects := fun s _ hi =>
  ⟨wipeMemory s.fresh s.mem, s.fresh + 1, exec_reset hi s, fun _ ha => byteAt_wipeMemory_holdUp _ _ ha,
    fun _ _ ha => byteAt_wipeMemory_near _ _ ha⟩

/-- The image check has ended with a result. -/
def checked (s : State) (r : BitVec 4) : State :=
  { s with host := { s.host with cfgBusy := false, cfgRes := r, cfgd := decide (r = 1) } }

/-- A configured device in IDLE, the records of the last save classified. -/
def configured (s : State) : State :=
  classify { checked s 1 with pm := { s.pm with st := .idle, clk := 17 } }

/-- The result of an image check: the verdict, or 3 for a length that no image has. -/
def checkResult (s : State) (v : BitVec 4) : BitVec 4 :=
  if 1 ≤ s.host.cfgLen.toNat && s.host.cfgLen.toNat ≤ 2 ^ 26 then v else 3

theorem checkResult_legal {s : State} (v : BitVec 4) (lo : 1 ≤ s.host.cfgLen.toNat) (hi : s.host.cfgLen.toNat ≤ 2 ^ 26) :
    checkResult s v = v := if_pos (by simp only [lo, hi, decide_true, Bool.and_self])

theorem checkResult_illegal {s : State} (v : BitVec 4) (h : s.host.cfgLen.toNat = 0 ∨ 2 ^ 26 < s.host.cfgLen.toNat) :
    checkResult s v = 3 := if_neg (by rw [Bool.and_eq_true, decide_eq_true_eq, decide_eq_true_eq]; omega)

theorem exec_configurationCheckComplete {s : State} {v r : BitVec 4} (busy : s.host.cfgBusy = true) (hup : s.pm.hup = false)
    (result : checkResult s v = r) (lo : 1 ≤ r.toNat) (hi : r.toNat ≤ 4) :
    exec (.configurationCheckComplete v) s = .next (if r = 1 then configured s else checked s r) := by
  subst result
  refine asStep_ok ?_
  rw [go_state_then]
  dsimp only
  rw [go_state_then, go_needs_then (by simp [busy, hup])]
  refine (go_needs_then (ok := 1 ≤ (checkResult s v).toNat && (checkResult s v).toNat ≤ 4)
    (by simp only [lo, hi, decide_true, Bool.and_self]) _).trans ?_
  rw [go_change_then]
  by_cases one : checkResult s v = 1
  · rw [if_pos one]
    unfold checkResult at one
    rw [if_pos one, go_change_then, go_change, one]
    rfl
  · rw [if_neg one]
    unfold checkResult at one
    rw [if_neg one]
    rfl

/-- A write of CFG_CMD with GO starts the check, unless one runs or has passed. -/
theorem cfgCommand_eq (w : Word) (s : State) : cfgCommand w s =
    if s.host.cfgBusy = true ∨ s.host.cfgd = true ∨ w.getLsbD 63 = false then s
    else { s with host := { s.host with cfgBusy := true, cfgLen := w.extractLsb' 0 27 } } := by
  rw [cfgCommand]
  simp only [Bool.or_eq_true, Bool.not_eq_true', or_assoc]

theorem exec_gangLinkTrainingComplete {s : State} {g : BitVec 6} {n : BitVec 7} (cfg : s.host.cfgd = true) (down : s.gang.linksUp = false)
    (lo : 2 ≤ n.toNat) (hi : n.toNat ≤ 64) (place : g.toNat < n.toNat) (tick : Word) : exec (.gangLinkTrainingComplete tick g n) s =
      .next { s with gang := { tick := tick, gidx := g, gsize := n, linksUp := true } } := by
  refine asStep_ok ?_
  rw [go_state_then, go_needs_then (by simp [cfg, down]), go_needs_then (by simp [lo, hi, place]), go_change]

theorem exec_gangTimeBaseTick {s : State} (on : s.pm.st ≠ .off) (unspent : s.pm.st ≠ .spent)
    (free : enginesRun s = true → ∀ e ∈ s.programs, tickOpen s e.2 = false) :
    exec .gangTimeBaseTick s = .next { s with gang := { s.gang with tick := s.gang.tick + 1 } } := by
  have free : (!(enginesRun s && s.programs.any (fun e => tickOpen s e.2))) = true := by
    cases run : enginesRun s
    · rfl
    · simpa using free run
  refine asStep_ok ?_
  rw [go_state_then, go_waitUntil_then (by simp [on, unspent]), go_waitUntil_then free, go_change]

/-- A clause for the write, the end of the check, the links and the time base. -/
theorem configuration : Configuration := by
  refine ⟨fun w s => ⟨fun idle new go => ?_, fun h => ?_⟩,
    fun v s busy hup => ⟨fun len => ?_, fun lo hi two four => ?_, fun lo hi one => ?_⟩,
    fun tick g n s cfg down lo hi place => exec_gangLinkTrainingComplete cfg down lo hi place tick, fun s st free => ?_⟩
  · refine congrArg _ ((cfgCommand_eq w s).trans (if_neg ?_))
    simp [idle, new, go]
  · exact congrArg _ ((cfgCommand_eq w s).trans (if_pos h))
  · rw [exec_configurationCheckComplete busy hup (checkResult_illegal v len) (by decide) (by decide)]
    rfl
  · have : v ≠ 1 := by rintro rfl; exact absurd two (by decide)
    rw [exec_configurationCheckComplete busy hup (checkResult_legal v lo hi) (by omega) four, if_neg this]
    rfl
  · subst one
    rw [exec_configurationCheckComplete busy hup (checkResult_legal 1 lo hi) (by decide) (by decide), if_pos rfl, configured]
    rfl
  · refine exec_gangTimeBaseTick ?_ ?_ free <;> intro h <;> simp [h] at st

/-- Settles O35: a reset is the loss of state, and each step of configuration by the lemma that says what it does. -/
theorem resetAndConfiguration : Obligations.ResetAndConfiguration := ⟨resetEffects, configuration⟩

/-! ### Pool decoders (07 R164) -/

theorem decWriteHigh_enabled {s : State} {n : Nat} {w : Word} (en : decEn (poolDecOf s n) = true) (set : w.getLsbD 63 = true) :
    decWriteHigh s n w = s := by
  rw [decWriteHigh, if_pos en, if_pos set]

theorem decWriteHigh_drains {s : State} {n : Nat} {w : Word} (en : decEn (poolDecOf s n) = true) (clear : w.getLsbD 63 = false) :
    decWriteHigh s n w = { s with host := { s.host with
      poolDrain := aset s.host.poolDrain n (((aget s.host.poolDrain n).map (fun e => e.1)).getD s.nextId, w) } } := by
  rw [decWriteHigh, if_pos en, if_neg (by simpa using clear)]

theorem decWriteHigh_enables {s : State} {n : Nat} {w : Word} (off : decEn (poolDecOf s n) = false)
    (ok : decOk s n (w ++ (poolDecOf s n).extractLsb' 0 64) = true) :
    decWriteHigh s n w = setDec s n (w ++ (poolDecOf s n).extractLsb' 0 64) := by
  have pass : ¬ (w.getLsbD 63 && !decOk s n (decWith (decLow (poolDecOf s n)) w)) = true := by
    rw [decWith, decLow, ok]
    simp
  rw [decWriteHigh, if_neg (by simpa using off), if_neg pass]
  rfl

theorem exec_poolDecoderEnable {s : State} {w : Word} (cfg : s.host.cfgd = true) (set : w.getLsbD 63 = true) (n : BitVec 3) :
    exec (.poolDecoderEnable n w) s = .next (decWriteHigh s n.toNat w) := by
  show Host.Outcome.next _ = _
  rw [if_pos cfg, or_topBit set]

theorem exec_poolDecoderDisable {s : State} {w : Word} (cfg : s.host.cfgd = true) (clear : w.getLsbD 63 = false) (n : BitVec 3) :
    exec (.poolDecoderDisable n w) s = .next (decWriteHigh s n.toNat w) := by
  show Host.Outcome.next _ = _
  rw [if_pos cfg, and_lowBits clear]

/-- A decoder whose drain has ended, with the word that ended it. -/
def decDrained (s : State) (n : Nat) (w : Word) : State :=
  let t := setDec s n (decWith (decLow (poolDecOf s n)) (w &&& 0x7FFFFFFFFFFFFFFF))
  { t with host := { t.host with poolDrain := adel t.host.poolDrain n } }

theorem exec_poolDecoderDrained {s : State} {n : BitVec 3} {e : Nat × Word} (drains : aget s.host.poolDrain n.toNat = some e)
    (free : decBusy s (poolDecOf s n.toNat) = false) : exec (.poolDecoderDrained n) s = .next (decDrained s n.toNat e.2) := by
  refine asStep_ok ?_
  rw [go_state_then]
  dsimp only
  rw [go_need_then drains, go_waitUntil_then (by simp [free]), go_change_then, go_change]
  rfl

theorem decEn_decWith (lo hi : Word) : decEn (decWith lo hi) = hi.getLsbD 63 := by
  rw [decEn, decWith, BitVec.getLsbD_append]
  rfl

theorem decEn_decDrained (s : State) (n : Nat) (w : Word) : decEn (poolDecOf (decDrained s n w) n) = false := by
  have : poolDecOf (decDrained s n w) n = decWith (decLow (poolDecOf s n)) (w &&& 0x7FFFFFFFFFFFFFFF) := sget_sset_same _ _ _ _
  rw [this, decEn_decWith]
  simp

theorem poolDecOf_decDrained_other (s : State) {n m : Nat} (w : Word) (h : m ≠ n) : poolDecOf (decDrained s n w) m = poolDecOf s m :=
  sget_sset_other _ _ _ h

/-! ### Writes of the window (03 R53, R77) -/

theorem thrWriteLow_armed {s : State} {n : Nat} {w : Word} {k : Context} (src : (w.extractLsb' 48 5).toNat ≤ 5)
    (live : ctxOf s (w.extractLsb' 53 6).toNat = some k) (prio : (w.extractLsb' 60 3).toNat ≤ k.ceiling.toNat)
    (aligned : (thrOf s n).hi.toNat % 64 = 0) :
    thrWriteLow s n w = setThr s n { thrOf s n with lo := w, fired := false, seen := false } := by
  simp only [thrWriteLow, fld_eq_toNat_extractLsb', src, live, prio, aligned, decide_true, Bool.and_self, beq_self_eq_true, if_true]

/-- A write of the window that is one change of the state. -/
theorem exec_registerWrite_change {addr : BitVec 16} {size : BitVec 4} {w : Word} {s t : State}
    (h : (windowWrite addr.toNat size.toNat w).go s = (.ok (), t)) : exec (.registerWrite false addr size w) s = .next t :=
  asStep_ok h

/-- A clause for each register: the decoders, a registration's word at +0, and the addresses of the window. -/
theorem windowRegisters : WindowRegisters := by
  refine ⟨fun n w s cfg set => ⟨fun en => ?_, fun off ok => ?_⟩, fun n w s cfg clear en => ?_, fun n s drains free => ?_,
    fun n w s k cfg src live prio aligned => ?_, fun w s => ⟨rfl, rfl, rfl, rfl, fun cfg => ?_, fun cfg clears => ?_⟩⟩
  · rw [exec_poolDecoderEnable cfg set, decWriteHigh_enabled en set]
  · rw [exec_poolDecoderEnable cfg set, decWriteHigh_enables off ok]
  · rw [exec_poolDecoderDisable cfg clear, decWriteHigh_drains en clear]
  · obtain ⟨e, drains⟩ := Option.isSome_iff_exists.mp drains
    exact ⟨_, exec_poolDecoderDrained drains free, decEn_decDrained s _ _, (aget_adel _ _ _).trans (if_pos rfl), rfl,
      fun m hm => poolDecOf_decDrained_other s _ hm⟩
  · show Host.Outcome.next _ = _
    rw [if_pos cfg, thrWriteLow_armed src live prio aligned]
  · exact exec_registerWrite_change (by simp [windowWrite, go_state_then, cfg])
  · exact exec_registerWrite_change (by simp [windowWrite, go_state_then, cfg, clears])

/-! ### Threshold sampling (03 R77, R78) -/

/-- The model's test for a registration that a sampling period is for. -/
theorem thrDue_iff (src0 : Bool) (t : Threshold) : (t.lo.getLsbD 63 && (fld t.lo 48 5 == 0) == src0) = true ↔ ThrDue src0 t := by
  rw [ThrDue, ← fld_eq_zero_iff]
  cases src0 <;> simp

/-- A registration once it has tested a value. -/
def sampledThr (t : Threshold) (v : BitVec 32) : Threshold :=
  { t with last := v, seen := true, fired := if t.fired then !rearms t v else !t.fired && crosses t v }

/-- A source's value is read or drawn, and nothing else happens. -/
theorem keeps_thrValue (n : Nat) (t : Threshold) : Keeps Reads (thrValue n t) := by
  have C := reads_chains
  unfold thrValue
  refine Keeps.bind C (Keeps.state C) (fun s => ?_)
  dsimp only
  split
  · exact Keeps.pure C _
  · exact Keeps.pure C _
  · exact Keeps.pure C _
  · exact Keeps.bind C (Keeps.bind C keeps_draw (fun _ => Keeps.pure C _)) (fun _ => Keeps.pure C _)

theorem thrValue_host {n : Nat} {t : Threshold} {s s1 : State} {v : BitVec 32} (h : (thrValue n t).go s = (.ok v, s1)) :
    s1.host = s.host := by
  have := (keeps_thrValue n t s).host
  rwa [h] at this

theorem go_sampleThr_quiet {n : Nat} {s s1 : State} {v : BitVec 32} (value : (thrValue n (thrOf s n)).go s = (.ok v, s1))
    (fires : (!(thrOf s n).fired && crosses (thrOf s n) v) = false) :
    (sampleThr n).go s = (.ok (), setThr s1 n (sampledThr (thrOf s n) v)) := by
  unfold sampleThr
  rw [go_state_then]
  dsimp only
  rw [go_bind_ok value, go_change_then, if_neg (by simp [fires])]
  rfl

theorem go_sampleThr_fires {n : Nat} {s s1 u : State} {v : BitVec 32} (value : (thrValue n (thrOf s n)).go s = (.ok v, s1))
    (fires : (!(thrOf s n).fired && crosses (thrOf s n) v) = true)
    (rel : (release n (sampledThr (thrOf s n) v)).go (setThr s1 n (sampledThr (thrOf s n) v)) = (.ok (), u)) :
    (sampleThr n).go s = (.ok (), u) := by
  unfold sampleThr
  rw [go_state_then]
  dsimp only
  rw [go_bind_ok value, go_change_then, if_pos fires]
  exact rel

/-- A registration's turn in a sampling period. -/
def sampleTurn (src0 : Bool) (n : Nat) (_ : PUnit) : Act (ForInStep PUnit) := do
  let t := thrOf (← state) n
  if t.lo.getLsbD 63 && (fld t.lo 48 5 == 0) == src0 then do
    sampleThr n
    pure (.yield ⟨⟩)
  else pure (.yield ⟨⟩)

theorem go_sampleTurn_idle {src0 : Bool} {n : Nat} {s : State} (h : ¬ ThrDue src0 (thrOf s n)) (x : PUnit) :
    (sampleTurn src0 n x).go s = (.ok (.yield ⟨⟩), s) := by
  rw [← thrDue_iff] at h
  unfold sampleTurn
  rw [go_state_then]
  dsimp only
  rw [if_neg h, go_pure]

theorem go_sampleTurn_due {src0 : Bool} {n : Nat} {s t : State} (h : ThrDue src0 (thrOf s n)) (run : (sampleThr n).go s = (.ok (), t))
    (x : PUnit) : (sampleTurn src0 n x).go s = (.ok (.yield ⟨⟩), t) := by
  rw [← thrDue_iff] at h
  unfold sampleTurn
  rw [go_state_then]
  dsimp only
  rw [if_pos h, go_bind_ok run, go_pure]

theorem answers_sampleTurn (src0 : Bool) (n : Nat) (x : PUnit) : Answers (sampleTurn src0 n x) := by
  refine Answers.bind Answers.state (fun s => ?_)
  dsimp only
  split
  · exact Answers.bind (answers_sampleThr n) (fun _ => Answers.pure _)
  · exact Answers.pure _

theorem exec_thresholdSample {s u : State} {src0 : Bool} (cfg : s.host.cfgd = true) (hup : s.pm.hup = false)
    (runs : src0 = true → s.pm.st = .run) (h : (forIn (List.range 64) ⟨⟩ (sampleTurn src0)).go s = (.ok ⟨⟩, u)) :
    exec (.thresholdSample src0) s = .next u := by
  refine asStep_ok ?_
  rw [go_state_then, go_needs_then (by cases src0 <;> simp_all)]
  exact go_bind_ok h _

/-- The registrations other than the one that is due stay as they are through a period. -/
theorem go_sampling_alone {s t : State} {src0 : Bool} {k : Nat} (hk : k < 64) (due : ThrDue src0 (thrOf s k))
    (alone : ∀ n < 64, n ≠ k → ¬ ThrDue src0 (thrOf s n)) (run : (sampleThr k).go s = (.ok (), t))
    (same : ∀ n, n ≠ k → (thrOf t n).lo = (thrOf s n).lo) :
    (forIn (List.range 64) ⟨⟩ (sampleTurn src0)).go s = (.ok ⟨⟩, t) := by
  rw [go_forIn_range hk (fun a ha => go_sampleTurn_idle (alone a (by omega) (by omega))) (go_sampleTurn_due due run)]
  refine go_forIn_idle fun a ha => go_sampleTurn_idle ?_
  simp only [List.mem_map, List.mem_range] at ha
  obtain ⟨i, hi, rfl⟩ := ha
  have := alone (k + 1 + i) (by omega) (by omega)
  rwa [ThrDue, same _ (by omega)]

theorem thrOf_setThr_other (s : State) {n m : Nat} (t : Threshold) (h : m ≠ n) : thrOf (setThr s n t) m = thrOf s m :=
  sget_sset_other _ _ _ h

/-- The period is the due registration's sample: the others, before it and after it, are passed over. -/
theorem thresholdSampling : ThresholdSampling := by
  intro s src0 k cfg hup runs hk due alone
  obtain ⟨v, s1, value⟩ := answers_thrValue k (thrOf s k) s
  refine ⟨v, s1, value, fun quiet => ?_, fun fires => ?_⟩
  · refine exec_thresholdSample cfg hup runs (go_sampling_alone hk due alone (go_sampleThr_quiet value quiet) fun n hn => ?_)
    rw [thrOf_setThr_other _ _ hn, thrOf, thrValue_host value, thrOf]
  · obtain ⟨⟨⟩, u, rel⟩ := answers_release k (sampledThr (thrOf s k) v) (setThr s1 k (sampledThr (thrOf s k) v))
    have run := go_sampleThr_fires value fires rel
    obtain ⟨⟨⟩, z, whole⟩ := Answers.forIn (List.range 64) (sampleTurn src0) (answers_sampleTurn src0) ⟨⟩ s
    refine ⟨u, z, rel, exec_thresholdSample cfg hup runs whole, fun same => ?_⟩
    rw [go_sampling_alone hk due alone run same] at whole
    exact (congrArg Prod.snd whole).symm

/-- Settles O38: each register by the lemma that says what its write does, and a period of sampling. -/
theorem windowAndThresholds : Obligations.WindowAndThresholds := ⟨windowRegisters, thresholdSampling⟩

/-! ### Monitor units (03 R79, R80; 00 R3) -/

theorem monBin_eq_monitorBin (cfg : Word) (v : BitVec 32) : monBin cfg v = monitorBin cfg v := by
  unfold monBin monitorBin
  rw [fld_eq_toNat_extractLsb', fld_eq_toNat_extractLsb']
  cases cfg.getLsbD 39 <;> rfl

/-- What the model's capture of a sample does is what the statement says of it. -/
theorem sampled_take (m : Monitor) (v : BitVec 32) : Sampled m v (m.take v) := by
  refine ⟨rfl, fun k => ?_⟩
  rw [Monitor.take, supd, sget_sset, monBin_eq_monitorBin]
  by_cases bin : k = monitorBin m.cfg v
  · subst bin
    simp
  · simp [bin]

theorem exec_monitorSample {s : State} {n : BitVec 6} (cfg : s.host.cfgd = true) (runs : enginesRun s = true)
    (en : (unitOf s n.toNat).cfg.getLsbD 63 = true)
    (src : (unitOf s n.toNat).cfg.extractLsb' 48 8 = 4 ∨ (unitOf s n.toNat).cfg.extractLsb' 48 8 = 5) (v : BitVec 32) :
    exec (.monitorSample n v) s = .next (setMon s n.toNat ((unitOf s n.toNat).take v)) := by
  have takes : (s.host.cfgd && (unitOf s n.toNat).cfg.getLsbD 63 &&
      (fld (unitOf s n.toNat).cfg 48 8 == 4 || fld (unitOf s n.toNat).cfg 48 8 == 5)) = true := by
    rw [fld_eq_toNat_extractLsb', cfg, en]
    rcases src with src | src <;> rw [src] <;> rfl
  refine asStep_ok ?_
  rw [go_state_then]
  refine (go_needs_then takes _).trans ?_
  rw [go_waitUntil_then runs, go_change]
  rfl

/-- The model's test for a write of MON_CFG that is ignored. -/
theorem monWrite_test (w : Word) :
    (w.getLsbD 63 && (6 < fld w 48 8 || fld w 56 6 != 0 || fld w 37 2 != 0)) = true ↔ ¬ MonLegal w := by
  simp only [MonLegal, fld_eq_toNat_extractLsb' w 48 8, Bool.and_eq_true, Bool.or_eq_true, fld_ne_zero_iff, decide_eq_true_eq]
  cases w.getLsbD 63
  · simp
  · simp only [true_and, Bool.true_eq_false, false_or]
    rw [← Nat.not_le, or_assoc, not_and_or, not_and_or]

/-- The fields of MON_CFG that a unit keeps. -/
def monKept : Word := 0x80FFFF9FFFFFFFFF

theorem monWrite_ignored {s : State} {n : Nat} {w : Word} (h : ¬ MonLegal w) : monWrite s n w = s := by
  rw [monWrite, if_pos ((monWrite_test w).mpr h)]

theorem monWrite_taken {s : State} {n : Nat} {w : Word} (h : MonLegal w) : monWrite s n w =
    setMon s n { (if w.getLsbD 62 = true then cleared (unitOf s n) else unitOf s n) with cfg := w &&& monKept } := by
  rw [monWrite, if_neg fun bad => (monWrite_test w).mp bad h]
  rfl

theorem exec_monCfgWrite {s : State} (cfg : s.host.cfgd = true) (n : BitVec 6) (w : Word) :
    exec (.monCfgWrite n w) s = .next (monWrite s n.toNat w) := by
  show Host.Outcome.next _ = _
  rw [if_pos cfg]

/-- A clause for a sample and one for a write of MON_CFG. -/
theorem monitorRegisters : MonitorRegisters := by
  refine ⟨fun n v s cfg runs en src => ⟨_, exec_monitorSample cfg runs en src v, sampled_take _ v⟩,
    fun n w s cfg => ⟨fun bad => ?_, fun legal => ⟨w &&& monKept, ?_, getLsbD_and_kept (by decide), extractLsb'_and_kept (by decide),
      getLsbD_and_kept (by decide), extractLsb'_and_kept (by decide), extractLsb'_and_cleared (by decide),
      extractLsb'_and_cleared (by decide)⟩⟩⟩
  · rw [exec_monCfgWrite cfg, monWrite_ignored bad]
  · rw [exec_monCfgWrite cfg, monWrite_taken legal]

/-! ### Events that monitor units capture (03 R79, Table 9) -/

theorem unitOf_setMon (s : State) (n k : Nat) (m : Monitor) : unitOf (setMon s n m) k = if k = n then m else unitOf s k :=
  sget_sset _ _ _ _ _

/-- Units take a value one after another: each of them once, and no other. -/
theorem unitOf_takeAll {l : List Nat} (once : l.Nodup) (v : BitVec 32) (n : Nat) : ∀ s : State,
    unitOf (l.foldl (fun s k => setMon s k ((unitOf s k).take v)) s) n = if n ∈ l then (unitOf s n).take v else unitOf s n := by
  induction l with
  | nil => exact fun _ => rfl
  | cons k r ih =>
    intro s
    obtain ⟨hk, hr⟩ := List.nodup_cons.mp once
    rw [List.foldl_cons, ih hr, unitOf_setMon]
    by_cases h : n = k
    · subst h
      simp [hk]
    · simp [h]

theorem nodup_capturing (s : State) (die src : Nat) (core : Option Nat) : (capturing s die src core).Nodup :=
  (List.nodup_range.map fun _ _ => Nat.add_left_cancel).filter _

theorem unitOf_monTake (s : State) (die src : Nat) (core : Option Nat) (v : BitVec 32) (n : Nat) :
    unitOf (monTake s die src core v) n = if n ∈ capturing s die src core then (unitOf s n).take v else unitOf s n :=
  unitOf_takeAll (nodup_capturing s die src core) v n s

/-- The units that take a core's event are those that capture its source. -/
theorem mem_capturing_iff {s : State} {n src c : Nat} (hn : n < 64) :
    n ∈ capturing s (coreDie c) src (some (coreLocal c)) ↔ CapturesCore s n src c := by
  have die : n ∈ (List.range 16).map (16 * coreDie c + ·) ↔ n / 16 = c / 64 := by
    rw [List.mem_map, coreDie]
    constructor
    · rintro ⟨i, hi, rfl⟩
      rw [List.mem_range] at hi
      omega
    · exact fun h => ⟨n % 16, List.mem_range.mpr (by omega), by omega⟩
  have takes : (unitOf s n).captures src (some (coreLocal c)) = true ↔ (unitOf s n).cfg.getLsbD 63 = true ∧
      ((unitOf s n).cfg.extractLsb' 48 8).toNat = src ∧ ((unitOf s n).cfg.extractLsb' 40 8).toNat = c % 64 := by
    simp [Monitor.captures, fld_eq_toNat_extractLsb', coreLocal, and_assoc]
  rw [capturing, List.mem_filter, die]
  exact (and_congr_right fun _ => takes).trans ⟨fun h => ⟨hn, h⟩, fun h => h.2⟩

/-- The units that capture an event of a core have taken a sample, and the others have not. -/
def EventTaken (s v : State) (src c : Nat) (x : BitVec 32) : Prop :=
  ∀ n, n < 64 → (CapturesCore s n src c → Sampled (unitOf s n) x (unitOf v n)) ∧ (¬ CapturesCore s n src c → unitOf v n = unitOf s n)

theorem eventTaken_monTake (s : State) (src c : Nat) (x : BitVec 32) :
    EventTaken s (monTake s (coreDie c) src (some (coreLocal c)) x) src c x := by
  intro n hn
  rw [unitOf_monTake]
  refine ⟨fun h => ?_, fun h => if_neg (mt (mem_capturing_iff hn).mp h)⟩
  rw [if_pos ((mem_capturing_iff hn).mpr h)]
  exact sampled_take _ x

theorem eventTaken_monFree (s : State) (src c : Nat) : ∃ x, EventTaken s (monFree s (coreDie c) src (some (coreLocal c))) src c x := by
  unfold monFree
  split
  · next none =>
    refine ⟨0, fun n hn => ⟨fun h => ?_, fun _ => rfl⟩⟩
    rw [List.isEmpty_iff] at none
    have := (mem_capturing_iff hn).mpr h
    simp [none] at this
  · exact ⟨_, eventTaken_monTake { s with fresh := s.fresh + 1 } src c _⟩

/-- What units take depends on the host's registers alone. -/
theorem EventTaken.of_host {s s' v v' : State} {src c : Nat} {x : BitVec 32} (h : EventTaken s v src c x) (hs : s'.host = s.host)
    (hv : v'.host = v.host) : EventTaken s' v' src c x := by
  unfold EventTaken CapturesCore unitOf at h ⊢
  rwa [hs, hv]

@[simp] theorem updSide_host (s : State) (c b : Nat) (rack : Bool) (f : Side → Side) : (updSide s c b rack f).host = s.host := rfl

theorem ringOf_updSide (s : State) (c b : Nat) (rack : Bool) (f : Side → Side) (k : Nat) :
    ringOf (updSide s c b rack f) c b k = ringOf s c b k := by
  rw [ringOf, updSide, bankOf_updBank]
  cases rack <;> rfl

theorem writeToken_host (s : State) (c b : Nat) (t : TokenDue) : (writeToken s c b t).host = s.host := by
  unfold writeToken
  dsimp only
  split
  · rfl
  · split <;> rfl
  · split <;> rfl

theorem exec_copyTokenWrite {s : State} {core : BitVec 8} {k b : Nat} {t : TokenDue} (due : findToken s core.toNat k = some (b, t)) :
    exec (.copyTokenWrite core k) s =
      .next (monFree (writeToken s core.toNat b t) (coreDie core.toNat) 0 (some (coreLocal core.toNat))) := by
  refine asStep_ok ?_
  dsimp only
  rw [go_state_then, due]
  dsimp only
  rw [go_change_then, go_change]

/-! ### A side core's pop of a ring (14 R406) -/

section
variable {w : Who} {rack : Bool} {s u : State}

/-- A side core's turn whose instruction ends. -/
theorem sideStep_ends (turn : SideTurn w rack s) {n : Nat} {body : SideAgent → Act (Option Word)} {t : Option Word}
    (h : (body { w := w, rack := rack, k := side w rack s }).go s = (.ok t, u)) :
    sideStep n s body = .next (updSide u w.core w.bank rack (fun k =>
      { k with pc := t.getD (k.pc + BitVec.ofNat 64 n), instret := k.instret + 1 })) := by
  unfold side at h
  rw [sideStep, turn.actor]
  simp only [turn.who, turn.runs, Bool.not_true, Bool.false_eq_true, if_false, h]

theorem go_legal_then {β : Type} {ok : Bool} (h : ok = true) (f : Unit → Act β) : Act.go (legal ok >>= f) s = (f ()).go s := by
  rw [legal, if_pos h]
  rfl

theorem go_sideRing {a : SideAgent} {v : Word} (name : v.toNat ≤ 7) (en : ringEn (ringOf s a.w.core a.w.bank v.toNat) = true) :
    (sideRing a v).go s = (.ok (v.toNat, ringOf s a.w.core a.w.bank v.toNat), s) := by
  rw [sideRing, go_legal_then (by simp [name]), go_state_then]
  dsimp only
  rw [go_legal_then en, go_pure]

theorem go_tileCount {r v : Word} (lo : 1 ≤ v.toNat) (hi : v.toNat ≤ ringCap r) : (tileCount r v).go s = (.ok v.toNat, s) := by
  rw [tileCount, go_legal_then (by simp [lo, hi]), go_pure]

/-- A register written: the host's registers and the bank's rings stay. -/
theorem go_setX (a : SideAgent) (n : Nat) (v : Word) : ∃ t, (setX a n v).go s = (.ok (), t) ∧ t.host = s.host ∧
    ∀ k, ringOf t a.w.core a.w.bank k = ringOf s a.w.core a.w.bank k := by
  unfold setX
  split
  · exact ⟨s, rfl, rfl, fun _ => rfl⟩
  · exact ⟨_, rfl, rfl, ringOf_updSide s _ _ _ _⟩

theorem popRing_host (s : State) (c b ring n : Nat) : (popRing s c b ring n).host =
    (monTake s (coreDie c) 3 (some (coreLocal c)) (BitVec.ofNat 32 (ringOcc (ringOf s c b ring)))).host := rfl

/-- A pop of tiles that are there: the units take what the ring held. -/
theorem exec_rwaitPop (turn : SideTurn w rack s) (rd rs1 rs2 : BitVec 5) (ok : RingOk w s (sx w rack s rs1.toNat) (sx w rack s rs2.toNat))
    (held : (sx w rack s rs2.toNat).toNat ≤ ringOcc (ringOf s w.core w.bank (sx w rack s rs1.toNat).toNat)) :
    ∃ v, exec (.rwaitPop rd rs1 rs2) s = .next v ∧
      EventTaken s v 3 w.core (BitVec.ofNat 32 (ringOcc (ringOf s w.core w.bank (sx w rack s rs1.toNat).toNat))) := by
  obtain ⟨name, en, lo, hi⟩ := ok
  let a : SideAgent := { w := w, rack := rack, k := side w rack s }
  obtain ⟨t, set, host, rings⟩ := go_setX (s := s) a rd.toNat
    (BitVec.ofNat 64 (ringHead (ringOf s w.core w.bank (sx w rack s rs1.toNat).toNat)))
  have pops : exec (.rwaitPop rd rs1 rs2) s = waitTiles rd rs1 rs2 true s := rfl
  refine ⟨_, pops.trans (sideStep_ends turn (t := none)
    (u := popRing t w.core w.bank (sx w rack s rs1.toNat).toNat (sx w rack s rs2.toNat).toNat) ?_), ?_⟩
  · have ring : (sideRing a (xOf a.k rs1.toNat)).go s = (.ok (_, _), s) := go_sideRing name en
    have count : (tileCount _ (xOf a.k rs2.toNat)).go s = (.ok _, s) := go_tileCount lo hi
    refine (go_bind_ok ring _).trans ?_
    refine (go_bind_ok count _).trans ?_
    refine (go_waitUntil_then (decide_eq_true held) _).trans ?_
    refine (go_bind_ok set _).trans ?_
    rw [if_pos rfl, go_change_then, go_pure]
    rfl
  · have taken := eventTaken_monTake t 3 w.core (BitVec.ofNat 32 (ringOcc (ringOf t w.core w.bank (sx w rack s rs1.toNat).toNat)))
    rw [rings] at taken
    refine taken.of_host host.symm ?_
    rw [updSide_host, popRing_host, rings]

end

/-- A clause for tokens and one for rings. -/
theorem monitoredEvents : MonitoredEvents := by
  refine ⟨fun s core k b t due => ?_, fun w rack s rd rs1 rs2 turn _ ok held => exec_rwaitPop turn rd rs1 rs2 ok held⟩
  obtain ⟨x, taken⟩ := eventTaken_monFree (writeToken s core.toNat b t) 0 core.toNat
  exact ⟨_, x, exec_copyTokenWrite due, taken.of_host (writeToken_host s _ b t).symm rfl⟩

/-- Settles O39: the registers by what one capture does, the events by which units take them. -/
theorem monitorUnits : Obligations.MonitorUnits := ⟨monitorRegisters, monitoredEvents⟩

/-! ### CTX_CMD (03 R58 to R61, R56) -/

/-- The write of CTX_CMD, whatever its operation. -/
theorem exec_ctxCmd {w : Word} {i : Instr} (hi : i ∈ [Instr.ctxCmdCreate w, .ctxCmdRemove w, .ctxCmdReloadGrants w]) (s : State) :
    exec i s = asStep (ctxCommand w) s := by
  simp only [List.mem_cons, List.not_mem_nil, or_false] at hi
  rcases hi with rfl | rfl | rfl <;> rfl

/-- A command that runs, with the result it will report. -/
def commandRuns (w : Word) (r : BitVec 3) (u : State) : State :=
  { u with host := { u.host with ctxBusy := true, ctxPending := some (w, r) } }

/-- The operation that a write of CTX_CMD names. -/
def ctxOperation (w : Word) : Nat → Act (BitVec 3)
  | 0 => createContext (cmdCtx w) (cmdAddr w)
  | 1 => removeContext (cmdCtx w)
  | 2 => reloadGrants (cmdCtx w) (cmdAddr w)
  | _ => pure 2

theorem go_ctxCommand_refused {w : Word} {s : State} (h : ctxRefused s = true) :
    (ctxCommand w).go s = (.ok (), { s with host := { s.host with ctxRes := 1 } }) := by
  unfold ctxCommand
  rw [go_state_then, if_pos h, go_change]

theorem go_ctxCommand {w : Word} {s u : State} {r : BitVec 3} (h : ctxRefused s = false) (high : w.extractLsb' 52 12 = 0)
    (low : w.extractLsb' 8 4 = 0) (run : (ctxOperation w (cmdOp w)).go s = (.ok r, u)) :
    (ctxCommand w).go s = (.ok (), commandRuns w r u) := by
  have fields : ¬ (fld w 52 12 != 0 || fld w 8 4 != 0) = true := by
    rw [Bool.or_eq_true, fld_ne_zero_iff, fld_ne_zero_iff]
    simp [high, low]
  unfold ctxCommand
  rw [go_state_then, if_neg (by simp [h])]
  dsimp only
  rw [if_neg fields]
  generalize cmdOp w = op at run
  match op with
  | 0 | 1 | 2 | _ + 3 => exact go_bind_ok run _

section
variable {x pa : Nat} {s : State} {k : Context}

theorem go_createContext_live (h : (ctxOf s x).isSome = true) : (createContext x pa).go s = (.ok 1, s) := by
  unfold createContext
  rw [go_state_then, if_pos h, go_pure]

theorem clearCounters_ctxs (s : State) (old new : BitVec 256) : (clearCounters s old new).ctxs = s.ctxs := by
  refine foldl_ctxs (fun s i => ?_) _ s
  split <;> rfl

theorem clearCounts_ctxs (s : State) (x : Nat) : (clearCounts s x).ctxs = s.ctxs := by
  refine (foldl_ctxs (fun _ _ => ?_) _ _).trans (foldl_ctxs (fun _ _ => ?_) _ s) <;> rfl

/-- A context without a must-save set adds none to the others'. -/
theorem flatMap_save_aset (h : k.save = []) : ∀ {m : List (Nat × Context)}, aget m x = none →
    (aset m x k).flatMap (fun e => e.2.save) = m.flatMap (fun e => e.2.save)
  | [], _ => by simp [aset, h]
  | (j, v) :: r, absent => by
    by_cases hj : x = j
    · subst hj
      simp [aget] at absent
    · have absent : aget r x = none := by simpa [aget, hj] using absent
      rw [aset]
      split
      · simp [h]
      · simp [flatMap_save_aset h absent]

theorem admitted_aset (h : k.save = []) (absent : ctxOf s x = none) (es : List SaveEntry) :
    admitted { s with ctxs := aset s.ctxs x k } es = admitted s es := by
  unfold admitted
  dsimp only
  rw [flatMap_save_aset h absent]

/-- A context created without a must-save set, its counters and counts cleared. -/
def created (s : State) (x : Nat) (k : Context) : State :=
  clearCounts (clearCounters (updCtx { s with ctxs := aset s.ctxs x k } x (fun k => { k with save := [] })) 0 k.ctrMask) x

theorem ctxOf_created (s : State) (x : Nat) (h : k.save = []) : ctxOf (created s x k) x = some k := by
  rw [ctxOf, created, clearCounts_ctxs, clearCounters_ctxs]
  refine (ctxOf_updCtx _ _ _ _).trans ?_
  rw [if_pos rfl, ctxOf, aget_aset_same, Option.map_some, ← h]

/-- A legal descriptor without a declaration creates its context. -/
theorem go_createContext_fits (absent : ctxOf s x = none) (reach : reachable s pa = true)
    (legal : descriptorOk (readBytes s pa 512) = true) (plain : fieldAt (readBytes s pa 512) 0xC8 8 = 0) (room : admitted s [] = true) :
    ∃ u, (createContext x pa).go s = (.ok 0, u) ∧ ctxOf u x = some (contextOf (readBytes s pa 512)) := by
  have none : (readDeclaration x (contextOf (readBytes s pa 512)) (fieldAt (readBytes s pa 512) 0xC8 8)) = pure (some []) := by
    rw [readDeclaration, if_pos plain]
  unfold createContext
  rw [go_state_then, if_neg (by simp [absent]), if_neg (by simp [reach])]
  dsimp only
  rw [if_neg (by simp [legal]), go_change_then, none, pure_bind]
  dsimp only
  rw [go_state_then, admitted_aset rfl absent, if_neg (by simp [room]), go_change_then, go_change_then]
  obtain ⟨_, u, write, kept⟩ := go_devWrite_ctxs x (contextOf (readBytes s pa 512)).fqBase.toNat (List.replicate 32 0)
    (created s x (contextOf (readBytes s pa 512)))
  refine ⟨u, go_bind_ok write _, ?_⟩
  rw [ctxOf, kept]
  exact ctxOf_created s x rfl

theorem go_removeContext_dead (h : ctxOf s x = none) : (removeContext x).go s = (.ok 4, s) := by
  unfold removeContext
  rw [go_state_then, h]
  rfl

/-- A live context is removed, whatever the ends of its launches leave. -/
theorem go_removeContext_live (h : (ctxOf s x).isSome = true) : ∃ u, (removeContext x).go s = (.ok 0, u) ∧ ctxOf u x = none := by
  obtain ⟨k, h⟩ := Option.isSome_iff_exists.mp h
  unfold removeContext
  rw [go_state_then, h]
  dsimp only
  obtain ⟨_, s1, ends⟩ := Answers.forIn (s.launches.filter (fun e => e.2.ctx == x))
    (fun e _ => do endLaunch e.1 (fun _ _ => false) [] 3 0; pure (ForInStep.yield PUnit.unit))
    (fun e _ => (answers_endLaunch e.1 (fun _ _ => false) [] 3 0).bind (fun _ => Answers.pure _)) PUnit.unit s
  rw [go_bind_ok ends, go_change_then]
  obtain ⟨_, s2, aborts⟩ := answers_abortQueued x k k.queued
    (((s1.tasks.filter (fun e => e.2.ctx == x)).map (fun e => e.1)).foldl dropTask s1)
  rw [go_bind_ok aborts, go_change_then, go_change_then, go_change_then, go_pure]
  exact ⟨_, rfl, (aget_adel _ _ _).trans (if_pos rfl)⟩

theorem go_reloadGrants_dead (h : ctxOf s x = none) : (reloadGrants x pa).go s = (.ok 4, s) := by
  unfold reloadGrants
  rw [go_state_then, h]
  rfl

/-- A context with the grants of another descriptor. -/
def granted (n k : Context) : Context :=
  { k with vecMask := n.vecMask, foldMask := n.foldMask, ctrMask := n.ctrMask, monMask := n.monMask }

theorem go_reloadGrants_live (live : ctxOf s x = some k) (reach : reachable s pa = true)
    (legal : descriptorOk (readBytes s pa 512) = true) : (reloadGrants x pa).go s =
      (.ok 0, updCtx (clearCounters s k.ctrMask (contextOf (readBytes s pa 512)).ctrMask) x (granted (contextOf (readBytes s pa 512)))) := by
  unfold reloadGrants
  rw [go_state_then, live]
  dsimp only
  rw [if_neg (by simp [reach, legal]), go_change_then, go_change_then, go_pure]
  rfl

end

theorem exec_ctxCmdComplete {s : State} {w : Word} {r : BitVec 3} (h : s.host.ctxPending = some (w, r)) :
    exec .ctxCmdComplete s = .next { s with host := { s.host with ctxBusy := false, ctxRes := r, ctxPending := none } } := by
  refine asStep_ok ?_
  rw [go_state_then]
  dsimp only
  rw [go_need_then h, go_change]

/-- Settles O40: a refusal, the completion, and each operation by the lemma that says what it answers. -/
theorem contextCommands : Obligations.ContextCommands := by
  intro w s
  refine ⟨fun refused i hi => ?_, fun r pending => exec_ctxCmdComplete pending, fun free high low => ?_⟩
  · rw [exec_ctxCmd hi]
    exact asStep_ok (go_ctxCommand_refused refused)
  have ends : ∀ {i : Instr} {n : Nat} {u : State} {r : BitVec 3}, i ∈ [Instr.ctxCmdCreate w, .ctxCmdRemove w, .ctxCmdReloadGrants w] →
      cmdOp w = n → (ctxOperation w n).go s = (.ok r, u) → exec i s = .next (commandRuns w r u) := by
    rintro i n u r hi rfl run
    rw [exec_ctxCmd hi]
    exact asStep_ok (go_ctxCommand free high low run)
  have op : ∀ {v : BitVec 2}, w.extractLsb' 6 2 = v → cmdOp w = v.toNat := by
    rintro v rfl
    exact fld_eq_toNat_extractLsb' w 6 2
  have ctx : (w.extractLsb' 0 6).toNat = cmdCtx w := (fld_eq_toNat_extractLsb' w 0 6).symm
  have addr : (w.extractLsb' 12 40).toNat * 4096 = cmdAddr w := by rw [cmdAddr, fld_eq_toNat_extractLsb']
  simp only [ctx, addr]
  refine ⟨fun create => ⟨fun live => ends (by simp) (op create) (go_createContext_live live), fun absent => ?_⟩,
    fun remove => ⟨fun dead => ends (by simp) (op remove) (go_removeContext_dead dead), fun live => ?_⟩,
    fun reload => ⟨fun dead => ends (by simp) (op reload) (go_reloadGrants_dead dead), fun k live reach legal =>
      ends (by simp) (op reload) (go_reloadGrants_live live reach legal)⟩⟩
  · obtain ⟨r, u, run⟩ := answers_createContext (cmdCtx w) (cmdAddr w) s
    refine ⟨r, u, run, ends (by simp) (op create) run, fun reach legal plain room => ?_⟩
    obtain ⟨u', fits, made⟩ := go_createContext_fits absent reach legal plain room
    obtain ⟨⟨rfl⟩, rfl⟩ := Prod.mk.inj (run.symm.trans fits)
    exact ⟨rfl, made⟩
  · obtain ⟨u, run, gone⟩ := go_removeContext_live live
    exact ⟨u, run, ends (by simp) (op remove) run, gone⟩

/-! ### Launches (03 R64, R66, R67; 05 R111, R130; 06 R138) -/

section
variable {s s1 s2 s3 u : State} {ctx : BitVec 6} {k : Context} {seq : Nat} {bs : List Byte}

/-- The first queued header of a live context is read. -/
structure HeaderRead (s s1 : State) (x : Nat) (k : Context) (seq : Nat) (bs : List Byte) : Prop where
  runs : shepherdsRun s = true
  live : ctxOf s x = some k
  queued : ∃ rest, k.queued = seq :: rest
  read : (devRead x (headerAddr k seq) 256).go (updCtx s x (fun k => { k with queued := k.queued.drop 1 })) = (.ok (.ok bs), s1)

/-- What is made of a header: the checks in their order, then the launch's start or its rejection. -/
def launchChecks (x seq : Nat) (k : Context) (h : Header) : Act Unit :=
  match headerReason k h with
  | some r => rejectLaunch x seq k h r
  | none => do
    match ← readShape x h with
    | none => rejectLaunch x seq k h 7
    | some (sh, ext) =>
      match ← readStatics x k h sh (List.range sh.ntask) with
      | none => rejectLaunch x seq k h 8
      | some rs =>
        if h.policy != 0 && (k.sstore == 0 || (h.policy != 2 && k.arena == 0)) then rejectLaunch x seq k h 9
        else startLaunch k (newLaunch x seq k h sh rs (launchHash h sh rs ext)) rs

theorem exec_launchRead (h : HeaderRead s s1 ctx.toNat k seq bs)
    (checks : (launchChecks ctx.toNat seq k (headerOf bs)).go s1 = (.ok (), u)) : exec (.launchRead ctx) s = .next u := by
  obtain ⟨rest, queued⟩ := h.queued
  refine asStep_ok ?_
  dsimp only
  rw [go_state_then, go_waitUntil_then h.runs, go_need_then h.live, queued, List.head?_cons, go_need_then rfl, go_change_then,
    go_bind_ok h.read]
  exact checks

theorem launchChecks_rejects {x r : Nat} {h : Header} (reason : headerReason k h = some r) :
    launchChecks x seq k h = rejectLaunch x seq k h r := by
  rw [launchChecks, reason]

/-- The policy of a launch has the stores it needs (03 R66, reason 9). -/
def PolicyFits (k : Context) (h : Header) : Prop := h.policy = 0 ∨ (k.sstore ≠ 0 ∧ (h.policy = 2 ∨ k.arena ≠ 0))

theorem not_policyTest {h : Header} (fits : PolicyFits k h) :
    ¬ (h.policy != 0 && (k.sstore == 0 || (h.policy != 2 && k.arena == 0))) = true := by
  simp only [Bool.and_eq_true, Bool.or_eq_true, bne_iff_ne, beq_iff_eq]
  rintro ⟨some, none | ⟨other, none⟩⟩
  · exact fits.elim some fun f => f.1 none
  · exact fits.elim some fun f => f.2.elim other fun a => a none

theorem go_launchChecks_starts {x : Nat} {h : Header} {sh : Shape} {ext : List Word} {rs : List (Record × List Nat)}
    (reason : headerReason k h = none) (shape : (readShape x h).go s1 = (.ok (some (sh, ext)), s2))
    (statics : (readStatics x k h sh (List.range sh.ntask)).go s2 = (.ok (some rs), s3)) (fits : PolicyFits k h) :
    (launchChecks x seq k h).go s1 = (startLaunch k (newLaunch x seq k h sh rs (launchHash h sh rs ext)) rs).go s3 := by
  rw [launchChecks, reason]
  dsimp only
  rw [go_bind_ok shape]
  dsimp only
  rw [go_bind_ok statics]
  dsimp only
  rw [if_neg (not_policyTest fits)]

end

/-- What the completion of a launch writes and gives back, before the launch is gone. -/
def completing (l : Nat) (q : Launch) : Act Unit := do
  leaveBody l
  completionRecord q 0 0
  publish l

theorem answers_completing (l : Nat) (q : Launch) : Answers (completing l q) :=
  (answers_leaveBody l).bind fun _ => (answers_completionRecord q 0 0).bind fun _ => answers_publish l

theorem exec_launchComplete {s u : State} {l : Nat} {q : Launch} (runs : shepherdsRun s = true) (live : launchOf s l = some q)
    (back : q.returned = fullWeight q) (run : (completing l q).go ((launchTasks s l).foldl dropTask s) = (.ok (), u)) :
    exec (.launchComplete l) s = .next { u with launches := adel u.launches l } := by
  refine asStep_ok ?_
  rw [go_state_then, go_waitUntil_then runs, go_need_then live, go_needs_then (by simp [back]), go_change_then]
  have whole := go_bind_ok run (fun _ => change (fun s => { s with launches := adel s.launches l }))
  unfold completing at whole
  simpa only [bind_assoc, go_change] using whole

/-- Settles O42: rejection, start and completion, each by the lemma that says what the step does; what they run always answers. -/
theorem launchesRun : Obligations.LaunchesRun := by
  refine ⟨fun s s1 ctx k seq rest bs runs live queued read => ?_, fun s l q runs live back => ?_⟩
  · have header : HeaderRead s s1 ctx.toNat k seq bs := ⟨runs, live, ⟨rest, queued⟩, read⟩
    refine ⟨fun r reason => ?_, fun sh ext s2 rs s3 reason shape statics fits => ?_⟩
    · obtain ⟨⟨⟩, u, run⟩ := answers_completionRecord (headerLaunch ctx.toNat seq k (headerOf bs)) 2 (BitVec.ofNat 8 r) s1
      exact ⟨u, run, exec_launchRead header (by rw [launchChecks_rejects reason]; exact run)⟩
    · obtain ⟨⟨⟩, u, run⟩ := answers_startLaunch k
        (newLaunch ctx.toNat seq k (headerOf bs) sh rs (launchHash (headerOf bs) sh rs ext)) rs s3
      exact ⟨u, run, exec_launchRead header ((go_launchChecks_starts reason shape statics fits).trans run)⟩
  · obtain ⟨⟨⟩, u, run⟩ := answers_completing l q ((launchTasks s l).foldl dropTask s)
    exact ⟨u, run, exec_launchComplete runs live back run⟩

end Sys2Proof.Proofs
end

section
/-!
PROOF. The checkpoint engine: the copy of a granule and where its statement departs from it (04 R99 to R104).
-/

namespace Sys2Proof.Proofs

open Sys2Proof.Machine Sys2Proof.Claims

/-! ### Bytes of a granule written elsewhere (04 R101) -/

/-- A byte of near memory after a write is the one written there, or the one that stood there. -/
theorem readByte_writeBytes (bs : List Byte) (a : Nat) : ∀ (s : State) (pa : Nat), pa + bs.length ≤ 0x800000000 →
    readByte (writeBytes s pa bs) a = if pa ≤ a ∧ a < pa + bs.length then bs.getD (a - pa) 0 else readByte s a := by
  induction bs with
  | nil => intro s pa _; simp [writeBytes]
  | cons b r ih =>
    intro s pa fits
    rw [List.length_cons] at fits ⊢
    rw [writeBytes, ih _ _ (by omega)]
    have near : ApertureWritable pa := (apertureWritable_iff pa).mpr (.inl (by omega))
    rcases Nat.lt_trichotomy a pa with below | rfl | beyond
    · rw [if_neg (by omega), if_neg (by omega),
        readByte_writeByte_other b fun key => below.ne (eq_of_memKey_eq near (key.trans (memKey_writable s near)))]
    · rw [if_neg (by omega), if_pos (by omega), readByte_writeByte_same, Nat.sub_self, List.getD_cons_zero]
    · rw [readByte_writeByte_other b fun key => beyond.ne' (eq_of_memKey_eq near (key.trans (memKey_writable s near))),
        show a - pa = a - (pa + 1) + 1 by omega, List.getD_cons_succ]
      exact if_congr (by omega) rfl rfl

/-- Bytes `o` to `o + n` of a granule at `pa`, as a state holds them. -/
def granulePart (s : State) (pa o n : Nat) : List Byte := ((readBytes s pa 65536).drop o).take n

theorem length_granulePart {o n : Nat} (within : o + n ≤ 65536) (s : State) (pa : Nat) : (granulePart s pa o n).length = n := by
  simp only [granulePart, readBytes, List.length_take, List.length_drop, List.length_map, List.length_range]
  omega

theorem getD_granulePart {o n i : Nat} (within : o + n ≤ 65536) (lt : i < n) (s : State) (pa : Nat) :
    (granulePart s pa o n).getD i 0 = readByte s (pa + (o + i)) := by
  have inRange : o + i < 65536 := by omega
  simp [granulePart, readBytes, List.getD_eq_getElem?_getD, lt, inRange]

/-- A byte of near memory after a part of a granule has been written elsewhere. -/
theorem readByte_writePart {d o n : Nat} (near : d + n ≤ 0x800000000) (within : o + n ≤ 65536) (s t : State) (pa a : Nat) :
    readByte (writeBytes t d (granulePart s pa o n)) a =
      if d ≤ a ∧ a < d + n then readByte s (pa + (o + (a - d))) else readByte t a := by
  rw [readByte_writeBytes _ _ _ _ (by rw [length_granulePart within]; exact near), length_granulePart within]
  split
  · rw [getD_granulePart within (by omega)]
  · rfl

/-! ### The copy of one granule (04 R99, R101) -/

section
variable {s u : State} {x : Nat} {q : Ckpt}

/-- What the engine makes of a trap or a miss does not touch a step that answers. -/
theorem go_ckptStep_ok {m : Act Unit} (h : m.go s = (.ok (), u)) : (ckptStep x q m).go s = (.ok (), u) := by
  unfold Act.go at h ⊢
  unfold ckptStep
  simp only [ExceptT.run_tryCatch, StateT.run_bind, h]
  rfl

theorem go_ckptWrite {ps : List (Nat × Nat × Nat)} {va : Nat} {bs : List Byte}
    (reach : (ckptRange x q .ew va bs.length).go s = (.ok ps, u)) :
    (ckptWrite x q va bs).go s = (.ok (), ps.foldl (fun t p => writeBytes t p.1 ((bs.drop p.2.1).take p.2.2)) u) := by
  rw [ckptWrite, go_bind_ok reach, go_change]

/-- A granule of a checkpoint, its shard and the pages that its place on the far side has. -/
structure GranuleReaches (x : Nat) (q : Ckpt) (k pa : Nat) (ps : List (Nat × Nat × Nat)) (s u : State) : Prop where
  checkpoint : q.restore = false
  found : ∃ j g e, q.pending[k]? = some (j, g, pa) ∧ q.shards[j]? = some e ∧
    (ckptRange x q .ew (e.2.1 + 64 + 65536 * g) 65536).go s = (.ok ps, u)

/-- The state after granule `k` has been copied: every piece takes its part of the granule as it stood before the copy. -/
def granuleCopied (x k pa : Nat) (ps : List (Nat × Nat × Nat)) (s u : State) : State :=
  updCkpt (ps.foldl (fun t p => writeBytes t p.1 (granulePart s pa p.2.1 p.2.2)) u) x
    (fun q => { q with pending := removeAt q.pending k })

theorem go_copyGranule {k pa : Nat} {ps : List (Nat × Nat × Nat)} (h : GranuleReaches x q k pa ps s u) :
    (copyGranule x q k).go s = (.ok (), granuleCopied x k pa ps s u) := by
  obtain ⟨checkpoint, j, g, e, pending, shard, reach⟩ := h
  have whole : (readBytes s pa 65536).length = 65536 := by simp [readBytes]
  rw [copyGranule, pending]
  dsimp only
  rw [shard]
  dsimp only
  rw [if_neg (by simp [checkpoint]), go_state_then, go_bind_ok (go_ckptWrite (by rw [whole]; exact reach)), go_change]
  rfl

theorem exec_checkpointEngineRun_copies {ctx : BitVec 6} {pa : Nat} {ps : List (Nat × Nat × Nat)} (live : ckptOf s ctx.toNat = some q)
    (busy : q.busy = true) (runs : enginesRun s = true) (phase : q.phase = 1) (h : GranuleReaches ctx.toNat q 0 pa ps s u) :
    exec (.checkpointEngineRun ctx) s = .next (granuleCopied ctx.toNat 0 pa ps s u) := by
  obtain ⟨_, _, _, pending, -⟩ := h.found
  have remains : ¬ q.pending.isEmpty = true := by
    intro empty
    simp [List.isEmpty_iff.mp empty] at pending
  refine asStep_ok ?_
  rw [go_state_then, go_need_then live, go_needs_then busy, go_waitUntil_then runs, if_neg (by omega), if_pos phase, if_neg remains]
  exact go_ckptStep_ok (go_copyGranule h)

end

/-! ### A checkpoint onto its own source -/

/-- A checkpoint of one granule at 0x10000 to a shard at the same address: its data goes to 0x10040, in two pieces. -/
def ontoItself : Ckpt :=
  { Ckpt.reset with busy := true, phase := 1, shards := [(0x10000, 0x10000, 0x10000)], pending := [(0, 0, 0x10000)] }

/-- It runs in a context whose heap window maps each address to itself; byte 0x1FF80 is 1, and the others of the granule are 0. -/
def copyingOntoItself : State :=
  { State.reset with
    pm := { Power.reset with st := .run }, ctxs := [(0, { placedContext with ckpt := ontoItself })],
    mem := [(0x1FF80, 1), (0x200000, 0x01), (0x200001, 0xC0), (0x200002, 0x07)] }

/-- The pieces of its place: all but the last 64 bytes of the granule, and these in the next page. -/
def overlapPieces : List (Nat × Nat × Nat) := [(0x10040, 0, 65472), (0x20000, 65472, 64)]

theorem ckptRange_overlapPieces : (ckptRange 0 ontoItself .ew (0x10000 + 64 + 65536 * 0) 65536).go copyingOntoItself =
    (.ok overlapPieces, copyingOntoItself) := rfl

theorem granuleReaches_itself : GranuleReaches 0 ontoItself 0 0x10000 overlapPieces copyingOntoItself copyingOntoItself :=
  ⟨rfl, 0, 0, _, rfl, rfl, ckptRange_overlapPieces⟩

/-- The state after its first piece. -/
def afterFirstPiece : State := writeBytes copyingOntoItself 0x10040 (granulePart copyingOntoItself 0x10000 0 65472)

/-- The first piece overwrites the last bytes of the granule, which the second is to carry. -/
theorem readByte_afterFirstPiece : readByte afterFirstPiece 0x1FFC0 = readByte copyingOntoItself 0x1FF80 := by
  rw [afterFirstPiece, readByte_writePart (by norm_num) (by norm_num), if_pos (by norm_num)]

theorem readByte_updCkpt (s : State) (x : Nat) (f : Ckpt → Ckpt) (a : Nat) : readByte (updCkpt s x f) a = readByte s a := rfl

/-- The state after both pieces, each of which reads the granule of a state that `src` chooses by the one the pieces have reached. -/
def copiedFrom (src : State → State) : State :=
  updCkpt (overlapPieces.foldl (fun t p => writeBytes t p.1 (granulePart (src t) 0x10000 p.2.1 p.2.2)) copyingOntoItself) 0
    (fun q => { q with pending := removeAt q.pending 0 })

/-- The second piece brings the first byte of its part to 0x20000. -/
theorem readByte_copiedFrom {src : State → State} (first : src copyingOntoItself = copyingOntoItself) :
    readByte (copiedFrom src) 0x20000 = readByte (src afterFirstPiece) 0x1FFC0 := by
  rw [copiedFrom, readByte_updCkpt, overlapPieces, List.foldl_cons, List.foldl_cons, List.foldl_nil, first,
    readByte_writePart (by norm_num) (by norm_num), if_pos (by norm_num)]
  rfl

/-- Refutes O48. The statement has each piece of a granule take its bytes from the state that the pieces before it left (its `s` under
`foldl` is the state of the fold); the engine reads the granule once, before it writes (04 R101). Where a shard lies over its own source
the two differ: byte 0x20000 becomes 0, as 0x1FFC0 was, and not 1, which the first piece has put there. -/
theorem not_checkpointEngine : ¬ Obligations.CheckpointEngine := by
  intro h
  obtain ⟨-, -, -, copies, -⟩ := h copyingOntoItself 0 ontoItself rfl rfl rfl
  have stated := (copies 0 0 0 0x10000 _ overlapPieces copyingOntoItself rfl rfl rfl ckptRange_overlapPieces).2 rfl
  rw [if_neg (by decide)] at stated
  have stated : exec (.checkpointEngineRun 0) copyingOntoItself = .next (copiedFrom id) := stated
  have copied : exec (.checkpointEngineRun 0) copyingOntoItself = .next (copiedFrom fun _ => copyingOntoItself) :=
    exec_checkpointEngineRun_copies rfl rfl rfl rfl granuleReaches_itself
  have same : copiedFrom id = copiedFrom fun _ => copyingOntoItself := Host.Outcome.next.inj (stated.symm.trans copied)
  have stays : readByte copyingOntoItself 0x1FF80 = readByte copyingOntoItself 0x1FFC0 := calc
    readByte copyingOntoItself 0x1FF80 = readByte (copiedFrom id) 0x20000 := by rw [readByte_copiedFrom rfl, id, readByte_afterFirstPiece]
    _ = readByte copyingOntoItself 0x1FFC0 := by rw [same, readByte_copiedFrom rfl]
  exact absurd stays (by decide)

end Sys2Proof.Proofs
end

section
/-!
PROOF. A write of SY_CKPT that starts a restore, and where the statement about it departs from the model (04 R98, R104).
-/

namespace Sys2Proof.Proofs

open Sys2Proof.Machine Sys2Proof.Safety Sys2Proof.Claims

section
variable {w : Who} {s t u u1 : State}

/-! ### What the completion of a register write keeps of the contexts (12 R333) -/

theorem recUpd_ctxs (s : State) (t : Nat) (f : RecTask → RecTask) : (recUpd s t f).ctxs = s.ctxs := by
  unfold recUpd
  split <;> rfl

theorem advance_region_ctxs (w : Who) (n : Nat) (s : State) : (advance w n .region s).ctxs = s.ctxs := by
  unfold advance
  split <;> rfl

theorem ctxs_eq_of_once {e v : State} (h : Once w e v) : v.ctxs = e.ctxs := by
  obtain ⟨_, rfl⟩ := h
  rfl

theorem go_once {body : Act Unit} (commit : (commitRegion w false).go s = (.ok (), u)) (run : body.go u = (.ok (), t)) :
    (once w body).go s = (.ok .region, recLive (recMark t w.task) w.task) := by
  rw [once]
  simp only [Bool.not_false, if_true]
  rw [go_bind_ok commit, go_bind_ok run, go_change_then, go_change_then, go_pure]

/-- A commit of nothing only begins the new region (12 R331). -/
theorem go_commitRegion_settled (settled : Settled w s) : (commitRegion w false).go s = (.ok (), committed w s) := by
  obtain ⟨stores, tickets, flight⟩ := settled
  have pumped (v : State) (none : (bankOf v w.core w.bank).inflight = []) : (pump w.core w.bank).go v =
      (.ok (), updBank v w.core w.bank (fun k => { k with inflight := [] })) := by
    rw [pump, go_state_then, none]
    rfl
  rw [commitRegion, go_state_then]
  dsimp only
  rw [go_waitUntil_then (by rw [tickets]; rfl), stores, placeStores, pure_bind, go_state_then, go_waitUntil_then (by rfl),
    go_change_then, go_bind_ok (pumped _ (by simp [flight]))]
  simp [committed]

/-! ### A restore starts (04 R98, R104) -/

/-- The restore that a write of `v` begins, by what was left of the operation before it. -/
def restoreBegun (w : Who) (v : Word) (since : Nat) (before : Ckpt) : Ckpt :=
  { Ckpt.reset with
    desc := BitVec.ofNat 50 (fld v 6 50), opDesc := BitVec.ofNat 50 (fld v 6 50), res := before.res, busy := true, restore := true,
    core := w.core, task := w.task, since := since }

/-- A write of `v` to SY_CKPT starts a restore: legal fields, GO, OP 1, and no operation, wait or supply loss in its way. -/
structure StartsRestore (w : Who) (v : Word) (s : State) : Prop where
  legal : (fld v 61 2 < 2 && !v.getLsbD 56 && fld v 0 6 == 0) = true
  go : v.getLsbD 63 = true
  op : fld v 61 2 = 1
  idle : ∃ k, ctxOf s w.ctx = some k ∧ k.ckpt.busy = false
  unawaited : (bank w s).ckptWait = false
  supplied : s.pm.hup = false

theorem go_writeCkpt_restore {v : Word} (h : StartsRestore w v s) : (writeCkpt w v).go s =
    (.ok (), updCtx s w.ctx (fun k => { k with ckpt := restoreBegun w v s.nextId k.ckpt })) := by
  obtain ⟨legal, go, op, ⟨k, live, idle⟩, unawaited, supplied⟩ := h
  have free : (bankOf s w.core w.bank).ckptWait = false := unawaited
  rw [writeCkpt, go_bind_ok (by rw [go_requireOpen, if_pos legal]), go_state_then]
  dsimp only
  rw [live]
  dsimp only
  simp only [free, go, idle, supplied, op, Bool.false_eq_true, if_false, if_true]
  rfl

theorem exec_syCkptRestore_ctxs {g : Guard} {a : Spec} {x : Val} (issues : Issues w g s) (first : (bank w s).ckptWait = false)
    (commit : (commitRegion w false).go s = (.ok (), u)) (read : (readSrc w a).go u = (.ok x, u1)) (starts : StartsRestore w x.v u1) :
    ∃ v, exec (.syCkptRestore g a) s = .next v ∧
      v.ctxs = (updCtx u1 w.ctx (fun k => { k with ckpt := restoreBegun w x.v u1.nextId k.ckpt })).ctxs := by
  have waits : (bankOf s w.core w.bank).ckptWait = false := first
  have body : (writeSy w 0x00A a).go s = (once w (do
      let y ← readSrc w a
      writeCkpt w y.v)).go s := by
    change ((do
      let waiting := (bankOf (← state) w.core w.bank).ckptWait
      once w (do
        let y ← readSrc w a
        writeCkpt w y.v) waiting) : Act Flow).go s = _
    rw [go_state_then, waits]
  have run := body.trans (go_once commit ((go_bind_ok read _).trans (go_writeCkpt_restore starts)))
  refine ⟨_, issue_ok issues run, ?_⟩
  rw [advance_region_ctxs, recLive, recUpd_ctxs, recMark, recUpd_ctxs]

end

/-! ### Context 0 listed twice -/

/-- The agent: task 1 of context 0, in bank 0 of core 0. -/
def restorer : Who := ⟨0, 0, 1, 0, none⟩

/-- The word that starts a restore: GO, OP 1, DESC 0. -/
def restoreWord : Word := 0xA000000000000000

/-- The task runs with that word in g5, and its context stands twice in the list, once with RES 0 and once with RES 1. -/
def listedTwice : State :=
  { State.reset with
    actor := .control 0, pm := { Power.reset with st := .run }, tasks := [(1, placedTask)]
    ctxs := [(0, placedContext), (0, { placedContext with ckpt := { Ckpt.reset with res := 1 } })]
    cores := [(0, { Core.reset with
      active := some 0, banks := [(0, { Bank.reset with task := some 1, regs := { Regs.reset with g := [(5, restoreWord)] } })] })] }

theorem issues_listedTwice : Issues restorer ⟨false, false, 0⟩ listedTwice := ⟨⟨rfl, rfl, rfl, rfl, rfl⟩, rfl⟩

theorem settled_listedTwice : Settled restorer listedTwice := ⟨rfl, rfl, rfl⟩

theorem go_readSrc_listedTwice : (readSrc restorer 5).go (committed restorer listedTwice) =
    (.ok ⟨restoreWord, .clean⟩, committed restorer listedTwice) := rfl

theorem startsRestore_listedTwice : StartsRestore restorer restoreWord (committed restorer listedTwice) :=
  ⟨by decide, by decide, by decide, ⟨placedContext, rfl, rfl⟩, rfl, rfl⟩

/-- RES of each listed context. -/
def listedRes (l : List (Nat × Context)) : List (BitVec 3) := l.map (fun e => e.2.ckpt.res)

/-- Refutes O28, in what it says of the start of a restore. The statement gives every entry that the context list has under the task's
context the RES of the first; the model keeps the RES of each. The two differ in a state that lists a context twice: `aset`, by which
contexts are added, makes no such list, but the statement speaks of every state. -/
theorem not_holdUpAndCheckpointRegisters : ¬ Obligations.HoldUpAndCheckpointRegisters := by
  rintro ⟨-, starts, -⟩
  have commit := go_commitRegion_settled settled_listedTwice
  obtain ⟨-, -, restore, -⟩ := starts restorer ⟨false, false, 0⟩ listedTwice _ _ 5 _ placedContext issues_listedTwice rfl commit
    go_readSrc_listedTwice (by decide) (by decide) (by decide) (by decide) rfl
  obtain ⟨v, next, stated⟩ := restore rfl rfl (by decide)
  obtain ⟨v', next', kept⟩ := exec_syCkptRestore_ctxs issues_listedTwice rfl commit go_readSrc_listedTwice startsRestore_listedTwice
  obtain rfl : v' = v := Host.Outcome.next.inj (next'.symm.trans next)
  have same := congrArg listedRes (kept.symm.trans (ctxs_eq_of_once stated))
  exact absurd same (by decide)

end Sys2Proof.Proofs
end

section
/-!
PROOF. Entries of a replay stream and the guards of a replayed task (06 R142, R147 to R152, R156).
-/

namespace Sys2Proof.Proofs

open Sys2Proof.Machine Sys2Proof.Claims

/-! ### Steps and actions that answer -/

section
variable {α β : Type} {s t u : State}

/-- A step is what its action answers and leaves. -/
theorem asStep_congr {m n : Act Unit} (h : m.go s = n.go t) : asStep m s = asStep n t := by
  rw [asStep, asStep, h]

/-- What is done at a trap or a miss does not touch an action that answers. -/
theorem go_tryCatch_ok {m : Act α} {a : α} (h : m.go s = (.ok a, u)) (f : Stop → Act α) : Act.go (tryCatch m f) s = (.ok a, u) := by
  unfold Act.go at h ⊢
  simp only [ExceptT.run_tryCatch, StateT.run_bind, h]
  rfl

/-- A loop that keeps its value and the state at each element. -/
theorem go_forIn_keeps {σ : Type} {x : σ} {f : α → σ → Act (ForInStep σ)} {l : List α}
    (h : ∀ a ∈ l, (f a x).go s = (.ok (.yield x), s)) : (forIn l x f).go s = (.ok x, s) := by
  induction l with
  | nil => rfl
  | cons a l ih =>
    rw [List.forIn_cons, go_bind_ok (h a (by simp))]
    exact ih fun b hb => h b (by simp [hb])

end

/-! ### Fields of OPND (06 R142, Table 6) -/

/-- The semaphore of a SET or a WAIT. -/
theorem toNat_semaphore (opnd : BitVec 28) : (opnd.extractLsb' 0 16).toNat = opnd.toNat % 65536 := by
  simp [BitVec.extractLsb'_toNat]

/-- The count M of a WAIT. -/
theorem toNat_waitCount (opnd : BitVec 28) : (opnd.extractLsb' 16 8).toNat = opnd.toNat / 65536 % 256 := by
  simp [BitVec.extractLsb'_toNat, Nat.shiftRight_eq_div_pow]

/-- The slot of a FLIP. -/
theorem toNat_flipSlot (opnd : BitVec 28) : (opnd.extractLsb' 0 8).toNat = opnd.toNat % 256 := by
  simp [BitVec.extractLsb'_toNat]

/-! ### A stream's turn -/

section
variable {m : Strm} {opnd : BitVec 28} {cmd : BitVec 96} {s : State}

/-- An entry that no live program replaces is acted on by the stream whose turn it is. -/
theorem streamStep_eq (turn : StreamTurn m s) (e : BitVec 128) (body : Strm → Act Unit) : streamStep e s body = asStep (body m) s := by
  obtain ⟨actor, agent, replays⟩ := turn
  have entry : (skipsLive m e).go s = (.ok false, s) := by
    rw [skipsLive, if_neg (by simp [replays]), go_pure]
  rw [streamStep, actor]
  refine asStep_congr ?_
  rw [go_bind_ok agent, go_bind_ok entry, if_neg Bool.false_ne_true]

theorem go_notLive_then {β : Type} (replays : m.cur.live = false) (f : Unit → Act β) : Act.go (notLive m >>= f) s = (f ()).go s :=
  go_waitUntil_then (by simp [replays]) f

theorem go_stepOn (m : Strm) (s : State) : (stepOn m).go s = (.ok (), passed m s) := rfl

/-! ### CMD and ROUTE (06 R142, R151, R152, R156) -/

section
variable {s1 u : State} {c : BitVec 96}

theorem exec_streamCmd_issues {i : Instr} {sp : CmdSpec} (turn : StreamTurn m s)
    (value : (substitute m.w.ctx m.cur m.pos cmd).go s = (.ok (some c), s1)) (decodes : decodeCommand (streamQueue m.k) c = .ok i)
    (spec : specOf i = some sp)
    (dispatch : (dispatchCmd m.w sp { newCmd i (opnd.setWidth 3) 0 (streamIssuer m.k) true m.cur.route with entry := m.pos }).go s1 =
      (.ok (), u)) : exec (.streamCmd opnd cmd) s = .next (passed m u) := by
  refine (streamStep_eq turn _ _).trans (asStep_ok ?_)
  rw [streamIssue, go_notLive_then turn.replays, go_bind_ok value]
  dsimp only
  rw [decodes]
  dsimp only
  rw [spec]
  dsimp only
  refine (go_bind_ok (go_tryCatch_ok ((go_bind_ok dispatch _).trans (go_pure true u)) _) _).trans ?_
  rw [if_pos rfl, go_stepOn]

theorem exec_streamRoute_takes (turn : StreamTurn m s) (value : (substitute m.w.ctx m.cur m.pos cmd).go s = (.ok (some c), s1)) :
    exec (.streamRoute opnd cmd) s = .next (passed m (updCursor s1 m.w (fun q => { q with route := c.setWidth 64 }))) := by
  refine (streamStep_eq turn _ _).trans (asStep_ok ?_)
  rw [go_notLive_then turn.replays, go_bind_ok value]
  dsimp only
  rw [go_change_then, go_stepOn]

end

/-! ### SET and WAIT (06 R142, R151) -/

theorem exec_streamSet_again (turn : StreamTurn m s) (retired : streamBusy s m = false) (counted : m.pos < m.cur.setPos.getD m.k 0) :
    exec (.streamSet opnd cmd) s = .next (passed m s) := by
  refine (streamStep_eq turn _ _).trans (asStep_ok ?_)
  rw [go_notLive_then turn.replays, go_state_then, go_waitUntil_then (by simp [retired]), go_bind_ok (go_stepOn m s),
    if_neg (Nat.not_le.mpr counted), go_pure]

theorem exec_streamSet_counts {u : State} (turn : StreamTurn m s) (retired : streamBusy s m = false)
    (first : m.cur.setPos.getD m.k 0 ≤ m.pos)
    (add : (setSem m.l m.w.task m.cur.body (opnd.extractLsb' 0 16).toNat).go (updCursor (passed m s) m.w
      (fun q => { q with setPos := changeAt (fun _ => m.pos + 1) q.setPos m.k })) = (.ok (), u)) :
    exec (.streamSet opnd cmd) s = .next u := by
  rw [toNat_semaphore] at add
  refine (streamStep_eq turn _ _).trans (asStep_ok ?_)
  rw [go_notLive_then turn.replays, go_state_then, go_waitUntil_then (by simp [retired]), go_bind_ok (go_stepOn m s),
    if_pos first, go_change_then]
  exact add

/-- WAIT compares the count with M × (ITER + 1). -/
theorem exec_streamWait (turn : StreamTurn m s) : exec (.streamWait opnd cmd) s =
    asStep (if (opnd.extractLsb' 16 8).toNat * (m.cur.iter + 1) ≤ semCount s m.l m.cur.body (opnd.extractLsb' 0 16).toNat then stepOn m
      else countStall m.w.ctx m.cur.body m.pos) s := by
  rw [toNat_semaphore, toNat_waitCount]
  exact (streamStep_eq turn _ _).trans (asStep_congr (go_state_then _))

/-! ### FLIP (06 R142, R151) -/

/-- All six streams have passed the FLIP at which they stand. -/
def allPassed (m : Strm) (s : State) : State := updCursor s m.w (fun q => { q with pos := q.pos.map (· + 1) })

section
variable {u : State}

theorem exec_streamFlip_before (turn : StreamTurn m s) (stands : (flipState m).go s = (.ok .before, u)) :
    exec (.streamFlip opnd cmd) s = .next u := by
  refine (streamStep_eq turn _ _).trans (asStep_wait ?_)
  rw [go_notLive_then turn.replays, go_bind_ok stands]
  exact go_waitHere u

theorem exec_streamFlip_passed (turn : StreamTurn m s) (stands : (flipState m).go s = (.ok .passed, u)) :
    exec (.streamFlip opnd cmd) s = .next (passed m u) := by
  refine (streamStep_eq turn _ _).trans (asStep_ok ?_)
  rw [go_notLive_then turn.replays, go_bind_ok stands]
  exact go_stepOn m u

theorem exec_streamFlip_toEngines (turn : StreamTurn m s) (stands : (flipState m).go s = (.ok .reached, u))
    (inside : (opnd.extractLsb' 0 8).toNat < (bankOf u m.w.core m.w.bank).part.sn) (engines : opnd.getLsbD 8 = true) :
    exec (.streamFlip opnd cmd) s = .next (allPassed m (flip u m.w.core m.w.bank (opnd.extractLsb' 0 8).toNat true)) := by
  rw [toNat_flipSlot] at inside ⊢
  refine (streamStep_eq turn _ _).trans (asStep_ok ?_)
  rw [go_notLive_then turn.replays, go_bind_ok stands]
  dsimp only
  rw [go_state_then, if_neg (Nat.not_le.mpr inside), if_pos engines, go_change_then]
  rfl

theorem exec_streamFlip_toThread (turn : StreamTurn m s) (stands : (flipState m).go s = (.ok .reached, u))
    (inside : (opnd.extractLsb' 0 8).toNat < (bankOf u m.w.core m.w.bank).part.sn) (thread : opnd.getLsbD 8 = false)
    (ringless : ringHolds (bankOf u m.w.core m.w.bank) (opnd.extractLsb' 0 8).toNat = false)
    (untouched : slotBusy u m.w.core m.w.bank (opnd.extractLsb' 0 8).toNat = false) :
    exec (.streamFlip opnd cmd) s = .next (allPassed m (flip u m.w.core m.w.bank (opnd.extractLsb' 0 8).toNat false)) := by
  rw [toNat_flipSlot] at inside ringless untouched ⊢
  refine (streamStep_eq turn _ _).trans (asStep_ok ?_)
  rw [go_notLive_then turn.replays, go_bind_ok stands]
  dsimp only
  rw [go_state_then, if_neg (Nat.not_le.mpr inside), if_neg (ne_true_of_eq_false thread), if_neg (by simpa using ringless),
    go_waitUntil_then (by simp [untouched]), go_change_then]
  rfl

end

/-! ### MARK and END (06 R142, R151, R152) -/

theorem exec_streamMark_starts (turn : StreamTurn m s) (settled : (bankOf s m.w.core m.w.bank).tickets = []) :
    exec (.streamMark opnd cmd) s =
      .next (passed m (updCursor s m.w (fun q => { q with markPos := changeAt (fun _ => m.pos) q.markPos m.k }))) := by
  refine (streamStep_eq turn _ _).trans (asStep_ok ?_)
  rw [go_notLive_then turn.replays, go_state_then, go_waitUntil_then (by simp [settled]), go_change_then, go_stepOn]

theorem exec_streamEnd_ends (turn : StreamTurn m s) (settled : (bankOf s m.w.core m.w.bank).tickets = [])
    (others : (changeAt (fun _ => true) m.cur.ended m.k).all id = false) :
    exec (.streamEnd opnd cmd) s = .next (updCursor s m.w (fun q => { q with ended := changeAt (fun _ => true) m.cur.ended m.k })) := by
  refine (streamStep_eq turn _ _).trans (asStep_ok ?_)
  rw [go_notLive_then turn.replays, go_state_then, go_waitUntil_then (by simp [settled])]
  dsimp only
  rw [if_neg (by simp [others]), go_change]

end

/-- Settles O53: each clause is the answer of one entry's step. -/
theorem streamEntries : Obligations.StreamEntries := by
  intro m opnd cmd s turn
  refine ⟨fun _ _ _ _ _ => exec_streamCmd_issues turn, exec_streamSet_again turn,
    fun retired first _ => exec_streamSet_counts turn retired first, fun reached => ?_, fun _ short stall => ?_,
    fun _ stands inside => ⟨exec_streamFlip_toEngines turn stands inside, exec_streamFlip_toThread turn stands inside⟩,
    fun _ => exec_streamFlip_passed turn, fun _ => exec_streamFlip_before turn, exec_streamMark_starts turn,
    exec_streamEnd_ends turn, fun _ _ => exec_streamRoute_takes turn⟩
  · rw [exec_streamWait turn, if_pos reached]
    exact asStep_ok (go_stepOn m s)
  · rw [exec_streamWait turn, if_neg (Nat.not_le.mpr short)]
    exact asStep_ok stall

/-! ### Guards (06 R148, R149) -/

section
variable {core : BitVec 8} {g : Guarded} {h : BodyHead} {slots : List (Nat × Option BodyGuard)} {s s1 s2 s3 : State}

theorem go_setCursor (g : Guarded) (f : Cursor → Cursor) (s : State) : (setCursor g f).go s = (.ok (), updCursor s g.w f) := rfl

theorem exec_guardShape_passes {qs : List (List (BitVec 128))} {hash : Option Word} (task : (guardedTask core.toNat).go s = (.ok g, s))
    (unpassed : g.cur.shapeOk = false) (read : (guardSlots g).go s = (.ok (some (h, slots)), s1))
    (whole : (wholeOf g.w.ctx g.cur).go s1 = (.ok qs, s2)) (hashed : (shapeHash g.w.ctx (objectsOf qs)).go s2 = (.ok hash, s3))
    (good : ∀ e ∈ slots, ∃ k, e.2 = some k ∧ 1 ≤ k.kind ∧ k.kind ≤ 3 ∧ (k.kind = 1 → hash = some k.gval)) :
    exec (.guardShape core) s = .next (updCursor s3 g.w (fun q => { q with shapeOk := true })) := by
  refine asStep_ok ?_
  rw [go_bind_ok task, go_needs_then (by simp [unpassed]), go_bind_ok read]
  dsimp only
  rw [go_bind_ok whole, go_bind_ok hashed, List.find?_eq_none.mpr]
  · exact go_setCursor g _ s3
  · intro e he
    obtain ⟨k, slot, low, high, same⟩ := good e he
    rw [slot]
    simp only [Bool.or_eq_true, Bool.and_eq_true, beq_iff_eq, bne_iff_ne, decide_eq_true_eq]
    rintro ((⟨shape, differs⟩ | zero) | reserved)
    · exact differs (same shape)
    · omega
    · omega

theorem exec_guardHealth_passes (task : (guardedTask core.toNat).go s = (.ok g, s)) (unpassed : g.cur.healthOk = false)
    (read : (guardSlots g).go s = (.ok (some (h, slots)), s1))
    (good : ∀ e ∈ slots, ∀ k, e.2 = some k → k.kind = 3 → healthMask s1 g.w.core &&& k.gval.setWidth 3 = 0) :
    exec (.guardHealth core) s = .next (updCursor s1 g.w (fun q => { q with healthOk := true })) := by
  refine asStep_ok ?_
  rw [go_bind_ok task, go_needs_then (by simp [unpassed]), go_bind_ok read]
  dsimp only
  rw [go_state_then, List.find?_eq_none.mpr]
  · exact go_setCursor g _ s1
  · rintro ⟨n, _ | k⟩ he
    · exact Bool.false_ne_true
    · simp only [Bool.and_eq_true, beq_iff_eq, bne_iff_ne]
      rintro ⟨health, marked⟩
      exact marked (good _ he k rfl health)

/-! ### The branch guard (06 R149) -/

/-- One slot in the search for a branch guard that fails: its number and FAILPC are kept. -/
def branchTurn (g : Guarded) (e : Nat × Option BodyGuard) (bad : Option (Nat × Word)) : Act (ForInStep (Option (Nat × Word))) := do
  match e.2 with
  | some k =>
    if k.kind = 2 && bad.isNone then
      let v ← guardValue g k
      if !branchHolds k v then pure (.yield (some (e.1, k.failPc))) else pure (.yield bad)
    else pure (.yield bad)
  | none => pure (.yield bad)

theorem go_branchTurn_other {e : Nat × Option BodyGuard} (other : ∀ k, e.2 = some k → k.kind ≠ 2) (bad : Option (Nat × Word)) :
    (branchTurn g e bad).go s = (.ok (.yield bad), s) := by
  rw [branchTurn]
  split
  · next k slot => rw [if_neg (by simp [other k slot]), go_pure]
  · rfl

theorem go_branchTurn {k : BodyGuard} {v : Word} (branch : k.kind = 2) (load : (guardValue g k).go s = (.ok v, s1)) (n : Nat) :
    (branchTurn g (n, some k) none).go s =
      (.ok (.yield (if branchHolds k v = true then none else some (n, k.failPc))), s1) := by
  rw [branchTurn]
  dsimp only
  rw [if_pos (by simp [branch]), go_bind_ok load]
  cases branchHolds k v <;> rfl

/-- What the search ends in: the guard has passed, or the task runs live. -/
def branchOutcome (g : Guarded) : Option (Nat × Word) → Act Unit
  | some (n, pc) => guardFailsLate g n pc
  | none => setCursor g (fun q => { q with branchOk := true })

/-- GUARD_BRANCH, whose slots have been read: the outcome of the search. -/
theorem exec_guardBranch {bad : Option (Nat × Word)} {u : State} (task : (guardedTask core.toNat).go s = (.ok g, s))
    (unpassed : g.cur.branchOk = false) (replays : g.cur.live = false) (retired : (beforeEnd g).go s = (.ok true, s1))
    (read : (guardSlots g).go s1 = (.ok (some (h, slots)), s2)) (search : (forIn slots none (branchTurn g)).go s2 = (.ok bad, s3))
    (outcome : (branchOutcome g bad).go s3 = (.ok (), u)) : exec (.guardBranch core) s = .next u := by
  refine asStep_ok ?_
  rw [go_bind_ok task, go_needs_then (by simp [unpassed, replays]), go_bind_ok retired, go_waitUntil_then rfl, go_bind_ok read]
  refine go_tryCatch_ok (Eq.trans ?_ ((go_bind_ok search (branchOutcome g)).trans outcome)) _
  rfl

end

/-- Settles O54: no slot fails a guard of the recorded outcome, and the one branch guard decides whether the task runs live. -/
theorem replayGuards : Obligations.ReplayGuards := by
  intro s core g h slots task
  refine ⟨fun _ _ _ _ _ => exec_guardShape_passes task, fun _ => exec_guardHealth_passes task,
    fun s1 s2 unpassed replays retired read other => ?_, fun s1 s2 s3 n k v unpassed replays retired read branch load => ?_⟩
  · exact exec_guardBranch task unpassed replays retired read
      (go_forIn_keeps fun e he => go_branchTurn_other (other e he) none) (go_setCursor g _ s2)
  · have search : (forIn [(n, some k)] none (branchTurn g)).go s2 =
        (.ok (if branchHolds k v = true then none else some (n, k.failPc)), s3) := by
      rw [List.forIn_cons, go_bind_ok (go_branchTurn branch load n)]
      rfl
    refine ⟨fun holds => ?_, fun fails u late => ?_⟩
    · rw [if_pos holds] at search
      exact exec_guardBranch task unpassed replays retired read search (go_setCursor g _ s3)
    · rw [if_neg (by simp [fails])] at search
      exact exec_guardBranch task unpassed replays retired read search late

end Sys2Proof.Proofs
end

section
/-!
PROOF. The keeper's registers: what a write of SY_KEEPER, SY_KNOTE and SY_XINV does, and the PRIVILEGE of every other context (07 R176,
R179, R181, R182; 09 R249, R250; 12 R331, R333).
-/

namespace Sys2Proof.Proofs

open Sys2Proof.Machine Sys2Proof.Safety Sys2Proof.Claims

/-! ### Actions under which no bank changes its task -/

/-- Every bank of every core holds the task it held. -/
def TasksStay (s t : State) : Prop := ∀ c b, (bankOf t c b).task = (bankOf s c b).task

theorem tasksStay_chains : Chains TasksStay where
  refl _ _ _ := rfl
  trans h k c b := (k c b).trans (h c b)

section
variable {α : Type} {s t : State}

theorem tasksStay_of_cores (h : t.cores = s.cores) : TasksStay s t := fun c b => by
  rw [bankOf, bankOf, coreOf, coreOf, h]

theorem tasksStay_updCore (s : State) (c : Nat) {f : Core → Core} (h : ∀ k, (f k).banks = k.banks) : TasksStay s (updCore s c f) := by
  intro c' b
  by_cases same : c' = c
  · subst same
    rw [bankOf, coreOf_updCore, h, bankOf]
  · rw [bankOf, coreOf_updCore_other s f same, bankOf]

theorem tasksStay_updBank (s : State) (c b : Nat) {f : Bank → Bank} (h : ∀ k, (f k).task = k.task) : TasksStay s (updBank s c b f) := by
  intro c' b'
  by_cases core : c' = c
  · subst core
    by_cases same : b' = b
    · subst same
      rw [bankOf_updBank, h]
    · rw [updBank, bankOf_setBank_other _ _ _ same]
  · rw [updBank, bankOf_setBank_core _ _ _ _ core]

/-- What only reads through translation keeps every task. -/
theorem keeps_tasks_of_reads {m : Act α} (h : Keeps Reads m) : Keeps TasksStay m := fun s c b => congrArg Bank.task ((h s).banks c b)

theorem keeps_tasks_newId : Keeps TasksStay newId := fun _ => tasksStay_of_cores rfl

/-! ### A commit keeps the task of every bank (12 R331) -/

theorem pickRoute_cores (s : State) (a b : Nat) : (pickRoute s a b).1.cores = s.cores := by
  unfold pickRoute
  split <;> rfl

theorem postRequest_cores (s : State) (first : Bool) (r : Request) : (postRequest s first r).cores = s.cores := pickRoute_cores s _ _

theorem keeps_tasks_takeSeqs (c x o : Nat) (k : BitVec 4) (n : Nat) : Keeps TasksStay (takeSeqs c x o k n) := by
  have C := tasksStay_chains
  exact Keeps.bind C (Keeps.state C) fun _ =>
    Keeps.bind C (Keeps.change fun s => tasksStay_updCore s c fun _ => rfl) fun _ => Keeps.pure C _

theorem keeps_tasks_sendRequest (c b n : Nat) (a : Access) (q : BitVec 16) : Keeps TasksStay (sendRequest c b n a q) := by
  have C := tasksStay_chains
  refine Keeps.bind C (Keeps.state C) fun _ => Keeps.bind C (Keeps.change fun s => tasksStay_of_cores (postRequest_cores s _ _)) fun _ => ?_
  refine Keeps.bind C (Keeps.state C) fun _ => Keeps.bind C (Keeps.change fun s => tasksStay_updCore s c fun _ => rfl) fun _ => ?_
  exact Keeps.ite (Keeps.change fun s => tasksStay_updBank s c b fun _ => rfl) (Keeps.pure C _)

theorem keeps_tasks_pumpFrom (c b : Nat) (l : List Access) : ∀ older, Keeps TasksStay (pumpFrom c b older l) := by
  have C := tasksStay_chains
  induction l with
  | nil => exact fun _ => Keeps.pure C _
  | cons a r ih =>
    refine fun older => Keeps.bind C (Keeps.state C) fun s => Keeps.ite ?_ (Keeps.ite ?_ (ih _))
    · exact Keeps.bind C (keeps_tasks_takeSeqs _ _ _ _ _) fun _ => Keeps.bind C (keeps_tasks_sendRequest _ _ _ _ _) fun _ => ih _
    · exact Keeps.bind C (Keeps.change fun s => tasksStay_updBank s c b fun _ => rfl) fun _ => ih _

theorem keeps_tasks_pump (c b : Nat) : Keeps TasksStay (pump c b) := by
  have C := tasksStay_chains
  exact Keeps.bind C (Keeps.state C) fun _ => Keeps.bind C (keeps_tasks_pumpFrom c b _ _) fun _ =>
    Keeps.change fun s => tasksStay_updBank s c b fun _ => rfl

theorem keeps_placePiece (w : Who) (id : Nat) (kind : AccKind) (dkind : BitVec 4) (right : Right) (cls : BitVec 4) (info : Word)
    (p : Piece) : Keeps Reads (placePiece w id kind dkind right cls info p) := by
  have C := reads_chains
  refine Keeps.bind C (Keeps.state C) fun s => ?_
  split
  · exact Keeps.trap C _ _
  · refine Keeps.bind C (keeps_translate _ _ _ _ _ _ _) fun x => ?_
    split
    · exact Keeps.trap C _ _
    · exact Keeps.throw C _
    · exact Keeps.pure C _
    · exact Keeps.bind C (Keeps.require C _ _ _) fun _ => Keeps.pure C _

theorem keeps_placeNotify (w : Who) (id : Nat) (e : BufEntry) : Keeps Reads (placeNotify w id e) := by
  have C := reads_chains
  refine Keeps.bind C (Keeps.state C) fun s => ?_
  dsimp only
  split
  · exact Keeps.trap C _ _
  · exact Keeps.bind C (Keeps.require C _ _ _) fun _ => Keeps.pure C _

theorem keeps_placeStore (w : Who) (id : Nat) (e : BufEntry) : Keeps Reads (placeStore w id e) := by
  have C := reads_chains
  refine Keeps.ite (keeps_placeNotify w id e) (Keeps.bind C (keeps_placePiece w _ _ _ _ _ _ _) fun a => ?_)
  split
  · exact Keeps.bind C (Keeps.state C) fun s => Keeps.bind C (Keeps.require C _ _ _) fun _ => Keeps.pure C _
  · exact Keeps.pure C _

theorem keeps_tasks_placeStores (w : Who) (l : List BufEntry) : ∀ last, Keeps TasksStay (placeStores w last l) := by
  have C := tasksStay_chains
  induction l with
  | nil => exact fun _ => Keeps.pure C _
  | cons e r ih =>
    have placed : ∀ id, Keeps TasksStay (do
        let a ← placeStore w id e
        pure (a :: (← placeStores w id r))) := fun id =>
      Keeps.bind C (keeps_tasks_of_reads (keeps_placeStore w id e)) fun _ => Keeps.bind C (ih id) fun _ => Keeps.pure C _
    intro last
    exact Keeps.ite (Keeps.bind C keeps_tasks_newId placed) (placed last)

theorem keeps_tasks_commitRegion (w : Who) : Keeps TasksStay (commitRegion w false) := by
  have C := tasksStay_chains
  refine Keeps.bind C (Keeps.state C) fun _ => Keeps.bind C (Keeps.waitUntil C _) fun _ => ?_
  refine Keeps.bind C (keeps_tasks_placeStores w _ _) fun _ => Keeps.bind C (Keeps.state C) fun s => ?_
  refine Keeps.bind C (Keeps.waitUntil C _) fun _ => Keeps.bind C (Keeps.change fun t => ?_) fun _ => ?_
  · exact tasksStay_updBank t w.core w.bank fun _ => rfl
  · exact Keeps.bind C (keeps_tasks_pump w.core w.bank) fun _ => Keeps.pure C _

end

/-! ### A write that takes effect once, after its commit (12 R333) -/

section
variable {w : Who} {g : Guard} {n : Nat} {a : Spec} {x : Val} {s u u1 e : State} {body : Val → Act Unit}

/-- Where a write has read its source its task still holds the bank. -/
theorem task_after_source (issues : Issues w g s) (commit : (commitRegion w false).go s = (.ok (), u))
    (read : (readSrc w a).go u = (.ok x, u1)) : (bank w u1).task = some w.task := by
  have committed : (bank w u).task = (bank w s).task := by
    have stays := keeps_tasks_commitRegion w s w.core w.bank
    rwa [commit] at stays
  exact (readSrc_keeps read).1.task.trans (committed.trans (acts_task issues.toActs))

theorem recorded_recUpd (s : State) (t : Nat) (f : RecTask → RecTask) : Recorded s (recUpd s t f) := by
  unfold recUpd
  split
  · exact ⟨s.launches, rfl⟩
  · exact ⟨_, rfl⟩

theorem recorded_trans {t v : State} (h : Recorded s t) (k : Recorded t v) : Recorded s v := by
  obtain ⟨p, rfl⟩ := h
  obtain ⟨q, rfl⟩ := k
  exact ⟨q, rfl⟩

theorem once_advance {t : State} (h : Recorded e t) (holds : (bank w e).task = some w.task) : Once w e (advance w 1 .region t) := by
  obtain ⟨q, rfl⟩ := h
  have task : (bankOf { e with launches := q } w.core w.bank).task = some w.task := holds
  rw [advance, if_pos task]
  exact ⟨q, rfl⟩

/-- A write whose register is set by `body` completes when that answers. -/
theorem sysWrite_completes (register : writeSy w n a = once w (readSrc w a >>= body)) (issues : Issues w g s)
    (commit : (commitRegion w false).go s = (.ok (), u)) (read : (readSrc w a).go u = (.ok x, u1)) (run : (body x).go u1 = (.ok (), e)) :
    ∃ v, sysWrite g n a s = .next v ∧ ((bank w e).task = some w.task → Once w e v) := by
  have answers : (writeSy w n a).go s = (.ok .region, recLive (recMark e w.task) w.task) := by
    rw [register]
    exact go_once commit ((go_bind_ok read _).trans run)
  exact ⟨_, issue_ok issues answers, once_advance (recorded_trans (recorded_recUpd _ _ _) (recorded_recUpd _ _ _))⟩

/-- A write whose register is refused raises its trap, with the registers as they stood. -/
theorem sysWrite_traps {c : Trap} (register : writeSy w n a = once w (readSrc w a >>= body)) (issues : Issues w g s)
    (commit : (commitRegion w false).go s = (.ok (), u)) (read : (readSrc w a).go u = (.ok x, u1))
    (refused : (body x).go u1 = (.error (.trap c none), u1)) :
    sysWrite g n a s = .next (raiseNow w 1 c none (withRegs w u1 (regs w s))) := by
  have traps : (writeSy w n a).go s = (.error (.trap c none), u1) := by
    rw [register, once]
    simp only [Bool.not_false, if_true]
    rw [go_bind_ok commit]
    exact go_bind_error ((go_bind_ok read _).trans refused) _
  rw [sysWrite, issue, issueWith_trap issues traps, keepRegs, if_pos (task_after_source issues commit read)]

/-! ### Only a keeper-capable context writes a keeper's register (12 Table 17) -/

theorem go_keeperOnly (keeper : KeeperContext w s) : (keeperOnly w).go s = (.ok (), s) := by
  obtain ⟨k, live, serves⟩ := keeper
  rw [keeperOnly, go_state_then, live]
  simp [serves]

theorem go_keeperOnly_then {β : Type} (keeper : KeeperContext w s) (f : Unit → Act β) : Act.go (keeperOnly w >>= f) s = (f ()).go s :=
  go_bind_ok (go_keeperOnly keeper) f

theorem go_keeperOnly_refused (other : ¬ KeeperContext w s) : (keeperOnly w).go s = (.error (.trap .privilege none), s) := by
  rw [keeperOnly, go_state_then]
  cases live : ctxOf s w.ctx with
  | none => simp
  | some k =>
    have serves : k.keeper = false := Bool.eq_false_iff.mpr fun h => other ⟨k, live, h⟩
    simp [serves]

/-- The instructions that write a keeper's register, and the register. -/
theorem exec_keeperRegister {i : Instr} (hi : i ∈ [Instr.syKeeper g a, .syKnoteResolve g a, .syKnoteRefuse g a, .syXinvPage g a,
      .syXinvContext g a, .syXinvHeap g a, .syXinvAll g a, .sySwarea g a, .sySwload g a, .syswr g 0x020 a, .syswr g 0x021 a,
      .syswr g 0x022 a, .syswr g 0x023 a, .syswr g 0x024 a]) :
    ∃ n ∈ [0x020, 0x021, 0x022, 0x023, 0x024], ∀ s, exec i s = sysWrite g n a s := by
  simp only [List.mem_cons, List.not_mem_nil, or_false] at hi
  rcases hi with rfl | rfl | rfl | rfl | rfl | rfl | rfl | rfl | rfl | rfl | rfl | rfl | rfl | rfl
  · exact ⟨0x020, by decide, fun _ => rfl⟩
  · exact ⟨0x021, by decide, fun _ => rfl⟩
  · exact ⟨0x021, by decide, fun _ => rfl⟩
  · exact ⟨0x022, by decide, fun _ => rfl⟩
  · exact ⟨0x022, by decide, fun _ => rfl⟩
  · exact ⟨0x022, by decide, fun _ => rfl⟩
  · exact ⟨0x022, by decide, fun _ => rfl⟩
  · exact ⟨0x023, by decide, fun _ => rfl⟩
  · exact ⟨0x024, by decide, fun _ => rfl⟩
  · exact ⟨0x020, by decide, fun _ => rfl⟩
  · exact ⟨0x021, by decide, fun _ => rfl⟩
  · exact ⟨0x022, by decide, fun _ => rfl⟩
  · exact ⟨0x023, by decide, fun _ => rfl⟩
  · exact ⟨0x024, by decide, fun _ => rfl⟩

/-- Each of these registers asks first whether the context may serve as a keeper. -/
theorem writeSy_keeperRegister (w : Who) (a : Spec) (hn : n ∈ [0x020, 0x021, 0x022, 0x023, 0x024]) :
    ∃ rest : Val → Unit → Act Unit, writeSy w n a = once w (readSrc w a >>= fun x => keeperOnly w >>= rest x) := by
  simp only [List.mem_cons, List.not_mem_nil, or_false] at hn
  rcases hn with rfl | rfl | rfl | rfl | rfl <;> exact ⟨_, rfl⟩

theorem keeperPrivilege : KeeperPrivilege := by
  intro w g s u u1 a x issues commit read other i hi
  obtain ⟨n, hn, writes⟩ := exec_keeperRegister hi
  obtain ⟨rest, register⟩ := writeSy_keeperRegister w a hn
  exact (writes s).trans (sysWrite_traps register issues commit read (go_bind_error (go_keeperOnly_refused other) _))

/-! ### What each write does (07 R176, R179, R181, R182) -/

theorem go_writeKeeper (keeper : KeeperContext w s) (v : Word) : (writeKeeper w v).go s =
    (.ok (), updDie s (w.core / 64) (fun k => { k with keeper := v &&& 0x80FFFFFFFFFFFFC0, keeperCtx := w.ctx })) := by
  rw [writeKeeper, go_keeperOnly_then keeper]
  rfl

theorem go_writeKnote {v : Word} (keeper : KeeperContext w s) (go : v.getLsbD 63 = true) (stores : storesDone (bank w s) = true) :
    (writeKnote w v).go s =
      (settleDesc (w.core / 64) (v.setWidth 32) (if v.getLsbD 62 then some .protection else none)).go s := by
  rw [writeKnote, go_keeperOnly_then keeper, if_pos go, go_state_then, go_waitUntil_then stores]
  rfl

theorem go_writeXinv {v : Word} (keeper : KeeperContext w s) (go : v.getLsbD 63 = true)
    (legal : (fld v 60 2 < 2 && fld v 57 3 < 4 && fld v 40 11 == 0) = true) (idle : (dieOf s (w.core / 64)).xinv = none) :
    (writeXinv w v).go s = (.ok (), updDie s (w.core / 64) (fun k => { k with xinv := some v })) := by
  have none_runs : (dieOf s (coreDie w.core)).xinv.isNone = true := by
    rw [coreDie, idle]
    rfl
  rw [writeXinv, go_keeperOnly_then keeper, go_bind_ok (by rw [go_requireOpen, if_pos legal]), if_pos go, go_state_then,
    go_waitUntil_then none_runs]
  rfl

/-- An instruction that writes register `n` once has the effect that the register's write has, on a task that holds its bank. -/
theorem writesOnce_of_sysWrite {i : Guard → Spec → Instr} {ok : Who → State → Word → Prop} {effect : Who → State → Word → State}
    {write : Who → Word → Act Unit} (writes : ∀ g a s, exec (i g a) s = sysWrite g n a s)
    (register : ∀ w a, writeSy w n a = once w (readSrc w a >>= fun x => write w x.v))
    (run : ∀ w u v, ok w u v → (write w v).go u = (.ok (), effect w u v))
    (banks : ∀ w u v, bankOf (effect w u v) w.core w.bank = bankOf u w.core w.bank) : WritesOnce i ok effect := by
  intro w g s u u1 a x issues commit read legal
  obtain ⟨v, next, once⟩ := sysWrite_completes (register w a) issues commit read (run w u1 x.v legal)
  refine ⟨v, (writes g a s).trans next, once ?_⟩
  have kept : bank w (effect w u1 x.v) = bank w u1 := banks w u1 x.v
  rw [kept]
  exact task_after_source issues commit read

theorem keeperWrite : KeeperWrite := by
  intro i hi
  have writes : ∀ g a s, exec (i g a) s = sysWrite g 0x020 a s := by
    simp only [List.mem_cons, List.not_mem_nil, or_false] at hi
    rcases hi with rfl | rfl <;> exact fun _ _ _ => rfl
  exact writesOnce_of_sysWrite (write := writeKeeper) writes (fun _ _ => rfl) (fun _ _ v keeper => go_writeKeeper keeper v)
    (fun _ _ _ => rfl)

theorem keeperNote : KeeperNote := by
  intro w g s u u1 a x issues commit read keeper go stores
  obtain ⟨_, u2, settled⟩ := answers_settleDesc (w.core / 64) (x.v.setWidth 32) (if x.v.getLsbD 62 then some .protection else none) u1
  refine ⟨u2, settled, fun i hi => ?_⟩
  have writes : exec i s = sysWrite g 0x021 a s := by
    simp only [List.mem_cons, List.not_mem_nil, or_false] at hi
    rcases hi with rfl | rfl | rfl <;> rfl
  rw [writes]
  exact sysWrite_completes (body := fun x => writeKnote w x.v) rfl issues commit read ((go_writeKnote keeper go stores).trans settled)

theorem xinv_legal {v : Word} (scope : (v.extractLsb' 60 2).toNat < 2) (kind : (v.extractLsb' 57 3).toNat < 4)
    (reserved : v.extractLsb' 40 11 = 0) : (fld v 60 2 < 2 && fld v 57 3 < 4 && fld v 40 11 == 0) = true := by
  rw [← fld_eq_toNat_extractLsb'] at scope kind
  rw [(fld_eq_zero_iff v 40 11).mpr reserved, decide_eq_true scope, decide_eq_true kind]
  rfl

theorem invalidationStarts : InvalidationStarts := by
  intro i hi
  have writes : ∀ g a s, exec (i g a) s = sysWrite g 0x022 a s := by
    simp only [List.mem_cons, List.not_mem_nil, or_false] at hi
    rcases hi with rfl | rfl | rfl | rfl <;> exact fun _ _ _ => rfl
  refine writesOnce_of_sysWrite (write := writeXinv) writes (fun _ _ => rfl) ?_ (fun _ _ _ => rfl)
  rintro w u v ⟨keeper, go, scope, kind, reserved, idle⟩
  exact go_writeXinv keeper go (xinv_legal scope kind reserved) idle

end

/-- Settles O24: a write commits, reads its source, asks for the keeper's privilege and has its effect once; the task keeps its bank through
the commit. -/
theorem keeperRegisters : Obligations.KeeperRegisters := ⟨keeperWrite, keeperPrivilege, keeperNote, invalidationStarts⟩

end Sys2Proof.Proofs
end

section
/-!
PROOF. Remote traffic: requests at their owner, answers, notices, resends, replays and stf that an owner holds (07 R184 to R191; 08 R206,
R421).
-/

namespace Sys2Proof.Proofs

open Sys2Proof.Machine Sys2Proof.Claims

section
variable {k : Nat} {r : Request} {x : Context} {l : Leaf} {s u : State}

/-! ### Requests at their owner (07 R184, R186 to R188; 08 R206) -/

/-- The k-th request has left the fabric. -/
def requestGone (u : State) (k : Nat) : State := { u with net := { u.net with reqs := removeAt u.net.reqs k } }

theorem exec_remoteRequest (flight : s.net.reqs[k]? = some r) (arrives : (ownerArrival r).go s = (.ok (), u)) :
    exec (.remoteRequest k) s = .next (requestGone u k) := by
  refine asStep_ok ?_
  rw [go_state_then, flight]
  exact go_bind_ok arrives _

/-- A close request closes the window of its key. -/
theorem go_ownerArrival_closes (closes : r.kind = 7) (live : ctxOf s r.acc.ctx = some x) : (ownerArrival r).go s =
    (.ok (), respond (closeTicketWindow s r.owner r.req r.acc.ctx r.acc.cls) r 0 0 none []) := by
  rw [ownerArrival, go_state_then]
  dsimp only
  rw [live]
  dsimp only
  rw [if_pos (by rw [closes]; rfl)]
  rfl

/-- A request whose page stands, under no open window of its key, goes to the page. -/
theorem go_ownerArrival_leaf (ready : OwnerReady r x l s u) : (ownerArrival r).go s = (arriveAt r l).go u := by
  obtain ⟨live, access, whole, window, page⟩ := ready
  have notClose : ¬ (r.kind == 7) = true := by
    rintro h
    rw [beq_iff_eq.mp h] at access
    exact absurd access (by decide)
  rw [ownerArrival, go_state_then]
  dsimp only
  rw [live]
  dsimp only
  rw [if_neg notClose, window, whole]
  simp only [Option.any_none, Bool.and_false, Bool.false_eq_true, if_false]
  exact go_bind_ok page _

/-- The request with the place its page gives it. -/
def requestAt (r : Request) (l : Leaf) : Request := { r with acc := { r.acc with pa := l.pa, target := leafTarget l } }

theorem go_arriveAt_refused (refuses : l.allows (reqRight r.kind) = false) :
    (arriveAt r l).go u = (.ok (), respond u (requestAt r l) 3 0 (some .protection) []) := by
  rw [arriveAt]
  dsimp only
  rw [refuses]
  rfl

/-- A load or a store that is no atomic performs at once. -/
theorem go_arriveAt_performs (allows : l.allows (reqRight r.kind) = true) (plain : r.kind = 0 ∨ r.kind = 1)
    (atomic : r.acc.kind ≠ .atomic) (swap : r.acc.kind ≠ .casSec) : (arriveAt r l).go u = (performRequest (requestAt r l)).go u := by
  have ok : ownerAtomicOk (requestAt r l) = true := by
    rw [ownerAtomicOk]
    split
    · exact absurd ‹_› atomic
    · exact absurd ‹_› swap
    · rfl
  have notCopy : ¬ (r.kind == 5 || r.kind == 6) = true := by
    rcases plain with kind | kind <;> rw [kind] <;> decide
  have notStf : (r.kind == 2) = false := by
    rcases plain with kind | kind <;> rw [kind] <;> decide
  rw [arriveAt]
  change Act.go (if (!l.allows (reqRight r.kind) || !ownerAtomicOk (requestAt r l)) = true then _ else
    if (r.kind == 5 || r.kind == 6) = true then _ else _) u = _
  rw [allows, ok, if_neg (by decide), if_neg notCopy, notStf]
  rfl

theorem answers_ite {p : Prop} [Decidable p] {m n : Act Unit} (h : Answers m) (k : Answers n) : Answers (if p then m else n) := by
  split <;> assumption

/-- A request that is no atomic, and that no checkpoint stalls, performs and is answered. -/
theorem performRequest_answers (atomic : r.acc.kind ≠ .atomic) (swap : r.acc.kind ≠ .casSec) (open_ : writeStalls s r.acc.pa r.acc.len = false) :
    ∃ v, (performRequest r).go s = (.ok (), v) := by
  have plain : ¬ ((r.acc.kind == .atomic || r.acc.kind == .casSec) && requestStands s r) = true := by
    rw [beq_eq_false_iff_ne.mpr atomic, beq_eq_false_iff_ne.mpr swap]
    exact Bool.false_ne_true
  have answered (p : State × List Byte) : Answers (change (fun s => respond s r 0 0 none p.2)) := Answers.change _
  have closed (p : State × List Byte) := answers_ite (p := r.final = true)
    (Answers.bind (Answers.change fun s => closeTicketWindow s r.owner r.req r.acc.ctx r.acc.cls) fun _ => answered p) (answered p)
  have counted := fun (p : State × List Byte) => answers_ite (p := (1 ≤ r.kind.toNat && r.kind.toNat ≤ 4) = true)
    (Answers.bind (Answers.change fun s => updDie s r.owner (fun k => { k with
      arr := supd 0 k.arr (arrivalKey r.req r.acc.ctx r.acc.cls r.orte.toNat) (· + 1) })) fun _ => closed p) (closed p)
  obtain ⟨_, v, performs⟩ := Answers.bind Answers.state (fun t => Answers.bind (Answers.set (performAccess t r.acc).1) fun _ =>
    counted (performAccess t r.acc)) s
  refine ⟨v, ?_⟩
  rw [performRequest, go_state_then, go_waitUntil_then (by rw [open_, Bool.and_false]; rfl), if_neg plain]
  exact performs

/-! ### Answers and notices at the requester (07 R184, R188, R191) -/

theorem exec_remoteResponse {a : Response} (flight : s.net.resps[k]? = some a)
    (arrives : (responseArrival a).go { s with net := { s.net with resps := removeAt s.net.resps k } } = (.ok (), u)) :
    exec (.remoteResponse k) s = .next u := by
  refine asStep_ok ?_
  rw [go_state_then, flight]
  dsimp only
  rw [go_change_then, arrives]

theorem exec_replayNotice {n : Notice} (flight : s.net.notices[k]? = some n) :
    let noted := (List.range 3).foldl (fun s b => updBank s n.req b (noticeBank n))
      { s with net := { s.net with notices := removeAt s.net.notices k } }
    let u := if n.refused = none then updHolds noted n.req n.ctx n.owner n.cls (fun h => some { h with noticed := true }) else noted
    exec (.replayNotice k) s = .next ((coreOf u n.req).streamed.foldl (noticeStreamed n) u) := by
  refine asStep_ok ?_
  rw [go_state_then, flight]
  dsimp only
  rw [go_change_then, go_change_then]
  cases n.refused <;> rfl

/-! ### Requests that leave again (07 R188, R190; 08 R421) -/

theorem exec_remoteResend {t : Ticket} (entry : aget (bankOf s (k / 96) (k % 96 / 32)).tickets (k % 32) = some t) (busy : t.busy = true) :
    exec (.remoteResend k) s = .next (postRequest
      (updBank s (k / 96) (k % 96 / 32) (fun q => { q with tickets := aset q.tickets (k % 32) { t with busy := false } })) false
      (requestOf (k / 96) (k % 96 / 32) (k % 32) t t.replaying (t.replaying && (holdsOf s (k / 96) t.acc.ctx).any
        (fun h => h.owner == t.owner.toNat && h.cls == t.acc.cls && h.finalSent)))) := by
  refine asStep_ok ?_
  dsimp only
  rw [go_state_then, entry]
  dsimp only
  rw [go_needs_then busy]
  rfl

/-- The other entries of a ticket's key on its core. -/
def otherEntries (s : State) (c : Nat) (t : Ticket) : List Ticket :=
  (keyEntries s c t.acc.ctx t.owner.toNat t.acc.cls).filter (fun e => e.seq != t.seq)

/-- A noticed entry replays: its context runs, no other entry of its key is replaying or older, and no write that it waits for is
outstanding. -/
structure Replays (c b : Nat) (t : Ticket) (s : State) : Prop where
  noticed : t.state = 3
  runs : contextRuns s c t.acc.ctx = true
  first : ∀ e ∈ otherEntries s c t, e.replaying = false ∧ younger t.seq e.seq = false
  writes : ∀ e ∈ (bankOf s c b).inflight ++ (bankOf s c b).tickets.map (fun e => e.2.acc), e.id < (seen s t.acc).id →
    stfWaits (seen s e) (seen s t.acc) = false

theorem not_earlierWrites {c b : Nat} {v : Access} (h : ∀ e ∈ (bankOf s c b).inflight ++ (bankOf s c b).tickets.map (fun e => e.2.acc),
    e.id < v.id → stfWaits (seen s e) v = false) : earlierWrites s c b v = false := by
  rw [earlierWrites, Bool.or_eq_false_iff, List.any_eq_false, List.any_eq_false]
  constructor
  · intro e he waits
    obtain ⟨older, holds⟩ := Bool.and_eq_true_iff.mp waits
    have := h e (List.mem_append_left _ he) (of_decide_eq_true older)
    simp [this] at holds
  · intro e he waits
    obtain ⟨older, holds⟩ := Bool.and_eq_true_iff.mp waits
    have := h e.2.acc (List.mem_append_right _ (List.mem_map_of_mem he)) (of_decide_eq_true older)
    simp [this] at holds

/-- The state in which a replay leaves: the last one of its key carries FINAL, and its hold says so. -/
def replayed (c b n : Nat) (t : Ticket) (s : State) : State :=
  let closing := if otherEntries s c t = [] then
    updHolds s c t.acc.ctx t.owner.toNat t.acc.cls (fun h => some { h with finalSent := true }) else s
  postRequest (updBank closing c b (fun k => { k with tickets := aset k.tickets n { t with state := 1, replaying := true } })) false
    (requestOf c b n t true (otherEntries s c t).isEmpty)

theorem go_replayEntry {c b : Nat} {t : Ticket} (n : Nat) (h : Replays c b t s) :
    (replayEntry c b n t).go s = (.ok (), replayed c b n t s) := by
  obtain ⟨noticed, runs, first, writes⟩ := h
  have alone : (!(otherEntries s c t).any (fun e => e.replaying || younger t.seq e.seq)) = true := by
    rw [Bool.not_eq_true', List.any_eq_false]
    intro e he
    obtain ⟨rests, young⟩ := first e he
    simp [rests, young]
  rw [otherEntries] at alone
  rw [replayEntry, go_state_then]
  dsimp only
  rw [go_needs_then (by rw [noticed]; rfl), go_needs_then runs, go_needs_then alone, go_waitUntil_then (by rw [not_earlierWrites writes]; rfl)]
  change Act.go (if (otherEntries s c t).isEmpty = true then _ else _) s = _
  by_cases last : otherEntries s c t = []
  · rw [replayed, if_pos last, if_pos (List.isEmpty_iff.mpr last)]
    rfl
  · rw [replayed, if_neg last, if_neg (mt List.isEmpty_iff.mp last)]
    rfl

theorem exec_ticketReplay_entry {core : BitVec 8} {b n : Nat} {t : Ticket} (hb : b < 3) (hn : n < 32)
    (entry : aget (bankOf s core.toNat b).tickets n = some t) (h : Replays core.toNat b t s) :
    exec (.ticketReplay core (32 * b + n)) s = .next (replayed core.toNat b n t s) := by
  have bank : (32 * b + n) / 32 = b := by omega
  have place : (32 * b + n) % 32 = n := by omega
  refine asStep_ok ?_
  dsimp only
  rw [go_state_then, if_pos (by omega), bank, place, entry]
  exact go_replayEntry n h

/-! ### A window that is to be closed (07 R188) -/

/-- The close request of a hold. -/
def closeRequest (c owner : Nat) (cls : BitVec 4) (h : Hold) : Request :=
  { kind := 7, req := c, bank := 0, owner := owner, entry := 32, seq := 0, acc := placeRemote 0 .load cls h.ctx ⟨0, 0, 0⟩ owner,
    replay := true, final := true, route := 0, orte := 0, cnt := [] }

theorem go_closeKey {c owner : Nat} {cls : BitVec 4} {h : Hold} (noticed : h.noticed = true) (unsent : h.finalSent = false)
    (runs : enginesRun s = true) (performed : keyEntries s c h.ctx owner cls = []) : (closeKey c owner cls h).go s =
      (.ok (), postRequest (updHolds s c h.ctx owner cls (fun h => some { h with finalSent := true })) false
        (closeRequest c owner cls h)) := by
  rw [closeKey, go_state_then, go_needs_then (by rw [noticed, unsent]; rfl), go_needs_then (by rw [runs, performed]; rfl)]
  rfl

theorem pickRoute_mem (s : State) (a b : Nat) : (pickRoute s a b).1.mem = s.mem := by
  unfold pickRoute
  split <;> rfl

theorem pickRoute_net (s : State) (a b : Nat) : (pickRoute s a b).1.net = s.net := by
  unfold pickRoute
  split <;> rfl

theorem postRequest_mem (s : State) (first : Bool) (r : Request) : (postRequest s first r).mem = s.mem := pickRoute_mem s _ _

theorem postRequest_reqs (s : State) (r : Request) :
    (postRequest s false r).net.reqs = s.net.reqs ++ [{ r with route := (pickRoute s (coreDie r.req) r.owner).2 }] := by
  rw [postRequest]
  simp only [pickRoute_net]
  rfl

theorem exec_ticketReplay_close {core : BitVec 8} {y : Nat} {cls : BitVec 4} {owner : BitVec 2} {h : Hold}
    (held : (holdsOf s core.toNat y).find? (fun h => h.owner == owner.toNat && h.cls == cls) = some h) (noticed : h.noticed = true)
    (unsent : h.finalSent = false) (runs : enginesRun s = true) (performed : keyEntries s core.toNat h.ctx owner.toNat cls = []) :
    exec (.ticketReplay core (96 + 64 * y + 4 * cls.toNat + owner.toNat)) s = .next (postRequest
      (updHolds s core.toNat h.ctx owner.toNat cls (fun h => some { h with finalSent := true })) false
      (closeRequest core.toNat owner.toNat cls h)) := by
  have classes : cls.toNat < 16 := cls.isLt
  have owners : owner.toNat < 4 := owner.isLt
  obtain ⟨j, key⟩ : ∃ j, 96 + 64 * y + 4 * cls.toNat + owner.toNat = 96 + j := ⟨64 * y + 4 * cls.toNat + owner.toNat, by omega⟩
  have context : j / 64 = y := by omega
  have ofOwner : j % 4 = owner.toNat := by omega
  have ofClass : BitVec.ofNat 4 (j % 64 / 4) = cls := by
    rw [show j % 64 / 4 = cls.toNat by omega, BitVec.ofNat_toNat, BitVec.setWidth_eq]
  refine asStep_ok ?_
  dsimp only
  rw [key, go_state_then, if_neg (by omega), show 96 + j - 96 = j by omega, context, ofOwner, ofClass, held]
  exact go_closeKey noticed unsent runs performed

/-! ### An stf that its owner holds (08 R206) -/

theorem exec_stfHeldPerform {die : BitVec 2} (held : (dieOf s die.toNat).heldStf[k]? = some r) (reached : countsReached s r = true)
    (performs : (performRequest r).go s = (.ok (), u)) : exec (.stfHeldPerform die k) s =
      .next (updDie u die.toNat (fun q => { q with heldStf := removeAt q.heldStf k })) := by
  refine asStep_ok ?_
  dsimp only
  rw [go_state_then, held]
  dsimp only
  rw [go_waitUntil_then reached]
  exact go_bind_ok performs _

end

/-- Settles O49: each event of a request, an answer, a notice or a ticket entry, by what its action answers. -/
theorem remoteTraffic : Obligations.RemoteTraffic := by
  intro s k
  refine ⟨?arrives, ?closes, ?owner, ?answer, ?notice, ?resend, ?replay, ?close, ?held⟩
  case arrives => exact fun r u flight arrives => exec_remoteRequest flight arrives
  case closes => exact fun r x flight closes live => exec_remoteRequest flight (go_ownerArrival_closes closes live)
  case owner =>
    intro r x l u flight ready
    refine ⟨fun refuses => exec_remoteRequest flight ((go_ownerArrival_leaf ready).trans (go_arriveAt_refused refuses)), ?_⟩
    intro allows plain atomic swap open_
    obtain ⟨v, performs⟩ := performRequest_answers (r := requestAt r l) atomic swap open_
    have arrives := (go_ownerArrival_leaf ready).trans (go_arriveAt_performs allows plain atomic swap)
    exact ⟨v, performs, exec_remoteRequest flight (arrives.trans performs)⟩
  case answer =>
    intro a flight
    obtain ⟨_, u, arrives⟩ := answers_responseArrival a { s with net := { s.net with resps := removeAt s.net.resps k } }
    exact ⟨u, arrives, exec_remoteResponse flight arrives⟩
  case notice => exact fun n flight => exec_replayNotice flight
  case resend => exact fun t entry busy => exec_remoteResend entry busy
  case replay =>
    intro core b n t c hb hn entry noticed runs others first writes
    exact exec_ticketReplay_entry hb hn entry ⟨noticed, runs, first, writes⟩
  case close =>
    intro core x cls owner h c held noticed unsent runs performed
    refine ⟨_, exec_ticketReplay_close held noticed unsent runs performed, postRequest_mem _ _ _, closeRequest c owner.toNat cls h, _,
      postRequest_reqs _ _, rfl, rfl, rfl, rfl, rfl, rfl⟩
  case held =>
    intro die r held reached atomic swap open_
    obtain ⟨u, performs⟩ := performRequest_answers atomic swap open_
    exact ⟨u, performs, exec_stfHeldPerform held reached performs⟩

end Sys2Proof.Proofs
end

section
/-!
PROOF. Local misses, fault descriptors, page walks, the end of an invalidation, a copy's token (07 R174 to R176, R178, R180; 09 R236).
-/

namespace Sys2Proof.Proofs

open Sys2Proof.Machine Sys2Proof.Claims

/-! ### A miss that was raised (07 R178) -/

section
variable {s u : State}

theorem go_commandsDone_idle {c b : Nat} (idle : commandsRun (bankOf s c b) = false) : (commandsDone c b).go s = (.ok true, s) := by
  rw [commandsDone, go_state_then, if_pos (by rw [idle]; rfl), go_pure]

/-- A miss whose commands are done is finished: its task ends, its window closes, its launch ends or it waits for its page. -/
theorem go_finishMiss {c b : Nat} (missed : (bankOf s c b).miss.isSome = true) (task : (bankOf s c b).task.isSome = true)
    (idle : commandsRun (bankOf s c b) = false) : ∃ v, (finishMiss c b).go s = (.ok (), v) := by
  obtain ⟨m, missed⟩ := Option.isSome_iff_exists.mp missed
  obtain ⟨t, task⟩ := Option.isSome_iff_exists.mp task
  rw [finishMiss, go_state_then]
  dsimp only
  rw [missed, task]
  dsimp only
  by_cases ends : taskEnds s t = true
  · rw [if_pos ends]
    obtain ⟨_, v, ended⟩ := answers_endTask t s
    exact ⟨v, ended⟩
  · rw [if_neg ends, go_bind_ok (go_commandsDone_idle idle), go_waitUntil_then rfl, go_change_then]
    by_cases window : (bankOf s c b).window = true
    · rw [if_pos window, go_change]
      exact ⟨_, rfl⟩
    · rw [if_neg window]
      by_cases keeper : keeperOn s m.die = true
      · rw [if_neg (by simp [keeper])]
        exact ⟨_, rfl⟩
      · rw [if_pos (by simp [keeper])]
        obtain ⟨_, v, ended⟩ := answers_endByTrap t c .translation (m.pc.getD (bankOf s c b).regs.pc)
          (BitVec.ofNat 64 (m.va + m.queue * 2 ^ 60)) _
        exact ⟨v, ended⟩

theorem exec_translation {core : BitVec 8} {b : Nat} (active : (coreOf s core.toNat).active = some b)
    (missed : (bankOf s core.toNat b).miss.isSome = true) (finishes : (finishMiss core.toNat b).go s = (.ok (), u)) :
    exec (.translation core) s = .next u := by
  refine asStep_ok ?_
  dsimp only
  rw [go_state_then, go_need_then active, if_pos missed, finishes]

/-! ### A fault descriptor goes to the keeper's ring (07 R180) -/

theorem exec_faultDescriptorWrite {s1 s2 s3 : State} {die : BitVec 2} {k : Desc} {hd : List (BitVec 8)} {r : Except DevFail Unit}
    (oldest : (dieOf s die.toNat).descs.find? (fun k => !k.written) = some k) (runs : shepherdsRun s = true)
    (keeper : keeperOn s die.toNat = true)
    (head : (devRead (dieOf s die.toNat).keeperCtx (keeperRing (dieOf s die.toNat).keeper) 24).go s = (.ok (.ok hd), s1))
    (room : (leWord ((hd.drop 8).take 8) - leWord ((hd.drop 16).take 8)).toNat < 256)
    (entry : (devWrite (dieOf s die.toNat).keeperCtx
      (keeperRing (dieOf s die.toNat).keeper + 64 + 32 * ((leWord ((hd.drop 8).take 8)).toNat % 256)) (descBytes k)).go s1 = (.ok (.ok ()), s2))
    (index : (devWriteWord (dieOf s die.toNat).keeperCtx (keeperRing (dieOf s die.toNat).keeper + 8)
      (leWord ((hd.drop 8).take 8) + 1)).go s2 = (.ok r, s3))
    (copy : (keeperCopy die.toNat k.id (leWord (hd.take 8))).go (markWritten s3 die.toNat k.id) = (.ok (), u)) :
    exec (.faultDescriptorWrite die k.id) s = .next u := by
  refine asStep_ok ?_
  dsimp only
  rw [go_state_then, go_need_then oldest, go_needs_then (beq_self_eq_true k.id), go_waitUntil_then runs, if_neg (by simp [keeper]),
    go_bind_ok head]
  dsimp only
  rw [go_waitUntil_then (decide_eq_true room), go_bind_ok entry]
  dsimp only
  rw [go_bind_ok index, go_change_then, copy]

/-! ### A page walk (07 R174, R175) -/

theorem exec_pageWalk {core : BitVec 8} {va : Word} {write : Bool} {w : Who} {k : Context} {r : Right} {a : Xlat}
    (who : whoRuns s core.toNat = some w) (live : ctxOf s w.ctx = some k) (runs : enginesRun s = true)
    (asked : (walkRights s w.core w.bank w.ctx va.toNat).find? (fun r => r.writes == write) = some r)
    (walked : (translate (some w.core) (w.core / 64) (some (w.core / 64)) w.ctx k va.toNat r).go s = (.ok a, u)) :
    exec (.pageWalk core va write) s = .next u := by
  refine asStep_ok ?_
  rw [go_state_then, go_need_then who, go_need_then live, go_waitUntil_then runs, go_need_then asked]
  exact go_bind_ok walked _

end

/-! ### The end of an invalidation (07 R176) -/

section
variable {s : State}

/-- A value that no update of a loop changes. -/
theorem foldl_keeps {α β : Type} {f : State → α → State} {g : State → β} (h : ∀ s a, g (f s a) = g s) (l : List α) :
    ∀ s, g (l.foldl f s) = g s := by
  induction l with
  | nil => exact fun _ => rfl
  | cons a r ih => exact fun s => (ih _).trans (h s a)

/-- Where a loop updates the picked entries of a list of keys, and one update of an entry is as good as two, each picked key that the list
names is updated. -/
theorem read_foldl {α β : Type} {read : State → Nat → α} {upd : State → Nat → State} {f : α → α}
    (same : ∀ s k, read (upd s k) k = f (read s k)) (other : ∀ s k j, j ≠ k → read (upd s k) j = read s j) (twice : ∀ x, f (f x) = f x)
    (p : Nat → Bool) (n : Nat) (l : List (Nat × β)) :
    ∀ s, read (l.foldl (fun s e => if p e.1 then upd s e.1 else s) s) n =
      if p n = true ∧ n ∈ l.map (fun e => e.1) then f (read s n) else read s n := by
  induction l with
  | nil => exact fun s => (if_neg (by simp)).symm
  | cons e r ih =>
    intro s
    rw [List.foldl_cons, ih]
    by_cases key : n = e.1
    · subst key
      by_cases picked : p e.1 = true
      · simp [picked, same, twice]
      · simp [picked]
    · have named : n ∈ (e :: r).map (fun e => e.1) ↔ n ∈ r.map (fun e => e.1) := by
        rw [List.map_cons, List.mem_cons, or_iff_right key]
      have kept : read (if p e.1 = true then upd s e.1 else s) n = read s n := by
        split
        · exact other s e.1 n key
        · rfl
      simp only [named, kept]

theorem sget_absent {α : Type} (d : α) (m : Sparse α) (n : Nat) (h : n ∉ m.map (fun e => e.1)) : sget d m n = d := by
  induction m with
  | nil => rfl
  | cons e r ih =>
    obtain ⟨k, x⟩ := e
    obtain ⟨key, rest⟩ : n ≠ k ∧ n ∉ r.map (fun e => e.1) := by simpa using h
    rw [sget, if_neg key, ih rest]

theorem dropCore_dropCore (v : Xinv) (k : Core) : v.dropCore (v.dropCore k) = v.dropCore k := by
  simp [Xinv.dropCore, List.filter_filter]

theorem dropDie_dropDie (v : Xinv) (d : Die) : v.dropDie (v.dropDie d) = v.dropDie d := by
  simp [Xinv.dropDie, List.filter_filter]

/-- The covered entries of the caches of every core on a picked die go. -/
def dropCores (v : Xinv) (p : Nat → Bool) (s : State) : State :=
  s.cores.foldl (fun s e => if p (coreDie e.1) then updCore s e.1 v.dropCore else s) s

/-- The covered entries of the walk cache of every picked die go. -/
def dropDies (v : Xinv) (p : Nat → Bool) (s : State) : State :=
  s.dies.foldl (fun s e => if p e.1 then updDie s e.1 v.dropDie else s) s

theorem coreOf_dropCores (v : Xinv) (p : Nat → Bool) (s : State) (c : Nat) :
    coreOf (dropCores v p s) c = if p (coreDie c) = true then v.dropCore (coreOf s c) else coreOf s c := by
  refine (read_foldl (p := fun c => p (coreDie c)) (fun s k => coreOf_updCore s k v.dropCore)
    (fun s k j h => coreOf_updCore_other s v.dropCore h) (dropCore_dropCore v) c s.cores s).trans ?_
  by_cases listed : c ∈ s.cores.map (fun e => e.1)
  · simp [listed]
  · have unlisted : coreOf s c = Core.reset := sget_absent _ _ _ listed
    have empty : v.dropCore Core.reset = Core.reset := rfl
    simp [unlisted, empty]

theorem dieOf_updDie_other (s : State) {d k : Nat} (f : Die → Die) (h : k ≠ d) : dieOf (updDie s d f) k = dieOf s k := by
  rw [updDie, dieOf_setDie_other _ _ h]

theorem dieOf_dropDies (v : Xinv) (p : Nat → Bool) (s : State) (d : Nat) :
    dieOf (dropDies v p s) d = if p d = true then v.dropDie (dieOf s d) else dieOf s d := by
  refine (read_foldl (p := p) (fun s k => dieOf_updDie s k v.dropDie) (fun s k j h => dieOf_updDie_other s v.dropDie h)
    (dropDie_dropDie v) d s.dies s).trans ?_
  by_cases listed : d ∈ s.dies.map (fun e => e.1)
  · simp [listed]
  · have unlisted : dieOf s d = Die.reset := sget_absent _ _ _ listed
    have empty : v.dropDie Die.reset = Die.reset := rfl
    simp [unlisted, empty]

theorem dropCores_mem (v : Xinv) (p : Nat → Bool) (s : State) : (dropCores v p s).mem = s.mem :=
  foldl_keeps (g := State.mem) (fun s e => by split <;> rfl) s.cores s

theorem dropCores_dies (v : Xinv) (p : Nat → Bool) (s : State) : (dropCores v p s).dies = s.dies :=
  foldl_keeps (g := State.dies) (fun s e => by split <;> rfl) s.cores s

theorem dropDies_mem (v : Xinv) (p : Nat → Bool) (s : State) : (dropDies v p s).mem = s.mem :=
  foldl_keeps (g := State.mem) (fun s e => by split <;> rfl) s.dies s

theorem dropDies_cores (v : Xinv) (p : Nat → Bool) (s : State) : (dropDies v p s).cores = s.cores :=
  foldl_keeps (g := State.cores) (fun s e => by split <;> rfl) s.dies s

/-- The dies whose caches an invalidation of die `d` covers: its own, or all of the package. -/
def xinvScope (v : Xinv) (d n : Nat) : Bool := v.package || n == d

theorem xinvScope_iff (v : Xinv) (d n : Nat) : xinvScope v d n = true ↔ v.package = true ∨ n = d := by
  rw [xinvScope, Bool.or_eq_true, beq_iff_eq]

/-- The invalidation of die `d` is over: the caches in its scope hold no covered entry. -/
def invalidated (v : Xinv) (d : Nat) (s : State) : State :=
  updDie (dropDies v (xinvScope v d) (dropCores v (xinvScope v d) s)) d (fun k => { k with xinv := none })

theorem invalidated_mem (v : Xinv) (d : Nat) (s : State) : (invalidated v d s).mem = s.mem := (dropDies_mem v _ _).trans (dropCores_mem v _ s)

theorem coreOf_invalidated (v : Xinv) (d : Nat) (s : State) (c : Nat) :
    coreOf (invalidated v d s) c = if xinvScope v d (c / 64) = true then v.dropCore (coreOf s c) else coreOf s c := by
  have core : coreOf (invalidated v d s) c = coreOf (dropCores v (xinvScope v d) s) c := by
    rw [invalidated, coreOf, updDie_cores, dropDies_cores, coreOf]
  exact core.trans (coreOf_dropCores v _ s c)

theorem dieOf_dropped (v : Xinv) (p : Nat → Bool) (s : State) (d : Nat) :
    dieOf (dropDies v p (dropCores v p s)) d = if p d = true then v.dropDie (dieOf s d) else dieOf s d := by
  rw [dieOf_dropDies, dieOf, dropCores_dies, dieOf]

theorem xinv_invalidated (v : Xinv) (d : Nat) (s : State) : (dieOf (invalidated v d s) d).xinv = none := by
  rw [invalidated, dieOf_updDie]

/-- BUSY clears on the invalidation's own die; of walk caches, those in scope change. -/
theorem walkCache_invalidated (v : Xinv) (d : Nat) (s : State) (e : Nat) : (dieOf (invalidated v d s) e).walkCache =
    if xinvScope v d e = true then (v.dropDie (dieOf s e)).walkCache else (dieOf s e).walkCache := by
  have dropped : (dieOf (invalidated v d s) e).walkCache =
      (dieOf (dropDies v (xinvScope v d) (dropCores v (xinvScope v d) s)) e).walkCache := by
    by_cases own : e = d
    · subst own
      rw [invalidated, dieOf_updDie]
    · rw [invalidated, dieOf_updDie_other _ _ own]
  rw [dropped, dieOf_dropped]
  split <;> rfl

theorem dieOf_invalidated_outside {v : Xinv} {d e : Nat} (outside : ¬ xinvScope v d e = true) (s : State) :
    dieOf (invalidated v d s) e = dieOf s e := by
  have other : e ≠ d := fun own => outside ((xinvScope_iff v d e).mpr (Or.inr own))
  rw [invalidated, dieOf_updDie_other _ _ other, dieOf_dropped, if_neg outside]

theorem mem_dropCore_tlb (v : Xinv) (k : Core) (e : TlbEntry) : e ∈ (v.dropCore k).tlb ↔ e ∈ k.tlb ∧ ¬ TlbCovered v e := by
  rw [Xinv.dropCore, List.mem_filter, TlbCovered, spans, Bool.not_eq_true', ← Bool.not_eq_true]
  simp [eq_comm (a := v.ctx)]

theorem mem_dropCore_hatCache (v : Xinv) (k : Core) (e : Nat × Nat × BitVec 32) :
    e ∈ (v.dropCore k).hatCache ↔ e ∈ k.hatCache ∧ ¬ (v.kind = 3 ∨ (e.1 = v.ctx ∧ v.kind ≠ 0)) := by
  rw [Xinv.dropCore, List.mem_filter, Bool.not_eq_true', ← Bool.not_eq_true]
  simp [eq_comm (a := v.ctx)]

theorem mem_dropDie_walkCache (v : Xinv) (k : Die) (e : Nat × Nat × Nat × Word) : e ∈ (v.dropDie k).walkCache ↔ e ∈ k.walkCache ∧
    ¬ (v.kind = 3 ∨ (e.1 = v.ctx ∧ (v.kind = 1 ∨ (v.kind = 0 ∧ e.2.2.1 = v.vpn * 0x10000 / 2 ^ levelShift e.2.1)))) := by
  rw [Xinv.dropDie, List.mem_filter, Bool.not_eq_true', ← Bool.not_eq_true]
  simp [eq_comm (a := v.ctx)]

theorem exec_xinvComplete {die : BitVec 2} {w : Word} (runs : (dieOf s die.toNat).xinv = some w)
    (idle : xinvBusy s (xinvOf w) (xinvScope (xinvOf w) die.toNat) = false) :
    exec (.xinvComplete die) s = .next (invalidated (xinvOf w) die.toNat s) := by
  have idles : (!xinvBusy s (xinvOf w) (xinvScope (xinvOf w) die.toNat)) = true := by
    rw [idle]
    rfl
  refine asStep_ok ?_
  dsimp only
  rw [go_state_then, go_need_then runs]
  exact go_waitUntil_then idles _

end

/-! ### A copy's token (09 R236) -/

section
variable {s : State}

theorem coreOf_monFree (s : State) (die src : Nat) (core : Option Nat) (c : Nat) : coreOf (monFree s die src core) c = coreOf s c := by
  have taken (v : BitVec 32) : (monTake { s with fresh := s.fresh + 1 } die src core v).cores = s.cores :=
    foldl_keeps (g := State.cores) (fun s n => (rfl : (setMon s n _).cores = s.cores)) _ _
  rw [coreOf, monFree]
  split
  · rfl
  · rw [taken, coreOf]

theorem monFree_mem (s : State) (die src : Nat) (core : Option Nat) : (monFree s die src core).mem = s.mem := by
  rw [monFree]
  split
  · rfl
  · exact foldl_keeps (g := State.mem) (fun s n => (rfl : (setMon s n _).mem = s.mem)) _ _

/-- A core's data store changes, and no bank of it. -/
theorem bankOf_updCore_data (s : State) (c b : Nat) {f : Core → Core} (h : ∀ k, (f k).banks = k.banks) :
    bankOf (updCore s c f) c b = bankOf s c b := by
  rw [bankOf, coreOf_updCore, h, bankOf]

/-- A token of any issuer reaches its context through what its bank holds. -/
theorem bankOf_writeToken (s : State) (c b : Nat) (t : TokenDue) : bankOf (writeToken s c b t) c b = tokenBank t (bankOf s c b) := by
  have banked := bankOf_updBank s c b (tokenBank t)
  rw [writeToken]
  split
  · exact banked
  · split
    · exact banked
    · refine (bankOf_updCore_data _ c b ?_).trans banked
      exact fun _ => rfl
  · split
    · exact banked
    · refine (bankOf_updCore_data _ c b ?_).trans banked
      exact fun _ => rfl

theorem writeToken_mem (s : State) (c b : Nat) (t : TokenDue) : (writeToken s c b t).mem = s.mem := by
  rw [writeToken]
  split
  · rfl
  · split <;> rfl
  · split <;> rfl

/-- The token is no longer due, whoever issued its command. -/
theorem tokenBank_tokens (t : TokenDue) (k : Bank) : (tokenBank t k).tokens = k.tokens.filter (fun o => o.id != t.id) := by
  rw [tokenBank]
  split <;> rfl

/-- The token of a control core's command fills its register. -/
theorem tokenBank_regs {t : TokenDue} (control : t.issuer = 0) (k : Bank) : (tokenBank t k).regs = k.regs.fill t.id ⟨t.value, .derived⟩ := by
  rw [tokenBank, control]
  rfl

end

/-- Settles O50: each event by what its action answers; an invalidation by what its two loops leave in the caches of every core and die. -/
theorem translationEvents : Obligations.TranslationEvents := by
  refine ⟨?miss, ?descriptor, ?walk, ?invalidation, ?token⟩
  case miss =>
    intro s core b active missed task idle
    obtain ⟨u, finishes⟩ := go_finishMiss missed task idle
    exact ⟨u, finishes, exec_translation active missed finishes⟩
  case descriptor =>
    intro s s1 s2 die k hd d oldest runs keeper x ring prod head room entry
    have named : ring = keeperRing (dieOf s d).keeper := by
      rw [keeperRing, fld_eq_toNat_extractLsb']
    rw [named] at head entry ⊢
    obtain ⟨r, s3, index⟩ := answers_devWriteWord x (keeperRing (dieOf s d).keeper + 8) (prod + 1) s2
    obtain ⟨_, u, copy⟩ := answers_keeperCopy d k.id (leWord (hd.take 8)) (markWritten s3 d k.id)
    exact ⟨r, s3, u, index, copy, exec_faultDescriptorWrite oldest runs keeper head room entry index copy⟩
  case walk =>
    intro s core va write w k r who live runs _ asked
    obtain ⟨a, u, walked⟩ := answers_translate (some w.core) (w.core / 64) (some (w.core / 64)) w.ctx k va.toNat r s
    exact ⟨a, u, walked, exec_pageWalk who live runs asked walked⟩
  case invalidation =>
    intro s die w runs x scope idle
    refine ⟨_, exec_xinvComplete runs idle, xinv_invalidated _ _ _, invalidated_mem _ _ _, ?cores, ?dies, ?otherCores, ?otherDies⟩
    case cores =>
      intro c within
      rw [coreOf_invalidated, if_pos ((xinvScope_iff _ _ _).mpr within)]
      exact ⟨mem_dropCore_tlb x _, mem_dropCore_hatCache x _⟩
    case dies =>
      intro d within
      rw [walkCache_invalidated, if_pos ((xinvScope_iff _ _ _).mpr within)]
      exact mem_dropDie_walkCache x _
    case otherCores =>
      intro c outside
      rw [coreOf_invalidated, if_neg (mt (xinvScope_iff _ _ _).mp outside)]
    case otherDies => exact fun d outside => dieOf_invalidated_outside (mt (xinvScope_iff _ _ _).mp outside) s
  case token =>
    intro s core k b t due
    have written : bankOf (monFree (writeToken s core.toNat b t) (coreDie core.toNat) 0 (some (coreLocal core.toNat))) core.toNat b =
        tokenBank t (bankOf s core.toNat b) := by
      rw [bankOf, coreOf_monFree, ← bankOf, bankOf_writeToken]
    refine ⟨_, exec_copyTokenWrite due, (monFree_mem _ _ _ _).trans (writeToken_mem s _ b t), ?_, fun control => ?_⟩
    · rw [written, tokenBank_tokens]
      intro o left
      exact bne_iff_ne.mp (List.mem_filter.mp left).2
    · rw [regsOf, written, tokenBank_regs control, regsOf]

end Sys2Proof.Proofs
end

section
/-!
PROOF. brk, trap and rti, with a handler and without one (09 R244; 12 R334; 03 R69, R70).
-/

namespace Sys2Proof.Proofs

open Sys2Proof.Machine Sys2Proof.Safety Sys2Proof.Claims

/-! ### BREAK is taken (09 R244) -/

section
variable {s : State} {c b : Nat} {at_ next : Word}

/-- A bank whose task has entered its handler at depth 0 for BREAK, to go on at `resume` (09 R244). -/
def enteredBreak (resume : Word) (k : Bank) : Bank :=
  { k.toHandler with regs := { k.regs with epc0 := resume, cause0 := 0x11, depth := 1, pc := enterAt k.regs.evec } }

theorem toHandler_break {k : Bank} (depth : k.regs.depth = 0) (resume : Word) :
    { k.toHandler with regs := enterHandler k.regs .break_ resume } = enteredBreak resume k := by
  rw [enterHandler, if_pos depth]
  rfl

/-- BREAK with a handler set, at depth 0, enters the handler, whatever its INFO. -/
theorem go_takeTrap_break_handler (info : Option Word) (task : (bankOf s c b).task.isSome = true) (evec : (regsOf s c b).evec ≠ 0)
    (depth : (regsOf s c b).depth = 0) : ∃ k, (takeTrap c b .break_ info at_ next).go s =
      (.ok (), { updBank s c b (enteredBreak next) with fresh := k }) := by
  obtain ⟨t, task⟩ := Option.isSome_iff_exists.mp task
  have outside : ¬ ((bankOf s c b).regs.depth != 0) = true := by simpa [regsOf] using depth
  have handled : ((bankOf s c b).regs.evec != 0) = true := bne_iff_ne.mpr evec
  rw [← updBank_congr (f := fun k => { k.toHandler with regs := enterHandler k.regs .break_ next }) (toHandler_break depth next),
    takeTrap, go_state_then]
  dsimp only
  cases info with
  | none =>
    rw [go_bind_ok (go_drawWord s), task]
    dsimp only
    rw [if_neg outside, if_pos handled]
    exact ⟨_, rfl⟩
  | some i =>
    dsimp only
    rw [pure_bind, task]
    dsimp only
    rw [if_neg outside, if_pos handled]
    exact ⟨s.fresh, rfl⟩

/-- BREAK in a handler only goes on. -/
theorem go_takeTrap_break_inside (task : (bankOf s c b).task.isSome = true) (depth : (regsOf s c b).depth ≠ 0) :
    (takeTrap c b .break_ none at_ next).go s =
      (.ok (), { updRegs s c b (fun r => { r with pc := next }) with fresh := s.fresh + 1 }) := by
  obtain ⟨t, task⟩ := Option.isSome_iff_exists.mp task
  have inside : ((bankOf s c b).regs.depth != 0) = true := bne_iff_ne.mpr depth
  rw [takeTrap, go_state_then]
  dsimp only
  rw [go_bind_ok (go_drawWord s), task]
  dsimp only
  rw [if_pos inside]
  rfl

/-- BREAK without a handler writes its fault record and goes on. -/
theorem go_takeTrap_break_recorded {n : Nat} {q : Task} {u : State} (task : (bankOf s c b).task = some n) (held : taskOf s n = some q)
    (evec : (regsOf s c b).evec = 0) (depth : (regsOf s c b).depth = 0)
    (record : (faultRecord q.ctx (faultBytes 0x11 c (taskTag s q) q.record.wid at_ (Config.freeValue s.fresh))).go
      { s with fresh := s.fresh + 1 } = (.ok (), u)) :
    (takeTrap c b .break_ none at_ next).go s = (.ok (), updRegs u c b (fun r => { r with pc := next })) := by
  have outside : ¬ ((bankOf s c b).regs.depth != 0) = true := by simpa [regsOf] using depth
  have unhandled : ¬ ((bankOf s c b).regs.evec != 0) = true := by simpa [regsOf] using evec
  rw [takeTrap, go_state_then]
  dsimp only
  rw [go_bind_ok (go_drawWord s), task]
  dsimp only
  rw [if_neg outside, if_neg unhandled, held]
  dsimp only
  exact (go_bind_ok record _).trans (go_change _ _)

end

/-! ### What the fault record's write leaves (03 R70, R71) -/

theorem keeps_devRead (x va n : Nat) : Keeps Reads (devRead x va n) := by
  have C := reads_chains
  unfold devRead
  refine Keeps.bind C (Keeps.state C) fun s => ?_
  split
  · exact Keeps.pure C _
  · refine Keeps.bind C (keeps_devPieces _ _ _ _) fun a => ?_
    split
    · exact Keeps.pure C _
    · exact Keeps.bind C (Keeps.state C) fun _ => Keeps.pure C _

theorem keeps_devReadWord (x va : Nat) : Keeps Reads (devReadWord x va) := by
  have C := reads_chains
  refine Keeps.bind C (keeps_devRead x va 8) fun a => ?_
  split <;> exact Keeps.pure C _

theorem keeps_faultRecord (x : Nat) (record : List Byte) : Keeps Reads (faultRecord x record) := by
  have C := reads_chains
  unfold faultRecord
  refine Keeps.bind C (Keeps.state C) fun s => ?_
  split
  · exact Keeps.pure C _
  · refine Keeps.bind C (keeps_devReadWord _ _) fun prod => Keeps.bind C (keeps_devReadWord _ _) fun cons => ?_
    split
    · refine Keeps.ite (Keeps.bind C (keeps_devReadWord _ _) fun drop => ?full) (Keeps.bind C (keeps_devWrite _ _ _) fun wrote => ?room)
      case full =>
        split
        · exact Keeps.bind C (keeps_devWrite _ _ _) fun _ => Keeps.pure C _
        · exact Keeps.pure C _
      case room =>
        split
        · exact Keeps.bind C (keeps_devWrite _ _ _) fun _ => Keeps.pure C _
        · exact Keeps.pure C _
    · exact Keeps.pure C _

theorem regs_faultRecord {w : Who} {s u : State} {x : Nat} {record : List Byte} (h : (faultRecord x record).go s = (.ok (), u)) :
    regs w u = regs w s := by
  have reads := keeps_faultRecord x record s
  rw [h] at reads
  exact congrArg Bank.regs (reads.banks w.core w.bank)

/-! ### An instruction that traps (09 R245, 12 R302) -/

section
variable {w : Who} {g : Guard} {s t u : State} {n : Nat}

/-- The state in which an instruction's trap is taken: its registers as they stood. -/
abbrev stood (w : Who) (s : State) : State := withRegs w s (regs w s)

theorem issue_traps {body : Who → Act Flow} {c : Trap} {i : Option Word} (issues : Issues w g s) (same : SameBut w s t)
    (traps : (body w).go s = (.error (.trap c i), t)) : issue g n body s = .next (raiseNow w n c i (stood w s)) := by
  have task : (bankOf t w.core w.bank).task = some w.task := same.task.trans (acts_task issues.toActs)
  rw [issue, issueWith_trap issues traps, keepRegs, if_pos task, same]

theorem raiseNow_stood {c : Trap} {i : Option Word}
    (taken : (takeTrap w.core w.bank c i (regs w s).pc (nextPc (regs w s).pc n)).go (stood w s) = (.ok (), u)) :
    raiseNow w n c i (stood w s) = { u with raised := true } := by
  unfold raiseNow
  dsimp only
  rw [regsOf_setRegs, taken]

theorem task_stood (issues : Issues w g s) : (bankOf (stood w s) w.core w.bank).task = some w.task :=
  (updBank_regs_task s w.core w.bank _).trans (acts_task issues.toActs)

theorem exec_brk (issues : Issues w g s) : exec (.brk g) s = .next (raiseNow w 1 .break_ none (stood w s)) :=
  issue_traps (body := fun _ => trapOpen .break_) issues (SameBut.refl w s) rfl

/-- trap with a handler set, at depth 0, raises BREAK as brk does. -/
theorem exec_trap_break {a : Spec} {x : Val} {r : Regs} (issues : Issues w g s) (evec : (regs w s).evec ≠ 0)
    (depth : (regs w s).depth = 0) (read : source (regs w s) a = some (x, r)) :
    exec (.trap g a) s = .next (raiseNow w 1 .break_ none (stood w s)) := by
  obtain ⟨t, reads, same, -⟩ := go_readSrc (SameBut.refl w s) read
  obtain ⟨-, q, moved⟩ := readSrc_keeps reads
  refine issue_traps issues same ?_
  rw [go_bind_ok reads, regsAct, bind_assoc, go_state_then, pure_bind]
  have handled : ((regsOf t w.core w.bank).evec != 0 && (regsOf t w.core w.bank).depth == 0) = true := by
    change ((regs w t).evec != 0 && (regs w t).depth == 0) = true
    rw [moved, Bool.and_eq_true]
    exact ⟨bne_iff_ne.mpr evec, beq_iff_eq.mpr depth⟩
  rw [if_pos handled, go_trapOpen]

/-- BREAK at depth 0 enters the handler of a task that set one. -/
theorem inHandler_of_break (issues : Issues w g s) (evec : (regs w s).evec ≠ 0) (depth : (regs w s).depth = 0) :
    InHandler w s (nextPc (regs w s).pc 1) 0x11 (raiseNow w 1 .break_ none (stood w s)) := by
  have task : (bankOf (stood w s) w.core w.bank).task.isSome = true := by rw [task_stood issues]; rfl
  obtain ⟨k, taken⟩ := go_takeTrap_break_handler (at_ := (regs w s).pc) (next := nextPc (regs w s).pc 1) none task
    (by rwa [regsOf_setRegs]) (by rwa [regsOf_setRegs])
  refine ⟨k, (raiseNow_stood taken).trans ?_⟩
  have entered : updBank (stood w s) w.core w.bank (enteredBreak (nextPc (regs w s).pc 1)) =
      updBank s w.core w.bank (enteredBreak (nextPc (regs w s).pc 1)) :=
    (updBank_updBank s w.core w.bank _ _).trans (updBank_congr rfl)
  rw [entered]
  rfl

theorem breakEntersHandler : BreakEntersHandler := by
  intro w g s issues evec depth
  have entered := inHandler_of_break issues evec depth
  exact ⟨⟨_, exec_brk issues, entered⟩, fun a x r read => ⟨_, exec_trap_break issues evec depth read, entered⟩⟩

/-! ### rti (09 R244, 12 R334) -/

theorem exec_rti {r : Regs} (issues : Issues w g s) (returns : returnFrom (regs w s) = some r) :
    exec (.rti g) s = .next (updBank s w.core w.bank (fun k => { k.fromHandler with regs := r })) := by
  refine (issue_ok (f := .gone) (t := updBank s w.core w.bank (fun k => { k.fromHandler with regs := r })) issues ?_).trans ?_
  · rw [regsAct, bind_assoc, go_state_then, pure_bind, returns]
    dsimp only
    rw [setRegsAct, go_change_then, go_change_then, go_pure, updRegs, setRegs, updBank_updBank]
    rfl
  · unfold advance
    split <;> rfl

theorem exec_rti_outside (issues : Issues w g s) (depth : (regs w s).depth = 0) :
    exec (.rti g) s = .next (raiseNow w 1 .illegalOpcode none (stood w s)) := by
  refine issue_traps issues (SameBut.refl w s) ?_
  rw [regsAct, bind_assoc, go_state_then, pure_bind, returnFrom, if_pos depth]
  rfl

theorem returnFromHandler : ReturnFromHandler := by
  intro w g s issues
  refine ⟨fun depth => exec_rti issues ?_, fun depth => exec_rti issues ?_, fun depth => exec_rti_outside issues depth⟩
  · rw [returnFrom, depth]
    rfl
  · rw [returnFrom, depth]
    rfl

/-! ### BREAK without a handler (03 R69, R70) -/

/-- brk in a handler only moves the PC on. -/
theorem exec_brk_inside (issues : Issues w g s) (depth : (regs w s).depth ≠ 0) :
    exec (.brk g) s = .next { withRegs w s (pcOn (regs w s) 1) with fresh := s.fresh + 1, raised := true } := by
  have task : (bankOf (stood w s) w.core w.bank).task.isSome = true := by rw [task_stood issues]; rfl
  have taken := go_takeTrap_break_inside (at_ := (regs w s).pc) (next := nextPc (regs w s).pc 1) task (by rwa [regsOf_setRegs])
  rw [exec_brk issues, raiseNow_stood taken, updRegs_setRegs]
  rfl

theorem taskTag_eq (s : State) (q : Task) : taskTag s q = ((q.launch.bind (launchOf s)).map (fun l => l.tag)).getD 0 := by
  unfold taskTag
  cases q.launch with
  | none => rfl
  | some l =>
    dsimp only [Option.bind]
    cases launchOf s l <;> rfl

/-- brk without a handler goes on once its record is written. -/
theorem exec_brk_recorded {q : Task} (issues : Issues w g s) (evec : (regs w s).evec = 0) (depth : (regs w s).depth = 0)
    (held : taskOf s w.task = some q)
    (record : (faultRecord q.ctx (faultBytes 0x11 w.core (taskTag s q) q.record.wid (regs w s).pc (Config.freeValue s.fresh))).go
      { stood w s with fresh := s.fresh + 1 } = (.ok (), u)) :
    exec (.brk g) s = .next { withRegs w u (pcOn (regs w s) 1) with raised := true } := by
  have taken := go_takeTrap_break_recorded (at_ := (regs w s).pc) (next := nextPc (regs w s).pc 1) (task_stood issues) held
    (by rwa [regsOf_setRegs]) (by rwa [regsOf_setRegs]) record
  have kept : regs w u = regs w s := (regs_faultRecord record).trans (regsOf_setRegs s w.core w.bank (regs w s))
  have moved : updRegs u w.core w.bank (fun r => { r with pc := nextPc (regs w s).pc 1 }) = withRegs w u (pcOn (regs w s) 1) := by
    change setRegs u w.core w.bank { regs w u with pc := nextPc (regs w s).pc 1 } = _
    rw [kept]
    rfl
  rw [exec_brk issues, raiseNow_stood taken, moved]

theorem breakElsewhere : BreakElsewhere := by
  intro w g s issues
  refine ⟨fun depth => ⟨_, exec_brk_inside issues depth⟩, fun depth evec q held => ?_⟩
  rw [← taskTag_eq]
  obtain ⟨_, u, record⟩ := answers_faultRecord q.ctx
    (faultBytes 0x11 w.core (taskTag s q) q.record.wid (regs w s).pc (Config.freeValue s.fresh))
    { stood w s with fresh := s.fresh + 1 }
  refine ⟨u, ?_, exec_brk_recorded issues evec depth held record⟩
  rw [← record]
  simp [faultBytes, wordBytes]

/-- trap with no handler to enter ends its task. -/
theorem trapEndsTask : TrapEndsTask := by
  intro w g s s1 a x issues read unhandled u ends
  obtain ⟨-, q, moved⟩ := readSrc_keeps read
  have stays : ¬ ((regs w s1).evec != 0 && (regs w s1).depth == 0) = true := by
    rw [moved, Bool.and_eq_true, bne_iff_ne, beq_iff_eq]
    rintro ⟨set, outside⟩
    exact unhandled.elim set fun inside => inside outside
  have pc : (regs w s1).pc = (regs w s).pc := by rw [moved]
  rw [← pc] at ends
  refine (issue_ok (f := .gone) (t := { u with raised := true }) issues ?_).trans ?_
  · rw [go_bind_ok read, regsAct, bind_assoc, go_state_then, pure_bind, if_neg stays, go_bind_ok ends, go_change_then, go_pure]
  · unfold advance
    split <;> rfl

end

/-- Settles O9: BREAK enters the handler of a task at depth 0, and rti takes back what the entry put on the trap stack. -/
theorem handlerEntryAndReturn : Obligations.HandlerEntryAndReturn := ⟨breakEntersHandler, returnFromHandler⟩

/-- Settles O10: where no handler is entered BREAK leaves a record or nothing, and trap ends its task. -/
theorem breakWithoutHandler : Obligations.BreakWithoutHandler := ⟨breakElsewhere, trapEndsTask⟩

end Sys2Proof.Proofs
end

section
/-!
PROOF. Writes of SY_SWAREA, SY_SWLOAD, SY_DERR, SY_PEEL and SY_RACK (09 R238, R241, R243, R249, R250; 12 R333).
-/

namespace Sys2Proof.Proofs

open Sys2Proof.Machine Sys2Proof.Safety Sys2Proof.Claims

theorem go_requireOpen_then {β : Type} {s : State} {ok : Bool} {c : Trap} (h : ok = true) (f : Unit → Act β) :
    Act.go (requireOpen ok c >>= f) s = (f ()).go s := go_bind_ok (by rw [go_requireOpen, if_pos h]) f

/-! ### Bytes that an instruction reads through translation -/

theorem Keeps.forIn {α σ : Type} {R : State → State → Prop} (C : Chains R) {f : α → σ → Act (ForInStep σ)} (l : List α)
    (h : ∀ a b, Keeps R (f a b)) : ∀ b, Keeps R (forIn l b f) := by
  induction l with
  | nil => exact fun b => Keeps.pure C b
  | cons a r ih =>
    intro b
    rw [List.forIn_cons]
    refine Keeps.bind C (h a b) fun x => ?_
    cases x with
    | done b => exact Keeps.pure C b
    | yield b => exact ih b

theorem keeps_reachBytes (w : Who) (va : Word) (n : Nat) (dkind : BitVec 4) (right : Right) :
    Keeps Reads (reachBytes w va n dkind right) := by
  have C := reads_chains
  refine Keeps.bind C (Keeps.require C _ _ _) fun _ => Keeps.bind C (Keeps.state C) fun s => ?_
  split
  · exact Keeps.trap C _ _
  · refine Keeps.bind C (Keeps.state C) fun _ => Keeps.bind C (Keeps.waitUntil C _) fun _ => ?_
    refine Keeps.bind C (Keeps.forIn C _ (fun p r => ?_) _) fun _ => Keeps.pure C _
    refine Keeps.bind C (keeps_reachLeaf _ _ _ _ _) fun _ => Keeps.bind C (Keeps.require C _ _ _) fun _ => ?_
    refine Keeps.bind C (Keeps.state C) fun _ => Keeps.bind C (Keeps.state C) fun _ => Keeps.bind C (Keeps.waitUntil C _) fun _ => ?_
    exact Keeps.bind C (Keeps.state C) fun _ => Keeps.pure C _

theorem tasksStay_reachBytes {w : Who} {s t : State} {va : Word} {n : Nat} {dkind : BitVec 4} {right : Right} {bs : List Byte}
    (h : (reachBytes w va n dkind right).go s = (.ok bs, t)) : TasksStay s t := by
  have stays := keeps_tasks_of_reads (keeps_reachBytes w va n dkind right) s
  rwa [h] at stays

/-! ### A write that takes effect once, where its effect keeps every task (12 R333) -/

section
variable {w : Who} {g : Guard} {n : Nat} {a : Spec} {x : Val} {s u u1 e v : State}

/-- A write whose effect keeps the task of every bank completes with that effect. -/
theorem sysWrite_once {body : Val → Act Unit} (register : writeSy w n a = once w (readSrc w a >>= body)) (issues : Issues w g s)
    (commit : (commitRegion w false).go s = (.ok (), u)) (read : (readSrc w a).go u = (.ok x, u1)) (run : (body x).go u1 = (.ok (), e))
    (tasks : TasksStay u1 e) : ∃ v, sysWrite g n a s = .next v ∧ Once w e v := by
  obtain ⟨v, next, once⟩ := sysWrite_completes register issues commit read run
  exact ⟨v, next, once ((tasks w.core w.bank).trans (task_after_source issues commit read))⟩

/-- An instruction that writes register `n` once has the effect of that write, where the effect keeps every task. -/
theorem writesOnce_of_tasksStay {i : Guard → Spec → Instr} {ok : Who → State → Word → Prop}
    {effect : Who → State → Word → State} {write : Who → Word → Act Unit} (writes : ∀ g a s, exec (i g a) s = sysWrite g n a s)
    (register : ∀ w a, writeSy w n a = once w (readSrc w a >>= fun x => write w x.v))
    (run : ∀ w u v, ok w u v → (write w v).go u = (.ok (), effect w u v))
    (tasks : ∀ w u v, TasksStay u (effect w u v)) : WritesOnce i ok effect := by
  intro w g s u u1 a x issues commit read legal
  rw [writes]
  exact sysWrite_once (register w a) issues commit read (run w u1 x.v legal) (tasks w u1 x.v)

/-- The completion of a write keeps the tasks, and what every core holds of streamed-out contexts. -/
theorem once_tasks (h : Once w e v) : v.tasks = e.tasks := by
  obtain ⟨_, rfl⟩ := h
  rfl

theorem coreOf_updBank_streamed (s : State) (c b : Nat) (f : Bank → Bank) (k : Nat) :
    (coreOf (updBank s c b f) k).streamed = (coreOf s k).streamed := by
  by_cases same : k = c
  · rw [updBank, setBank, same, coreOf_updCore]
  · rw [updBank, setBank, coreOf_updCore_other _ _ same]

theorem once_streamed (h : Once w e v) (c : Nat) : (coreOf v c).streamed = (coreOf e c).streamed := by
  obtain ⟨_, rfl⟩ := h
  exact coreOf_updBank_streamed e w.core w.bank
    (fun k => { k with regs := pcOn k.regs 1, restart := pcOn k.regs 1, restartTgt := false, region := e.nextId }) c

/-! ### SY_SWAREA and SY_DERR (09 R238, R249) -/

theorem go_writeSwarea (keeper : KeeperContext w s) (v : Word) : (writeSwarea w v).go s = (.ok (),
    if areaUsed s (w.core / 64) then s else updDie s (w.core / 64) (fun k => { k with swarea := v &&& 0x800FFFFF80000000 })) := by
  rw [writeSwarea, go_keeperOnly_then keeper]
  rfl

theorem switchArea : SwitchArea := by
  refine writesOnce_of_tasksStay (n := 0x023) (write := writeSwarea) (fun _ _ _ => rfl) (fun _ _ => rfl)
    (fun _ _ v keeper => go_writeSwarea keeper v) fun w u v => ?_
  split
  · exact tasksStay_chains.refl u
  · exact tasksStay_of_cores rfl

/-- The write of SY_DERR. -/
def clearDerr (w : Who) (v : Word) : Act Unit := change fun s => updCore s w.core (fun k => { k with derr := k.derr &&& ~~~(v.setWidth 6) })

theorem dataErrorCleared : DataErrorCleared :=
  writesOnce_of_tasksStay (n := 0x005) (write := clearDerr) (fun _ _ _ => rfl) (fun _ _ => rfl) (fun _ _ _ _ => rfl)
    fun w u _ => tasksStay_updCore u w.core fun _ => rfl

/-! ### SY_SWLOAD (09 R250) -/

/-- Core `c` has one more streamed-out context, at position `p`, with a task of context `x` that has no weight. -/
def StreamedIn (c p x : Nat) (s t : State) : Prop :=
  ∃ e k, (coreOf t c).streamed = (coreOf s c).streamed ++ [e] ∧ e.pos = p ∧ taskOf t e.task = some k ∧ k.place = .streamedOut ∧
    k.core = c ∧ k.ctx = x ∧ k.weight = 0

theorem streamedIn_append {c p x : Nat} {m : State} {o : Streamed} {k : Machine.Task} (cores : m.cores = u.cores)
    (task : taskOf m o.task = some k) (pos : o.pos = p) (place : k.place = .streamedOut ∧ k.core = c ∧ k.ctx = x ∧ k.weight = 0) :
    let v := updCore m c (fun q => { q with streamed := q.streamed ++ [o] })
    TasksStay u v ∧ StreamedIn c p x u v := by
  refine ⟨tasksStay_chains.trans (tasksStay_of_cores cores) (tasksStay_updCore m c fun _ => rfl), o, k, ?_, pos, task, place⟩
  rw [coreOf_updCore, coreOf, cores, coreOf]

theorem StreamedIn.of_once {c p x : Nat} (h : StreamedIn c p x u e) (completes : Once w e v) : StreamedIn c p x u v := by
  obtain ⟨o, k, streamed, pos, task, place⟩ := h
  refine ⟨o, k, (once_streamed completes c).trans streamed, pos, ?_, place⟩
  rwa [taskOf, once_tasks completes]

theorem go_givens {q : Machine.Task} (task : taskOf s w.task = some q) : ∃ y, (givens w).go s = (.ok y, s) := by
  rw [givens, go_state_then, go_need_then task]
  split
  split <;> exact ⟨_, rfl⟩

theorem writeBytes_cores (bs : List Byte) : ∀ (s : State) (pa : Nat), (writeBytes s pa bs).cores = s.cores := by
  induction bs with
  | nil => exact fun _ _ => rfl
  | cons b r ih => exact fun s pa => ih _ _

/-- Without GO a write of SY_SWLOAD does nothing. -/
theorem go_writeSwload_idle {v : Word} (keeper : KeeperContext w s) (idle : v.getLsbD 63 = false) :
    (writeSwload w v).go s = (.ok (), s) := by
  rw [writeSwload, go_keeperOnly_then keeper, if_neg (Bool.eq_false_iff.mp idle)]
  rfl

/-- With GO a block that fits becomes a streamed-out context. -/
theorem go_writeSwload {v : Word} {c p : Nat} {bs : List Byte} (go : v.getLsbD 63 = true)
    (core : c = w.core / 64 * 64 + (v.extractLsb' 56 6).toNat) (block : BlockTaken w v s u c p bs) :
    ∃ e, (writeSwload w v).go s = (.ok (), e) ∧ TasksStay u e ∧ StreamedIn c p (fieldAt bs 5 1 % 64) u e := by
  obtain ⟨keeper, position, image, magic, version, ⟨k, live, domain⟩, continues, ⟨q, task⟩, plain⟩ := block
  obtain ⟨y, given⟩ := go_givens task
  have named : 64 * coreDie w.core + fld v 56 6 = c := by rw [core, coreDie, fld_eq_toNat_extractLsb', Nat.mul_comm]
  rw [← fld_eq_toNat_extractLsb'] at image
  rw [writeSwload, go_keeperOnly_then keeper, if_pos go]
  dsimp only
  rw [named, go_state_then, position, go_requireOpen_then (by rfl), Option.getD_some, go_bind_ok image, go_state_then,
    live]
  dsimp only
  rw [go_requireOpen_then (by simp [magic, version, domain]), go_requireOpen_then continues,
    go_bind_ok given, go_bind_ok (go_newId u), go_change_then, go_change_then, go_change_then, if_neg (Bool.eq_false_iff.mp plain)]
  exact ⟨_, go_pure _ _, streamedIn_append (writeBytes_cores _ _ _) (aget_aset_same _ _ _) rfl ⟨rfl, rfl, rfl, rfl⟩⟩

theorem switchLoad : SwitchLoad := by
  intro w g s u u1 a x issues commit read
  refine ⟨fun idle keeper => ?_, fun go u2 p bs block => ?_⟩
  · exact sysWrite_once (n := 0x024) (body := fun x => writeSwload w x.v) rfl issues commit read (go_writeSwload_idle keeper idle)
      (tasksStay_chains.refl u1)
  · obtain ⟨e, run, tasks, streamed⟩ := go_writeSwload go rfl block
    obtain ⟨v, next, completes⟩ := sysWrite_once (n := 0x024) (body := fun x => writeSwload w x.v) rfl issues commit read run
      (tasksStay_chains.trans (tasksStay_reachBytes block.image) tasks)
    obtain ⟨o, k, held⟩ := streamed.of_once completes
    exact ⟨v, o, k, next, held⟩

/-! ### SY_PEEL and SY_RACK (09 R241, R243) -/

theorem ofNat_fld (v : Word) (lo n : Nat) : BitVec.ofNat n (fld v lo n) = v.extractLsb' lo n := by
  rw [fld_eq_toNat_extractLsb', BitVec.ofNat_toNat, BitVec.setWidth_eq]

theorem sideFields_legal {v : Word} (fields : SideFields v) :
    (fld v 58 3 == 0 && fld v 44 8 == 0 && (!v.getLsbD 62 || (1 ≤ fld v 52 6 && fld v 52 6 ≤ 32))) = true := by
  obtain ⟨high, low, len⟩ := fields
  rw [(fld_eq_zero_iff v 58 3).mpr high, (fld_eq_zero_iff v 44 8).mpr low]
  cases load : v.getLsbD 62 with
  | false => rfl
  | true =>
    have within := len load
    rw [← fld_eq_toNat_extractLsb'] at within
    simp [within]

theorem writeSy_side (w : Who) (a : Spec) (rack : Bool) :
    writeSy w (sideNumber rack) a = once w (readSrc w a >>= fun x => writeSide w rack x.v) := by
  cases rack <;> rfl

theorem tasksStay_updSide (s : State) (c b : Nat) (rack : Bool) (f : Side → Side) : TasksStay s (updSide s c b rack f) :=
  tasksStay_updBank s c b fun _ => by split <;> rfl

theorem tasksStay_takeStores (s : State) (c b dom : Nat) (rack : Bool) : TasksStay s (takeStores s c b dom rack) := by
  have C := tasksStay_chains
  have kept : TasksStay s (keepStores s c b rack) := by
    unfold keepStores
    dsimp only
    split
    · exact C.refl s
    · split
      · exact C.refl s
      · exact tasksStay_updBank s c _ fun _ => by split <;> rfl
  refine C.trans kept (tasksStay_updCore _ c fun k => ?_)
  unfold setStores
  split <;> rfl

theorem tasksStay_updStore (s : State) (c : Nat) (rack : Bool) (f : Sparse Byte → Sparse Byte) : TasksStay s (updStore s c rack f) :=
  tasksStay_updCore s c fun _ => by split <;> rfl

/-- RUN = 0 stops the side core. -/
theorem go_writeSide_stop {rack : Bool} {v : Word} (fields : SideFields v) (stop : v.getLsbD 63 = false) :
    (writeSide w rack v).go s = (.ok (), sideSet w rack v false false s) := by
  rw [writeSide]
  dsimp only
  rw [go_requireOpen_then (sideFields_legal fields), go_state_then, stop, ofNat_fld, ofNat_fld]
  rfl

/-- RUN = 1 leaves a side core that runs. -/
theorem go_writeSide_running {rack : Bool} {v : Word} (fields : SideFields v) (run : v.getLsbD 63 = true)
    (runs : (sideOf (bank w s) rack).run = true) : (writeSide w rack v).go s = (.ok (), s) := by
  rw [writeSide]
  dsimp only
  rw [go_requireOpen_then (sideFields_legal fields), go_state_then, if_pos run, go_state_then, if_pos runs]
  rfl

/-- RUN = 1 without LOAD starts a side core from its store as it stands. -/
theorem go_writeSide_start {rack : Bool} {v : Word} (fields : SideFields v) (run : v.getLsbD 63 = true) (load : v.getLsbD 62 = false)
    (stopped : (sideOf (bank w s) rack).run = false) :
    (writeSide w rack v).go s = (.ok (), sideSet w rack v true false (takeStores s w.core w.bank (domainOf w s) rack)) := by
  rw [writeSide]
  dsimp only
  rw [go_requireOpen_then (sideFields_legal fields), go_state_then, if_pos run, go_state_then, if_neg (Bool.eq_false_iff.mp stopped),
    if_neg (Bool.eq_false_iff.mp load), go_change_then, ofNat_fld, ofNat_fld]
  rfl

/-- RUN = 1 with LOAD starts a side core from the start of an image. -/
theorem go_writeSide_load {rack : Bool} {v : Word} {img : List Byte} (fields : SideFields v) (run : v.getLsbD 63 = true)
    (load : v.getLsbD 62 = true) (stopped : (sideOf (bank w s) rack).run = false)
    (image : (reachBytes w (BitVec.ofNat 64 ((v.extractLsb' 0 44).toNat * 4096)) (1024 * (v.extractLsb' 52 6).toNat) 0 .rd).go s =
      (.ok img, u)) :
    (writeSide w rack v).go s = (.ok (), sideSet w rack v true true
      (updStore (takeStores u w.core w.bank (domainOf w s) rack) w.core rack (fun m => ssetAll 0 m 0 img))) := by
  rw [← fld_eq_toNat_extractLsb', ← fld_eq_toNat_extractLsb'] at image
  rw [writeSide]
  dsimp only
  rw [go_requireOpen_then (sideFields_legal fields), go_state_then, if_pos run, go_state_then, if_neg (Bool.eq_false_iff.mp stopped),
    if_pos load, go_bind_ok image, go_change_then, go_change_then, ofNat_fld, ofNat_fld]
  rfl

end

/-- Settles O25: each of the three registers is written once, after its commit, and its effect keeps the task of every bank. -/
theorem switchRegisters : Obligations.SwitchRegisters := ⟨switchArea, switchLoad, dataErrorCleared⟩

/-- Settles O26: a write of the register stops the side core, starts it from its store or from an image, or leaves one that runs. -/
theorem sideCoreControl : Obligations.SideCoreControl := by
  intro rack
  have C := tasksStay_chains
  refine ⟨?stop, ?start, ?load, ?running⟩
  case stop =>
    exact writesOnce_of_tasksStay (write := fun w v => writeSide w rack v) (fun _ _ _ => rfl) (fun w a => writeSy_side w a rack)
      (fun _ _ _ ⟨fields, stop⟩ => go_writeSide_stop fields stop) fun _ _ _ => tasksStay_updSide _ _ _ _ _
  case start =>
    exact writesOnce_of_tasksStay (write := fun w v => writeSide w rack v) (fun _ _ _ => rfl) (fun w a => writeSy_side w a rack)
      (fun _ _ _ ⟨fields, run, load, stopped⟩ => go_writeSide_start fields run load stopped)
      fun _ _ _ => C.trans (tasksStay_takeStores _ _ _ _ _) (tasksStay_updSide _ _ _ _ _)
  case load =>
    intro w g s u u1 u2 a x img issues commit read fields run load stopped image
    refine sysWrite_once (writeSy_side w a rack) issues commit read (go_writeSide_load fields run load stopped image) ?_
    exact C.trans (tasksStay_reachBytes image) (C.trans (tasksStay_takeStores _ _ _ _ _)
      (C.trans (tasksStay_updStore _ _ _ _) (tasksStay_updSide _ _ _ _ _)))
  case running =>
    intro i hi
    have writes : ∀ g a s, exec (i g a) s = sysWrite g (sideNumber rack) a s := by
      simp only [List.mem_cons, List.not_mem_nil, or_false] at hi
      rcases hi with rfl | rfl <;> exact fun _ _ _ => rfl
    exact writesOnce_of_tasksStay (write := fun w v => writeSide w rack v) writes (fun w a => writeSy_side w a rack)
      (fun _ _ _ ⟨fields, run, runs⟩ => go_writeSide_running fields run runs) fun _ u _ => C.refl u

end Sys2Proof.Proofs
end

section
/-!
PROOF. Traps that wait for an instruction boundary, and the fetch of a side core that fails (09 R240, R242, R245; 13 R337; 02 R42;
03 R69; 07 R178).
-/

namespace Sys2Proof.Proofs

open Sys2Proof.Machine Sys2Proof.Safety Sys2Proof.Claims

section
variable {s u : State} {core : BitVec 8} {c b : Nat} {p : PendTrap} {rest : List PendTrap}

/-! ### The boundary of a core (09 R245) -/

/-- A boundary that takes a trap: the bank is the active one, no abort is in progress there and no POWER_FAIL is due. -/
theorem of_boundaryBank (boundary : boundaryBank s c = some b) :
    (coreOf s c).active = some b ∧ (bankOf s c b).miss = none ∧ powerFailDue s c = none := by
  unfold boundaryBank at boundary
  split at boundary
  · next n active =>
    split at boundary
    · next takes =>
      obtain rfl : n = b := Option.some.inj boundary
      simp only [Bool.and_eq_true, Option.isNone_iff_eq_none] at takes
      obtain ⟨⟨⟨-, unmissed⟩, -⟩, supplied⟩ := takes
      exact ⟨active, unmissed, supplied⟩
    · cases boundary
  · cases boundary

theorem go_deliverIf {ok : PendTrap → Bool} (boundary : boundaryBank s c = some b)
    (first : firstPend (bankOf s c b).pend = some (p, rest)) (accepts : ok p = true) : (deliverIf c ok).go s = (deliver c b p rest).go s := by
  rw [deliverIf, go_state_then, go_need_then boundary, go_need_then first]
  dsimp only
  rw [go_needs_then accepts]

/-! ### A delivery ends (13 R337; 07 R178) -/

theorem task_abortRegion (s : State) (c b : Nat) : (bankOf (abortRegion s c b) c b).task = (bankOf s c b).task := by
  rw [abortRegion, bankOf_updBank]
  rfl

theorem bankOf_recRewind (s : State) (t first c b : Nat) : bankOf (recRewind s t first) c b = bankOf s c b := by
  obtain ⟨q, rewound⟩ : Recorded s (recRewind s t first) := recorded_recUpd s t _
  rw [rewound]
  rfl

/-- A miss that is raised on a task is finished or waits for the started commands. -/
theorem go_raiseMiss {m : Miss} (task : (bankOf s c b).task.isSome = true) : ∃ v, (raiseMiss c b m).go s = (.ok (), v) := by
  obtain ⟨t, task⟩ := Option.isSome_iff_exists.mp task
  rw [raiseMiss, go_state_then]
  dsimp only
  rw [task]
  dsimp only
  rw [go_change_then, go_change_then, go_state_then]
  split
  · next idle =>
    refine go_finishMiss ?_ ?_ (by simpa using idle)
    · rw [bankOf_updBank]
      rfl
    · rw [bankOf_updBank]
      change (bankOf (abortRegion (recRewind s t (bankOf s c b).region) c b) c b).task.isSome = true
      rw [task_abortRegion, bankOf_recRewind, task]
      rfl
  · exact ⟨_, rfl⟩

/-- The state in which a pending trap is taken: the others are left. -/
def pendLeft (rest : List PendTrap) (c b : Nat) (s : State) : State := updBank s c b (fun k => { k with pend := rest })

theorem task_pendLeft (rest : List PendTrap) (c b : Nat) (s : State) :
    (bankOf (pendLeft rest c b s) c b).task = (bankOf s c b).task := by rw [pendLeft, bankOf_updBank]

theorem regsOf_pendLeft (rest : List PendTrap) (c b : Nat) (s : State) : regsOf (pendLeft rest c b s) c b = regsOf s c b := by
  rw [pendLeft, regsOf, bankOf_updBank, regsOf]

theorem go_deliver_trap (trap : p.miss = none) : (deliver c b p rest).go s =
    (takeTrap c b p.code p.info (if p.src = .engine then p.pc else (regsOf s c b).pc) (regsOf s c b).pc).go (pendLeft rest c b s) := by
  rw [← regsOf_pendLeft rest, deliver, go_change_then, go_state_then]
  dsimp only
  rw [trap]
  rfl

theorem go_deliver_miss {m : Miss} (miss : p.miss = some m) : (deliver c b p rest).go s = (raiseMiss c b m).go (pendLeft rest c b s) := by
  rw [deliver, go_change_then, go_state_then]
  dsimp only
  rw [miss]
  rfl

theorem go_deliver (delivers : p.miss = none ∨ (bankOf s c b).task.isSome = true) : ∃ v, (deliver c b p rest).go s = (.ok (), v) := by
  cases miss : p.miss with
  | none =>
    obtain ⟨_, v, taken⟩ := answers_takeTrap c b p.code p.info _ _ (pendLeft rest c b s)
    exact ⟨v, (go_deliver_trap miss).trans taken⟩
  | some m =>
    have task := delivers.resolve_left (by simp [miss])
    obtain ⟨v, raised⟩ := go_raiseMiss (m := m) (by rwa [task_pendLeft rest c b s])
    exact ⟨v, (go_deliver_miss miss).trans raised⟩

/-- A bank to which a pending BREAK has been delivered: the handler returns to where the task stands. -/
def deliveredBreak (rest : List PendTrap) (k : Bank) : Bank := { enteredBreak k.regs.pc k with pend := rest }

/-- BREAK at depth 0 is delivered by entry to the handler. -/
theorem go_deliver_break (task : (bankOf s c b).task.isSome = true) (trap : p.miss = none) (code : p.code = .break_)
    (evec : (regsOf s c b).evec ≠ 0) (depth : (regsOf s c b).depth = 0) : ∃ n, (deliver c b p rest).go s =
      (.ok (), { updBank s c b (deliveredBreak rest) with fresh := n }) := by
  rw [← task_pendLeft rest] at task
  rw [← regsOf_pendLeft rest] at evec depth
  obtain ⟨n, taken⟩ := go_takeTrap_break_handler (at_ := if p.src = .engine then p.pc else (regsOf s c b).pc)
    (next := (regsOf s c b).pc) p.info task evec depth
  have entered : updBank (pendLeft rest c b s) c b (enteredBreak (regsOf s c b).pc) = updBank s c b (deliveredBreak rest) :=
    (updBank_updBank s c b _ _).trans (updBank_congr rfl)
  refine ⟨n, (go_deliver_trap trap).trans ?_⟩
  rw [code, taken, entered]

theorem exec_trapEntry (boundary : boundaryBank s core.toNat = some b) (evec : (regsOf s core.toNat b).evec ≠ 0)
    (depth : (regsOf s core.toNat b).depth = 0) (first : firstPend (bankOf s core.toNat b).pend = some (p, rest))
    (code : p.code = .break_) (delivers : (deliver core.toNat b p rest).go s = (.ok (), u)) : exec (.trapEntry core) s = .next u := by
  obtain ⟨-, -, supplied⟩ := of_boundaryBank boundary
  refine asStep_ok ?_
  dsimp only
  rw [go_state_then, supplied]
  dsimp only
  rw [go_need_then boundary, go_needs_then (by rw [Bool.and_eq_true]; exact ⟨bne_iff_ne.mpr evec, beq_iff_eq.mpr depth⟩),
    go_deliverIf (ok := fun p => p.code == .break_) boundary first (beq_iff_eq.mpr code), delivers]

/-- The step of a trap's own name delivers it where its condition holds. -/
theorem asStep_deliverIf {ok : PendTrap → Bool} (boundary : boundaryBank s c = some b)
    (first : firstPend (bankOf s c b).pend = some (p, rest)) (delivers : (deliver c b p rest).go s = (.ok (), u)) (accepts : ok p = true) :
    asStep (deliverIf c ok) s = .next u := asStep_ok ((go_deliverIf boundary first accepts).trans delivers)

theorem exec_translation_raised (boundary : boundaryBank s core.toNat = some b)
    (first : firstPend (bankOf s core.toNat b).pend = some (p, rest)) (delivers : (deliver core.toNat b p rest).go s = (.ok (), u))
    (miss : p.miss.isSome = true) : exec (.translation core) s = .next u := by
  obtain ⟨active, unmissed, -⟩ := of_boundaryBank boundary
  refine asStep_ok ?_
  dsimp only
  rw [go_state_then, go_need_then active, unmissed, if_neg (by simp), go_deliverIf boundary first miss, delivers]

theorem terminates_of_ne {t : Trap} (break_ : t ≠ .break_) (powerFail : t ≠ .powerFail) (preempt : t ≠ .preempt) :
    t.terminates = true := by
  unfold Trap.terminates
  split
  · exact absurd rfl break_
  · exact absurd rfl powerFail
  · exact absurd rfl preempt
  · rfl

theorem trapsDelivered : TrapsDelivered := by
  intro s core b p rest c boundary first
  refine ⟨fun delivers => ?_, fun t task trap code evec depth => ?_⟩
  · obtain ⟨u, delivered⟩ := go_deliver (rest := rest) delivers
    refine ⟨u, delivered, fun trap break_ powerFail preempt => ?_, fun src => ?_, fun src => ?_,
      exec_translation_raised boundary first delivered⟩
    · refine asStep_deliverIf boundary first delivered ?_
      rw [trap, terminates_of_ne break_ powerFail preempt]
      rfl
    · exact asStep_deliverIf boundary first delivered (beq_iff_eq.mpr src)
    · exact asStep_deliverIf boundary first delivered (beq_iff_eq.mpr src)
  · obtain ⟨n, delivered⟩ := go_deliver_break (rest := rest) (by rw [task]; rfl) trap code evec depth
    exact ⟨n, exec_trapEntry boundary evec depth first code delivered⟩

end

/-! ### A side core whose fetch fails (09 R240, R242) -/

section
variable {s : State} {core : BitVec 8} {w : Who} {rack : Bool} {t : Trap}

@[simp] theorem sideOf_updSide (s : State) (c b : Nat) (rack : Bool) (f : Side → Side) :
    sideOf (bankOf (updSide s c b rack f) c b) rack = f (sideOf (bankOf s c b) rack) := by
  rw [updSide, bankOf_updBank]
  cases rack <;> rfl

theorem sideOf_updSide_other (s : State) (c b : Nat) (rack : Bool) (f : Side → Side) :
    sideOf (bankOf (updSide s c b rack f) c b) (!rack) = sideOf (bankOf s c b) (!rack) := by
  rw [updSide, bankOf_updBank]
  cases rack <;> rfl

theorem sideOf_postTrap (s : State) (c b : Nat) (src : TrapSource) (code : Trap) (info : Option Word) (rack : Bool) :
    sideOf (bankOf (postTrap s c b src code info) c b) rack = sideOf (bankOf s c b) rack := by
  rw [postTrap, bankOf_updBank]
  cases rack <;> rfl

theorem pend_postTrap (s : State) (c b : Nat) (src : TrapSource) (code : Trap) (info : Option Word) :
    (bankOf (postTrap s c b src code info) c b).pend = (bankOf s c b).pend ++
      [{ src := src, code := code, info := info, pc := (regsOf s c b).pc, miss := none }] := by
  rw [postTrap, bankOf_updBank, regsOf]

theorem pend_updSide (s : State) (c b : Nat) (rack : Bool) (f : Side → Side) :
    (bankOf (updSide s c b rack f) c b).pend = (bankOf s c b).pend := by
  rw [updSide, bankOf_updBank]
  cases rack <;> rfl

theorem regsOf_updSide (s : State) (c b : Nat) (rack : Bool) (f : Side → Side) :
    regsOf (updSide s c b rack f) c b = regsOf s c b := by
  rw [updSide, regsOf, bankOf_updBank]
  cases rack <;> rfl

/-- The PC that an exception holds: after ebreak the next instruction's (log 44). -/
def heldPc (code : Trap) (n : Nat) (pc : Word) : Word := if code = .break_ then pc + BitVec.ofNat 64 n else pc

/-- An exception stops its side core with HALT set and the PC held. -/
theorem sideOf_sideHalt (s : State) (w : Who) (rack : Bool) (code : Trap) (n : Nat) :
    sideOf (bankOf (sideHalt s w rack code n) w.core w.bank) rack =
      let k := sideOf (bankOf s w.core w.bank) rack
      { k with run := false, halt := true, pc := heldPc code n k.pc } := by
  unfold sideHalt
  dsimp only
  rw [sideOf_postTrap, sideOf_updSide, heldPc]

theorem sideOf_sideHalt_other (s : State) (w : Who) (rack : Bool) (code : Trap) (n : Nat) :
    sideOf (bankOf (sideHalt s w rack code n) w.core w.bank) (!rack) = sideOf (bankOf s w.core w.bank) (!rack) := by
  unfold sideHalt
  dsimp only
  rw [sideOf_postTrap, sideOf_updSide_other]

/-- The trap of an exception waits behind those that are pending. -/
theorem pend_sideHalt (s : State) (w : Who) (rack : Bool) (code : Trap) (n : Nat) :
    (bankOf (sideHalt s w rack code n) w.core w.bank).pend = (bankOf s w.core w.bank).pend ++
      [{ src := .sideCore, code := code, info := some (sideInfo rack (sideOf (bankOf s w.core w.bank) rack).pc),
         pc := (regsOf s w.core w.bank).pc, miss := none }] := by
  unfold sideHalt
  dsimp only
  rw [pend_postTrap, pend_updSide, regsOf_updSide]

/-- A fetch fails for its address or its word, never as ebreak does. -/
theorem fetchSide_ne_break (fails : fetchSide s w rack = .error t) : t ≠ .break_ := by
  rintro rfl
  unfold fetchSide at fails
  dsimp only at fails
  split at fails
  · cases fails
  · split at fails
    · cases fails
    · split at fails
      · cases fails
      · split at fails
        · cases fails
        · next e _ =>
          cases e <;> cases fails

/-- The side core that stops first: the peel core where its fetch fails, and the rack core where the peel core's does not. -/
theorem exec_sideCoreException (who : whoRuns s core.toNat = some w) (runs : sideRuns s w rack = true)
    (fails : fetchSide s w rack = .error t)
    (peel : rack = true → sideRuns s w false = false ∨ ∃ i, fetchSide s w false = .ok i) :
    exec (.sideCoreException core) s = .next (sideHalt s w rack t 4) := by
  have meaning : exec (.sideCoreException core) s = execSideCoreException core s := rfl
  rw [meaning, execSideCoreException]
  dsimp only
  rw [who]
  dsimp only
  cases rack with
  | false =>
    rw [if_pos runs, fails]
  | true =>
    rw [if_pos runs, fails]
    rcases peel rfl with stopped | ⟨i, fetched⟩
    · rw [if_neg (Bool.eq_false_iff.mp stopped)]
    · rw [fetched]
      simp

theorem sideCoreFetchFails : SideCoreFetchFails := by
  intro s core w rack t who _ runs fails peel
  refine ⟨_, exec_sideCoreException who runs fails peel, ?_, sideOf_sideHalt_other s w rack t 4, pend_sideHalt s w rack t 4⟩
  rw [sideOf_sideHalt]
  dsimp only
  rw [heldPc, if_neg (fetchSide_ne_break fails)]

end

/-- Settles O43: the first pending trap is delivered by the step of its kind; a failing fetch leaves one. -/
theorem boundaryTraps : Obligations.BoundaryTraps := ⟨trapsDelivered, sideCoreFetchFails⟩

end Sys2Proof.Proofs
end

section
/-!
PROOF. The standard instructions of the side cores (09 R239, R240, R242).
-/

namespace Sys2Proof.Proofs

open Sys2Proof.Machine Sys2Proof.Safety Sys2Proof.Claims

section
variable {w : Who} {rack : Bool} {s u : State} {word : BitVec 32} {i : Rv}

/-! ### A turn of a side core (09 R239, R242) -/

/-- The agent of the turn. -/
abbrev sideAgent (w : Who) (rack : Bool) (s : State) : SideAgent := { w := w, rack := rack, k := side w rack s }

theorem side_updSide (s : State) (w : Who) (rack : Bool) (f : Side → Side) :
    side w rack (updSide s w.core w.bank rack f) = f (side w rack s) := sideOf_updSide s w.core w.bank rack f

theorem updSide_updSide (s : State) (c b : Nat) (rack : Bool) (f g : Side → Side) :
    updSide (updSide s c b rack f) c b rack g = updSide s c b rack (fun k => g (f k)) := by
  rw [updSide, updSide, updBank_updBank]
  cases rack <;> rfl

/-- A turn whose instruction traps halts the side core. -/
theorem sideStep_traps (turn : SideTurn w rack s) {n : Nat} {body : SideAgent → Act (Option Word)} {t : Trap} {info : Option Word}
    (h : (body (sideAgent w rack s)).go s = (.error (.trap t info), u)) : sideStep n s body = .next (sideHalt u w rack t n) := by
  unfold sideAgent side at h
  rw [sideStep, turn.actor]
  simp only [turn.who, turn.runs, Bool.not_true, Bool.false_eq_true, if_false, h]

theorem exec_rv64imc (word : BitVec 32) (s : State) : exec (.rv64imcInstruction word) s = execRv64imcInstruction word s := rfl

theorem exec_rv (turn : SideTurn w rack s) (decoded : decodeRv word = some i) {t : Option Word}
    (run : (runRv (sideAgent w rack s) (rvLength word) i).go s = (.ok t, u)) :
    exec (.rv64imcInstruction word) s = .next (updSide u w.core w.bank rack (fun k =>
      { k with pc := t.getD (k.pc + BitVec.ofNat 64 (rvLength word)), instret := k.instret + 1 })) := by
  rw [exec_rv64imc, execRv64imcInstruction, decoded]
  exact sideStep_ends turn run

theorem exec_rv_traps (turn : SideTurn w rack s) (decoded : decodeRv word = some i) {t : Trap} {info : Option Word}
    (run : (runRv (sideAgent w rack s) (rvLength word) i).go s = (.error (.trap t info), s)) :
    exec (.rv64imcInstruction word) s = .next (sideHalt s w rack t (rvLength word)) := by
  rw [exec_rv64imc, execRv64imcInstruction, decoded]
  exact sideStep_traps turn run

theorem exec_rv_illegal (turn : SideTurn w rack s) (outside : decodeRv word = none) :
    exec (.rv64imcInstruction word) s = .next (sideHalt s w rack .illegalOpcode (rvLength word)) := by
  rw [exec_rv64imc, execRv64imcInstruction, outside]
  exact sideStep_traps turn (go_trapOpen _ _)

/-! ### What an exception leaves (09 R242) -/

theorem sideHalts_sideHalt (s : State) (w : Who) (rack : Bool) (t : Trap) (n : Nat) :
    SideHalts w rack t (heldPc t n (side w rack s).pc) s (sideHalt s w rack t n) where
  run := congrArg Side.run (sideOf_sideHalt s w rack t n)
  halt := congrArg Side.halt (sideOf_sideHalt s w rack t n)
  pc := congrArg Side.pc (sideOf_sideHalt s w rack t n)
  x := by
    rw [side, sideOf_sideHalt]
    rfl
  trap := by
    refine ⟨_, pend_sideHalt s w rack t n, rfl, rfl, ?_⟩
    cases rack <;> rfl
  mem := rfl

/-- A trap other than BREAK holds the PC at the instruction. -/
theorem sideHalts_of_ne_break {t : Trap} (other : t ≠ .break_) (n : Nat) :
    SideHalts w rack t (side w rack s).pc s (sideHalt s w rack t n) := by
  have halts := sideHalts_sideHalt s w rack t n
  rwa [heldPc, if_neg other] at halts

/-! ### A register takes its result -/

/-- The state with rd written; x0 takes nothing. -/
def xSet (w : Who) (rack : Bool) (rd : Nat) (v : Word) (s : State) : State :=
  if rd = 0 then s else updSide s w.core w.bank rack (fun k => { k with x := sset 0 k.x rd v })

theorem go_setX_then {β : Type} {a : SideAgent} (rd : Nat) (v : Word) (f : Unit → Act β) :
    Act.go (setX a rd v >>= f) s = (f ()).go (xSet a.w a.rack rd v s) := by
  unfold setX xSet
  split
  · exact go_bind_ok (go_pure () s) f
  · exact go_change_then _ f

theorem side_xSet (w : Who) (rack : Bool) (rd : Nat) (v : Word) (s : State) : side w rack (xSet w rack rd v s) =
    { side w rack s with x := if rd = 0 then (side w rack s).x else sset 0 (side w rack s).x rd v } := by
  unfold xSet
  split
  · rfl
  · rw [side_updSide]

theorem sideNext_eq (w : Who) (rack : Bool) (n rd : Nat) (v : Word) (s : State) : sideNext w rack n rd v s =
    updSide (xSet w rack rd v s) w.core w.bank rack (fun k => { k with pc := k.pc + BitVec.ofNat 64 n, instret := k.instret + 1 }) := by
  unfold sideNext xSet
  split
  · rfl
  · rw [updSide_updSide]

/-- An instruction that writes rd and goes on. -/
theorem exec_rv_writes (turn : SideTurn w rack s) (decoded : decodeRv word = some i) {rd : Nat} {v : Word}
    (run : (runRv (sideAgent w rack s) (rvLength word) i).go s = Act.go (do
      setX (sideAgent w rack s) rd v
      pure none) u) :
    exec (.rv64imcInstruction word) s = .next (sideNext w rack (rvLength word) rd v u) := by
  rw [sideNext_eq]
  exact exec_rv (t := none) turn decoded (run.trans (go_setX_then rd v _))

/-- An instruction that writes no register and goes on. -/
theorem exec_rv_ends (turn : SideTurn w rack s) (decoded : decodeRv word = some i)
    (run : (runRv (sideAgent w rack s) (rvLength word) i).go s = (.ok none, u)) :
    exec (.rv64imcInstruction word) s = .next (sideNext w rack (rvLength word) 0 0 u) := exec_rv turn decoded run

/-- An instruction that links rd and goes to `target`. -/
theorem exec_rv_jumps (turn : SideTurn w rack s) (decoded : decodeRv word = some i) {rd : Nat} {link target : Word}
    (run : (runRv (sideAgent w rack s) (rvLength word) i).go s = Act.go (do
      setX (sideAgent w rack s) rd link
      pure (some target)) s) :
    ∃ v, exec (.rv64imcInstruction word) s = .next v ∧ (side w rack v).pc = target ∧ sx w rack v rd = if rd = 0 then 0 else link := by
  refine ⟨_, exec_rv turn decoded (run.trans (go_setX_then rd link _)), ?_, ?_⟩
  · rw [side_updSide]
    rfl
  · rw [sx, side_updSide, side_xSet]
    by_cases zero : rd = 0
    · rw [if_pos zero, if_pos zero]
    · rw [if_neg zero, if_neg zero, if_neg zero]
      exact sget_sset_same _ _ _ _

theorem exec_rv_branch (turn : SideTurn w rack s) {c a b : Nat} {off : Word} (decoded : decodeRv word = some (.branch c a b off)) :
    ∃ v, exec (.rv64imcInstruction word) s = .next v ∧ (side w rack v).x = (side w rack s).x ∧
      (side w rack v).pc = if rvTaken c (sx w rack s a) (sx w rack s b) = true then (side w rack s).pc + off
        else (side w rack s).pc + BitVec.ofNat 64 (rvLength word) := by
  refine ⟨_, exec_rv turn decoded (go_pure _ s), ?_, ?_⟩
  · rw [side_updSide]
  · rw [side_updSide]
    change Option.getD (if rvTaken c (sx w rack s a) (sx w rack s b) = true then some ((side w rack s).pc + off) else none) _ = _
    split <;> rfl

/-! ### The address map (09 R229, R240) -/

section
variable {a : SideAgent} {va n : Nat} {write : Bool}

theorem go_sidePlace_istore (aligned : va % n = 0) (within : va + n ≤ 0x8000) :
    (sidePlace a va n false).go s = (.ok (.istore va), s) := by
  rw [sidePlace, go_requireOpen_then (beq_iff_eq.mpr aligned), if_pos within]
  rfl

theorem go_sidePlace_dstore (aligned : va % n = 0) (above : 0x10000 ≤ va) (within : va + n ≤ 0x14000) :
    (sidePlace a va n write).go s = (.ok (.dstore (va - 0x10000)), s) := by
  rw [sidePlace, go_requireOpen_then (beq_iff_eq.mpr aligned), if_neg (by omega), if_pos (by simp [above, within]), go_pure]

/-- Above 0x100000 an access is one to S. -/
theorem go_sidePlace_above (aligned : va % n = 0) (window : 0x100000 ≤ va) : (sidePlace a va n write).go s = Act.go (do
      requireOpen (va - 0x100000 + n ≤ 2048 * (partOf s a.w).sn) .protection
      requireOpen (slotOf s a.w.core ((partOf s a.w).s0 + (va - 0x100000) / 2048)).owner .ownerViolation
      raceCheck a.w sideAgentCode (coreOf s a.w.core).phase (va - 0x100000) n write
      pure (SidePlace.s (va - 0x100000))) s := by
  rw [sidePlace, go_requireOpen_then (beq_iff_eq.mpr aligned), if_neg (by omega), if_neg (by simp; omega), if_pos (by simp [window]),
    go_state_then]

theorem go_sidePlace_s (aligned : va % n = 0) (inS : SideInS a.w va n s)
    (race : (raceCheck a.w 0x102 (coreOf s a.w.core).phase (va - 0x100000) n write).go s = (.ok (), u)) :
    (sidePlace a va n write).go s = (.ok (.s (va - 0x100000)), u) := by
  obtain ⟨window, inside, owner⟩ := inS
  rw [go_sidePlace_above aligned window, go_requireOpen_then (decide_eq_true inside), go_requireOpen_then owner]
  exact go_bind_ok race _

/-- An access that the map refuses traps, and leaves the state. -/
theorem go_sidePlace_faults {t : Trap} (faults : SideFaults a.w va n write t s) :
    (sidePlace a va n write).go s = (.error (.trap t none), s) := by
  rcases faults with ⟨skew, rfl⟩ | ⟨aligned, rfl, places⟩ | ⟨aligned, rfl, window, inside, owner⟩
  · rw [sidePlace]
    exact go_bind_error (by rw [go_requireOpen, if_neg (by simpa using skew)]) _
  · rcases places with ⟨rfl, within⟩ | ⟨above, gap, below⟩ | ⟨window, outside⟩
    · rw [sidePlace, go_requireOpen_then (beq_iff_eq.mpr aligned), if_pos within]
      rfl
    · rw [sidePlace, go_requireOpen_then (beq_iff_eq.mpr aligned), if_neg (by omega), if_neg (by simp; omega), if_neg (by simp; omega),
        go_trapOpen]
    · rw [go_sidePlace_above aligned window]
      exact go_bind_error (by rw [go_requireOpen, if_neg (by simpa using outside)]) _
  · rw [go_sidePlace_above aligned window, go_requireOpen_then (decide_eq_true inside)]
    exact go_bind_error (by rw [go_requireOpen, owner]; rfl) _

theorem ne_break_of_sideFaults {t : Trap} (faults : SideFaults w va n write t s) : t ≠ .break_ := by
  rcases faults with ⟨_, rfl⟩ | ⟨_, rfl, _⟩ | ⟨_, rfl, _⟩ <;> decide

end

/-! ### Loads and stores (09 R240) -/

/-- The bytes at a place of the map. -/
def placeBytes (w : Who) (rack : Bool) (n : Nat) (s : State) : SidePlace → List Byte
  | .istore o => sgetAll 0 (istoreOf s w.core rack) o n
  | .dstore o => sgetAll 0 (dstoreOf s w.core rack) o n
  | .s o => readS s w.core (partOf s w) o n

/-- The state with bytes stored at a place of the map. -/
def placeStored (w : Who) (rack : Bool) (bs : List Byte) (s : State) : SidePlace → State
  | .istore _ => s
  | .dstore o => updDstore s w.core rack (fun m => ssetAll 0 m o bs)
  | .s o => writeS s w.core (partOf s w) o bs

variable {size rs1 rs2 rd : Nat} {sg : Bool} {off : Word} {p : SidePlace} {t : Trap}

theorem exec_rv_load (turn : SideTurn w rack s) (decoded : decodeRv word = some (.load size sg rd rs1 off))
    (place : (sidePlace (sideAgent w rack s) (sx w rack s rs1 + off).toNat size false).go s = (.ok p, u)) :
    exec (.rv64imcInstruction word) s = .next (sideNext w rack (rvLength word) rd
      (if sg = true then sext (8 * size) (leNat (placeBytes w rack size u p)) else leWord (placeBytes w rack size u p)) u) := by
  refine exec_rv_writes turn decoded (go_bind_ok (a := if sg = true then _ else _) ?_ _)
  rw [sideLoad]
  refine (go_bind_ok place _).trans ?_
  rw [go_state_then]
  cases p <;> rfl

theorem exec_rv_load_faults (turn : SideTurn w rack s) (decoded : decodeRv word = some (.load size sg rd rs1 off))
    (faults : SideFaults w (sx w rack s rs1 + off).toNat size false t s) :
    ∃ v, exec (.rv64imcInstruction word) s = .next v ∧ SideHalts w rack t (side w rack s).pc s v :=
  ⟨_, exec_rv_traps turn decoded (go_bind_error (go_bind_error (go_sidePlace_faults faults) _) _),
    sideHalts_of_ne_break (ne_break_of_sideFaults faults) _⟩

theorem exec_rv_store (turn : SideTurn w rack s) (decoded : decodeRv word = some (.store size rs1 rs2 off))
    (place : (sidePlace (sideAgent w rack s) (sx w rack s rs1 + off).toNat size true).go s = (.ok p, u)) :
    exec (.rv64imcInstruction word) s = .next (sideNext w rack (rvLength word) 0 0
      (placeStored w rack (leBytes size (sx w rack s rs2).toNat) u p)) := by
  refine exec_rv_ends turn decoded ((go_bind_ok (a := ()) ?_ _).trans (go_pure _ _))
  rw [sideStore]
  refine (go_bind_ok place _).trans ?_
  cases p <;> rfl

theorem exec_rv_store_faults (turn : SideTurn w rack s) (decoded : decodeRv word = some (.store size rs1 rs2 off))
    (faults : SideFaults w (sx w rack s rs1 + off).toNat size true t s) :
    ∃ v, exec (.rv64imcInstruction word) s = .next v ∧ SideHalts w rack t (side w rack s).pc s v :=
  ⟨_, exec_rv_traps turn decoded (go_bind_error (go_bind_error (go_sidePlace_faults faults) _) _),
    sideHalts_of_ne_break (ne_break_of_sideFaults faults) _⟩

/-! ### CSR reads (09 R239) -/

theorem exec_rv_csr {c : Nat} {v : Word} (turn : SideTurn w rack s) (decoded : decodeRv word = some (.csr rd c))
    (value : (csrValue (sideAgent w rack s) c).go s = (.ok v, u)) :
    exec (.rv64imcInstruction word) s = .next (sideNext w rack (rvLength word) rd v u) :=
  exec_rv_writes turn decoded (go_bind_ok value _)

theorem go_csrValue_mhartid (w : Who) (rack : Bool) (s : State) : (csrValue (sideAgent w rack s) 0xF14).go s =
    (.ok (BitVec.ofNat 64 (2 * w.core + (if rack = true then 1 else 0))), s) := by
  cases rack <;> rfl

end

/-- Settles O52: each instruction of the decoded tree by what it writes and where it goes; the map by the place of an access. -/
theorem sideCoreInstructions : Obligations.SideCoreInstructions := by
  intro w rack s word turn n x pc e
  refine ⟨?alu, ?aluImm, ?lui, ?auipc, ?fence, ?branch, ?jal, ?jalr, ?load, ?store, ?csr, ?ebreak, ?outside⟩
  case alu => exact fun f w32 rd a b decoded => exec_rv_writes turn decoded rfl
  case aluImm => exact fun f w32 rd a v decoded => exec_rv_writes turn decoded rfl
  case lui => exact fun rd v decoded => exec_rv_writes turn decoded rfl
  case auipc => exact fun rd v decoded => exec_rv_writes turn decoded rfl
  case fence => exact fun decoded => exec_rv_ends turn decoded rfl
  case branch => exact fun c a b off decoded => exec_rv_branch turn decoded
  case jal => exact fun rd off decoded => exec_rv_jumps turn decoded rfl
  case jalr => exact fun rd a off decoded => exec_rv_jumps turn decoded rfl
  case load =>
    refine fun size sg rd a off decoded => ⟨?_, ?_, ?_, fun t faults => exec_rv_load_faults turn decoded faults⟩
    · exact fun aligned within => exec_rv_load (p := .istore _) turn decoded (go_sidePlace_istore aligned within)
    · exact fun aligned above within => exec_rv_load (p := .dstore _) turn decoded (go_sidePlace_dstore aligned above within)
    · exact fun u aligned inS race => exec_rv_load (p := .s _) turn decoded (go_sidePlace_s aligned inS race)
  case store =>
    refine fun size a b off decoded => ⟨?_, ?_, fun t faults => exec_rv_store_faults turn decoded faults⟩
    · exact fun aligned above within => exec_rv_store (p := .dstore _) turn decoded (go_sidePlace_dstore aligned above within)
    · exact fun u aligned inS race => exec_rv_store (p := .s _) turn decoded (go_sidePlace_s aligned inS race)
  case csr =>
    refine fun rd c decoded => ⟨?_, ?_, ?_, ?_⟩ <;> rintro rfl
    · exact exec_rv_csr turn decoded rfl
    · exact exec_rv_csr turn decoded rfl
    · exact exec_rv_csr turn decoded rfl
    · exact exec_rv_csr turn decoded (go_csrValue_mhartid w rack s)
  case ebreak => exact fun decoded => ⟨_, exec_rv_traps turn decoded (go_trapOpen _ _), sideHalts_sideHalt s w rack .break_ n⟩
  case outside => exact fun outside => ⟨_, exec_rv_illegal turn outside, sideHalts_of_ne_break (by decide) n⟩

end Sys2Proof.Proofs
end

section
/-!
SUPPORT FOR PROOFS. The encoder's words field by field: what each format puts at the bits that a decoder reads (11 R281 to R294, Tables
3 to 10; 13 Tables 3 to 7; 14 Tables 1, 2, 7 to 9; 06 R142).
-/

namespace Sys2Proof.Proofs

open Sys2Proof.Machine Sys2Proof.Claims

/-! ### Bits of two parts side by side -/

/-- Bits that lie in one of two parts are that part's. -/
theorem extractLsb'_append {v w start len : ℕ} (x : BitVec v) (y : BitVec w) :
    (w ≤ start → (x ++ y).extractLsb' start len = x.extractLsb' (start - w) len) ∧
      (start + len ≤ w → (x ++ y).extractLsb' start len = y.extractLsb' start len) :=
  ⟨BitVec.extractLsb'_append_eq_of_le, BitVec.extractLsb'_append_eq_of_add_le⟩

theorem getLsbD_append {v w i : ℕ} (x : BitVec v) (y : BitVec w) :
    (w ≤ i → (x ++ y).getLsbD i = x.getLsbD (i - w)) ∧ (i < w → (x ++ y).getLsbD i = y.getLsbD i) :=
  ⟨fun h => by rw [BitVec.getLsbD_append, if_neg (by omega)], fun h => by rw [BitVec.getLsbD_append, if_pos h]⟩

theorem getLsbD_bit (b : Bool) : (bit b).getLsbD 0 = b := by cases b <;> rfl

/-! ### Control instructions: the first slice (11 Table 3) -/

section
variable (op : BitVec 6) (g : Guard) (d a b : BitVec 6)

/-! Formats A, F and I. -/

@[simp] theorem opcode_encA : (encA op g d a b).extractLsb' 26 6 = op := by
  simp -index (disch := decide) only [encA, extractLsb'_append, BitVec.extractLsb'_eq_self]

@[simp] theorem code_encA : (encA op g d a b).extractLsb' 0 6 = b := by
  simp -index (disch := decide) only [encA, extractLsb'_append, BitVec.extractLsb'_eq_self]

@[simp] theorem encA_fields : guardOf (encA op g d a b) = g ∧ (encA op g d a b).extractLsb' 12 6 = d ∧
    (encA op g d a b).extractLsb' 6 6 = a := by
  simp -index (disch := decide) only [encA, guardOf, Guard.bits, extractLsb'_append, BitVec.extractLsb'_eq_self, getLsbD_append,
    getLsbD_bit, and_self]

/-- A packed instruction's function code, with its lane type above it. -/
@[simp] theorem laneCode_encA (lane : BitVec 2) (f : BitVec 4) : (encA op g d a (lane ++ f)).extractLsb' 0 4 = f := by
  simp -index (disch := decide) only [encA, extractLsb'_append, BitVec.extractLsb'_eq_self]

@[simp] theorem lane_encA (lane : BitVec 2) (f : BitVec 4) : (encA op g d a (lane ++ f)).extractLsb' 4 2 = lane := by
  simp -index (disch := decide) only [encA, extractLsb'_append, BitVec.extractLsb'_eq_self]

/-- A condition, a rotation base or a scope: three bits, with three that the format leaves unused above them. -/
@[simp] theorem encA_halves (k f : BitVec 3) : (encA op g d a (k ++ f)).extractLsb' 3 3 = k ∧
    (encA op g d a (k ++ f)).extractLsb' 0 3 = f := by
  simp -index (disch := decide) only [encA, extractLsb'_append, BitVec.extractLsb'_eq_self, and_self]

/-- The fields A and B together, and D, A and B. -/
@[simp] theorem encA_operands : (encA op g d a b).extractLsb' 0 12 = a ++ b ∧ (encA op g d a b).extractLsb' 0 18 = d ++ (a ++ b) := by
  have ab := BitVec.extractLsb'_append_extractLsb'_eq_extractLsb' (x := encA op g d a b) (start₁ := 0) (len₁ := 6) (len₂ := 6) rfl
  have dab := BitVec.extractLsb'_append_extractLsb'_eq_extractLsb' (x := encA op g d a b) (start₁ := 0) (len₁ := 12) (len₂ := 6) rfl
  rw [← dab, ← ab]
  simp

/-! Format M. -/

section
variable (c : BitVec 4) (q : BitVec 2)

@[simp] theorem opcode_encM : (encM op g d a c q).extractLsb' 26 6 = op := by
  simp -index (disch := decide) only [encM, extractLsb'_append, BitVec.extractLsb'_eq_self]

@[simp] theorem encM_fields : guardOf (encM op g d a c q) = g ∧ (encM op g d a c q).extractLsb' 12 6 = d ∧
    (encM op g d a c q).extractLsb' 6 6 = a ∧ (encM op g d a c q).extractLsb' 2 4 = c ∧ (encM op g d a c q).extractLsb' 0 2 = q := by
  simp -index (disch := decide) only [encM, guardOf, Guard.bits, extractLsb'_append, BitVec.extractLsb'_eq_self, getLsbD_append,
    getLsbD_bit, and_self]

end

/-! Format O. -/

section
variable (sub : BitVec 2) (n : BitVec 8)

@[simp] theorem opcode_encO : (encO op g a sub n).extractLsb' 26 6 = op := by
  simp -index (disch := decide) only [encO, extractLsb'_append, BitVec.extractLsb'_eq_self]

@[simp] theorem sub_encO : (encO op g a sub n).extractLsb' 8 2 = sub := by
  simp -index (disch := decide) only [encO, extractLsb'_append, BitVec.extractLsb'_eq_self]

@[simp] theorem encO_fields : guardOf (encO op g a sub n) = g ∧ (encO op g a sub n).extractLsb' 12 6 = a ∧
    (encO op g a sub n).extractLsb' 10 2 = 0 ∧ (encO op g a sub n).extractLsb' 0 8 = n := by
  simp -index (disch := decide) only [encO, guardOf, Guard.bits, extractLsb'_append, BitVec.extractLsb'_eq_self, getLsbD_append,
    getLsbD_bit, and_self]

end

/-! Format B: an offset below the guard. -/

theorem opcode_formatB (off : BitVec 18) : BitVec.extractLsb' (n := 32) 26 6 (op ++ g.bits ++ off) = op := by
  simp -index (disch := decide) only [extractLsb'_append, BitVec.extractLsb'_eq_self]

@[simp] theorem formatB_fields (off : BitVec 18) : guardOf (op ++ g.bits ++ off) = g ∧
    BitVec.extractLsb' (n := 32) 0 18 (op ++ g.bits ++ off) = off := by
  simp -index (disch := decide) only [guardOf, Guard.bits, extractLsb'_append, BitVec.extractLsb'_eq_self, getLsbD_append,
    getLsbD_bit, and_self]

/-! Formats L and S: twelve bits below D, or above A. -/

section
variable (n : BitVec 12)

theorem opcode_formatL : BitVec.extractLsb' (n := 32) 26 6 (op ++ g.bits ++ d ++ n) = op := by
  simp -index (disch := decide) only [extractLsb'_append, BitVec.extractLsb'_eq_self]

@[simp] theorem formatL_fields : guardOf (op ++ g.bits ++ d ++ n) = g ∧
    BitVec.extractLsb' (n := 32) 12 6 (op ++ g.bits ++ d ++ n) = d ∧ BitVec.extractLsb' (n := 32) 0 12 (op ++ g.bits ++ d ++ n) = n := by
  simp -index (disch := decide) only [guardOf, Guard.bits, extractLsb'_append, BitVec.extractLsb'_eq_self, getLsbD_append,
    getLsbD_bit, and_self]

theorem opcode_syswr : BitVec.extractLsb' (n := 32) 26 6 (op ++ g.bits ++ n ++ a) = op := by
  simp -index (disch := decide) only [extractLsb'_append, BitVec.extractLsb'_eq_self]

@[simp] theorem syswr_fields : guardOf (op ++ g.bits ++ n ++ a) = g ∧
    BitVec.extractLsb' (n := 32) 6 12 (op ++ g.bits ++ n ++ a) = n ∧ BitVec.extractLsb' (n := 32) 0 6 (op ++ g.bits ++ n ++ a) = a := by
  simp -index (disch := decide) only [guardOf, Guard.bits, extractLsb'_append, BitVec.extractLsb'_eq_self, getLsbD_append,
    getLsbD_bit, and_self]

end
end

/-! ### Control instructions: the second slice -/

/-- lea: a displacement above a shift amount. -/
@[simp] theorem leaWord_fields (disp : BitVec 28) (sh : BitVec 4) : BitVec.extractLsb' (n := 32) 0 4 (disp ++ sh) = sh ∧
    BitVec.extractLsb' (n := 32) 4 28 (disp ++ sh) = disp := by
  simp -index (disch := decide) only [extractLsb'_append, BitVec.extractLsb'_eq_self, and_self]

/-- fence: a mask of classes in the low half. -/
@[simp] theorem fenceWord_fields (k mask : BitVec 16) : BitVec.extractLsb' (n := 32) 16 16 (k ++ mask) = k ∧
    BitVec.extractLsb' (n := 32) 0 16 (k ++ mask) = mask := by
  simp -index (disch := decide) only [extractLsb'_append, BitVec.extractLsb'_eq_self, and_self]

/-- Bit fields: width and position, with unused bits above each. -/
@[simp] theorem fieldWord_fields (k : BitVec 18) (wm1 : BitVec 6) (z : BitVec 2) (pos : BitVec 6) :
    BitVec.extractLsb' (n := 32) 14 18 (k ++ wm1 ++ z ++ pos) = k ∧ BitVec.extractLsb' (n := 32) 8 6 (k ++ wm1 ++ z ++ pos) = wm1 ∧
    BitVec.extractLsb' (n := 32) 6 2 (k ++ wm1 ++ z ++ pos) = z ∧ BitVec.extractLsb' (n := 32) 0 6 (k ++ wm1 ++ z ++ pos) = pos := by
  simp -index (disch := decide) only [extractLsb'_append, BitVec.extractLsb'_eq_self, and_self]

section
variable (k : BitVec 23) (sz lg : Bool) (aop : BitVec 3) (c : BitVec 4)

/-- Format X: the operation of an atomic. -/
theorem aop_atomWord : BitVec.extractLsb' (n := 32) 4 3 (k ++ bit sz ++ bit lg ++ aop ++ c) = aop := by
  simp -index (disch := decide) only [extractLsb'_append, BitVec.extractLsb'_eq_self]

/-- Format X: size, log and class of an atomic. -/
theorem atomWord_fields : BitVec.extractLsb' (n := 32) 9 23 (k ++ bit sz ++ bit lg ++ aop ++ c) = k ∧
    BitVec.getLsbD (w := 32) (k ++ bit sz ++ bit lg ++ aop ++ c) 8 = sz ∧
    BitVec.getLsbD (w := 32) (k ++ bit sz ++ bit lg ++ aop ++ c) 7 = lg ∧
    BitVec.extractLsb' (n := 32) 0 4 (k ++ bit sz ++ bit lg ++ aop ++ c) = c := by
  simp -index (disch := decide) only [extractLsb'_append, BitVec.extractLsb'_eq_self, getLsbD_append, getLsbD_bit, and_self]

end

/-! ### Engine commands as 96 bits (11 R282) -/

theorem commandBits_slices_three (c : BitVec 96) : commandBits (slices c 3) = c := by
  have upper : c.extractLsb' 64 32 ++ c.extractLsb' 32 32 = c.extractLsb' 32 64 :=
    BitVec.extractLsb'_append_extractLsb'_eq_extractLsb' rfl
  have whole : c.extractLsb' 32 64 ++ c.extractLsb' 0 32 = c.extractLsb' 0 96 :=
    BitVec.extractLsb'_append_extractLsb'_eq_extractLsb' rfl
  calc commandBits (slices c 3) = c.extractLsb' 64 32 ++ c.extractLsb' 32 32 ++ c.extractLsb' 0 32 := rfl
    _ = c := by rw [upper, whole, BitVec.extractLsb'_eq_self]

/-- A command of two slices leaves the bits above them zero. -/
theorem commandBits_slices_two {c : BitVec 96} (h : c.extractLsb' 64 32 = 0) : commandBits (slices c 2) = c := by
  calc commandBits (slices c 2) = 0 ++ c.extractLsb' 32 32 ++ c.extractLsb' 0 32 := rfl
    _ = commandBits (slices c 3) := by rw [← h]; rfl
    _ = c := commandBits_slices_three c

section
variable (op : BitVec 6)

/-! Format V3 (13 Table 7). -/

@[simp] theorem opcode_encV3 (v : V3Args) : (commandBits (encV3 op v)).extractLsb' 26 6 = op := by
  rw [encV3, commandBits_slices_three]
  simp -index (disch := decide) only [extractLsb'_append, BitVec.extractLsb'_eq_self]

@[simp] theorem encV3_fields (v : V3Args) : v3Of (commandBits (encV3 op v)) = v ∧ (commandBits (encV3 op v)).getLsbD 32 = false := by
  rw [encV3, commandBits_slices_three]
  simp -index (disch := decide) only [v3Of, extractLsb'_append, BitVec.extractLsb'_eq_self, getLsbD_append, getLsbD_bit, true_and]
  rfl

/-! Format V2 (13 Table 7). -/

theorem commandBits_encV2 (v : V2Args) : commandBits (encV2 op v) =
    (0 : BitVec 32) ++ v.d ++ v.imm ++ op ++ v.f ++ v.n ++ v.sd ++ bit v.x :=
  commandBits_slices_two (by simp -index (disch := decide) only [extractLsb'_append, BitVec.extractLsb'_eq_self])

@[simp] theorem opcode_encV2 (v : V2Args) : (commandBits (encV2 op v)).extractLsb' 26 6 = op := by
  rw [commandBits_encV2]
  simp -index (disch := decide) only [extractLsb'_append, BitVec.extractLsb'_eq_self]

@[simp] theorem v2Of_encV2 (v : V2Args) : v2Of (commandBits (encV2 op v)) = v := by
  rw [commandBits_encV2]
  simp -index (disch := decide) only [v2Of, extractLsb'_append, BitVec.extractLsb'_eq_self, getLsbD_append, getLsbD_bit]

/-! Format MM (13 Table 3). -/

@[simp] theorem opcode_encMM (m : MmArgs) : (commandBits (encMM op m)).extractLsb' 26 6 = op := by
  rw [encMM, commandBits_slices_three]
  simp -index (disch := decide) only [extractLsb'_append, BitVec.extractLsb'_eq_self]

@[simp] theorem encMM_fields (m : MmArgs) : mmOf (commandBits (encMM op m)) = m ∧ (commandBits (encMM op m)).extractLsb' 80 8 = 0 ∧
    (commandBits (encMM op m)).extractLsb' 48 16 = 0 ∧ (commandBits (encMM op m)).extractLsb' 0 14 = 0 := by
  rw [encMM, commandBits_slices_three]
  simp -index (disch := decide) only [mmOf, extractLsb'_append, BitVec.extractLsb'_eq_self, and_self]

/-! Format EP (13 Table 5). -/

@[simp] theorem opcode_encEP (m : EpArgs) : (commandBits (encEP op m)).extractLsb' 26 6 = op := by
  rw [encEP, commandBits_slices_three]
  simp -index (disch := decide) only [extractLsb'_append, BitVec.extractLsb'_eq_self]

@[simp] theorem encEP_fields (m : EpArgs) : epOf (commandBits (encEP op m)) = m ∧ (commandBits (encEP op m)).extractLsb' 32 7 = 0 := by
  rw [encEP, commandBits_slices_three]
  simp -index (disch := decide) only [epOf, extractLsb'_append, BitVec.extractLsb'_eq_self, getLsbD_append, getLsbD_bit, and_self]

/-! Format XO (14 Table 1). -/

@[simp] theorem opcode_encXO (x : XoArgs) : (commandBits (encXO op x)).extractLsb' 26 6 = op := by
  rw [encXO, commandBits_slices_three]
  simp -index (disch := decide) only [extractLsb'_append, BitVec.extractLsb'_eq_self]

@[simp] theorem encXO_fields (x : XoArgs) : xoOf (commandBits (encXO op x)) = x ∧ (commandBits (encXO op x)).extractLsb' 32 4 = 0 := by
  rw [encXO, commandBits_slices_three]
  simp -index (disch := decide) only [xoOf, extractLsb'_append, BitVec.extractLsb'_eq_self, getLsbD_append, getLsbD_bit, and_self]

/-! Format LC (14 Table 7). -/

@[simp] theorem opcode_encLC (l : LcArgs) : (commandBits (encLC op l)).extractLsb' 26 6 = op := by
  rw [encLC, commandBits_slices_three]
  simp -index (disch := decide) only [extractLsb'_append, BitVec.extractLsb'_eq_self]

@[simp] theorem encLC_fields (l : LcArgs) : lcOf (commandBits (encLC op l)) = l ∧ (commandBits (encLC op l)).extractLsb' 32 11 = 0 ∧
    (commandBits (encLC op l)).extractLsb' 0 7 = 0 := by
  rw [encLC, commandBits_slices_three]
  simp -index (disch := decide) only [lcOf, extractLsb'_append, BitVec.extractLsb'_eq_self, and_self]

/-! Commands of two slices with fields of their own: the parts above and below the opcode. -/

theorem commandBits_enc2 (hi : BitVec 32) (lo : BitVec 26) : commandBits (enc2 hi op lo) = (0 : BitVec 32) ++ hi ++ op ++ lo :=
  commandBits_slices_two (by simp -index (disch := decide) only [extractLsb'_append, BitVec.extractLsb'_eq_self])

@[simp] theorem opcode_enc2 (hi : BitVec 32) (lo : BitVec 26) : (commandBits (enc2 hi op lo)).extractLsb' 26 6 = op := by
  rw [commandBits_enc2]
  simp -index (disch := decide) only [extractLsb'_append, BitVec.extractLsb'_eq_self]

end

/-- Format PM, of which m.perm is the one command (13 Table 4). -/
theorem commandBits_mPerm (m : PmArgs) : commandBits (encode (.mPerm m)) =
    m.d ++ m.a ++ m.qs ++ m.rows ++ (0 : BitVec 10) ++ (5 : BitVec 6) ++ (0 : BitVec 26) := commandBits_slices_three _

theorem opcode_mPerm (m : PmArgs) : (commandBits (encode (.mPerm m))).extractLsb' 26 6 = 5 := by
  rw [commandBits_mPerm]
  simp -index (disch := decide) only [extractLsb'_append, BitVec.extractLsb'_eq_self]

/-! ### Steps and stream entries as 128 bits (14 Table 9, 06 R142) -/

theorem word128_slices (w : BitVec 128) : word128 ((List.range 4).map (fun k => w.extractLsb' (32 * k) 32)) = w := by
  have upper : w.extractLsb' 96 32 ++ w.extractLsb' 64 32 = w.extractLsb' 64 64 :=
    BitVec.extractLsb'_append_extractLsb'_eq_extractLsb' rfl
  have middle : w.extractLsb' 64 64 ++ w.extractLsb' 32 32 = w.extractLsb' 32 96 :=
    BitVec.extractLsb'_append_extractLsb'_eq_extractLsb' rfl
  have whole : w.extractLsb' 32 96 ++ w.extractLsb' 0 32 = w.extractLsb' 0 128 :=
    BitVec.extractLsb'_append_extractLsb'_eq_extractLsb' rfl
  change w.extractLsb' 96 32 ++ w.extractLsb' 64 32 ++ w.extractLsb' 32 32 ++ w.extractLsb' 0 32 = w
  rw [upper, middle, whole, BitVec.extractLsb'_eq_self]

end Sys2Proof.Proofs
end

section
/-!
PROOF. Decoding an encoded instruction gives it back: control instructions by the format of their words, engine commands by queue and
format, steps, stream entries and the custom group (11 R281 to R294; 13 R336; 14 R402, R404; 06 R142).
-/

namespace Sys2Proof.Proofs

open Sys2Proof.Machine Sys2Proof.Claims

theorem accept_of_wellFormed {i : Instr} (h : i.wellFormed = true) : accept true i = .ok i := by
  rw [accept, h]
  rfl

/-! ### Control instructions (11 Tables 3 to 5)

Each word has its opcode, and its function code where it has one, as numerals, so that the decoder's branch is one; the branch reads the
fields that the encoder wrote. -/

theorem decodeControl_encode {i : Instr} (control : isControl i = true) : decodeControl (encode i) = accept true i := by
  cases i with
  | nop g | ret g | isync g | tkwait g | exit g | commit g | wloan g | yield g | brk g | rti g
  | add g d a b | sub g d a b | mul g d a b | and g d a b | or g d a b | xor g d a b | shl g d a b | shrN g d a b | shrS g d a b
  | cmpEq g d a b | cmpNe g d a b | cmpLtS g d a b | cmpGeS g d a b | cmpLtN g d a b | cmpGeN g d a b | cmpAny g d a b
  | cmpNone g d a b | pand g d a b | por g d a b | pxor g d a b | pandn g d a b
  | mulhS g d a | mulhN g d a | divS g d a | divN g d a | remS g d a | remN g d a | minS g d a | minN g d a | maxS g d a
  | maxN g d a | andn g d a | not g d a | neg g d a | clz g d a | ctz g d a | popc g d a | brev g d a | bswap g d a | mov g d a
  | pnot g d a | pmov g d a | pset g d | pclr g d | rdp g d | wrp g a | jr g a | callr g a | spawn g a | exitSucc g a | trap g a =>
    change decodeControl1 (encA _ _ _ _ _) = _
    rw [decodeControl1, opcode_encA, code_encA]
    change accept _ _ = _
    simp
  | padd g d a lane | psub g d a lane | padds g d a lane | psubs g d a lane | pmin g d a lane | pmax g d a lane
  | pshl g d a lane | pshr g d a lane =>
    change decodeControl1 (encA _ _ _ _ _) = _
    rw [decodeControl1, opcode_encA, laneCode_encA]
    change accept _ _ = _
    simp
  | rotw g k | iflush g k =>
    change decodeControl1 (encA _ _ _ _ _) = _
    rw [decodeControl1, opcode_encA]
    change accept _ _ = _
    simp
  | ldS g d a c q | ldN g d a c q | st g d a c q | ldSSpaceS g d a c q | ldNSpaceS g d a c q | stSpaceS g d a c q | ldq g d a c q
  | stf g d a c q | ldSec g d a c | stSec g d a c | casSec g d a c =>
    change decodeControl1 (encM _ _ _ _ _ _) = _
    rw [decodeControl1, opcode_encM]
    change accept _ _ = _
    simp
  | ownT g a n | ownE g a n | foldSet g a n | foldWait g a n | foldArr g d n | foldAw g n =>
    change decodeControl1 (encO _ _ _ _ _) = _
    rw [decodeControl1, opcode_encO, sub_encO]
    change accept _ _ = _
    simp
  | br g off | call g off =>
    change decodeControl1 (_ ++ _ ++ _) = _
    rw [decodeControl1, opcode_formatB]
    change accept _ _ = _
    simp
  | loop g d n | sysrd g d n =>
    change decodeControl1 (_ ++ _ ++ _ ++ _) = _
    rw [decodeControl1, opcode_formatL]
    change accept _ _ = _
    simp
  | syswr g n a =>
    change decodeControl1 (_ ++ _ ++ _ ++ _) = _
    rw [decodeControl1, opcode_syswr]
    change accept _ _ = _
    simp
  | addImmediate g d a imm | subImmediate g d a imm | mulImmediate g d a imm | andImmediate g d a imm | orImmediate g d a imm
  | xorImmediate g d a imm | shlImmediate g d a imm | shrNImmediate g d a imm | shrSImmediate g d a imm | li g d imm | lih g d imm
  | brLong g off | callLong g off | loopLong g d off | lea g d a b sh disp | extS g d a pos wm1 | extN g d a pos wm1
  | ins g d a pos wm1 =>
    change decodeControl2 (encA _ _ _ _ _) _ = _
    rw [decodeControl2, opcode_encA, code_encA]
    change accept _ _ = _
    simp
  | cmpi g d a cond imm | fence g scope mask =>
    change decodeControl2 (encA _ _ _ _ _) _ = _
    rw [decodeControl2, opcode_encA]
    change accept _ _ = _
    simp
  | ldSDisp g d a c q disp | ldNDisp g d a c q disp | stDisp g d a c q disp | ldSSpaceSDisp g d a c q disp
  | ldNSpaceSDisp g d a c q disp | stSpaceSDisp g d a c q disp | ldqDisp g d a c q disp | stfDisp g d a c q disp
  | ldSecDisp g d a c disp | stSecDisp g d a c disp | casSecDisp g d a c disp =>
    change decodeControl2 (encM _ _ _ _ _ _) _ = _
    rw [decodeControl2, opcode_encM]
    change accept _ _ = _
    simp
  | atomAdd g d a b sz lg c | atomAnd g d a b sz lg c | atomOr g d a b sz lg c | atomXor g d a b sz lg c | atomSwap g d a b sz lg c
  | atomMinS g d a b sz lg c | atomMaxS g d a b sz lg c | atomCas g d a b sz lg c =>
    change decodeControl2 (encA _ _ _ _ _) _ = _
    rw [decodeControl2, opcode_encA, aop_atomWord]
    change accept _ _ = _
    simp only [encA_fields, code_encA, atomWord_fields, beq_self_eq_true]
  | _ => cases control

/-! ### Engine commands (11 Tables 7 to 9) -/

/-- A command's own bits tell its length, and at that length its queue's decoder reads it. -/
theorem decodeEngine_encode {i : Instr} {sp : CmdSpec} (spec : specOf i = some sp) :
    commandSlices (sp.queue + 1) (commandBits (encode i)) = (encode i).length ∧
      decodeEngine (sp.queue + 1) (commandBits (encode i)) (encode i).length = accept true i := by
  cases i with
  | vAdd v | vSub v | vMul v | vFma v | vMin v | vMax v | vAbs v | vNeg v | vAnd v | vOr v | vXor v | vShl v | vShr v | vCmp v | vSel v
  | vCvt v | vQmx v | vDqmx v | vExp2 v | vExp v | vLog2 v | vRcp v | vRsqrt v | vSqrt v | vTanh v | vRsum v | vRmax v | vRmin v
  | vArgmax v | vScan v | vTopk v | vRand v | vGather v | vScatter v | vMov v | vSample v | vVerify v =>
    cases spec
    change commandSlices 2 (commandBits (encV3 _ v)) = 3 ∧ decodeVector (commandBits (encV3 _ v)) 3 = _
    unfold commandSlices decodeVector
    rw [opcode_encV3]
    refine ⟨rfl, ?_⟩
    change accept _ _ = _
    simp only [encV3_fields, Bool.not_false]
  | vIota v | vFill v | vKvroll v | gkvApp v =>
    cases spec
    change commandSlices 2 (commandBits (encV2 _ v)) = 2 ∧ decodeVector (commandBits (encV2 _ v)) 2 = _
    unfold commandSlices decodeVector
    rw [opcode_encV2]
    refine ⟨rfl, ?_⟩
    change accept _ _ = _
    rw [v2Of_encV2]
  | mMma m | mMmaz m | mMmv m | mMmvz m =>
    cases spec
    change commandSlices 1 (commandBits (encMM _ m)) = 3 ∧ decodeMatrix (commandBits (encMM _ m)) 3 = _
    unfold commandSlices decodeMatrix
    rw [opcode_encMM]
    refine ⟨rfl, ?_⟩
    change accept _ _ = _
    simp only [encMM_fields, beq_self_eq_true, Bool.and_self]
  | mEpi m | mEpiSend m =>
    cases spec
    change commandSlices 1 (commandBits (encEP _ m)) = 3 ∧ decodeMatrix (commandBits (encEP _ m)) 3 = _
    unfold commandSlices decodeMatrix
    rw [opcode_encEP]
    refine ⟨rfl, ?_⟩
    change accept _ _ = _
    simp only [encEP_fields, beq_self_eq_true]
  | mPerm m =>
    cases spec
    change commandSlices 1 (commandBits (encode (.mPerm m))) = 3 ∧ decodeMatrix (commandBits (encode (.mPerm m))) 3 = _
    unfold commandSlices decodeMatrix
    rw [opcode_mPerm]
    refine ⟨rfl, ?_⟩
    change accept _ (.mPerm _) = _
    rw [commandBits_mPerm]
    simp -index (disch := decide) only [extractLsb'_append, BitVec.extractLsb'_eq_self, beq_self_eq_true, Bool.and_self]
  | mAzero acc cnt value | mAcopy acc cnt src | mAload off rows acc | mAstore off rows acc | mBind off ring =>
    cases spec
    change commandSlices 1 (commandBits (enc2 _ _ _)) = 2 ∧ decodeMatrix (commandBits (enc2 _ _ _)) 2 = _
    unfold commandSlices decodeMatrix
    rw [opcode_enc2]
    refine ⟨rfl, ?_⟩
    change accept _ _ = _
    simp -index (disch := decide) only [commandBits_enc2, extractLsb'_append, BitVec.extractLsb'_eq_self, beq_self_eq_true, Bool.and_self]
  | xLd x | xSt x | xFeed x | xKvg x | xScat x | xFill x | xMcpy x | xRsw x =>
    cases spec
    change commandSlices 3 (commandBits (encXO _ x)) = 3 ∧ decodeCopy (commandBits (encXO _ x)) 3 = _
    unfold commandSlices decodeCopy
    rw [opcode_encXO]
    refine ⟨rfl, ?_⟩
    change accept _ _ = _
    simp only [encXO_fields, beq_self_eq_true]
  | xPref pb =>
    cases spec
    change commandSlices 3 (commandBits (enc2 _ _ _)) = 2 ∧ decodeCopy (commandBits (enc2 _ _ _)) 2 = _
    unfold commandSlices decodeCopy
    rw [opcode_enc2]
    refine ⟨rfl, ?_⟩
    change accept _ _ = _
    simp -index (disch := decide) only [commandBits_enc2, extractLsb'_append, BitVec.extractLsb'_eq_self, beq_self_eq_true, Bool.and_self]
  | lRun l | lCav l =>
    cases spec
    change commandSlices 4 (commandBits (encLC _ l)) = 3 ∧ decodeCollective (commandBits (encLC _ l)) 3 = _
    unfold commandSlices decodeCollective
    rw [opcode_encLC]
    refine ⟨rfl, ?_⟩
    change accept _ _ = _
    simp only [encLC_fields, beq_self_eq_true, Bool.and_self]
  | lArm ca thr cb inc | lCtrSet ctr value | lCtrAdd ctr value | lCtrRd dreg ctr | lFence dreg fold | lFenceAll dreg =>
    cases spec
    change commandSlices 4 (commandBits (enc2 _ _ _)) = 2 ∧ decodeCollective (commandBits (enc2 _ _ _)) 2 = _
    unfold commandSlices decodeCollective
    rw [opcode_enc2]
    refine ⟨rfl, ?_⟩
    simp -index (disch := decide) only [commandBits_enc2, extractLsb'_append, BitVec.extractLsb'_eq_self, getLsbD_append]
    rfl
  | _ => cases spec

/-- What a command of two slices leaves above them is zero, so CMD<95:0> decodes as its slices do. -/
theorem decodeCommand_eq_decodeEngine {q : ℕ} {ws : List (BitVec 32)} (h : commandSlices (q + 1) (commandBits ws) = ws.length) :
    decodeCommand q (commandBits ws) = decodeEngine (q + 1) (commandBits ws) ws.length := by
  have upper : (ws.length == 2 && (commandBits ws).extractLsb' 64 32 != 0) = false := by
    rw [Bool.and_eq_false_imp, beq_iff_eq]
    intro two
    have third : (commandBits ws).extractLsb' 64 32 = ws.getD 2 0 := by
      simp -index (disch := decide) only [Sys2Proof.commandBits, extractLsb'_append, BitVec.extractLsb'_eq_self]
    rw [third, List.getD_eq_default _ _ two.le]
    rfl
  rw [decodeCommand, h, upper]
  rfl

/-! ### Steps, stream entries and the custom group (14 Table 9, R404; 06 R142) -/

theorem decodeStep_encode {i : Instr} {t : StepArgs} (args : stepArgs i = some t) : decodeStep (word128 (encode i)) = accept true i := by
  cases i with
  | stepSend u | stepRecv u | stepRecvReduceSend u | stepCopy u | stepWait u | stepLoop u =>
    change decodeStep (word128 (encStep _ u)) = _
    rw [encStep, word128_slices, decodeStep]
    simp -index (disch := decide) only [extractLsb'_append, BitVec.extractLsb'_eq_self, getLsbD_append, getLsbD_bit]
    rfl
  | _ => cases args

theorem decodeStreamEntry_encode (o : BitVec 28) (c : BitVec 96) {i : Instr}
    (entry : i ∈ [Instr.streamCmd o c, .streamSet o c, .streamWait o c, .streamFlip o c, .streamMark o c, .streamEnd o c,
      .streamRoute o c]) : decodeStreamEntry (word128 (encode i)) = some i := by
  fin_cases entry
  all_goals
    change decodeStreamEntry (word128 (encStream _ o c)) = _
    rw [encStream, word128_slices]
    unfold decodeStreamEntry
    simp -index (disch := decide) only [extractLsb'_append, BitVec.extractLsb'_eq_self]
    rfl

theorem decodeCustom_encode (rd rs1 rs2 : BitVec 5) {i : Instr}
    (custom : i ∈ [Instr.rpush rs1 rs2, .rwaitTiles rd rs1 rs2, .rwaitFree rd rs1 rs2, .rwaitCounter rd rs1 rs2,
      .rwaitPop rd rs1 rs2, .xiss rs1 rs2, .tkrd rd rs1]) :
    ∃ x, encode i = [x] ∧ decodeCustom x = .ok i ∧ decodeSide x = .ok i := by
  have group (f7 : BitVec 7) (f3 : BitVec 3) (rs2 rs1 rd : BitVec 5) :
      BitVec.extractLsb' (n := 32) 0 7 (f7 ++ rs2 ++ rs1 ++ f3 ++ rd ++ (0x0B : BitVec 7)) = 0x0B := by
    simp -index (disch := decide) only [extractLsb'_append, BitVec.extractLsb'_eq_self]
  fin_cases custom
  all_goals
    refine ⟨_, rfl, ?_⟩
    unfold decodeSide
    rw [group, if_pos (by decide), and_self]
    unfold decodeCustom
    simp -index (disch := decide) only [extractLsb'_append, BitVec.extractLsb'_eq_self]
    rfl

/-- Settles O60: every encoded instruction passes to the decoder's branch for it, which reads back its fields; it is accepted, being
well formed. -/
theorem encodeDecode : Obligations.EncodeDecode := by
  refine ⟨fun i wf control => ?control, fun i sp wf spec => ?engine, fun i t wf args => ?step,
    fun o c i entry => decodeStreamEntry_encode o c entry, fun rd rs1 rs2 i custom => decodeCustom_encode rd rs1 rs2 custom⟩
  case control => exact (decodeControl_encode control).trans (accept_of_wellFormed wf)
  case engine =>
    obtain ⟨length, decodes⟩ := decodeEngine_encode spec
    have read := decodes.trans (accept_of_wellFormed wf)
    exact ⟨read, (decodeCommand_eq_decodeEngine length).trans read⟩
  case step => exact (decodeStep_encode args).trans (accept_of_wellFormed wf)

end Sys2Proof.Proofs
end

section
/-!
PROOF. What a control core finds at its PC: a step is the instruction that the line there decodes to (11 R276 to R281, 09 R217, R245).
-/

namespace Sys2Proof.Proofs

open Sys2Proof.Machine Sys2Proof.Safety Sys2Proof.Claims

/-! ### A turn is the instruction that the fetch finds -/

section
variable {w : Who} {s t u : State} {c : Nat} {rest : List Actor} {line : BitVec 256} {i : Instr} {pc : Word}

/-- A slice that is not empty is the first of its line that is not, from itself on. -/
theorem nextFull_of_ne {k : Nat} (one : 1 ≤ k) (within : k < 8) (full : queueNibble line k ≠ 0xF) : nextFull line k = some k := by
  rw [nextFull, List.find?_range_eq_some]
  refine ⟨by simp [one, full], List.mem_range.mpr within, fun j before => ?_⟩
  simp [Nat.not_le.mpr before]

/-- The state that a fetch leaves where the PC's slice stands at `pc`. -/
abbrev fetchedAt (w : Who) (pc : Word) (t : State) : State :=
  updBank t w.core w.bank (fun k =>
    { k with mustTgt := false, restartTgt := k.restartTgt && enterAt k.restart.pc != pc, regs := { k.regs with pc := pc } })

/-- The slice at a PC decodes to an instruction, and the line is one that control may be in (11 R278 to R281). -/
structure LineDecodes (w : Who) (s : State) (line : BitVec 256) (k : Nat) (i : Instr) : Prop where
  target : (bank w s).mustTgt = true → lineTgt line = true
  header : headerOk line = true
  slice : 1 ≤ k
  within : k < 8
  first : queueNibble line k ≠ 0xE
  full : queueNibble line k ≠ 0xF
  decodes : ∃ n, decodeSlice line k = .ok (i, n)

theorem go_fetchNext (entered : enterAt (bankOf s w.core w.bank).regs.pc = pc) (fetch : (fetchLine w (lineAddr pc)).go s = (.ok line, t))
    (at_ : LineDecodes w s line (sliceNum pc) i) : (fetchNext w).go s = (.ok (.instr i), fetchedAt w pc t) := by
  obtain ⟨target, header, slice, within, first, full, n, decodes⟩ := at_
  have entry : ((bankOf s w.core w.bank).mustTgt && !lineTgt line) = false := by
    rw [Bool.and_eq_false_imp]
    exact fun must => by rw [target must]; rfl
  rw [fetchNext, go_state_then]
  dsimp only
  rw [entered]
  refine (go_bind_ok fetch _).trans ?_
  rw [entry, if_neg Bool.false_ne_true, go_requireOpen_then header, go_change_then, nextFull_of_ne slice within full]
  dsimp only
  rw [if_pos rfl, go_requireOpen_then (bne_iff_ne.mpr first), decodes, go_pure]

/-- A core's boundary where the task replays no entry is what its fetch finds. -/
theorem go_atBoundary (live : (bank w s).cursor = none) (fetched : (fetchNext w).go s = (.ok (.instr i), u)) :
    (atBoundary w).go s = (.ok (.run i), u) := by
  have none : (bankOf s w.core w.bank).cursor = none := live
  rw [atBoundary, go_state_then, none]
  exact (go_bind_ok (go_pure true s) _).trans (go_bind_ok fetched _)

/-- Where neither a trap nor PREEMPT waits, an instruction is taken as it issues. -/
theorem issueAt_eq_exec (calm : (bank w s).pend = []) (stays : preemptDue w s = false) : issueAt w i s = exec i s := by
  have empty : (bankOf s w.core w.bank).pend = [] := calm
  rw [issueAt, empty, stays]
  cases exec i s <;> simp

theorem turnTask_eq_exec (boundary : (atBoundary w).go s = (.ok (.run i), u)) (calm : (bank w u).pend = [])
    (stays : preemptDue w u = false) : turnTask w s = exec i u := by
  rw [turnTask, boundary]
  exact issueAt_eq_exec calm stays

/-- A control core whose task runs, with no POWER_FAIL, abort, switch or end of its launch in the way, takes its task's turn. -/
theorem turnControl_eq_turnTask (power : powerFailDue s c = none) (who : whoRuns s c = some w) (runs : controlRuns s c w.bank = true)
    (noMiss : (bank w s).miss = none) (goes : taskEnds s w.task = false) (checked : (bank w s).checked = false)
    (stays : (bank w s).leaving = false) : turnControl c s = turnTask w s := by
  obtain rfl : w.core = c := (task_of_who who).1
  simp only [bank] at noMiss checked stays
  simp [turnControl, power, who, runs, noMiss, goes, checked, stays]

theorem step_control (named : s.agenda = .control c :: rest) (on : s.pm.st ≠ .off) :
    step s = turnControl c { s with agenda := rest, actor := .control c, raised := false } := by
  rw [step, named]
  dsimp only
  rw [namedTurn]
  simp [on, turn]

end

/-- Settles O55: the agent's turn, its boundary and its fetch each answer, and the instruction issues with nothing before it. -/
theorem stepRunsDecoded : Obligations.StepRunsDecoded := by
  intro s t c n rest w line i named on s' pc u power who runs noMiss goes checked stays live fetch target header slice first full
    decodes calm unpreempted
  rw [step_control named on, turnControl_eq_turnTask power who runs noMiss goes checked stays]
  exact turnTask_eq_exec (go_atBoundary live (go_fetchNext rfl fetch
    ⟨target, header, slice, Nat.mod_lt _ (by decide), first, full, n, decodes⟩)) calm unpreempted

/-- Settles O56: each word is what the tables' fields, side by side, make of it; the decoder is run on them. -/
theorem decodedWords : Obligations.DecodedWords := by
  unfold Obligations.DecodedWords
  decide

end Sys2Proof.Proofs
end

section
/-!
PROOF. What a control instruction does before its own effect: it is squashed by its guard, waits for its operands, or traps on an empty
operand queue (11 R283; 09 R219, R222, R236; 12 R302).
-/

namespace Sys2Proof.Proofs

open Sys2Proof.Machine Sys2Proof.Safety Sys2Proof.Claims

/-! ### Squashed instructions (11 R283; 06 R145, R148) -/

section
variable {w : Who} {g : Guard} {s t : State} {n : Nat} {i : Instr}

theorem recorded_refl (s : State) : Recorded s s := ⟨s.launches, rfl⟩

theorem recorded_noteBranch (w : Who) (g : Guard) (failPc : Option Word) (s : State) : Recorded s (noteBranch w g failPc s) := by
  unfold noteBranch
  split
  case isTrue => exact recorded_refl s
  case isFalse =>
    dsimp only
    split
    · exact recorded_refl s
    · exact recorded_recUpd s w.task _
    · exact recorded_recUpd s w.task _

theorem issueWith_squashed {squash : Who → State → State} {body : Who → Act Flow} (h : Squashed w g s) :
    issueWith g n squash body s = .next (advance w n .next (squash w s)) := by
  simp [issueWith, h.actor, h.who, h.runs, h.noMiss, h.stays, h.fails]

theorem recorded_advance (holds : (bank w s).task = some w.task) (noted : Recorded s t) :
    Recorded (withRegs w s (pcOn (regs w s) n)) (advance w n .next t) := by
  obtain ⟨q, rfl⟩ := noted
  rw [advance_next (s := { s with launches := q }) holds]
  exact ⟨q, rfl⟩

/-- A transfer of control: where its guard fails, a recording alone is told. -/
def Transfers (run : State → Host.Outcome State Fault Refusal) (g : Guard) (n : Nat) : Prop :=
  ∃ squash body, (∀ s, run s = issueWith g n squash body s) ∧ ∀ w s, Recorded s (squash w s)

theorem transfers_branchTo (target : Who → Act Word) (link : Bool) : Transfers (branchTo g n target link) g n := by
  refine ⟨_, _, fun _ => rfl, fun w s => ?_⟩
  split <;> exact recorded_noteBranch w g _ s

theorem transfers_loopTo (cnt : Spec) (off : Word) : Transfers (loopTo g n cnt off) g n := by
  refine ⟨_, _, fun _ => rfl, fun w s => ?_⟩
  dsimp only
  split
  case h_1 => split <;> exact recorded_noteBranch w g _ s
  case h_2 => exact recorded_noteBranch w g _ s

theorem transfers_of_isBranch (guarded : guardField i = some g) (branch : isBranch i = true) :
    Transfers (exec i) g (encode i).length := by
  cases i with
  | br | brLong | call | callLong | jr | callr | ret => cases guarded; exact transfers_branchTo _ _
  | loop | loopLong => cases guarded; exact transfers_loopTo _ _
  | _ => cases branch

/-- An instruction of which a recording is told nothing where its guard fails. -/
def Issued (run : State → Host.Outcome State Fault Refusal) (g : Guard) (n : Nat) : Prop := ∃ body, ∀ s, run s = issue g n body s

theorem issued_predAB {d a b : Spec} (f : Bool → Bool → Bool) : Issued (predAB g d a b f) g 1 := ⟨_, fun _ => rfl⟩

theorem issued_predA {d a : Spec} (f : Bool → Bool) : Issued (predA g d a f) g 1 := ⟨_, fun _ => rfl⟩

/-- The arms that only set registers or lines are named, since unification against the common form would otherwise run their bodies. -/
theorem issued_of_not_isBranch (guarded : guardField i = some g) (other : isBranch i = false) :
    Issued (exec i) g (encode i).length := by
  cases i with
  | add | sub | mul | and | or | xor | shl | shrN | shrS | addImmediate | subImmediate | mulImmediate | andImmediate | orImmediate
  | xorImmediate | shlImmediate | shrNImmediate | shrSImmediate | mulhS | mulhN | divS | divN | remS | remN | minS | minN | maxS
  | maxN | andn | not | neg | padd | psub | padds | psubs | pmin | pmax | pshl | pshr | clz | ctz | popc | brev | bswap | extS
  | extN | ins | mov | li | lih | cmpEq | cmpNe | cmpLtS | cmpGeS | cmpLtN | cmpGeN | cmpAny | cmpNone | cmpi | rdp | wrp | lea
  | ldS | ldSDisp | ldN | ldNDisp | st | stDisp | ldSSpaceS | ldSSpaceSDisp | ldNSpaceS | ldNSpaceSDisp | stSpaceS | stSpaceSDisp
  | ldSec | ldSecDisp | stSec | stSecDisp | ldq | ldqDisp | stf | stfDisp | atomAdd | atomAnd | atomOr | atomXor | atomSwap
  | atomMinS | atomMaxS | atomCas | casSec | casSecDisp | fence | ownT | ownE | tkwait | foldSet | foldArr | foldWait | foldAw
  | spawn | exit | exitSucc | commit | wloan | yield | sysrd | syswr | rti | trap | syHupDone | syElogRead | syCkptCheckpoint
  | syCkptRestore | syKeeper | syKnoteResolve | syKnoteRefuse | syXinvPage | syXinvContext | syXinvHeap | syXinvAll | sySwarea
  | sySwload | syPeelLoadRun | syPeelRun | syPeelStop =>
    cases guarded
    exact ⟨_, fun _ => rfl⟩
  | pand | por | pxor => cases guarded; exact issued_predAB _
  | pandn => cases guarded; exact issued_predAB fun x y => x && !y
  | pnot => cases guarded; exact issued_predA (!·)
  | pmov => cases guarded; exact issued_predA fun x => x
  | nop => cases guarded; exact (⟨_, fun _ => rfl⟩ : Issued (execNop _) _ 1)
  | pset => cases guarded; exact (⟨_, fun _ => rfl⟩ : Issued (execPset _ _) _ 1)
  | pclr => cases guarded; exact (⟨_, fun _ => rfl⟩ : Issued (execPclr _ _) _ 1)
  | rotw => cases guarded; exact (⟨_, fun _ => rfl⟩ : Issued (execRotw _ _) _ 1)
  | iflush => cases guarded; exact (⟨_, fun _ => rfl⟩ : Issued (execIflush _ _) _ 1)
  | isync => cases guarded; exact (⟨_, fun _ => rfl⟩ : Issued (execIsync _) _ 1)
  | brk => cases guarded; exact (⟨_, fun _ => rfl⟩ : Issued (execBrk _) _ 1)
  | br | brLong | call | callLong | jr | callr | ret | loop | loopLong => cases other
  | _ => cases guarded

theorem guardSquashes : GuardSquashes := by
  intro i g w s guarded squashed
  have holds := acts_task squashed.toActs
  constructor
  case left =>
    intro other
    obtain ⟨body, runs⟩ := issued_of_not_isBranch guarded other
    rw [runs, issue_squashed squashed, advance_next holds]
  case right =>
    intro branch
    obtain ⟨squash, body, runs, noted⟩ := transfers_of_isBranch guarded branch
    exact ⟨_, (runs s).trans (issueWith_squashed squashed), recorded_advance holds (noted w s)⟩

end

/-! ### Operands that wait or trap (09 R219, R222, R236) -/

section
variable {w : Who} {s t : State} {a d : Spec} {v : Val}

theorem go_regsAct (w : Who) (t : State) : (regsAct w).go t = (.ok (regs w t), t) := rfl

theorem go_pcAct (w : Who) (t : State) : (pcAct w).go t = (.ok (regs w t).pc, t) := rfl

theorem go_readG_waits (waits : DestWaits (regs w t) d) : (readG w d.toNat).go t = (.error .wait, t) := by
  simp [readG, regsAct, go_bind, go_map, waits.2]

/-- A source whose data has not come makes its reader wait, and nothing has been popped. -/
theorem go_readSrc_waits (pending : Pending (regs w t) a) : (readSrc w a).go t = (.error .wait, t) := by
  obtain register | ⟨above, below, e, entry, wait⟩ | ⟨above, below, e, rest, entry, wait⟩ := pending
  case inl =>
    rw [readSrc]
    simp only [register.1, if_true]
    exact go_readG_waits register
  case inr.inl =>
    simp [readSrc, not_lt.mpr above, below, regsAct, go_bind, go_map, entry, wait]
  case inr.inr =>
    have aged : ¬ a.toNat < 48 := not_lt.mpr above
    have register : ¬ a.toNat < 32 := by omega
    simp [readSrc, popQ, register, aged, below, regsAct, go_bind, entry, wait]

theorem go_readSrc_empty (above : 48 ≤ a.toNat) (below : a.toNat < 52) (empty : sget [] (regs w t).q (a.toNat - 48) = []) :
    (readSrc w a).go t = (.error (.trap .reservedField none), t) := by
  have register : ¬ a.toNat < 32 := by omega
  simp [readSrc, popQ, register, not_lt.mpr above, below, regsAct, go_bind, empty]

theorem gWait_of_not_destWaits (register : d.toNat < 32) (ready : ¬ DestWaits (regs w t) d) :
    sget 0 (regs w t).gWait (physOf (regs w t).rb d.toNat) = 0 := by
  simpa [DestWaits, register] using ready

/-- A register that does not wait is read, and read it stands. -/
theorem go_readSrc_register (register : d.toNat < 32) (ready : ¬ DestWaits (regs w t) d) : ∃ x, (readSrc w d).go t = (.ok x, t) := by
  simp [readSrc, register, readG, regsAct, go_bind, go_map, gWait_of_not_destWaits register ready]

theorem go_destReady_waits (waits : DestWaits (regs w t) d) : (destReady w d).go t = (.error .wait, t) := by
  obtain ⟨register, wait⟩ := waits
  simp [destReady, register, regsAct, go_bind, go_map, wait]

theorem go_destReady (register : d.toNat < 32) (ready : ¬ DestWaits (regs w t) d) : ∃ p, (destReady w d).go t = (.ok p, t) := by
  simp [destReady, register, regsAct, go_bind, go_map, gWait_of_not_destWaits register ready]

theorem go_writeD_waits (waits : DestWaits (regs w t) d) : (writeD w d v).go t = (.error .wait, t) :=
  go_bind_error (go_destReady_waits waits) _

end

/-! ### The operands that an instruction takes before all else -/

/-- An action reads sources in order, and then writes `last` where there is one. -/
inductive Reads (w : Who) : List Spec → Option Spec → Act Flow → Prop where
  | rest {m : Act Flow} : Reads w [] none m
  | write {d : Spec} {v : Val} {k : Unit → Act Flow} : Reads w [] (some d) (writeD w d v >>= k)
  | read {a : Spec} {l : List Spec} {last : Option Spec} {k : Val → Act Flow} :
    (∀ x, Reads w l last (k x)) → Reads w (a :: l) last (readSrc w a >>= k)

/-- An action waits for the register that its operands name first, and once that is ready reads the others. -/
structure Operates (w : Who) (o : Operands) (m : Act Flow) : Prop where
  waits : ∀ d, o.first = some d → ∀ t, DestWaits (regs w t) d → m.go t = (.error .wait, t)
  reads : ∀ t, (∀ d, o.first = some d → d.toNat < 32 ∧ ¬ DestWaits (regs w t) d) →
    ∃ m', m.go t = m'.go t ∧ Reads w o.sources o.last m'

/-- An instruction of `n` slices issues with its guard and takes its operands before all else. -/
def Operated (run : State → Host.Outcome State Fault Refusal) (n : Nat) (o : Operands) : Prop :=
  ∃ squash body, (∀ s, run s = issueWith o.g n squash body s) ∧ ∀ w, Operates w o (body w)

section
variable {w : Who} {g : Guard} {s t : State} {a d : Spec} {l l' : List Spec} {last : Option Spec} {m : Act Flow} {q : Regs}

/-- Where sources can be read, an action goes on with those that follow. -/
theorem Reads.append (reads : Reads w (l ++ l') last m) (same : SameBut w s t) (all : readAll (regs w t) l = some q) :
    ∃ m' u, m.go t = m'.go u ∧ SameBut w s u ∧ regs w u = q ∧ Reads w l' last m' := by
  induction l generalizing m t with
  | nil => cases all; exact ⟨m, t, rfl, same, rfl, reads⟩
  | cons a l ih =>
    cases reads with
    | read next =>
      rw [readAll] at all
      split at all
      case h_1 x r found =>
        obtain ⟨u, read, same, after⟩ := go_readSrc same found
        rw [go_bind_ok read]
        exact ih (next x) same (after ▸ all)
      case h_2 => cases all

/-- The next source stops the action as its read stops. -/
theorem Reads.stops {e : Stop} (reads : Reads w (l ++ a :: l') last m) (all : readAll (regs w s) l = some q)
    (stop : ∀ u, regs w u = q → (readSrc w a).go u = (.error e, u)) : ∃ u, m.go s = (.error e, u) ∧ SameBut w s u := by
  obtain ⟨m', u, goes, same, after, next⟩ := reads.append (SameBut.refl w s) all
  cases next
  exact ⟨u, goes.trans (go_bind_error (stop u after) _), same⟩

theorem Reads.last_waits (reads : Reads w l (some d) m) (all : readAll (regs w s) l = some q) (waits : DestWaits q d) :
    ∃ u, m.go s = (.error .wait, u) ∧ SameBut w s u := by
  obtain ⟨m', u, goes, same, after, next⟩ := Reads.append (l' := []) (by simpa using reads) (SameBut.refl w s) all
  cases next
  exact ⟨u, goes.trans (go_bind_error (go_writeD_waits (after ▸ waits)) _), same⟩

/-! ### The bodies that take operands -/

theorem Operates.of_reads (reads : Reads w l last m) : Operates w ⟨g, none, l, last⟩ m :=
  ⟨fun _ first => (nomatch first), fun _ _ => ⟨m, rfl, reads⟩⟩

/-- The registers looked at before the sources are read change nothing. -/
theorem Operates.of_regsAct {k : Regs → Act Flow} (reads : ∀ r, Reads w l last (k r)) :
    Operates w ⟨g, none, l, last⟩ (regsAct w >>= k) :=
  ⟨fun _ first => (nomatch first), fun _ _ => ⟨k _, go_bind_ok (go_regsAct _ _) _, reads _⟩⟩

theorem Operates.of_destReady {k : Nat → Act Flow} (reads : ∀ p, Reads w l last (k p)) :
    Operates w ⟨g, some d, l, last⟩ (destReady w d >>= k) where
  waits _ first _ waits := by cases first; exact go_bind_error (go_destReady_waits waits) _
  reads t ready := by
    obtain ⟨register, ready⟩ := ready d rfl
    obtain ⟨p, answers⟩ := go_destReady register ready
    exact ⟨k p, go_bind_ok answers _, reads p⟩

/-- An atomic that compares reads its destination first. -/
theorem Operates.of_readDest {k : Val → Act Flow} (operates : ∀ x, Operates w ⟨g, some d, l, last⟩ (k x)) :
    Operates w ⟨g, some d, l, last⟩ (readSrc w d >>= k) where
  waits _ first _ waits := by cases first; exact go_bind_error (go_readSrc_waits (.inl waits)) _
  reads t ready := by
    obtain ⟨register, stands⟩ := ready d rfl
    obtain ⟨x, read⟩ := go_readSrc_register register stands
    rw [go_bind_ok read]
    exact (operates x).reads t ready

theorem Operates.of_writeD {v : Val} {k : Unit → Act Flow} : Operates w ⟨g, some d, [], none⟩ (writeD w d v >>= k) where
  waits _ first _ waits := by cases first; exact go_bind_error (go_writeD_waits waits) _
  reads _ _ := ⟨_, rfl, .rest⟩

theorem reads_flipSlot {n : BitVec 8} {k : Nat → Act Flow} : Reads w [a] none (flipSlot w a n >>= k) := by
  rw [flipSlot, bind_assoc]
  exact .read fun _ => .rest

theorem reads_regTarget {k : Word → Act Flow} : Reads w [a] none (regTarget a w >>= k) := by
  rw [regTarget, bind_assoc]
  exact .read fun _ => .rest

end

/-! ### The operands of each form of instruction -/

section
variable {g : Guard} {n : Nat} {a b d : Spec} {c : BitVec 4} {z : BitVec 2} {disp : BitVec 32} {i : Instr} {o : Operands}

theorem operated_loadMem {signed : Bool} : Operated (loadMem g n d a c z disp signed) n ⟨g, some d, [a], none⟩ :=
  ⟨_, _, fun _ => rfl, fun _ => .of_destReady fun _ => .read fun _ => .rest⟩

theorem operated_storeMem {ordered : Bool} : Operated (storeMem g n d a c z disp ordered) n ⟨g, none, [d, a], none⟩ :=
  ⟨_, _, fun _ => rfl, fun _ => .of_regsAct fun _ => .read fun _ => .read fun _ => .rest⟩

theorem operated_storeSec : Operated (storeSec g n d a c disp) n ⟨g, none, [d, a], none⟩ :=
  ⟨_, _, fun _ => rfl, fun _ => .of_regsAct fun _ => .read fun _ => .read fun _ => .rest⟩

theorem operated_atomic {aop : BitVec 3} {sz lg : Bool} : Operated (atomic g aop d a b sz lg c) 2 ⟨g, some d, [a, b], none⟩ := by
  refine ⟨_, _, fun _ => rfl, fun w => ?_⟩
  show Operates w _ (if aop = 7 then _ else _)
  by_cases compares : aop = 7
  · rw [if_pos compares]
    exact .of_readDest fun _ => .of_destReady fun _ => .read fun _ => .read fun _ => .rest
  · rw [if_neg compares, pure_bind]
    exact .of_destReady fun _ => .read fun _ => .read fun _ => .rest

theorem operated_branchTo_regTarget {link : Bool} : Operated (branchTo g n (regTarget a) link) n ⟨g, none, [a], none⟩ :=
  ⟨_, _, fun _ => rfl, fun _ => ⟨fun _ first => (nomatch first), fun _ _ => ⟨_, go_bind_ok (go_pcAct _ _) _, reads_regTarget⟩⟩⟩

theorem operated_loopTo {off : Word} : Operated (loopTo g n d off) n ⟨g, some d, [], none⟩ := by
  refine ⟨_, _, fun _ => rfl, fun w => ⟨fun _ first t waits => ?_, fun _ _ => ⟨_, rfl, .rest⟩⟩⟩
  cases first
  exact (go_bind_ok (go_pcAct w t) _).trans (go_bind_error (go_readG_waits waits) _)

theorem operated_rdp : Operated (execRdp g d) 1 ⟨g, some d, [], none⟩ := by
  refine ⟨_, _, fun _ => rfl, fun w => ⟨fun _ first t waits => ?_, fun _ _ => ⟨_, rfl, .rest⟩⟩⟩
  cases first
  exact (go_bind_ok (go_regsAct w t) _).trans (go_bind_error (go_writeD_waits waits) _)

theorem operated_of_operands (names : operands i = some o) : Operated (exec i) (encode i).length o := by
  cases i with
  | add | sub | mul | and | or | xor | shl | shrN | shrS | lea =>
    cases names
    exact ⟨_, _, fun _ => rfl, fun _ => .of_reads (.read fun _ => .read fun _ => .write)⟩
  | addImmediate | subImmediate | mulImmediate | andImmediate | orImmediate | xorImmediate | shlImmediate | shrNImmediate
  | shrSImmediate | not | neg | clz | ctz | popc | brev | bswap | extS | extN | mov =>
    cases names
    exact ⟨_, _, fun _ => rfl, fun _ => .of_reads (.read fun _ => .write)⟩
  | mulhS | mulhN | minS | minN | maxS | maxN | andn | padd | psub | padds | psubs | pmin | pmax | pshl | pshr | ins | divS | divN
  | remS | remN | cmpEq | cmpNe | cmpLtS | cmpGeS | cmpLtN | cmpGeN | cmpAny | cmpNone | stSpaceS | stSpaceSDisp | ldSec
  | ldSecDisp | casSec | casSecDisp =>
    cases names
    exact ⟨_, _, fun _ => rfl, fun _ => .of_reads (.read fun _ => .read fun _ => .rest)⟩
  | lih | cmpi | wrp | ldq | ldqDisp | ldSSpaceS | ldSSpaceSDisp | ldNSpaceS | ldNSpaceSDisp | trap =>
    cases names
    exact ⟨_, _, fun _ => rfl, fun _ => .of_reads (.read fun _ => .rest)⟩
  | ownT | ownE => cases names; exact ⟨_, _, fun _ => rfl, fun _ => .of_reads reads_flipSlot⟩
  | jr | callr | ret => cases names; exact operated_branchTo_regTarget
  | st | stDisp | stf | stfDisp => cases names; exact operated_storeMem
  | stSec | stSecDisp => cases names; exact operated_storeSec
  | ldS | ldSDisp | ldN | ldNDisp => cases names; exact operated_loadMem
  | atomAdd | atomAnd | atomOr | atomXor | atomSwap | atomMinS | atomMaxS | atomCas => cases names; exact operated_atomic
  | foldArr => cases names; exact ⟨_, _, fun _ => rfl, fun _ => .of_destReady fun _ => .rest⟩
  | li => cases names; exact ⟨_, _, fun _ => rfl, fun _ => .of_writeD⟩
  | rdp => cases names; exact operated_rdp
  | loop | loopLong => cases names; exact operated_loopTo
  | _ => cases names

end

/-! ### What the waits and traps come to -/

section
variable {w : Who} {g : Guard} {s t : State} {n : Nat} {squash : Who → State → State} {body : Who → Act Flow}

theorem keepRegs_sameBut (issues : Issues w g s) (same : SameBut w s t) : keepRegs w (regs w s) t = stood w s := by
  have task : (bankOf t w.core w.bank).task = some w.task := same.task.trans (acts_task issues.toActs)
  rw [keepRegs, if_pos task, same]

theorem issueWith_stands (issues : Issues w g s) (waits : ∃ t, (body w).go s = (.error .wait, t) ∧ SameBut w s t) :
    issueWith g n squash body s = .next (stood w s) := by
  obtain ⟨t, waits, same⟩ := waits
  rw [issueWith_wait issues waits, keepRegs_sameBut issues same]

theorem issueWith_traps {c : Trap} {i : Option Word} (issues : Issues w g s)
    (traps : ∃ t, (body w).go s = (.error (.trap c i), t) ∧ SameBut w s t) :
    issueWith g n squash body s = .next (raiseNow w n c i (stood w s)) := by
  obtain ⟨t, traps, same⟩ := traps
  rw [issueWith_trap issues traps, keepRegs_sameBut issues same]

theorem go_foldGranted {k : Context} {f : Nat} (live : ctxOf s w.ctx = some k) (granted : maskHas k.foldMask f = true) :
    (foldGranted w f).go s = (.ok (), s) := by
  simp [foldGranted, go_bind, live, granted]

/-- An instruction stops at the first of its operands that waits, or that pops an empty queue, with every register as it was. -/
theorem operands_wait {i : Instr} {o : Operands} (names : operands i = some o) (issues : Issues w o.g s) :
    (∀ d, o.first = some d → DestWaits (regs w s) d → exec i s = .next (stood w s)) ∧
    ((∀ d, o.first = some d → d.toNat < 32 ∧ ¬ DestWaits (regs w s) d) →
      (∀ l a m r, o.sources = l ++ a :: m → readAll (regs w s) l = some r →
        (Pending r a → exec i s = .next (stood w s)) ∧
        (48 ≤ a.toNat → a.toNat < 52 → sget [] r.q (a.toNat - 48) = [] →
          exec i s = .next (raiseNow w (encode i).length .reservedField none (stood w s)))) ∧
      (∀ d r, o.last = some d → readAll (regs w s) o.sources = some r → DestWaits r d → exec i s = .next (stood w s))) := by
  obtain ⟨squash, body, runs, operates⟩ := operated_of_operands names
  rw [runs]
  refine ⟨fun d first waits => ?_, fun ready => ?_⟩
  · exact issueWith_stands issues ⟨s, (operates w).waits d first s waits, SameBut.refl w s⟩
  obtain ⟨m, goes, reads⟩ := (operates w).reads s ready
  constructor
  · intro l a l' r split all
    rw [split] at reads
    constructor
    · intro pending
      have stops := reads.stops all fun u after => go_readSrc_waits (after.symm ▸ pending)
      exact issueWith_stands issues (goes ▸ stops)
    · intro above below empty
      have stops := reads.stops all fun u after => go_readSrc_empty above below (after.symm ▸ empty)
      exact issueWith_traps issues (goes ▸ stops)
  · intro d r last all waits
    rw [last] at reads
    exact issueWith_stands issues (goes ▸ reads.last_waits all waits)

/-- fold.set and fold.wait see the fold granted, and then read A. -/
theorem exec_fold {a : Spec} {f : BitVec 8} {e : Instr} (names : e ∈ [Instr.foldSet g a f, .foldWait g a f]) :
    ∃ k : Who → Val → Act Flow, ∀ s, exec e s = issue g 1 (fun w => foldGranted w f.toNat >>= fun _ => readSrc w a >>= k w) s := by
  obtain rfl | rfl := List.mem_pair.mp names
  · exact ⟨_, fun _ => rfl⟩
  · exact ⟨_, fun _ => rfl⟩

theorem exec_fold_waits {k : Context} {f : BitVec 8} {a : Spec} {e : Instr} (issues : Issues w g s) (live : ctxOf s w.ctx = some k)
    (granted : maskHas k.foldMask f.toNat = true) (pending : Pending (regs w s) a) (names : e ∈ [Instr.foldSet g a f, .foldWait g a f]) :
    exec e s = .next (stood w s) := by
  obtain ⟨k, runs⟩ := exec_fold names
  rw [runs]
  refine issueWith_stands issues ⟨s, ?_, SameBut.refl w s⟩
  calc
    _ = _ := go_bind_ok (go_foldGranted live granted) _
    _ = _ := go_bind_error (go_readSrc_waits pending) _

/-- spawn commits, waits for its accesses, and then reads A. -/
theorem exec_spawn {a : Spec} : ∃ k : Who → Val → Act Flow, ∀ s, exec (.spawn g a) s = issue g 1 (fun w => do
    commitRegion w false
    waitUntil (accessesDone (bankOf (← state) w.core w.bank))
    let x ← readSrc w a
    k w x) s :=
  ⟨_, fun _ => rfl⟩

theorem exec_spawn_waits {u : State} {a : Spec} (issues : Issues w g s) (commit : (commitRegion w false).go s = (.ok (), u))
    (done : accessesDone (bank w u) = true) (pending : Pending (regs w u) a) :
    exec (.spawn g a) s = .next (keepRegs w (regs w s) u) := by
  obtain ⟨k, runs⟩ := exec_spawn
  rw [runs]
  refine issueWith_wait issues ?_
  calc
    _ = _ := go_bind_ok commit _
    _ = _ := go_state_then _
    _ = _ := go_waitUntil_then done _
    _ = _ := go_bind_error (go_readSrc_waits pending) _

end

theorem operandsWait : OperandsWait := by
  refine ⟨fun w i o s names issues => operands_wait names issues, ?_, ?_⟩
  · intro w g a n s k issues live granted pending e names
    exact exec_fold_waits issues live granted pending names
  · intro w g a s u issues commit done pending
    exact exec_spawn_waits issues commit done pending

/-- Settles O58: a guard that fails squashes all but the PC's move, and the operands that an instruction takes come before its effect. -/
theorem guardsAndOperands : Obligations.GuardsAndOperands := ⟨guardSquashes, operandsWait⟩

end Sys2Proof.Proofs
end

section
/-!
PROOF. Arithmetic of the control core: the shared forms of its instructions, division, and the packed lanes (12 R303 to R305; 10 R273).
-/

namespace Sys2Proof.Proofs

open Sys2Proof.Machine Sys2Proof.Safety Sys2Proof.Claims

/-! ### The shared forms -/

section
variable {f h : Word → Word → Word} {u : Word → Word} {n : Nat}

theorem computesAB_of_aluAB {mk : Guard → Spec → Spec → Spec → Instr} (runs : ∀ g d a b s, exec (mk g d a b) s = aluAB g d a b f s) :
    ComputesAB mk f :=
  fun _ _ _ _ _ _ _ _ _ _ _ issues first second written => (runs _ _ _ _ _).trans (aluAB_ok issues first second written)

theorem computesImm_of_aluImm {mk : Guard → Spec → Spec → BitVec 32 → Instr}
    (runs : ∀ g d a imm s, exec (mk g d a imm) s = aluImm g d a imm f s) : ComputesImm mk f :=
  fun _ _ _ _ _ _ _ _ _ issues read written => (runs _ _ _ _ _).trans (aluImm_ok issues read written)

theorem computesDA_of_aluDA {mk : Guard → Spec → Spec → Instr} (runs : ∀ g d a s, exec (mk g d a) s = aluDA g n d a h s)
    (same : ∀ x y, h x y = f x y) : ComputesDA mk n (fun _ => True) f := by
  obtain rfl : h = f := funext fun x => funext (same x)
  exact fun _ _ _ _ _ _ _ _ _ _ issues first second _ written => (runs _ _ _ _).trans (aluDA_ok issues first second written)

theorem computesDA_of_divide {mk : Guard → Spec → Spec → Instr} (runs : ∀ g d a s, exec (mk g d a) s = divide g d a f s) :
    ComputesDA mk 1 (· ≠ 0) f :=
  fun _ _ _ _ _ _ _ _ _ _ issues first second ne written => (runs _ _ _ _).trans (divide_ok issues first second ne written)

theorem computesA_of_unary {mk : Guard → Spec → Spec → Instr} (runs : ∀ g d a s, exec (mk g d a) s = unary g n d a u s) :
    ComputesA mk n u :=
  fun _ _ _ _ _ _ _ _ issues read written => (runs _ _ _ _).trans (unary_ok issues read written)

theorem relatesA_of_unary {mk : Guard → Spec → Spec → Instr} {rel : Word → Word → Prop}
    (runs : ∀ g d a s, exec (mk g d a) s = unary g n d a u s) (holds : ∀ x, rel x (u x)) : RelatesA mk n rel :=
  fun _ _ _ _ _ x _ issues read => ⟨u x.v, holds x.v, fun _ written => (runs _ _ _ _).trans (unary_ok issues read written)⟩

theorem relatesDA_of_aluDA {mk : Guard → Spec → Spec → Instr} {rel : Word → Word → Word → Prop}
    (runs : ∀ g d a s, exec (mk g d a) s = aluDA g n d a f s) (holds : ∀ x y, rel x y (f x y)) : RelatesDA mk n rel :=
  fun _ _ _ _ _ x y _ _ issues first second =>
    ⟨f x.v y.v, holds x.v y.v, fun _ written => (runs _ _ _ _).trans (aluDA_ok issues first second written)⟩

end

/-! ### Arithmetic (12 R303, R304) -/

theorem shiftRightA_eq_shiftRS : shiftRightA 64 = shiftRS := rfl

theorem aluTwoSources : AluTwoSources :=
  ⟨computesAB_of_aluAB fun _ _ _ _ _ => rfl, computesAB_of_aluAB fun _ _ _ _ _ => rfl, computesAB_of_aluAB fun _ _ _ _ _ => rfl,
   computesAB_of_aluAB fun _ _ _ _ _ => rfl, computesAB_of_aluAB fun _ _ _ _ _ => rfl, computesAB_of_aluAB fun _ _ _ _ _ => rfl,
   computesAB_of_aluAB fun _ _ _ _ _ => rfl, computesAB_of_aluAB fun _ _ _ _ _ => rfl,
   shiftRightA_eq_shiftRS ▸ computesAB_of_aluAB fun _ _ _ _ _ => rfl⟩

theorem aluImmediate : AluImmediate :=
  ⟨computesImm_of_aluImm fun _ _ _ _ _ => rfl, computesImm_of_aluImm fun _ _ _ _ _ => rfl,
   computesImm_of_aluImm fun _ _ _ _ _ => rfl, computesImm_of_aluImm fun _ _ _ _ _ => rfl,
   computesImm_of_aluImm fun _ _ _ _ _ => rfl, computesImm_of_aluImm fun _ _ _ _ _ => rfl,
   computesImm_of_aluImm fun _ _ _ _ _ => rfl, computesImm_of_aluImm fun _ _ _ _ _ => rfl,
   shiftRightA_eq_shiftRS ▸ computesImm_of_aluImm fun _ _ _ _ _ => rfl⟩

theorem ite_sle (x y p q : Word) : (if x.sle y then p else q) = if x.toInt ≤ y.toInt then p else q := by
  simp [BitVec.sle_iff_toInt_le]

theorem ite_ule (x y p q : Word) : (if x.ule y then p else q) = if x.toNat ≤ y.toNat then p else q := by
  simp [BitVec.ule_iff_toNat_le]

theorem aluDestination : AluDestination :=
  ⟨computesDA_of_aluDA (h := mulhS) (fun _ _ _ _ => rfl) fun _ _ => rfl, computesDA_of_aluDA (h := mulhN) (fun _ _ _ _ => rfl) fun _ _ => rfl,
   computesDA_of_aluDA (h := fun x y => if x.sle y then x else y) (fun _ _ _ _ => rfl) fun x y => ite_sle x y x y,
   computesDA_of_aluDA (h := fun x y => if x.ule y then x else y) (fun _ _ _ _ => rfl) fun x y => ite_ule x y x y,
   computesDA_of_aluDA (h := fun x y => if x.sle y then y else x) (fun _ _ _ _ => rfl) fun x y => ite_sle x y y x,
   computesDA_of_aluDA (h := fun x y => if x.ule y then y else x) (fun _ _ _ _ => rfl) fun x y => ite_ule x y y x,
   computesDA_of_aluDA (h := fun x y => x &&& ~~~y) (fun _ _ _ _ => rfl) fun _ _ => rfl,
   computesA_of_unary (u := (~~~·)) fun _ _ _ _ => rfl, computesA_of_unary (u := (0 - ·)) fun _ _ _ _ => rfl⟩

/-- Settles O1: each instruction is one of the shared forms, with the function that the rule names. -/
theorem arithmeticResults : Obligations.ArithmeticResults := ⟨aluTwoSources, aluImmediate, aluDestination⟩

/-! ### Division (12 R304) -/

theorem divideCompletes : DivideCompletes :=
  ⟨computesDA_of_divide fun _ _ _ _ => rfl, computesDA_of_divide fun _ _ _ _ => rfl, computesDA_of_divide fun _ _ _ _ => rfl,
   computesDA_of_divide fun _ _ _ _ => rfl⟩

theorem exec_division {mk : Guard → Spec → Spec → Instr} (hmk : mk ∈ [Instr.divS, .divN, .remS, .remN]) :
    ∃ f, ∀ g d a s, exec (mk g d a) s = divide g d a f s := by
  simp only [List.mem_cons, List.not_mem_nil, or_false] at hmk
  obtain rfl | rfl | rfl | rfl := hmk
  · exact ⟨divS, fun _ _ _ _ => rfl⟩
  · exact ⟨divN, fun _ _ _ _ => rfl⟩
  · exact ⟨remS, fun _ _ _ _ => rfl⟩
  · exact ⟨remN, fun _ _ _ _ => rfl⟩

theorem divideByZero : DivideByZero := by
  intro mk hmk w g s d a x y r1 r2 issues first second zero
  obtain ⟨f, runs⟩ := exec_division hmk
  obtain ⟨t, same, raises⟩ := divide_zero (f := f) issues first second zero
  rw [keepRegs_sameBut issues same] at raises
  exact ⟨withRegs w s (regs w s), fun r => setRegs_setRegs s w.core w.bank _ r, regsOf_setRegs s w.core w.bank _, (runs g d a s).trans raises⟩

/-! ### Packed lanes (12 R305) -/

/-- Lanes of `k` bits, side by side from bit 0. -/
def lanesOr (k : Nat) (f : Nat → BitVec k) (n : Nat) : Word :=
  (List.range n).foldl (fun v i => v ||| ((f i).setWidth 64 <<< (k * i))) 0

theorem getLsbD_lanesOr {k j : Nat} (f : Nat → BitVec k) (lt : j < 64) (n : Nat) :
    (lanesOr k f n).getLsbD j = (decide (j < k * n) && (f (j / k)).getLsbD (j % k)) := by
  induction n with
  | zero => simp [lanesOr]
  | succ n ih =>
    have last : ((f n).setWidth 64 <<< (k * n)).getLsbD j = (decide (k * n ≤ j) && (f n).getLsbD (j - k * n)) := by
      by_cases below : j < k * n
      · simp [below, Nat.not_le.mpr below]
      · simp [lt, below, Nat.not_lt.mp below]
    have split : lanesOr k f (n + 1) = lanesOr k f n ||| ((f n).setWidth 64 <<< (k * n)) := by
      simp [lanesOr, List.range_succ]
    rw [split, BitVec.getLsbD_or, ih, last, Nat.mul_succ]
    by_cases below : j < k * n
    · simp [below, Nat.not_le.mpr below, Nat.lt_add_right k below]
    · by_cases within : j < k * n + k
      · have quotient : j / k = n := Nat.div_eq_of_lt_le (by rw [Nat.mul_comm]; omega) (by rw [Nat.succ_mul, Nat.mul_comm]; omega)
        have rest : j % k = j - k * n := by rw [Nat.mod_def, quotient]
        simp [below, within, Nat.not_lt.mp below, quotient, rest]
      · have none : (f n).getLsbD (j - k * n) = false := BitVec.getLsbD_of_ge _ _ (by omega)
        simp [below, within, none]

theorem extractLsb'_lanesOr {k i n : Nat} (f : Nat → BitVec k) (lane : i < n) (fits : k * n ≤ 64) :
    (lanesOr k f n).extractLsb' (k * i) k = f i := by
  apply BitVec.eq_of_getLsbD_eq
  intro j lt
  have within : k * i + k ≤ k * n := Nat.mul_succ k i ▸ Nat.mul_le_mul_left k lane
  rw [BitVec.getLsbD_extractLsb', getLsbD_lanesOr f (by omega), Nat.mul_add_div (by omega), Nat.mul_add_mod,
    Nat.div_eq_of_lt lt, Nat.mod_eq_of_lt lt]
  simp [lt, show k * i + j < k * n by omega]

theorem clampLane_eq_saturate {k : Nat} (signed : Bool) (i : Int) : clampLane k signed i = saturate k signed i := by
  have half : (1 : Int) ≤ (2 ^ (k - 1) : Nat) := by exact_mod_cast Nat.one_le_two_pow
  have whole : (1 : Int) ≤ (2 ^ k : Nat) := by exact_mod_cast Nat.one_le_two_pow
  rw [clampLane, saturate]
  congr 1
  cases signed
  · simp only [Bool.false_eq_true, if_false]
    split <;> omega
  · simp only [if_true]
    split <;> omega

/-- The width of a lane type's lanes. -/
def laneWidth (lane : BitVec 2) : Nat := if lane.toNat < 2 then 8 else 16

theorem packed_eq_packLanes (lane : BitVec 2) (op : PackOp) : packed lane op = packLanes (laneWidth lane) (lane.toNat % 2 == 0) op := by
  have types : lane = 0 ∨ lane = 1 ∨ lane = 2 ∨ lane = 3 := by revert lane; decide
  obtain rfl | rfl | rfl | rfl := types <;> rfl

theorem extractLsb'_packed {lane : BitVec 2} (op : PackOp) {i : Nat} (x y : Word) (within : i < 64 / laneWidth lane) :
    (packed lane op x y).extractLsb' (laneWidth lane * i) (laneWidth lane) =
      laneOp (laneWidth lane) (lane.toNat % 2 == 0) op (x.extractLsb' (laneWidth lane * i) (laneWidth lane))
        (y.extractLsb' (laneWidth lane * i) (laneWidth lane)) := by
  rw [packed_eq_packLanes]
  exact extractLsb'_lanesOr _ within (Nat.mul_div_le 64 (laneWidth lane))

theorem packs_of_packed {mk : Guard → Spec → Spec → BitVec 2 → Instr} (op : PackOp)
    {f : (k : Nat) → Bool → BitVec k → BitVec k → BitVec k} (runs : ∀ g d a lane s, exec (mk g d a lane) s = aluDA g 1 d a (packed lane op) s)
    (same : ∀ k sg x y, laneOp k sg op x y = f k sg x y) : Packs mk f := fun lane =>
  relatesDA_of_aluDA (fun g d a s => runs g d a lane s) fun x y _ within =>
    (extractLsb'_packed op x y within).trans (same _ _ _ _)

theorem packedLanes : PackedLanes :=
  ⟨packs_of_packed .add (fun _ _ _ _ _ => rfl) fun _ _ _ _ => rfl, packs_of_packed .sub (fun _ _ _ _ _ => rfl) fun _ _ _ _ => rfl,
   packs_of_packed .adds (fun _ _ _ _ _ => rfl) fun _ sg _ _ => clampLane_eq_saturate sg _,
   packs_of_packed .subs (fun _ _ _ _ _ => rfl) fun _ sg _ _ => clampLane_eq_saturate sg _,
   packs_of_packed .min (fun _ _ _ _ _ => rfl) fun _ _ _ _ => rfl, packs_of_packed .max (fun _ _ _ _ _ => rfl) fun _ _ _ _ => rfl,
   packs_of_packed .shl (fun _ _ _ _ _ => rfl) fun _ _ _ _ => rfl, packs_of_packed .shr (fun _ _ _ _ _ => rfl) fun _ _ _ _ => rfl⟩

/-- Settles O2: a divisor of zero traps before D is written; a packed result is its lanes side by side. -/
theorem divideAndLanes : Obligations.DivideAndLanes := ⟨divideCompletes, divideByZero, packedLanes⟩

end Sys2Proof.Proofs
end

section
/-!
PROOF. Counts, reversals and bit fields, bit by bit; moves, constants and lea (12 R306 to R308).
-/

namespace Sys2Proof.Proofs

open Sys2Proof.Machine Sys2Proof.Safety Sys2Proof.Claims

/-! ### Little-endian bytes (00 R1) -/

theorem leNat_byte (bs : List Byte) : ∀ n, leNat bs / 256 ^ n % 256 = (bs.getD n 0).toNat := by
  induction bs with
  | nil => simp [leNat]
  | cons b r ih =>
    have byte : b.toNat < 256 := b.isLt
    intro n
    cases n with
    | zero => simp [leNat]; omega
    | succ n =>
      have rest : (b.toNat + 256 * leNat r) / 256 = leNat r := by omega
      rw [leNat, pow_succ', ← Nat.div_div_eq_div_mul, rest, ih]
      rfl

@[simp] theorem length_leBytes (n : Nat) : ∀ v, (leBytes n v).length = n := by
  induction n with
  | zero => exact fun _ => rfl
  | succ n ih => exact fun v => congrArg Nat.succ (ih (v / 256))

theorem getElem?_leBytes {n i : Nat} (lt : i < n) : ∀ v, (leBytes n v)[i]? = some (BitVec.ofNat 8 (v / 256 ^ i)) := by
  induction n generalizing i with
  | zero => exact absurd lt (Nat.not_lt_zero i)
  | succ n ih =>
    intro v
    cases i with
    | zero => simp [leBytes]
    | succ i => rw [leBytes, List.getElem?_cons_succ, ih (Nat.lt_of_succ_lt_succ lt), Nat.div_div_eq_div_mul, pow_succ']

theorem extractLsb'_leWord (bs : List Byte) {n : Nat} (lt : n < 8) : (leWord bs).extractLsb' (8 * n) 8 = bs.getD n 0 := by
  apply BitVec.eq_of_toNat_eq
  rw [← leNat_byte, leWord, BitVec.extractLsb'_toNat, BitVec.toNat_ofNat, Nat.shiftRight_eq_div_pow]
  have byte : (256 : Nat) ^ n = 2 ^ (8 * n) := (pow_mul 2 8 n).symm
  have word : (2 : Nat) ^ 64 = 2 ^ (8 * n) * 2 ^ (64 - 8 * n) := by
    rw [← pow_add, Nat.add_sub_of_le (by omega)]
  rw [byte, word, Nat.mod_mul_right_div_self, Nat.mod_mod_of_dvd _ (pow_dvd_pow 2 (by omega : 8 ≤ 64 - 8 * n))]
  norm_num

theorem getD_wordBytes (x : Word) {n : Nat} (lt : n < 8) : (wordBytes x).getD n 0 = x.extractLsb' (8 * n) 8 := by
  apply BitVec.eq_of_toNat_eq
  rw [wordBytes, List.getD_eq_getElem?_getD, getElem?_leBytes lt, BitVec.extractLsb'_toNat, Nat.shiftRight_eq_div_pow, pow_mul]
  rfl

/-! ### Counts and reversals (12 R306) -/

theorem leadingZeros_spec (a : Word) (n : Nat) : leadingZeros a n ≤ n ∧ (∀ j < n, n - leadingZeros a n ≤ j → a.getLsbD j = false) ∧
    (leadingZeros a n < n → a.getLsbD (n - 1 - leadingZeros a n) = true) := by
  induction n with
  | zero => simp [leadingZeros]
  | succ n ih =>
    obtain ⟨le, zeros, one⟩ := ih
    rw [leadingZeros]
    by_cases top : a.getLsbD n = true
    · simp [top]
      omega
    · rw [if_neg top]
      refine ⟨by omega, fun j lt above => ?_, fun lt => ?_⟩
      · obtain rfl | below := Nat.lt_succ_iff_lt_or_eq.mp lt |>.symm
        · exact Bool.eq_false_iff.mpr top
        · exact zeros j below (by omega)
      · have := one (by omega)
        rwa [show n + 1 - 1 - (1 + leadingZeros a n) = n - 1 - leadingZeros a n by omega]

theorem countsLeading (x : Word) : CountsLeading x (BitVec.ofNat 64 (leadingZeros x 64)) := by
  obtain ⟨le, zeros, one⟩ := leadingZeros_spec x 64
  have count : (BitVec.ofNat 64 (leadingZeros x 64)).toNat = leadingZeros x 64 := by
    rw [BitVec.toNat_ofNat, Nat.mod_eq_of_lt (by omega)]
  rw [CountsLeading, count]
  exact ⟨le, zeros, one⟩

theorem trailingZeros_spec (a : Word) : trailingZeros a ≤ 64 ∧ (∀ j < trailingZeros a, a.getLsbD j = false) ∧
    (trailingZeros a < 64 → a.getLsbD (trailingZeros a) = true) := by
  unfold trailingZeros
  cases found : (List.range 64).find? (fun n => a.getLsbD n) with
  | none =>
    rw [List.find?_range_eq_none] at found
    exact ⟨le_rfl, fun j lt => by simpa using found j lt, fun lt => absurd lt (lt_irrefl _)⟩
  | some n =>
    rw [List.find?_range_eq_some] at found
    obtain ⟨one, lt, before⟩ := found
    exact ⟨(List.mem_range.mp lt).le, fun j below => by simpa using before j below, fun _ => one⟩

theorem countsTrailing (x : Word) : CountsTrailing x (BitVec.ofNat 64 (trailingZeros x)) := by
  obtain ⟨le, zeros, one⟩ := trailingZeros_spec x
  have count : (BitVec.ofNat 64 (trailingZeros x)).toNat = trailingZeros x := by
    rw [BitVec.toNat_ofNat, Nat.mod_eq_of_lt (by omega)]
  rw [CountsTrailing, count]
  exact ⟨le, zeros, one⟩

theorem toNat_oneBits (x : Word) : (BitVec.ofNat 64 (oneBits x)).toNat = oneBits x := by
  have bound : oneBits x ≤ 64 := (List.length_filter_le _ _).trans (List.length_range (n := 64)).le
  rw [BitVec.toNat_ofNat, Nat.mod_eq_of_lt (by omega)]

theorem getLsbD_bitReverse (x : Word) {n : Nat} (lt : n < 64) : (bitReverse x).getLsbD n = x.getLsbD (63 - n) := by
  rw [bitReverse, BitVec.getLsbD_reverse, BitVec.getMsbD]
  simp [lt]

theorem extractLsb'_byteSwap (x : Word) {n : Nat} (lt : n < 8) :
    (byteSwap x).extractLsb' (8 * n) 8 = x.extractLsb' (8 * (7 - n)) 8 := by
  have bytes : (wordBytes x).length = 8 := length_leBytes 8 _
  rw [byteSwap, extractLsb'_leWord _ lt, ← getD_wordBytes x (show 7 - n < 8 by omega), List.getD_eq_getElem?_getD,
    List.getElem?_reverse (by omega), bytes, List.getD_eq_getElem?_getD]

/-! ### Bit fields (12 R306) -/

section
variable (x y : Word) {pos wm1 n : Nat}

theorem getLsbD_extractN (within : n < 64) :
    (extractN x pos (wm1 + 1)).getLsbD n = (decide (n ≤ wm1) && x.getLsbD (pos + n)) := by
  rw [extractN, fld_eq_toNat_extractLsb', BitVec.ofNat_toNat]
  simp [within]

theorem getLsbD_extractS (within : n < 64) : (extractS x pos (wm1 + 1)).getLsbD n = x.getLsbD (pos + min n wm1) := by
  rw [extractS, sext, ofNat_fld, BitVec.getLsbD_signExtend, BitVec.msb_eq_getLsbD_last]
  by_cases low : n < wm1 + 1
  · simp [within, low, Nat.min_eq_left (Nat.lt_succ_iff.mp low)]
  · simp [within, low, Nat.min_eq_right (show wm1 ≤ n by omega)]

theorem getLsbD_insertField (within : n < 64) : (insertField x y pos (wm1 + 1)).getLsbD n =
    if pos ≤ n ∧ n ≤ pos + wm1 then y.getLsbD (n - pos) else x.getLsbD n := by
  have mask : ((2 ^ (wm1 + 1) - 1) * 2 ^ pos).testBit n = decide (pos ≤ n ∧ n ≤ pos + wm1) := by
    rw [Nat.testBit_mul_two_pow, Nat.testBit_two_pow_sub_one, Bool.eq_iff_iff]
    simp
    omega
  have field : pos ≤ n → n ≤ pos + wm1 → (fld y 0 (wm1 + 1) * 2 ^ pos).testBit n = y.getLsbD (n - pos) := fun above below => by
    rw [fld, Nat.testBit_mul_two_pow, Nat.testBit_mod_two_pow, BitVec.getLsbD]
    simp [above, show n - pos < wm1 + 1 by omega]
  simp only [insertField, BitVec.getLsbD_or, BitVec.getLsbD_and, BitVec.getLsbD_not, BitVec.getLsbD_ofNat, within, decide_true,
    Bool.true_and, mask]
  by_cases inside : pos ≤ n ∧ n ≤ pos + wm1
  · simp [inside, field inside.1 inside.2]
  · simp [inside]

end

theorem decode_fieldBeyondWord {g : Guard} {d a pos wm1 : BitVec 6} (beyond : 64 < pos.toNat + wm1.toNat + 1) {i : Instr}
    (hi : i ∈ [Instr.extN g d a pos wm1, .extS g d a pos wm1, .ins g d a pos wm1]) :
    decodeControl (encode i) = .error .reservedField := by
  have bad : ¬ pos.toNat + wm1.toNat < 64 := by omega
  simp only [List.mem_cons, List.not_mem_nil, or_false] at hi
  obtain rfl | rfl | rfl := hi
  all_goals
    rw [decodeControl_encode rfl, accept]
    simp [Instr.wellFormed, bad]

theorem relatesFields {pos wm1 : BitVec 6} :
    RelatesA (fun g d a => .extN g d a pos wm1) 2 (fun x v => ∀ n < 64, v.getLsbD n = (decide (n ≤ wm1.toNat) && x.getLsbD (pos.toNat + n))) ∧
    RelatesA (fun g d a => .extS g d a pos wm1) 2 (fun x v => ∀ n < 64, v.getLsbD n = x.getLsbD (pos.toNat + min n wm1.toNat)) ∧
    RelatesDA (fun g d a => .ins g d a pos wm1) 2 (fun x y v => ∀ n < 64,
      v.getLsbD n = if pos.toNat ≤ n ∧ n ≤ pos.toNat + wm1.toNat then y.getLsbD (n - pos.toNat) else x.getLsbD n) :=
  ⟨relatesA_of_unary (u := fun x => extractN x pos.toNat (wm1.toNat + 1)) (fun _ _ _ _ => rfl) fun x _ => getLsbD_extractN x,
   relatesA_of_unary (u := fun x => extractS x pos.toNat (wm1.toNat + 1)) (fun _ _ _ _ => rfl) fun x _ => getLsbD_extractS x,
   relatesDA_of_aluDA (f := fun x y => insertField x y pos.toNat (wm1.toNat + 1)) (fun _ _ _ _ => rfl) fun x y _ => getLsbD_insertField x y⟩

/-- Settles O3: each function of the word is read bit by bit; the decoder accepts a field only within the word. -/
theorem bitFields : Obligations.BitFields :=
  ⟨relatesA_of_unary (u := fun x => BitVec.ofNat 64 (leadingZeros x 64)) (fun _ _ _ _ => rfl) countsLeading,
   relatesA_of_unary (u := fun x => BitVec.ofNat 64 (trailingZeros x)) (fun _ _ _ _ => rfl) countsTrailing,
   relatesA_of_unary (u := fun x => BitVec.ofNat 64 (oneBits x)) (fun _ _ _ _ => rfl) toNat_oneBits,
   relatesA_of_unary (u := bitReverse) (fun _ _ _ _ => rfl) fun x _ => getLsbD_bitReverse x,
   relatesA_of_unary (u := byteSwap) (fun _ _ _ _ => rfl) fun x _ => extractLsb'_byteSwap x, fun _ _ _ => relatesFields,
   fun _ _ _ _ _ beyond _ hi => decode_fieldBeyondWord beyond hi⟩

/-! ### mov, li, lih, lea (12 R307, R308) -/

section
variable {w : Who} {g : Guard} {s : State} {d a b : Spec} {x y : Val} {r1 r2 r3 r : Regs} {imm : BitVec 32}

theorem exec_li (issues : Issues w g s) (written : result (regs w s) d ⟨imm.signExtend 64, .clean⟩ = some r) :
    exec (.li g d imm) s = .next (withRegs w s (pcOn r 2)) := by
  have runs : exec (.li g d imm) s = issue g 2 (fun w => writeD w d ⟨sext32 imm, .clean⟩ >>= fun _ => pure .next) s := rfl
  rw [runs, issue_ok issues (go_bind_ok (go_writeD (SameBut.refl w s) written) _), advance_setRegs (acts_task issues.toActs)]

theorem exec_lih (issues : Issues w g s) (read : source (regs w s) d = some (x, r1))
    (written : result r1 d ⟨imm ++ x.v.extractLsb' 0 32, mark1 x⟩ = some r) :
    exec (.lih g d imm) s = .next (withRegs w s (pcOn r 2)) := by
  have runs : exec (.lih g d imm) s = issue g 2 (fun w => readSrc w d >>= fun x =>
      writeD w d ⟨imm ++ x.v.extractLsb' 0 32, mark1 x⟩ >>= fun _ => pure .next) s := rfl
  obtain ⟨t, reads, same, after⟩ := go_readSrc (SameBut.refl w s) read
  have writes := go_writeD same (after.symm ▸ written)
  rw [runs, issue_ok issues ((go_bind_ok reads _).trans (go_bind_ok writes _)), advance_setRegs (acts_task issues.toActs)]

theorem exec_lea {sh : BitVec 4} {disp : BitVec 28} (issues : Issues w g s) (first : source (regs w s) a = some (x, r1))
    (second : source r1 b = some (y, r2))
    (written : result r2 d ⟨x.v + (y.v <<< sh.toNat) + disp.signExtend 64, mark2 x y⟩ = some r3) :
    exec (.lea g d a b sh disp) s = .next (withRegs w s (pcOn r3 2)) := by
  have runs : exec (.lea g d a b sh disp) s = issue g 2 (fun w => readSrc w a >>= fun x => readSrc w b >>= fun y =>
      writeD w d ⟨x.v + (y.v <<< sh.toNat) + disp.signExtend 64, mark2 x y⟩ >>= fun _ => pure .next) s := rfl
  obtain ⟨t, reads, same, after⟩ := go_readSrc (SameBut.refl w s) first
  obtain ⟨u, reads', same', after'⟩ := go_readSrc same (after.symm ▸ second)
  have writes := go_writeD same' (after'.symm ▸ written)
  rw [runs, issue_ok issues ((go_bind_ok reads _).trans ((go_bind_ok reads' _).trans (go_bind_ok writes _))),
    advance_setRegs (acts_task issues.toActs)]

theorem decode_of_encode {i : Instr} {ws : List (BitVec 32)} (control : isControl i = true) (word : encode i = ws)
    (legal : i.wellFormed = true) : decodeControl ws = .ok i := by
  rw [← word, decodeControl_encode control, accept_of_wellFormed legal]

/-- li and lih leave A zero. -/
theorem decode_constant_withA {f : BitVec 6} (hf : f ∈ [(1 : BitVec 6), 2]) (ne : a ≠ 0) :
    decodeControl [(0x0F : BitVec 6) ++ g.bits ++ d ++ a ++ f, imm] = .error .reservedField := by
  have refused : ∀ i, accept (a == 0) i = .error .reservedField := fun i => by
    rw [accept, beq_eq_false_iff_ne.mpr ne]
    rfl
  simp only [List.mem_cons, List.not_mem_nil, or_false] at hf
  obtain rfl | rfl := hf
  all_goals
    change decodeControl2 (encA _ _ _ _ _) _ = _
    rw [decodeControl2, opcode_encA, code_encA]
    change accept _ _ = _
    rw [(encA_fields _ g d a _).2.2]
    exact refused _

theorem constant_of_halves (k : Word) : k.extractLsb' 32 32 ++ ((k.extractLsb' 0 32).signExtend 64).extractLsb' 0 32 = k := by
  apply BitVec.eq_of_getLsbD_eq
  intro n lt
  by_cases low : n < 32
  · rw [BitVec.getLsbD_append, if_pos low, BitVec.getLsbD_extractLsb', BitVec.getLsbD_signExtend, BitVec.getLsbD_extractLsb']
    simp [low, lt]
  · rw [BitVec.getLsbD_append, if_neg low, BitVec.getLsbD_extractLsb', Nat.add_sub_of_le (by omega)]
    simp [show n - 32 < 32 by omega]

end

/-- Settles O4: each instruction writes its value in one step; its word is its encoding, which the decoder reads back. -/
theorem movesAndAddresses : Obligations.MovesAndAddresses :=
  ⟨computesA_of_unary fun _ _ _ _ => rfl, fun _ _ _ _ _ _ => exec_li, fun _ _ _ _ _ _ _ _ => exec_lih,
   fun _ _ _ _ _ _ _ _ _ _ _ _ _ => exec_lea,
   fun _ _ _ _ _ _ _ => ⟨decode_of_encode rfl rfl, decode_of_encode rfl rfl, decode_of_encode rfl rfl, decode_of_encode rfl rfl,
     fun ne _ hf => decode_constant_withA hf ne⟩,
   fun k => ⟨_, _, constant_of_halves k⟩⟩

end Sys2Proof.Proofs
end

section
/-!
PROOF. Compares and predicates: which predicate an instruction sets, and that all else stays (12 R309, R310; 11 R287).
-/

namespace Sys2Proof.Proofs

open Sys2Proof.Machine Sys2Proof.Safety Sys2Proof.Claims

/-! ### A predicate set (09 R223) -/

/-- A source moves an operand queue on at most. -/
theorem source_moves {r r' : Regs} {a : Spec} {x : Val} (read : source r a = some (x, r')) : ∃ q, r' = { r with q := q } := by
  unfold source at read
  dsimp only at read
  repeat' split at read
  all_goals simp only [Option.some.injEq, Prod.mk.injEq, reduceCtorEq] at read
  all_goals
    obtain ⟨-, rfl⟩ := read
    exact ⟨_, rfl⟩

theorem source_p {r r' : Regs} {a : Spec} {x : Val} (read : source r a = some (x, r')) : r'.p = r.p := by
  obtain ⟨q, rfl⟩ := source_moves read
  rfl

theorem getLsbD_setPred (r : Regs) {n k : Nat} (v : Bool) (m : PMark) (lt : k < 64) :
    (setPred r n v m).p.getLsbD k = if k = n then v else r.p.getLsbD k := by
  have one : (BitVec.ofNat 64 (2 ^ n)).getLsbD k = decide (n = k) := by
    rw [BitVec.getLsbD_ofNat, Nat.testBit_two_pow]
    simp [lt]
  cases v
  · simp only [setPred, Bool.false_eq_true, if_false, BitVec.getLsbD_and, BitVec.getLsbD_not, one, lt, eq_comm (a := k)]
    by_cases same : n = k <;> simp [same]
  · simp only [setPred, if_true, BitVec.getLsbD_or, one, eq_comm (a := k)]
    by_cases same : n = k <;> simp [same]

section
variable {mk : Guard → Spec → Spec → Spec → Instr} {f : Word → Word → Bool} {c : BitVec 3}

theorem comparesAB_of_compare (runs : ∀ g d a b s, exec (mk g d a b) s = compare g d a b c s) (same : ∀ x y, condHolds c x y = f x y) :
    ComparesAB mk f := by
  intro w g s d a b x y r1 r2 issues first second
  refine ⟨_, _, (runs g d a b s).trans (compare_ok issues first second), fun n lt => ?_, rfl⟩
  rw [← same, pcOn, getLsbD_setPred r2 _ _ lt, source_p second, source_p first]

theorem predicatesAB_of_set {f : Bool → Bool → Bool} (runs : ∀ w s g d a b, Issues w g s → ∃ m, exec (mk g d a b) s =
      .next (withRegs w s (pcOn (setPred (regs w s) d.toNat (f ((regs w s).p.getLsbD a.toNat) ((regs w s).p.getLsbD b.toNat)) m) 1))) :
    PredicatesAB mk f := by
  intro w g s d a b issues
  obtain ⟨m, run⟩ := runs w s g d a b issues
  exact ⟨_, _, run, fun n lt => getLsbD_setPred (regs w s) _ m lt, rfl⟩

theorem predicatesAB_of_predAB {f : Bool → Bool → Bool} (runs : ∀ g d a b s, exec (mk g d a b) s = predAB g d a b f s) : PredicatesAB mk f :=
  predicatesAB_of_set fun _ s g d a b issues => ⟨_, (runs g d a b s).trans (predAB_ok issues)⟩

theorem predicatesAB_of_predA {f : Bool → Bool} (runs : ∀ g d a b s, exec (mk g d a b) s = predA g d a f s) :
    PredicatesAB mk fun x _ => f x :=
  predicatesAB_of_set fun _ s g d a b issues => ⟨_, (runs g d a b s).trans (predA_ok issues)⟩

end

/-! ### Compares (12 R309) -/

theorem condHolds_ge (x y : Word) : condHolds 3 x y = decide (y.toInt ≤ x.toInt) := by
  simp [condHolds, BitVec.slt, ← decide_not]

theorem condHolds_geN (x y : Word) : condHolds 5 x y = decide (y.toNat ≤ x.toNat) := by
  simp [condHolds, BitVec.ult, ← decide_not]

theorem compares : Compares :=
  ⟨comparesAB_of_compare (fun _ _ _ _ _ => rfl) fun _ _ => rfl, comparesAB_of_compare (fun _ _ _ _ _ => rfl) fun _ _ => rfl,
   comparesAB_of_compare (fun _ _ _ _ _ => rfl) fun _ _ => rfl, comparesAB_of_compare (fun _ _ _ _ _ => rfl) condHolds_ge,
   comparesAB_of_compare (fun _ _ _ _ _ => rfl) fun _ _ => rfl, comparesAB_of_compare (fun _ _ _ _ _ => rfl) condHolds_geN,
   comparesAB_of_compare (fun _ _ _ _ _ => rfl) fun _ _ => rfl, comparesAB_of_compare (fun _ _ _ _ _ => rfl) fun _ _ => rfl⟩

section
variable {w : Who} {g : Guard} {s : State} {a d : Spec} {x : Val} {r1 r : Regs} {m : Mark}

theorem exec_cmpi {cond : BitVec 3} {imm : BitVec 32} (issues : Issues w g s) (read : source (regs w s) a = some (x, r1)) :
    exec (.cmpi g d a cond imm) s = .next (withRegs w s (pcOn (setPred r1 d.toNat (condHolds cond x.v (imm.signExtend 64))
      (compareMark cond x ⟨imm.signExtend 64, .clean⟩)) 2)) := by
  have runs : exec (.cmpi g d a cond imm) s = issue g 2 (fun w => readSrc w a >>= fun x => setRegsAct w (fun r =>
      setPred r d.toNat (condHolds cond x.v (imm.signExtend 64)) (compareMark cond x ⟨imm.signExtend 64, .clean⟩)) >>=
      fun _ => pure .next) s := rfl
  obtain ⟨t, reads, same, rfl⟩ := go_readSrc (SameBut.refl w s) read
  rw [runs, issue_ok issues ((go_bind_ok reads _).trans (go_bind_ok (go_setRegsAct same _) _)), advance_setRegs (acts_task issues.toActs)]

theorem compareImmediate : CompareImmediate := by
  intro cond imm w g s d a x r1 issues read y holds
  have same : condHolds cond x.v y = holds := by
    have codes : cond = 0 ∨ cond = 1 ∨ cond = 2 ∨ cond = 3 ∨ cond = 4 ∨ cond = 5 ∨ cond = 6 ∨ cond = 7 := by revert cond; decide
    obtain rfl | rfl | rfl | rfl | rfl | rfl | rfl | rfl := codes
    case inr.inr.inr.inl => exact condHolds_ge x.v y
    case inr.inr.inr.inr.inr.inl => exact condHolds_geN x.v y
    all_goals rfl
  refine ⟨_, _, exec_cmpi issues read, fun n lt => ?_, rfl⟩
  rw [← same, pcOn, getLsbD_setPred r1 _ _ lt, source_p read]

/-! ### Predicates (12 R310) -/

theorem exec_pset (issues : Issues w g s) :
    exec (.pset g d) s = .next (withRegs w s (pcOn (setPred (regs w s) d.toNat true .clean) 1)) := by
  have runs : exec (.pset g d) s = issue g 1 (fun w => setRegsAct w (fun r => setPred r d.toNat true .clean) >>= fun _ => pure .next) s := rfl
  rw [runs, issue_ok issues (go_bind_ok (go_setRegsAct (SameBut.refl w s) _) _), advance_setRegs (acts_task issues.toActs)]

theorem exec_pclr (issues : Issues w g s) :
    exec (.pclr g d) s = .next (withRegs w s (pcOn (setPred (regs w s) d.toNat false .clean) 1)) := by
  have runs : exec (.pclr g d) s = issue g 1 (fun w => setRegsAct w (fun r => setPred r d.toNat false .clean) >>= fun _ => pure .next) s := rfl
  rw [runs, issue_ok issues (go_bind_ok (go_setRegsAct (SameBut.refl w s) _) _), advance_setRegs (acts_task issues.toActs)]

theorem predicates : Predicates :=
  ⟨predicatesAB_of_predAB fun _ _ _ _ _ => rfl, predicatesAB_of_predAB fun _ _ _ _ _ => rfl, predicatesAB_of_predAB (f := xor) fun _ _ _ _ _ => rfl,
   predicatesAB_of_predAB fun _ _ _ _ _ => rfl, predicatesAB_of_set fun _ _ _ _ _ _ issues => ⟨_, exec_pset issues⟩,
   predicatesAB_of_set fun _ _ _ _ _ _ issues => ⟨_, exec_pclr issues⟩, predicatesAB_of_predA fun _ _ _ _ _ => rfl,
   predicatesAB_of_predA fun _ _ _ _ _ => rfl⟩

/-- What the recorder knows of all predicates read as one word (06 R144). -/
def predsMark (r : Regs) : Mark := if r.pMark.isEmpty then .clean else .derived

theorem exec_rdp (issues : Issues w g s) (written : result (regs w s) d ⟨(regs w s).p, predsMark (regs w s)⟩ = some r) :
    exec (.rdp g d) s = .next (withRegs w s (pcOn r 1)) := by
  have runs : exec (.rdp g d) s = issue g 1 (fun w => regsAct w >>= fun r => writeD w d ⟨r.p, predsMark r⟩ >>= fun _ => pure .next) s := rfl
  have writes := go_writeD (SameBut.refl w s) written
  rw [runs, issue_ok issues ((go_bind_ok (go_regsAct w s) _).trans (go_bind_ok writes _)), advance_setRegs (acts_task issues.toActs)]

/-- What the recorder keeps of the predicates that a word sets (06 R144). -/
def wordMarks (x : Val) : Sparse PMark := ssetAll .clean [] 0 (List.replicate 64 (if x.mark.isDerived then .derived else .clean))

theorem exec_wrp (issues : Issues w g s) (read : source (regs w s) a = some (x, r1)) :
    exec (.wrp g a) s = .next (withRegs w s (pcOn { r1 with p := x.v, pMark := wordMarks x } 1)) := by
  have runs : exec (.wrp g a) s = issue g 1 (fun w => readSrc w a >>= fun x =>
      setRegsAct w (fun r => { r with p := x.v, pMark := wordMarks x }) >>= fun _ => pure .next) s := rfl
  obtain ⟨t, reads, same, rfl⟩ := go_readSrc (SameBut.refl w s) read
  rw [runs, issue_ok issues ((go_bind_ok reads _).trans (go_bind_ok (go_setRegsAct same _) _)), advance_setRegs (acts_task issues.toActs)]

theorem predicateWords : PredicateWords :=
  ⟨fun _ _ _ _ issues => ⟨_, fun _ written => exec_rdp issues written⟩, fun _ _ _ _ _ _ issues read => ⟨_, exec_wrp issues read⟩⟩

end

/-- Settles O5: each sets one bit of p; the condition's code or the operation on predicates says to what. -/
theorem comparesAndPredicates : Obligations.ComparesAndPredicates := ⟨compares, compareImmediate, predicates, predicateWords⟩

end Sys2Proof.Proofs
end

section
/-!
PROOF. Transfers of control: the fetch of the line they go to, the link, the loop's counter, and the traps that come first (12 R311 to
R314; 11 R280, R286; 09 R217, R221).
-/

namespace Sys2Proof.Proofs

open Sys2Proof.Machine Sys2Proof.Safety Sys2Proof.Claims

/-! ### What a fetch and a recording leave (07 R174; 06 R144) -/

theorem fetchKeeps : FetchKeeps := by
  intro w va s u r fetch
  have reads : Machine.Reads s u := by
    have keeps := keeps_fetchLine w va s
    rwa [fetch] at keeps
  exact ⟨reads.banks, reads.tasks, reads.ctxs, reads.launches, reads.folds, reads.host, reads.pm, reads.gang, reads.actor, reads.agenda⟩

section
variable {w : Who} {g : Guard} {n : Nat} {s s1 t u : State} {a : Spec} {x v : Val} {va pc : Word} {line : BitVec 256}

theorem bankOf_fetched (fetch : (fetchLine w va).go s = (.ok line, u)) (c b : Nat) : bankOf u c b = bankOf s c b :=
  (fetchKeeps w va s u _ fetch).1 c b

theorem recorded_noted (w : Who) (x : Val) (s : State) : Recorded s (noted w x s) := by
  rw [noted]
  split
  · exact recorded_recUpd s w.task _
  · exact recorded_refl s

theorem bankOf_recorded (h : Recorded s t) (c b : Nat) : bankOf t c b = bankOf s c b := by
  obtain ⟨q, rfl⟩ := h
  rfl

@[simp] theorem bankOf_noted (w : Who) (x : Val) (s : State) (c b : Nat) : bankOf (noted w x s) c b = bankOf s c b :=
  bankOf_recorded (recorded_noted w x s) c b

@[simp] theorem regs_noted (w : Who) (x : Val) (s : State) : regs w (noted w x s) = regs w s :=
  congrArg Bank.regs (bankOf_noted w x s w.core w.bank)

theorem regs_withRegs (w : Who) (s : State) (r : Regs) : regs w (withRegs w s r) = r := regsOf_setRegs s w.core w.bank r

theorem withRegs_withRegs (w : Who) (s : State) (r q : Regs) : withRegs w (withRegs w s r) q = withRegs w s q := setRegs_setRegs s w.core w.bank r q

theorem task_withRegs (r : Regs) (holds : (bank w s).task = some w.task) : (bank w (withRegs w s r)).task = some w.task :=
  (updBank_regs_task s w.core w.bank r).trans holds

theorem go_noteAddress (w : Who) (x : Val) (s : State) : (noteAddress w x).go s = (.ok (), noted w x s) := by
  rw [noteAddress, noted]
  split <;> rfl

/-- Where an agent reads its source its task still holds the bank. -/
theorem task_noted (issues : Issues w g s) (read : (readSrc w a).go s = (.ok x, s1)) : (bank w (noted w x s1)).task = some w.task := by
  rw [bank, bankOf_noted]
  exact (readSrc_keeps read).1.task.trans (acts_task issues.toActs)

theorem recorded_noteFall (w : Who) (g : Guard) (pc : Word) (n : Nat) (s : State) : Recorded s (noteFall w g pc n s) :=
  recorded_noteBranch w g _ s

/-! ### A transfer (11 R280) -/

theorem go_transfer (fetch : (fetchLine w va).go s = (.ok line, u)) (target : lineTgt line = true) :
    (transfer w va).go s = (.ok (.goto (va + 4)), u) := by
  rw [transfer, go_bind_ok fetch, go_requireOpen_then target, go_pure]

theorem go_transfer_needsTgt (fetch : (fetchLine w va).go s = (.ok line, u)) (other : lineTgt line = false) :
    (transfer w va).go s = (.error (.trap .illegalLine none), u) := by
  rw [transfer, go_bind_ok fetch]
  exact go_bind_error (by simp [other]) _

/-- A g register written without a push. -/
theorem go_writeNoPush {k : Nat} (register : k < 32) (ready : sget 0 (regs w s).gWait (physOf (regs w s).rb k) = 0) :
    (writeNoPush w k v).go s = (.ok (), withRegs w s (gWrite (regs w s) (physOf (regs w s).rb k) v)) := by
  have name : (BitVec.ofNat 6 k).toNat = k := by rw [BitVec.toNat_ofNat, Nat.mod_eq_of_lt (by omega)]
  simp [writeNoPush, destReady, regsAct, setRegsAct, go_bind, name, register, ready, updRegs, regs]

theorem keepRegs_of_task (r : Regs) (holds : (bank w s).task = some w.task) : keepRegs w r s = withRegs w s r := if_pos holds

theorem recorded_advance_goto (holds : (bank w s).task = some w.task) (noted : Recorded s t) :
    Recorded (withRegs w s { regs w s with pc := pc }) (advance w n (.goto pc) t) := by
  obtain ⟨q, rfl⟩ := noted
  have task : (bankOf { s with launches := q } w.core w.bank).task = some w.task := holds
  rw [advance, if_pos task]
  exact ⟨q, rfl⟩

/-! ### br, call, jr, callr and ret (12 R311, R312) -/

section
variable {target : Who → Act Word} {link : Bool}

/-- What a transfer leaves of the registers beside the PC: the link, where it has one, in g31. -/
def linkedTo (r : Regs) (pc : Word) (link : Bool) : Regs := if link then gWrite r 31 ⟨lineAddr pc + 32, .clean⟩ else r

theorem transferred_eq_linkedTo (r : Regs) (t : Word) (link : Bool) : transferred r t link = { linkedTo r r.pc link with pc := t + 4 } := by
  cases link <;> rfl

/-- The link register is never renamed. -/
theorem go_link (pc : Word) (ready : link = true → sget 0 (regs w s).gWait 31 = 0) :
    ∃ t, (if link then writeNoPush w 31 ⟨lineAddr pc + 32, .clean⟩ else pure ()).go s = (.ok (), t) ∧ SameBut w s t ∧
      regs w t = linkedTo (regs w s) pc link := by
  cases link with
  | false => exact ⟨s, rfl, SameBut.refl w s, rfl⟩
  | true =>
    exact ⟨_, go_writeNoPush (k := 31) (by decide) (ready rfl), SameBut.setRegs w s s _ (SameBut.refl w s), regsOf_setRegs s w.core w.bank _⟩

/-- The body of a transfer. -/
theorem branchTo_body (g : Guard) (n : Nat) (target : Who → Act Word) (link : Bool) : ∃ squash, ∀ s, branchTo g n target link s =
    issueWith g n squash (fun w => pcAct w >>= fun pc => target w >>= fun t => require (t &&& 31 == 0) .alignment t >>= fun _ =>
      transfer w t >>= fun f => (if link then writeNoPush w 31 ⟨lineAddr pc + 32, .clean⟩ else pure ()) >>= fun _ =>
      change (noteFall w g pc n) >>= fun _ => pure f) s := by
  cases link
  · exact ⟨_, fun _ => rfl⟩
  · exact ⟨_, fun _ => rfl⟩

theorem branchTo_transfers (issues : Issues w g s) (at_ : (target w).go s = (.ok va, t)) (holds : (bank w t).task = some w.task)
    (pc : (regs w t).pc = (regs w s).pc) : TransfersTo w t va link (branchTo g n target link s) := by
  intro line u aligned fetch tgt ready
  have banks := bankOf_fetched fetch w.core w.bank
  have same : regs w u = regs w t := congrArg Bank.regs banks
  obtain ⟨v, linked, moved, after⟩ := go_link (link := link) (s := u) (regs w s).pc (by rwa [same])
  obtain ⟨squash, runs⟩ := branchTo_body g n target link
  refine ⟨_, (runs s).trans (issueWith_ok (f := .goto (va + 4)) (t := noteFall w g (regs w s).pc n v) issues ?_), ?_⟩
  · rw [go_bind_ok (go_pcAct w s), go_bind_ok at_]
    simp only [go_bind, go_require, aligned, beq_self_eq_true, if_true, go_transfer fetch tgt, linked, go_change, go_pure]
  · have held : (bank w v).task = some w.task := moved.task.trans ((congrArg Bank.task banks).trans holds)
    have goes := recorded_advance_goto (n := n) (pc := va + 4) held (recorded_noteFall w g (regs w s).pc n v)
    rw [after, withRegs, moved, same, ← pc, ← transferred_eq_linkedTo] at goes
    rwa [← pc]

/-- What stops a transfer leaves the registers as they stood. -/
theorem branchTo_traps {c : Trap} {i : Option Word} (issues : Issues w g s) (at_ : (target w).go s = (.ok va, t))
    (holds : (bank w u).task = some w.task)
    (stops : (require (va &&& 31 == 0) .alignment va >>= fun _ => transfer w va).go t = (.error (.trap c i), u)) :
    branchTo g n target link s = .next (raiseNow w n c i (withRegs w u (regs w s))) := by
  obtain ⟨squash, runs⟩ := branchTo_body g n target link
  rw [runs s, issueWith_trap issues (t := u) (c := c) (i := i), keepRegs_of_task _ holds]
  rw [go_bind_ok (go_pcAct w s), go_bind_ok at_, ← bind_assoc]
  exact go_bind_error stops _

theorem branchTo_needsTgt (issues : Issues w g s) (at_ : (target w).go s = (.ok va, t)) (holds : (bank w t).task = some w.task) :
    NeedsTgt w n s t va (branchTo g n target link s) := by
  intro line u aligned fetch other
  refine branchTo_traps issues at_ ((congrArg Bank.task (bankOf_fetched fetch w.core w.bank)).trans holds) ?_
  rw [go_bind_ok (show (require (va &&& 31 == 0) .alignment va).go t = (.ok (), t) by simp [show va &&& 31#64 = 0#64 from aligned])]
  exact go_transfer_needsTgt fetch other

theorem branchTo_trapsBefore (issues : Issues w g s) (at_ : (target w).go s = (.ok va, t)) (holds : (bank w t).task = some w.task) :
    TrapsBefore w s t va (branchTo g 1 target link s) := by
  refine ⟨fun unaligned => branchTo_traps issues at_ holds (go_bind_error ?_ _), branchTo_needsTgt issues at_ holds⟩
  simp [show ¬ va &&& 31#64 = 0#64 from unaligned]

end

theorem go_offTarget (off : Word) (w : Who) (s : State) :
    (offTarget off w).go s = (.ok (((regs w s).pc &&& ~~~31) + 32 * off), s) := rfl

theorem go_regTarget (read : (readSrc w a).go s = (.ok x, s1)) : (regTarget a w).go s = (.ok x.v, noted w x s1) := by
  rw [regTarget, go_bind_ok read, go_bind_ok (go_noteAddress w x s1), go_pure]

theorem regs_pc_noted (read : (readSrc w a).go s = (.ok x, s1)) : (regs w (noted w x s1)).pc = (regs w s).pc := by
  obtain ⟨-, q, moved⟩ := readSrc_keeps read
  rw [regs_noted, moved]

theorem relativeTransfers : RelativeTransfers := by
  intro w g s issues
  have goes (n : Nat) (off : Word) (link : Bool) : TransfersTo w s (((regs w s).pc &&& ~~~31) + 32 * off) link
      (branchTo g n (offTarget off) link s) := branchTo_transfers issues (go_offTarget off w s) (acts_task issues.toActs) rfl
  exact ⟨fun off => ⟨goes 1 _ false, goes 1 _ true⟩, fun off => ⟨goes 2 _ false, goes 2 _ true⟩⟩

theorem registerTransfers : RegisterTransfers := by
  intro w g s s1 a x issues read
  have goes (link : Bool) : TransfersTo w (noted w x s1) x.v link (branchTo g 1 (regTarget a) link s) :=
    branchTo_transfers issues (go_regTarget read) (task_noted issues read) (regs_pc_noted read)
  exact ⟨goes false, goes true, fun link => by rw [link] at goes; exact goes false⟩

theorem registerTraps : RegisterTraps := by
  intro w g s s1 a x issues read
  have traps (link : Bool) : TrapsBefore w s (noted w x s1) x.v (branchTo g 1 (regTarget a) link s) :=
    branchTo_trapsBefore issues (go_regTarget read) (task_noted issues read)
  exact ⟨traps false, traps true, fun link => by rw [link] at traps; exact traps false⟩

/-! ### loop, rotw and nop (12 R313, R314, R334) -/

section
variable {cnt : Spec} {off : Word}

/-- The counter of a loop, as it is read. -/
def counterOf (r : Regs) (cnt : Spec) : Val :=
  ⟨gRead r (physOf r.rb cnt.toNat), sget .clean r.gMark (physOf r.rb cnt.toNat)⟩

theorem go_readG (ready : sget 0 (regs w s).gWait (physOf (regs w s).rb cnt.toNat) = 0) :
    (readG w cnt.toNat).go s = (.ok (counterOf (regs w s) cnt), s) := by
  simp [readG, regsAct, go_bind, go_map, ready, counterOf, regs]

/-- The registers with a loop's counter written. -/
def counted (r : Regs) (cnt : Spec) (v : Word) : Regs :=
  gWrite r (physOf r.rb cnt.toNat) ⟨v, markOf [(counterOf r cnt).mark]⟩

theorem go_writeCounter (register : cnt.toNat < 32) (ready : sget 0 (regs w s).gWait (physOf (regs w s).rb cnt.toNat) = 0) (v : Word) :
    (writeNoPush w cnt.toNat ⟨v, markOf [(counterOf (regs w s) cnt).mark]⟩).go s = (.ok (), withRegs w s (counted (regs w s) cnt v)) :=
  go_writeNoPush register ready

/-- A loop's body, before its counter is known. -/
theorem loopTo_body (g : Guard) (n : Nat) (cnt : Spec) (off : Word) : ∃ squash, ∀ s, loopTo g n cnt off s =
    issueWith g n squash (fun w => pcAct w >>= fun pc => readG w cnt.toNat >>= fun x =>
      if x.v.toNat ≥ 2 then
        transfer w (relTarget pc off) >>= fun f => writeNoPush w cnt.toNat ⟨x.v - 1, markOf [x.mark]⟩ >>= fun _ =>
          setRegsAct w (fun r => { r with rb := r.rb + 7 }) >>= fun _ => change (noteFall w g pc n) >>= fun _ => pure f
      else writeNoPush w cnt.toNat ⟨0, markOf [x.mark]⟩ >>= fun _ => change (noteFall w g pc n) >>= fun _ => pure .next) s :=
  ⟨_, fun _ => rfl⟩

theorem loopTo_ends (issues : Issues w g s) (register : cnt.toNat < 32)
    (ready : sget 0 (regs w s).gWait (physOf (regs w s).rb cnt.toNat) = 0) (few : (counterOf (regs w s) cnt).v.toNat < 2) :
    ∃ v, loopTo g n cnt off s = .next v ∧ Recorded (withRegs w s (pcOn (counted (regs w s) cnt 0) n)) v := by
  obtain ⟨squash, runs⟩ := loopTo_body g n cnt off
  have task := acts_task issues.toActs
  refine ⟨_, (runs s).trans (issueWith_ok (f := .next)
    (t := noteFall w g (regs w s).pc n (withRegs w s (counted (regs w s) cnt 0))) issues ?_), ?_⟩
  · rw [go_bind_ok (go_pcAct w s), go_bind_ok (go_readG ready), if_neg (Nat.not_le.mpr few), go_bind_ok (go_writeCounter register ready 0)]
    rfl
  · have moved := recorded_advance (n := n) (task_withRegs _ task)
      (recorded_noteFall w g (regs w s).pc n (withRegs w s (counted (regs w s) cnt 0)))
    rwa [regs_withRegs, withRegs_withRegs] at moved

@[simp] theorem rb_counted (r : Regs) (cnt : Spec) (v : Word) : (counted r cnt v).rb = r.rb := by
  rw [counted, gWrite]
  split <;> rfl

/-- The registers of a loop that goes on, but for the PC: its counter is one less, and the base goes back by one. -/
def rotated (r : Regs) (cnt : Spec) : Regs := { counted r cnt ((counterOf r cnt).v - 1) with rb := r.rb - 1 }

theorem rb_back (rb : BitVec 3) : rb + 7 = rb - 1 := by bv_omega

theorem loopTo_goesOn (issues : Issues w g s) (register : cnt.toNat < 32)
    (ready : sget 0 (regs w s).gWait (physOf (regs w s).rb cnt.toNat) = 0) (many : 2 ≤ (counterOf (regs w s) cnt).v.toNat)
    (fetch : (fetchLine w (relTarget (regs w s).pc off)).go s = (.ok line, u)) (target : lineTgt line = true) :
    ∃ v, loopTo g n cnt off s = .next v ∧
      Recorded (withRegs w u { rotated (regs w s) cnt with pc := relTarget (regs w s).pc off + 4 }) v := by
  obtain ⟨squash, runs⟩ := loopTo_body g n cnt off
  have banks := bankOf_fetched fetch w.core w.bank
  have same : regs w u = regs w s := congrArg Bank.regs banks
  have task : (bank w u).task = some w.task := (congrArg Bank.task banks).trans (acts_task issues.toActs)
  have written := go_writeCounter (s := u) register (by rwa [same]) ((counterOf (regs w s) cnt).v - 1)
  rw [same] at written
  refine ⟨_, (runs s).trans (issueWith_ok (f := .goto (relTarget (regs w s).pc off + 4))
    (t := noteFall w g (regs w s).pc n (withRegs w u (rotated (regs w s) cnt))) issues ?_), ?_⟩
  · rw [go_bind_ok (go_pcAct w s), go_bind_ok (go_readG ready), if_pos many, go_bind_ok (go_transfer fetch target), go_bind_ok written,
      go_bind_ok (go_setRegsAct (SameBut.refl w _) _), regs_withRegs, setRegs_setRegs, rb_back, rb_counted]
    rfl
  · have goes := recorded_advance_goto (n := n) (pc := relTarget (regs w s).pc off + 4) (task_withRegs _ task)
      (recorded_noteFall w g (regs w s).pc n (withRegs w u (rotated (regs w s) cnt)))
    rwa [regs_withRegs, withRegs_withRegs] at goes

theorem loopTo_needsTgt (issues : Issues w g s) (ready : sget 0 (regs w s).gWait (physOf (regs w s).rb cnt.toNat) = 0)
    (many : 2 ≤ (counterOf (regs w s) cnt).v.toNat) : NeedsTgt w n s s (relTarget (regs w s).pc off) (loopTo g n cnt off s) := by
  intro line u aligned fetch other
  obtain ⟨squash, runs⟩ := loopTo_body g n cnt off
  have task : (bank w u).task = some w.task :=
    (congrArg Bank.task (bankOf_fetched fetch w.core w.bank)).trans (acts_task issues.toActs)
  rw [runs, issueWith_trap issues (t := u) (c := .illegalLine) (i := none), keepRegs_of_task _ task]
  rw [go_bind_ok (go_pcAct w s), go_bind_ok (go_readG ready), if_pos many]
  exact go_bind_error (go_transfer_needsTgt fetch other) _

end

theorem loops_of_loopTo {mk : Guard → Spec → Instr} {off : Word} (runs : ∀ g cnt s, exec (mk g cnt) s = loopTo g n cnt off s) : Loops mk n off := by
  intro w g s cnt issues register r p x m wrote ready
  rw [runs]
  exact ⟨fun few => loopTo_ends issues register ready few, fun many line u fetch target => loopTo_goesOn issues register ready many fetch target⟩

theorem relativeTraps : RelativeTraps := by
  intro w g s issues
  have needs (n : Nat) (off : Word) (link : Bool) : NeedsTgt w n s s (((regs w s).pc &&& ~~~31) + 32 * off)
      (branchTo g n (offTarget off) link s) := branchTo_needsTgt issues (go_offTarget off w s) (acts_task issues.toActs)
  exact ⟨fun off => ⟨needs 1 _ false, needs 1 _ true⟩, fun off => ⟨needs 2 _ false, needs 2 _ true⟩,
    fun cnt _ ready many => ⟨fun off => loopTo_needsTgt issues ready many, fun off => loopTo_needsTgt issues ready many⟩⟩

theorem rotateAndNop : RotateAndNop := by
  intro w g s issues
  have task := acts_task issues.toActs
  constructor
  · intro rb
    have runs : exec (.rotw g rb) s = issue g 1 (fun w => setRegsAct w (fun r => { r with rb := rb }) >>= fun _ => pure .next) s := rfl
    rw [runs, issue_ok issues (go_bind_ok (go_setRegsAct (SameBut.refl w s) _) _), advance_setRegs task]
  · have runs : exec (.nop g) s = issue g 1 (fun _ => pure .next) s := rfl
    rw [runs, issue_ok issues (go_pure _ _), advance_next task]

end

/-- Settles O6: the target's line is fetched, which keeps every register, and the PC goes behind its header. -/
theorem transfersOfControl : Obligations.TransfersOfControl := ⟨fetchKeeps, relativeTransfers, registerTransfers⟩

/-- Settles O7: the target is checked before the link or the counter is written. -/
theorem transferTraps : Obligations.TransferTraps := ⟨relativeTraps, registerTraps⟩

/-- Settles O8: the counter read decides which of the two a loop does. -/
theorem loopsAndRotation : Obligations.LoopsAndRotation :=
  ⟨⟨fun _ => loops_of_loopTo fun _ _ _ => rfl, fun _ => loops_of_loopTo fun _ _ _ => rfl⟩, rotateAndNop⟩

end Sys2Proof.Proofs
end

section
/-!
PROOF. What reading an operand, a race check, a translation and the sending of requests leave as they were: the rules that the proofs about
memory instructions use.
-/

namespace Sys2Proof.Proofs

open Sys2Proof.Machine Sys2Proof.Safety Sys2Proof.Claims

/-! ### Registers alone, or recordings alone, differ -/

section
variable {w : Who} {s t : State} {β : Type}

/-- What no write of an agent's registers changes, is as it was. -/
theorem field_sameBut (same : SameBut w s t) (F : State → β) (keeps : ∀ s r, F (withRegs w s r) = F s) : F t = F s := by
  rw [← keeps t (regs w s), withRegs, same, ← keeps s (regs w s)]

theorem field_recorded (recorded : Recorded s t) (F : State → β) (keeps : ∀ s q, F { s with launches := q } = F s) : F t = F s := by
  obtain ⟨q, rfl⟩ := recorded
  exact keeps s q

/-- A part of a core that is no bank stands under a change of a bank. -/
theorem coreOf_updBank_field (F : Core → β) (keeps : ∀ k m, F { k with banks := m } = F k) (s : State) (c b : Nat) (f : Bank → Bank) (d : Nat) :
    F (coreOf (updBank s c b f) d) = F (coreOf s d) := by
  by_cases same : d = c
  · rw [same, updBank, setBank, coreOf_updCore, keeps]
  · rw [updBank, setBank, coreOf_updCore_other _ _ same]

@[simp] theorem bank_withRegs (w : Who) (s : State) (r : Regs) : bank w (withRegs w s r) = { bank w s with regs := r } := bankOf_updBank s _ _ _

theorem slotOf_updBank (s : State) (c b : Nat) (f : Bank → Bank) (d n : Nat) : slotOf (updBank s c b f) d n = slotOf s d n :=
  coreOf_updBank_field (fun k => sget Slot.reset k.slots n) (fun _ _ => rfl) s c b f d

theorem sByte_updBank (s : State) (c b : Nat) (f : Bank → Bank) (d n : Nat) : sByte (updBank s c b f) d n = sByte s d n :=
  coreOf_updBank_field (fun k => sget 0 k.sBytes n) (fun _ _ => rfl) s c b f d

theorem phase_updBank (s : State) (c b : Nat) (f : Bank → Bank) (d : Nat) : (coreOf (updBank s c b f) d).phase = (coreOf s d).phase :=
  coreOf_updBank_field (·.phase) (fun _ _ => rfl) s c b f d

/-- The bank of an agent whose registers alone differ. -/
theorem bank_sameBut (same : SameBut w s t) : bank w t = { bank w s with regs := regs w t } := by
  have moved : bank w (withRegs w t (regs w t)) = bank w (withRegs w s (regs w t)) := congrArg (bank w) (same (regs w t))
  rwa [bank_withRegs, bank_withRegs] at moved

end

/-! ### What an access to S looks at (09 R227, R229) -/

/-- What decides whether an agent may access S stands: its partition, its rings, what it has still to load, the slots' owners, the fold
phase; and its task. -/
structure SameS (w : Who) (s t : State) : Prop where
  part : (bank w t).part = (bank w s).part
  rings : (bank w t).rings = (bank w s).rings
  loads : (bank w t).loads = (bank w s).loads
  task : (bank w t).task = (bank w s).task
  slots : ∀ n, slotOf t w.core n = slotOf s w.core n
  phase : (coreOf t w.core).phase = (coreOf s w.core).phase

section
variable {w : Who} {s t u : State} {o n : Nat} {va : Word}

theorem SameS.trans (h : SameS w s t) (k : SameS w t u) : SameS w s u :=
  ⟨k.part.trans h.part, k.rings.trans h.rings, k.loads.trans h.loads, k.task.trans h.task, fun n => (k.slots n).trans (h.slots n),
   k.phase.trans h.phase⟩

theorem sameS_sameBut (same : SameBut w s t) : SameS w s t where
  part := by rw [bank_sameBut same]
  rings := by rw [bank_sameBut same]
  loads := by rw [bank_sameBut same]
  task := by rw [bank_sameBut same]
  slots n := field_sameBut same (slotOf · w.core n) fun s _ => slotOf_updBank s _ _ _ _ _
  phase := field_sameBut same (fun s => (coreOf s w.core).phase) fun s _ => phase_updBank s _ _ _ _

theorem sameS_recorded (recorded : Recorded s t) : SameS w s t := by
  obtain ⟨q, rfl⟩ := recorded
  exact ⟨rfl, rfl, rfl, rfl, fun _ => rfl, rfl⟩

theorem SameS.sWaits (same : SameS w s t) (o n : Nat) : sWaits t w o n = sWaits s w o n := by
  rw [Machine.sWaits, Machine.sWaits]
  exact congrArg (fun l : List Load => l.any _) same.loads

theorem threadBytes_of_sameS (bytes : ThreadBytes w s o n) (same : SameS w s t) : ThreadBytes w t o n where
  inside := same.part ▸ bytes.inside
  aligned := bytes.aligned
  first := by rw [same.part, same.slots]; exact bytes.first
  last := by rw [same.part, same.slots]; exact bytes.last
  settled := (same.sWaits o n).trans bytes.settled

theorem sectorBytes_of_sameS (bytes : SectorBytes w s va o n) (same : SameS w s t) : SectorBytes w t va o n where
  legal := bytes.legal
  sector := bytes.sector
  inside := same.part ▸ bytes.inside
  aligned := bytes.aligned
  oneSlot := bytes.oneSlot
  owner := by rw [same.part, same.slots]; exact bytes.owner
  settled := (same.sWaits o n).trans bytes.settled

theorem go_checkVa (legal : va.toNat < 2 ^ 56) (s : State) : (checkVa va).go s = (.ok (), s) := by
  rw [checkVa, go_require, if_pos (decide_eq_true legal)]

theorem go_checkS {off : Word} (bytes : ThreadBytes w s off.toNat n) : (checkS w off n n).go s = (.ok off.toNat, s) := by
  have inside : off.toNat + n ≤ 2048 * (partOf s w).sn := bytes.inside
  have aligned : off.toNat % n = 0 := bytes.aligned
  have first : (slotOf s w.core ((partOf s w).s0 + off.toNat / 2048)).owner = false := bytes.first
  have last : (slotOf s w.core ((partOf s w).s0 + (off.toNat + n - 1) / 2048)).owner = false := bytes.last
  simp [checkS, go_bind, go_map, inside, aligned, first, last]

theorem go_sectorOwner (owner : (slotOf s w.core ((bank w s).part.s0 + o / 2048)).owner = false) :
    (sectorOwner w o).go s = (.ok (), s) := by
  have owned : threadOwned s w o = true := by rw [threadOwned, owner]; rfl
  rw [sectorOwner, go_state_then, go_requireOpen, owned, if_pos rfl]

theorem go_sectorAddresses {off : Word} (bytes : SectorBytes w s va off.toNat n) :
    (sectorAddresses w off va n).go s = (.ok off.toNat, s) := by
  have inside : off.toNat + n ≤ 2048 * (partOf s w).sn := bytes.inside
  simp [sectorAddresses, go_bind, go_map, go_checkVa bytes.legal, inside, bytes.sector, bytes.aligned, bytes.oneSlot]

theorem go_waitUntil_settled (settled : sWaits s w o n = false) {β : Type} (f : Unit → Act β) :
    Act.go (state >>= fun s => waitUntil (!sWaits s w o n) >>= f) s = (f ()).go s := by
  rw [go_state_then, go_waitUntil_then (by rw [settled]; rfl)]

end

/-! ### Race checks (06 R160, R161) -/

/-- Bytes of S alone differ. -/
structure Shades (s t : State) : Prop where
  rest : ∃ k, t = { s with cores := k }
  cores : ∀ c, ∃ b, coreOf t c = { coreOf s c with sBytes := b }

section
variable {w : Who} {s t u : State}

theorem shades_chains : Chains Shades where
  refl s := ⟨⟨s.cores, rfl⟩, fun c => ⟨(coreOf s c).sBytes, rfl⟩⟩
  trans h k := by
    obtain ⟨⟨_, rfl⟩, cores⟩ := h
    obtain ⟨⟨_, rfl⟩, cores'⟩ := k
    refine ⟨⟨_, rfl⟩, fun c => ?_⟩
    obtain ⟨b, e⟩ := cores c
    obtain ⟨b', e'⟩ := cores' c
    exact ⟨b', by rw [e', e]⟩

theorem shades_updCore (s : State) (c : Nat) (f : Core → Sparse Byte) : Shades s (updCore s c (fun k => { k with sBytes := f k })) := by
  refine ⟨⟨_, rfl⟩, fun d => ?_⟩
  by_cases same : d = c
  · exact ⟨f (coreOf s c), by rw [same, coreOf_updCore]⟩
  · exact ⟨(coreOf s d).sBytes, by rw [coreOf_updCore_other _ _ same]⟩

theorem shades_foldl {α : Type} {f : State → α → State} (h : ∀ s a, Shades s (f s a)) (l : List α) : ∀ s, Shades s (l.foldl f s) := by
  induction l with
  | nil => exact shades_chains.refl
  | cons a r ih => exact fun s => shades_chains.trans (h s a) (ih _)

theorem keeps_raceCheck (w : Who) (agent : Nat) (phase : BitVec 6) (o n : Nat) (write : Bool) :
    Keeps Shades (raceCheck w agent phase o n write) := by
  have C := shades_chains
  refine Keeps.bind C (Keeps.state C) fun s => Keeps.ite (Keeps.bind C (Keeps.requireOpen C _ _) fun _ => ?_) (Keeps.pure C _)
  exact Keeps.change (shades_foldl (fun t i => shades_updCore t w.core _) _)

theorem raceCheck_shades {agent o n : Nat} {phase : BitVec 6} {write : Bool} {r : Except Stop Unit}
    (check : (raceCheck w agent phase o n write).go s = (r, u)) : Shades s u := by
  have keeps := keeps_raceCheck w agent phase o n write s
  rwa [check] at keeps

theorem Shades.bank (h : Shades s t) (c b : Nat) : bankOf t c b = bankOf s c b := by
  obtain ⟨m, e⟩ := h.cores c
  rw [bankOf, e, bankOf]

theorem Shades.mem (h : Shades s t) : t.mem = s.mem := by
  obtain ⟨m, rfl⟩ := h.rest
  rfl

theorem Shades.folds (h : Shades s t) : t.folds = s.folds := by
  obtain ⟨m, rfl⟩ := h.rest
  rfl

theorem Shades.regs (h : Shades s t) : regs w t = regs w s := congrArg Bank.regs (h.bank w.core w.bank)

theorem Shades.sameS (h : Shades s t) : SameS w s t := by
  obtain ⟨m, e⟩ := h.cores w.core
  have same := h.bank w.core w.bank
  exact ⟨congrArg _ same, congrArg _ same, congrArg _ same, congrArg _ same, fun n => by rw [slotOf, e, slotOf], by rw [e]⟩

theorem Shades.reads (h : Shades s t) : Machine.Reads s t := by
  obtain ⟨⟨k, rfl⟩, cores⟩ := h
  exact { reads_of s s.mem s.dies s.fresh with
    banks := fun c b => Shades.bank ⟨⟨k, rfl⟩, cores⟩ c b
    active := fun c => by obtain ⟨m, e⟩ := cores c; rw [e] }

end

/-! ### Translation (07 R174, R175) -/

/-- Memory, dies and a core's caches of translations alone differ. -/
structure Looks (s t : State) : Prop where
  rest : ∃ m d n k, t = { s with mem := m, dies := d, fresh := n, cores := k }
  cores : ∀ c, ∃ l h, coreOf t c = { coreOf s c with tlb := l, hatCache := h }

section
variable {w : Who} {s t u : State}

theorem looks_of (s : State) (m : List Host.Cell) (d : Sparse Die) (n : Nat) : Looks s { s with mem := m, dies := d, fresh := n } :=
  ⟨⟨m, d, n, s.cores, rfl⟩, fun c => ⟨(coreOf s c).tlb, (coreOf s c).hatCache, rfl⟩⟩

theorem looks_chains : Chains Looks where
  refl s := looks_of s s.mem s.dies s.fresh
  trans h k := by
    obtain ⟨⟨_, _, _, _, rfl⟩, cores⟩ := h
    obtain ⟨⟨_, _, _, _, rfl⟩, cores'⟩ := k
    refine ⟨⟨_, _, _, _, rfl⟩, fun c => ?_⟩
    obtain ⟨l, h, e⟩ := cores c
    obtain ⟨l', h', e'⟩ := cores' c
    exact ⟨l', h', by rw [e', e]⟩

theorem looks_updCore (s : State) (c : Nat) {f : Core → Core} (caches : ∀ k, ∃ l h, f k = { k with tlb := l, hatCache := h }) :
    Looks s (updCore s c f) := by
  refine ⟨⟨s.mem, s.dies, s.fresh, _, rfl⟩, fun d => ?_⟩
  by_cases same : d = c
  · rw [same, coreOf_updCore]
    exact caches _
  · exact ⟨(coreOf s d).tlb, (coreOf s d).hatCache, by rw [coreOf_updCore_other _ _ same]⟩

theorem looks_updDie (s : State) (d : Nat) (f : Die → Die) : Looks s (updDie s d f) := looks_of s s.mem _ s.fresh

theorem looks_writeBytes (bs : List Byte) : ∀ (s : State) (pa : Nat), Looks s (writeBytes s pa bs) := by
  induction bs with
  | nil => exact fun s _ => looks_chains.refl s
  | cons b r ih => exact fun s pa => looks_chains.trans (looks_of s _ s.dies s.fresh) (ih (writeByte s pa b) _)

theorem looks_setAccessed (s : State) (a : Nat) (write : Bool) : Looks s (setAccessed s a write) := by
  unfold setAccessed
  dsimp only
  split
  · exact looks_chains.refl s
  · exact looks_writeBytes _ _ _

theorem looks_hatAdd (s : State) (c x page : Nat) (e : BitVec 32) : Looks s (hatAdd s c x page e) :=
  looks_updCore s c fun k => by split <;> exact ⟨_, _, rfl⟩

theorem looks_cacheLeaf (s : State) (core : Option Nat) (x va : Nat) (r : Walked) : Looks s (cacheLeaf s core x va r) := by
  unfold cacheLeaf tlbAdd
  split
  · split
    · exact looks_chains.refl s
    · exact looks_updCore s _ fun k => by split <;> exact ⟨_, _, rfl⟩
  · exact looks_chains.refl s

theorem keeps_looks_chooseOld {α : Type} (old : List α) : Keeps Looks (chooseOld old) := by
  have C := looks_chains
  have index (n : Nat) : Keeps Looks (drawIndex n) := fun s => looks_of s s.mem s.dies (s.fresh + 1)
  exact Keeps.ite (Keeps.pure C _) (Keeps.bind C (index _) fun _ => Keeps.pure C _)

theorem keeps_looks_heapEntryUsed (core : Option Nat) (x : Nat) (k : Context) (page : Nat) : Keeps Looks (heapEntryUsed core x k page) := by
  have C := looks_chains
  refine Keeps.bind C (Keeps.state C) fun s => ?_
  dsimp only
  split
  · exact Keeps.pure C _
  · refine Keeps.bind C (keeps_looks_chooseOld _) fun o => ?_
    split
    · exact Keeps.pure C _
    · exact Keeps.bind C (Keeps.change fun s => looks_hatAdd s _ _ _ _) fun _ => Keeps.pure C _

theorem keeps_looks_readEntry (die x level va : Nat) (table : Word) : Keeps Looks (readEntry die x level va table) := by
  have C := looks_chains
  refine Keeps.bind C (Keeps.state C) fun s => ?_
  dsimp only
  refine Keeps.bind C (keeps_looks_chooseOld _) fun o => ?_
  split
  · exact Keeps.pure C _
  · exact Keeps.ite (Keeps.bind C (Keeps.change fun s => looks_updDie s _ _) fun _ => Keeps.pure C _) (Keeps.pure C _)

theorem keeps_looks_walk (die : Nat) (issuer : Option Nat) (x : Nat) (k : Context) (va : Nat) : Keeps Looks (walk die issuer x k va) := by
  have C := looks_chains
  have answer (a : Walked) : Keeps Looks (pure a : Act Walked) := Keeps.pure C a
  have read := keeps_looks_readEntry die x
  have low (e : Word) : Keeps Looks (walkLow die x va e) := Keeps.bind C (read _ _ _) fun e3 => Keeps.ite (answer _) (Keeps.ite (answer _)
    (Keeps.ite (answer _) (Keeps.bind C (read _ _ _) fun e4 => Keeps.ite (answer _) (answer _))))
  refine Keeps.bind C (read _ _ _) fun e1 => Keeps.ite (answer _) (Keeps.ite (answer _) ?_)
  refine Keeps.bind C (read _ _ _) fun e2 => Keeps.ite (answer _) (Keeps.ite (Keeps.ite (answer _) (answer _)) ?_)
  exact Keeps.ite (answer _) (Keeps.ite (answer _) (low e2))

theorem keeps_looks_walkedLeaf (k : Context) (va : Nat) (right : Right) (r : Walked) : Keeps Looks (walkedLeaf k va right r) := by
  have C := looks_chains
  have granted (b : Bool) (a : Nat) (s : State) : Looks s (if b then setAccessed s a right.writes else s) := by
    cases b
    · exact C.refl s
    · exact looks_setAccessed s a _
  cases r with
  | leaf level e addr =>
    refine Keeps.bind C (Keeps.state C) fun s => ?_
    split
    · exact Keeps.bind C (Keeps.change (granted _ _)) fun _ => Keeps.pure C _
    · exact Keeps.pure C _
  | _ => exact Keeps.pure C _

theorem keeps_looks_translate (core : Option Nat) (die : Nat) (issuer : Option Nat) (x : Nat) (k : Context) (va : Nat) (right : Right) :
    Keeps Looks (translate core die issuer x k va right) := by
  have C := looks_chains
  refine Keeps.ite (Keeps.pure C _) (Keeps.ite ?_ ?_)
  · exact Keeps.bind C (keeps_looks_heapEntryUsed _ _ _ _) fun _ => Keeps.bind C (Keeps.state C) fun _ => Keeps.pure C _
  · refine Keeps.bind C (Keeps.state C) fun s => Keeps.bind C (keeps_looks_walk _ _ _ _ _) fun r => ?_
    refine Keeps.bind C (keeps_looks_chooseOld _) fun o => ?_
    split
    · exact Keeps.bind C (Keeps.state C) fun _ => Keeps.pure C _
    · exact Keeps.bind C (keeps_looks_walkedLeaf _ _ _ _) fun a =>
        Keeps.bind C (Keeps.change fun s => looks_cacheLeaf s _ _ _ _) fun _ => Keeps.pure C _

theorem keeps_looks_placePiece (w : Who) (id : Nat) (kind : AccKind) (dkind : BitVec 4) (right : Right) (cls : BitVec 4) (info : Word)
    (p : Piece) : Keeps Looks (placePiece w id kind dkind right cls info p) := by
  have C := looks_chains
  refine Keeps.bind C (Keeps.state C) fun s => ?_
  split
  · exact Keeps.trap C _ _
  · refine Keeps.bind C (keeps_looks_translate _ _ _ _ _ _ _) fun x => ?_
    split
    · exact Keeps.trap C _ _
    · exact Keeps.throw C _
    · exact Keeps.pure C _
    · exact Keeps.bind C (Keeps.require C _ _ _) fun _ => Keeps.pure C _

theorem keeps_looks_placePieces (w : Who) (id : Nat) (kind : AccKind) (dkind : BitVec 4) (right : Right) (cls : BitVec 4) (l : List Piece) :
    Keeps Looks (placePieces w id kind dkind right cls l) := by
  have C := looks_chains
  induction l with
  | nil => exact Keeps.pure C _
  | cons p r ih => exact Keeps.bind C (keeps_looks_placePiece _ _ _ _ _ _ _ _) fun _ => Keeps.bind C ih fun _ => Keeps.pure C _

theorem Looks.bank (h : Looks s t) (c b : Nat) : bankOf t c b = bankOf s c b := by
  obtain ⟨l, m, e⟩ := h.cores c
  rw [bankOf, e, bankOf]

theorem Looks.sameS (h : Looks s t) : SameS w s t := by
  obtain ⟨l, m, e⟩ := h.cores w.core
  have same := h.bank w.core w.bank
  exact ⟨congrArg _ same, congrArg _ same, congrArg _ same, congrArg _ same, fun n => by rw [slotOf, e, slotOf], by rw [e]⟩

end

/-! ### Requests that leave (07 R183 to R185; 08 R206) -/

/-- What the sending of a bank's remote accesses may change: packets and their queues, the core's counts, and of the bank its accesses in
flight, its tickets and the traps that wait. -/
structure Pumped (c b : Nat) (s t : State) : Prop where
  rest : ∃ k d n f, t = { s with cores := k, dies := d, net := n, fresh := f }
  cores : ∀ e, ∃ q r m, coreOf t e = { coreOf s e with seqN := q, routeN := r, banks := m }
  bank : ∃ i k p, bankOf t c b = { bankOf s c b with inflight := i, tickets := k, pend := p }

section
variable {c b : Nat} {s t u : State}

theorem pumped_of_cores {k : Sparse Die} {n : Net} {f : Nat} (h : t = { s with dies := k, net := n, fresh := f }) : Pumped c b s t := by
  subst h
  exact ⟨⟨s.cores, k, n, f, rfl⟩, fun e => ⟨(coreOf s e).seqN, (coreOf s e).routeN, (coreOf s e).banks, rfl⟩,
    ⟨(bankOf s c b).inflight, (bankOf s c b).tickets, (bankOf s c b).pend, rfl⟩⟩

theorem pumped_chains (c b : Nat) : Chains (Pumped c b) where
  refl s := pumped_of_cores (k := s.dies) (n := s.net) (f := s.fresh) rfl
  trans h k := by
    obtain ⟨⟨_, _, _, _, rfl⟩, cores, ⟨_, _, _, bank⟩⟩ := h
    obtain ⟨⟨_, _, _, _, rfl⟩, cores', ⟨_, _, _, bank'⟩⟩ := k
    refine ⟨⟨_, _, _, _, rfl⟩, fun e => ?_, ⟨_, _, _, bank'.trans (by rw [bank])⟩⟩
    obtain ⟨_, _, _, core⟩ := cores e
    obtain ⟨_, _, _, core'⟩ := cores' e
    exact ⟨_, _, _, core'.trans (by rw [core])⟩

theorem pumped_updCore (s : State) {f : Core → Core} (counts : ∀ k, ∃ q r, f k = { k with seqN := q, routeN := r }) :
    Pumped c b s (updCore s c f) := by
  refine ⟨⟨_, s.dies, s.net, s.fresh, rfl⟩, fun e => ?_, ?_⟩
  · by_cases same : e = c
    · obtain ⟨q, r, h⟩ := counts (coreOf s c)
      exact ⟨q, r, (coreOf s c).banks, by rw [same, coreOf_updCore, h]⟩
    · exact ⟨(coreOf s e).seqN, (coreOf s e).routeN, (coreOf s e).banks, by rw [coreOf_updCore_other _ _ same]⟩
  · obtain ⟨q, r, h⟩ := counts (coreOf s c)
    have same : bankOf (updCore s c f) c b = bankOf s c b := by rw [bankOf, coreOf_updCore, h, bankOf]
    exact ⟨(bankOf s c b).inflight, (bankOf s c b).tickets, (bankOf s c b).pend, same⟩

theorem pumped_updBank (s : State) {f : Bank → Bank} (moves : ∀ k, ∃ i t p, f k = { k with inflight := i, tickets := t, pend := p }) :
    Pumped c b s (updBank s c b f) := by
  refine ⟨⟨_, s.dies, s.net, s.fresh, rfl⟩, fun e => ?_, ?_⟩
  · by_cases same : e = c
    · exact ⟨(coreOf s c).seqN, (coreOf s c).routeN, _, by rw [same, updBank, setBank, coreOf_updCore]⟩
    · exact ⟨(coreOf s e).seqN, (coreOf s e).routeN, (coreOf s e).banks, by rw [updBank, setBank, coreOf_updCore_other _ _ same]⟩
  · rw [bankOf_updBank]
    exact moves _

theorem pickRoute_changes (s : State) (a d : Nat) : ∃ k f, (pickRoute s a d).1 = { s with dies := k, fresh := f } := by
  unfold pickRoute
  split
  · exact ⟨s.dies, s.fresh, rfl⟩
  · exact ⟨_, _, rfl⟩

theorem pumped_postRequest (s : State) (first : Bool) (x : Request) : Pumped c b s (postRequest s first x) := by
  obtain ⟨k, f, route⟩ := pickRoute_changes s (coreDie x.req) x.owner
  rw [postRequest]
  dsimp only
  rw [route]
  exact pumped_of_cores rfl

theorem keeps_pumped_takeSeqs (x owner : Nat) (cls : BitVec 4) (n : Nat) : Keeps (Pumped c b) (takeSeqs c x owner cls n) := by
  have C := pumped_chains c b
  exact Keeps.bind C (Keeps.state C) fun _ => Keeps.bind C (Keeps.change fun s => pumped_updCore s fun k => ⟨_, k.routeN, rfl⟩) fun _ => Keeps.pure C _

theorem keeps_pumped_sendRequest (n : Nat) (a : Access) (q : BitVec 16) : Keeps (Pumped c b) (sendRequest c b n a q) := by
  have C := pumped_chains c b
  refine Keeps.bind C (Keeps.state C) fun _ => Keeps.bind C (Keeps.change fun s => pumped_postRequest s _ _) fun _ => ?_
  refine Keeps.bind C (Keeps.state C) fun _ => Keeps.bind C (Keeps.change fun s => pumped_updCore s fun k => ⟨k.seqN, _, rfl⟩) fun _ => ?_
  exact Keeps.ite (Keeps.change fun s => pumped_updBank s fun k => ⟨k.inflight, _, k.pend, rfl⟩) (Keeps.pure C _)

theorem go_answers_keeps {α : Type} {R : State → State → Prop} {m : Act α} (answers : Answers m) (keeps : Keeps R m) (s : State) :
    ∃ x t, m.go s = (.ok x, t) ∧ R s t := by
  obtain ⟨x, t, run⟩ := answers s
  have after := keeps s
  rw [run] at after
  exact ⟨x, t, run, after⟩

/-- No local access leaves. -/
theorem go_pumpFrom (l : List Access) : ∀ (older : List Access) (s : State), ∃ r t, (pumpFrom c b older l).go s = (.ok r, t) ∧ Pumped c b s t ∧
    ∀ a ∈ older ++ l, a.remote = false → a ∈ r := by
  have C := pumped_chains c b
  induction l with
  | nil => exact fun older s => ⟨older, s, rfl, C.refl s, fun a mem _ => by simpa using mem⟩
  | cons a l ih =>
    intro older s
    have leaves : a.remote = true → ∀ e ∈ older ++ a :: l, e.remote = false → e ∈ older ++ l := by
      intro remote e mem here
      rw [List.mem_append, List.mem_cons] at mem
      rw [List.mem_append]
      obtain mem | rfl | mem := mem
      · exact .inl mem
      · rw [remote] at here
        cases here
      · exact .inr mem
    rw [pumpFrom, go_state_then]
    dsimp only
    by_cases goes : (a.remote && canSend s (holdsOf s c a.ctx) (bankOf s c b) older a &&
        (if isOrphan s (bankOf s c b) a = true then some 32 else freeTicket (bankOf s c b)).isSome) = true
    · rw [if_pos goes]
      simp only [Bool.and_eq_true] at goes
      obtain ⟨seq, s1, taken, after1⟩ := go_answers_keeps (answers_takeSeqs _ _ _ _ _) (keeps_pumped_takeSeqs (c := c) (b := b) a.ctx (ownerOf a) a.cls 1) s
      obtain ⟨x, s2, sent, after2⟩ := go_answers_keeps (answers_sendRequest _ _ _ _ _) (keeps_pumped_sendRequest (c := c) (b := b) _ a seq) s1
      obtain ⟨r, t, rest, after3, held⟩ := ih older s2
      exact ⟨r, t, (go_bind_ok taken _).trans ((go_bind_ok sent _).trans rest), C.trans after1 (C.trans after2 after3),
        fun e mem here => held e (leaves goes.1.1 e mem here) here⟩
    · rw [if_neg goes]
      split
      case isTrue overflows =>
        simp only [Bool.and_eq_true] at overflows
        obtain ⟨r, t, rest, after, held⟩ := ih older (updBank s c b (fun k => overflowTicket k a))
        exact ⟨r, t, (go_change_then _ _).trans rest, C.trans (pumped_updBank s fun k => ⟨k.inflight, k.tickets, _, rfl⟩) after,
          fun e mem here => held e (leaves overflows.1.1.1 e mem here) here⟩
      case isFalse =>
        obtain ⟨r, t, rest, after, held⟩ := ih (older ++ [a]) s
        exact ⟨r, t, rest, after, fun e mem here => held e (by simpa using mem) here⟩

theorem mem_dropBarriers {a : Access} (access : a.kind.isBarrier = false) {l : List Access} (mem : a ∈ l) : a ∈ dropBarriers l := by
  induction l with
  | nil => exact mem
  | cons e r ih =>
    rw [dropBarriers]
    split
    case h_1 m kind =>
      obtain rfl | mem := List.mem_cons.mp mem
      · rw [kind] at access
        cases access
      · exact ih mem
    case h_2 => exact mem

/-- The sending of a bank's remote accesses answers, and keeps the local ones. -/
theorem go_pump (c b : Nat) (s : State) : ∃ t, (pump c b).go s = (.ok (), t) ∧ Pumped c b s t ∧
    ∀ a ∈ (bankOf s c b).inflight, a.remote = false → a.kind.isBarrier = false → a ∈ (bankOf t c b).inflight := by
  obtain ⟨r, t, run, after, held⟩ := go_pumpFrom (c := c) (b := b) (bankOf s c b).inflight [] s
  refine ⟨updBank t c b (fun k => { k with inflight := dropBarriers r }), ?_, ?_, fun a mem here access => ?_⟩
  · rw [pump, go_state_then, go_bind_ok run, go_change]
  · exact (pumped_chains c b).trans after (pumped_updBank t fun k => ⟨_, k.tickets, k.pend, rfl⟩)
  · rw [bankOf_updBank]
    exact mem_dropBarriers access (held a mem here)

theorem Pumped.mem (h : Pumped c b s t) : t.mem = s.mem := by
  obtain ⟨_, _, _, _, rfl⟩ := h.rest
  rfl

theorem Pumped.host (h : Pumped c b s t) : t.host = s.host := by
  obtain ⟨_, _, _, _, rfl⟩ := h.rest
  rfl

theorem Pumped.ctxs (h : Pumped c b s t) : t.ctxs = s.ctxs := by
  obtain ⟨_, _, _, _, rfl⟩ := h.rest
  rfl

theorem Pumped.sByte (h : Pumped c b s t) (e n : Nat) : sByte t e n = sByte s e n := by
  obtain ⟨_, _, _, core⟩ := h.cores e
  rw [Machine.sByte, core, Machine.sByte]

/-- A part of the bank that sending does not touch. -/
theorem Pumped.field {β : Type} (h : Pumped c b s t) (F : Bank → β) (keeps : ∀ k i t p, F { k with inflight := i, tickets := t, pend := p } = F k) :
    F (bankOf t c b) = F (bankOf s c b) := by
  obtain ⟨_, _, _, bank⟩ := h.bank
  rw [bank, keeps]

end

end Sys2Proof.Proofs
end

section
/-!
PROOF. Loads and stores of S by the thread (12 R315, R317).
-/

namespace Sys2Proof.Proofs

open Sys2Proof.Machine Sys2Proof.Safety Sys2Proof.Claims

section
variable {w : Who} {g : Guard} {n : Nat} {s s1 s2 t u : State} {d a : Spec} {x y : Val} {q : BitVec 2} {imm : BitVec 32} {disp : Word}

/-- A body that answers and goes on moves the PC on. -/
theorem issue_next {body : Who → Act Flow} (issues : Issues w g s) (runs : (body w).go s = (.ok .next, t))
    (holds : (bank w t).task = some w.task) : issue g n body s = .next (withRegs w t (pcOn (regs w t) n)) := by
  rw [issue_ok issues runs, advance_next holds]

theorem sameS_readSrc {r : Except Stop Val} (read : (readSrc w a).go s = (r, t)) : SameS w s t := sameS_sameBut (readSrc_keeps read).1

theorem sameS_noted (x : Val) : SameS w s (noted w x s) := sameS_recorded (recorded_noted w x s)

/-! ### Loads -/

theorem loadsFromS_of_loadS {signed : Bool} {mk : Guard → Spec → Spec → Instr}
    (runs : ∀ g d a s, exec (mk g d a) s = loadS g n d a q imm signed s) (at_ : sext32 imm = disp) : LoadsFromS signed n disp q mk := by
  intro w g s s1 u d a x issues read o size bytes check
  subst at_
  have kept : SameS w s (noted w x s1) := (sameS_readSrc read).trans (sameS_noted x)
  have here : (checkS w (addressOf x.v imm) size size).go (noted w x s1) = (.ok o, noted w x s1) := go_checkS (threadBytes_of_sameS bytes kept)
  change (raceCheck w threadAgent _ o size _).go _ = _ at check
  have shades := raceCheck_shades check
  have after : regs w u = regs w s1 := shades.regs.trans (regs_noted w x s1)
  have part : partOf u w = (bank w s).part := (kept.trans shades.sameS).part
  have task : (bank w u).task = some w.task := (kept.trans shades.sameS).task.trans (acts_task issues.toActs)
  refine ⟨.load size signed true (BitVec.ofNat 64 o), fun r written => ?_⟩
  rw [runs, loadS, issue_ok (f := .next) (t := withRegs w u r) issues, advance_setRegs task]
  rw [go_bind_ok read, go_bind_ok (go_noteAddress w x s1), go_bind_ok here, go_waitUntil_settled (threadBytes_of_sameS bytes kept).settled, go_state_then,
    kept.phase, go_bind_ok check, go_state_then, part]
  exact go_bind_ok (go_writeD (SameBut.refl w u) (after.symm ▸ written)) _

/-! ### Stores -/

theorem bankOf_writeS (s : State) (p : Part) (o : Nat) (bs : List Byte) (k c b : Nat) : bankOf (writeS s k p o bs) c b = bankOf s c b := by
  by_cases same : c = k
  · subst same
    exact bankOf_updCore_data s c b fun _ => rfl
  · rw [bankOf, writeS, coreOf_updCore_other _ _ same, bankOf]

theorem sByte_writeS (s : State) (c : Nat) (p : Part) (o : Nat) (bs : List Byte) (k : Nat) : sByte (writeS s c p o bs) c k =
    if 2048 * p.s0 + o ≤ k ∧ k < 2048 * p.s0 + o + bs.length then bs.getD (k - (2048 * p.s0 + o)) 0 else sByte s c k := by
  rw [sByte, writeS, coreOf_updCore, sget_ssetAll, sByte]

theorem bankOf_withRegs_other (w : Who) (s : State) (r : Regs) {c b : Nat} (other : c ≠ w.core ∨ b ≠ w.bank) :
    bankOf (withRegs w s r) c b = bankOf s c b := by
  by_cases same : c = w.core
  · subst same
    exact bankOf_setRegs_other s w.core r (other.resolve_left fun ne => ne rfl)
  · exact bankOf_setRegs_core s w.bank b r same

theorem mem_sameBut (same : SameBut w s t) : t.mem = s.mem := field_sameBut same State.mem fun _ _ => rfl

theorem bankOf_sameBut_other (same : SameBut w s t) {c b : Nat} (other : c ≠ w.core ∨ b ≠ w.bank) : bankOf t c b = bankOf s c b :=
  field_sameBut same (bankOf · c b) fun s r => bankOf_withRegs_other w s r other

theorem storesToS_of_storeS {mk : Guard → Spec → Spec → Instr} (runs : ∀ g d a s, exec (mk g d a) s = storeS g n d a q imm s)
    (at_ : sext32 imm = disp) : StoresToS n disp q mk := by
  intro w g s s1 s2 u d a y x issues first second o size bytes check
  subst at_
  have kept : SameS w s s2 := (sameS_readSrc first).trans (sameS_readSrc second)
  have here : (checkS w (addressOf x.v imm) size size).go s2 = (.ok o, s2) := go_checkS (threadBytes_of_sameS bytes kept)
  change (raceCheck w threadAgent _ o size _).go _ = _ at check
  have shades := raceCheck_shades check
  have moved : SameBut w s s2 := fun r => ((readSrc_keeps second).1 r).trans ((readSrc_keeps first).1 r)
  let stored := writeS u w.core (bank w s).part o (leBytes size y.v.toNat)
  have live : Recorded stored (recLive stored w.task) := recorded_recUpd _ _ _
  have banks (c b : Nat) : bankOf (recLive stored w.task) c b = bankOf s2 c b :=
    (bankOf_recorded live c b).trans ((bankOf_writeS u _ o _ _ c b).trans (shades.bank c b))
  have part : partOf u w = (bank w s).part := (kept.trans shades.sameS).part
  have runs' := runs g d a s
  rw [storeS, issue_next (t := recLive stored w.task) issues] at runs'
  rotate_left
  · rw [go_bind_ok first, go_bind_ok second, go_bind_ok here, go_waitUntil_settled (threadBytes_of_sameS bytes kept).settled, go_state_then, kept.phase,
      go_bind_ok check, go_change_then, part]
    rfl
  · exact (congrArg Bank.task (banks w.core w.bank)).trans (kept.task.trans (acts_task issues.toActs))
  refine ⟨_, runs', ?_, ?_, fun k => ?_, fun c b other => ?_⟩
  · rw [regs_withRegs]
    exact congrArg (fun k : Bank => pcOn k.regs n) (banks w.core w.bank)
  · exact (field_recorded live State.mem fun _ _ => rfl).trans (shades.mem.trans (mem_sameBut moved))
  · have written := sByte_writeS u w.core (bank w s).part o (leBytes size y.v.toNat) k
    rw [length_leBytes] at written
    rw [withRegs, setRegs, sByte_updBank, ← written]
    exact field_recorded live (sByte · w.core k) fun _ _ => rfl
  · rw [bankOf_withRegs_other w _ _ other, banks]
    exact bankOf_sameBut_other moved other

end

theorem scratchLoads : ScratchLoads := fun _ _ _ =>
  ⟨loadsFromS_of_loadS (fun _ _ _ _ => rfl) rfl, loadsFromS_of_loadS (fun _ _ _ _ => rfl) rfl, loadsFromS_of_loadS (fun _ _ _ _ => rfl) rfl,
   loadsFromS_of_loadS (fun _ _ _ _ => rfl) rfl⟩

theorem scratchStores : ScratchStores := fun _ _ _ =>
  ⟨storesToS_of_storeS (fun _ _ _ _ => rfl) rfl, storesToS_of_storeS (fun _ _ _ _ => rfl) rfl⟩

/-- Settles O11: what the checks before an access look at stands while the operands are read and the race is checked. -/
theorem scratchAccesses : Obligations.ScratchAccesses := ⟨scratchLoads, scratchStores⟩

end Sys2Proof.Proofs
end

section
/-!
PROOF. Loads from memory, ldq, stores, sector opcodes and atomics take their place (12 R315, R316, R318 to R324; 05 R115; 09 R222, R236).
-/

namespace Sys2Proof.Proofs

open Sys2Proof.Machine Sys2Proof.Safety Sys2Proof.Claims

/-! ### What an action answers -/

/-- Whatever the action answers has the property. -/
def Yields {α : Type} (P : α → Prop) (m : Act α) : Prop := ∀ s a t, m.go s = (.ok a, t) → P a

section
variable {α β : Type} {P : α → Prop} {Q : β → Prop}

theorem yields_pure {a : α} (holds : P a) : Yields P (pure a) := fun s b t run => by
  rw [go_pure] at run
  cases run
  exact holds

theorem yields_trap (c : Trap) (i : Word) : Yields P (trap c i) := fun s b t run => by cases run

theorem yields_throw (e : Stop) : Yields P (throw e) := fun s b t run => by cases run

theorem yields_bind_of {m : Act α} {f : α → Act β} (first : Yields P m) (next : ∀ a, P a → Yields Q (f a)) : Yields Q (m >>= f) := by
  intro s b t run
  rw [go_bind] at run
  rcases e : m.go s with ⟨_ | a, u⟩
  · rw [e] at run
    cases run
  · rw [e] at run
    exact next a (first s a u e) u b t run

theorem yields_bind {m : Act α} {f : α → Act β} (next : ∀ a, Yields Q (f a)) : Yields Q (m >>= f) :=
  yields_bind_of (P := fun _ => True) (fun _ _ _ _ => trivial) fun a _ => next a

end

/-! ### The pieces of an access (12 R315) -/

section
variable {w : Who} {id n : Nat} {kind : AccKind} {dkind cls : BitVec 4} {right : Right} {s t u v : State} {va : Word} {placed : List Access}

theorem yields_placePiece (w : Who) (id : Nat) (kind : AccKind) (dkind : BitVec 4) (right : Right) (cls : BitVec 4) (info : Word) (p : Piece) :
    Yields (fun a => a.kind = kind) (placePiece w id kind dkind right cls info p) := by
  refine yields_bind fun s => ?_
  split
  · exact yields_trap _ _
  · refine yields_bind fun x => ?_
    split
    · exact yields_trap _ _
    · exact yields_throw _
    · exact yields_pure rfl
    · exact yields_bind fun _ => yields_pure rfl

theorem yields_placePieces (w : Who) (id : Nat) (kind : AccKind) (dkind : BitVec 4) (right : Right) (cls : BitVec 4) (l : List Piece) :
    Yields (fun r => ∀ a ∈ r, Access.kind a = kind) (placePieces w id kind dkind right cls l) := by
  induction l with
  | nil => exact yields_pure fun a mem => by cases mem
  | cons p r ih =>
    refine yields_bind_of (yields_placePiece _ _ _ _ _ _ _ _) fun a ha => yields_bind_of ih fun l hl => yields_pure fun e mem => ?_
    obtain rfl | mem := List.mem_cons.mp mem
    · exact ha
    · exact hl e mem

theorem places_kind (places : Places w s kind dkind right cls va n placed u) : ∀ a ∈ placed, a.kind = kind :=
  yields_placePieces _ _ _ _ _ _ _ _ _ _ places.1

theorem places_looks (places : Places w s kind dkind right cls va n placed u) : Looks { s with nextId := s.nextId + 1 } u := by
  have keeps := keeps_looks_placePieces w s.nextId kind dkind right cls (pieces va.toNat n) { s with nextId := s.nextId + 1 }
  rwa [places.1] at keeps

theorem places_bank (places : Places w s kind dkind right cls va n placed u) (c b : Nat) : bankOf u c b = bankOf s c b :=
  (places_looks places).bank c b

theorem places_regs (places : Places w s kind dkind right cls va n placed u) : regs w u = regs w s :=
  congrArg Bank.regs (places_bank places w.core w.bank)

theorem places_sameS (places : Places w s kind dkind right cls va n placed u) : SameS w s u :=
  SameS.trans (t := { s with nextId := s.nextId + 1 }) ⟨rfl, rfl, rfl, rfl, fun _ => rfl, rfl⟩ (places_looks places).sameS

/-! ### Accesses in flight (07 R185; 08 R201) -/

/-- The accesses are in flight, and the agent's registers and task are as they were. -/
structure Launched (w : Who) (s t : State) (accs : List Access) (back : Load) : Prop where
  inFlight : InFlight w s t accs back
  regs : regs w t = regs w s
  task : (bank w t).task = (bank w s).task
  phase : (coreOf t w.core).phase = (coreOf s w.core).phase

theorem go_launchAccess {l : List Access} {back : Load} (accesses : ∀ a ∈ l, a.kind.isBarrier = false) (s : State) :
    ∃ t, (launchAccess w l back).go s = (.ok (), t) ∧ Launched w s t (l.map fun a => { a with size := back.size }) back := by
  let e := updBank s w.core w.bank fun k =>
    { k with inflight := k.inflight ++ l.map (fun a => { a with size := back.size }), loads := k.loads ++ [back] }
  have entered : bank w e = _ := bankOf_updBank s w.core w.bank _
  obtain ⟨t, run, pumped, held⟩ := go_pump w.core w.bank e
  refine ⟨t, (go_change_then _ _).trans run, ⟨?_, ?_, fun a mem here => held a ?_ here ?_⟩, ?_, ?_, ?_⟩
  · rw [bank, pumped.field Bank.loads fun _ _ _ _ => rfl, ← bank, entered]
  · exact pumped.mem
  · rw [← bank, entered]
    exact List.mem_append_right _ mem
  · obtain ⟨a', mem', rfl⟩ := List.mem_map.mp mem
    exact accesses a' mem'
  · rw [regs, regsOf, pumped.field Bank.regs fun _ _ _ _ => rfl, ← bank, entered]
    rfl
  · rw [bank, pumped.field Bank.task fun _ _ _ _ => rfl, ← bank, entered]
  · obtain ⟨_, _, _, core⟩ := pumped.cores w.core
    rw [core]
    exact phase_updBank s w.core w.bank _ w.core

theorem inFlight_congr {accs : List Access} {back : Load} (h : InFlight w s t accs back) (loads : (bank w v).loads = (bank w t).loads)
    (inflight : (bank w v).inflight = (bank w t).inflight) (mem : v.mem = t.mem) : InFlight w s v accs back :=
  ⟨loads.trans h.1, mem.trans h.2.1, fun a ha here => inflight ▸ h.2.2 a ha here⟩

/-- Writing the agent's registers leaves its accesses in flight. -/
theorem Launched.withRegs {accs : List Access} {back : Load} (h : Launched w s t accs back) (r : Regs) :
    InFlight w s (withRegs w t r) accs back := by
  refine inFlight_congr h.inFlight ?_ ?_ rfl <;> rw [bank_withRegs]

theorem Launched.recorded {accs : List Access} {back : Load} (h : Launched w s t accs back) (recorded : Recorded t v) : Launched w s v accs back := by
  obtain ⟨q, rfl⟩ := recorded
  exact ⟨h.inFlight, h.regs, h.task, h.phase⟩

theorem Launched.shades {accs : List Access} {back : Load} (h : Launched w s t accs back) (shades : Shades t v) : Launched w s v accs back := by
  have same := shades.bank w.core w.bank
  exact ⟨inFlight_congr h.inFlight (congrArg Bank.loads same) (congrArg Bank.inflight same) shades.mem, shades.regs.trans h.regs,
    (congrArg Bank.task same).trans h.task, (SameS.phase (w := w) shades.sameS).trans h.phase⟩

/-- Accesses launched after a race check that follows the translation. -/
theorem Launched.after {accs : List Access} {back : Load} (h : Launched w t v accs back) (shades : Shades s t) : Launched w s v accs back := by
  obtain ⟨loads, mem, held⟩ := h.inFlight
  have same := shades.bank w.core w.bank
  exact ⟨⟨loads.trans (congrArg (fun k : Bank => k.loads ++ [back]) same), mem.trans shades.mem, held⟩, h.regs.trans shades.regs,
    h.task.trans (congrArg Bank.task same), h.phase.trans (SameS.phase (w := w) shades.sameS)⟩

theorem go_issueLoad {signed : Bool} {dest : Dest} {spec : Nat} {checks : Act Unit} (places : Places w s .load 0 .rd cls va n placed u)
    (checked : checks.go u = (.ok (), u)) : ∃ v, (issueLoad w va n signed cls dest spec checks).go s = (.ok s.nextId, v) ∧
      Launched w u v (forwarded w u placed va n)
        { id := s.nextId, size := n, signed := signed, dest := dest, spec := spec, got := List.replicate n none } := by
  let l := (placed.zip (pieces va.toNat n)).map (fun e => { e.1 with fwd := bufferedBytes u w.ctx (bank w u) e.2 })
  have loads : ∀ a ∈ l, a.kind.isBarrier = false := fun a mem => by
    obtain ⟨e, zipped, rfl⟩ := List.mem_map.mp mem
    change (Access.kind e.1).isBarrier = false
    rw [places_kind places e.1 (List.of_mem_zip zipped).1]
    rfl
  obtain ⟨v, launch, launched⟩ := go_launchAccess (w := w) loads (back :=
    { id := s.nextId, size := n, signed := signed, dest := dest, spec := spec, got := List.replicate n none }) u
  refine ⟨v, ?_, ?_⟩
  · rw [issueLoad, go_bind_ok (go_newId s), go_bind_ok places.1, go_bind_ok checked, go_bind_ok places.2, go_state_then, go_bind_ok launch,
      go_pure]
  · rwa [List.map_map] at launched

end

/-! ### Loads (12 R316, R320) -/

section
variable {w : Who} {g : Guard} {n : Nat} {s s0 s1 s2 t u : State} {d a b : Spec} {x y z : Val} {q : BitVec 2} {c : BitVec 4} {imm : BitVec 32}
  {disp : Word} {r : Regs}

/-- A body that ends by writing registers. -/
theorem issue_written {body : Who → Act Flow} (issues : Issues w g s) (runs : (body w).go s = (.ok .next, withRegs w t r))
    (holds : (bank w t).task = some w.task) : issue g n body s = .next (withRegs w t (pcOn r n)) := by
  rw [issue_ok issues runs, advance_setRegs holds]

theorem go_destReady_phys (register : d.toNat < 32) (ready : sget 0 (regs w s).gWait (physOf (regs w s).rb d.toNat) = 0) :
    (destReady w d).go s = (.ok (physOf (regs w s).rb d.toNat), s) := by
  simp [destReady, register, regsAct, go_bind, go_map, ready, regs]

theorem nextId_sameBut (same : SameBut w s t) : t.nextId = s.nextId := field_sameBut same State.nextId fun _ _ => rfl

theorem nextId_noted (read : (readSrc w a).go s = (.ok x, s1)) : (noted w x s1).nextId = s.nextId :=
  (field_recorded (recorded_noted w x s1) State.nextId fun _ _ => rfl).trans (nextId_sameBut (readSrc_keeps read).1)

theorem loadsPending_of_loadMem {signed : Bool} {mk : Guard → Spec → Spec → Instr}
    (runs : ∀ g d a s, exec (mk g d a) s = loadMem g n d a c q imm signed s) (at_ : sext32 imm = disp) : LoadsPending signed n disp c q mk := by
  intro w g s s1 u d a x placed issues register ready read va size legal places
  subst at_
  change (addressOf x.v imm).toNat < 2 ^ 56 at legal
  change Places w _ _ _ _ _ (addressOf x.v imm) _ _ _ at places
  obtain ⟨v, issued, launched⟩ := go_issueLoad (signed := signed) (dest := .regs) (spec := d.toNat) (checks := pure ()) places rfl
  have after : regs w v = regs w s1 := launched.regs.trans ((places_regs places).trans (regs_noted w x s1))
  have task : (bank w v).task = some w.task :=
    launched.task.trans ((places_sameS places).task.trans (((sameS_readSrc read).trans (sameS_noted x)).task.trans (acts_task issues.toActs)))
  rw [nextId_noted read] at issued launched
  have next := issue_written (n := n) (body := fun w => destReady w d >>= fun p => readSrc w a >>= fun x => noteAddress w x >>= fun _ =>
    checkVa (addressOf x.v imm) >>= fun _ => issueLoad w (addressOf x.v imm) size signed c .regs d.toNat (pure ()) >>= fun id =>
    setRegsAct w (fun r => pendD r p id) >>= fun _ => pure .next) (r := pendD (regs w v) (physOf (regs w s).rb d.toNat) s.nextId)
    issues ?_ task
  · refine ⟨_, (runs g d a s).trans next, ?_, launched.withRegs _⟩
    rw [regs_withRegs, after]
  · rw [go_bind_ok (go_destReady_phys register ready), go_bind_ok read, go_bind_ok (go_noteAddress w x s1), go_bind_ok (go_checkVa legal _),
      go_bind_ok issued, go_bind_ok (go_setRegsAct (SameBut.refl w v) _), go_pure]

theorem loadsQueue_of_loadQ {mk : Guard → Spec → Spec → Instr} (runs : ∀ g d a s, exec (mk g d a) s = loadQ g n d a c q imm s)
    (at_ : sext32 imm = disp) : LoadsQueue n disp c q mk := by
  intro w g s s1 u d a x placed issues read va size qn legal room places
  subst at_
  change (addressOf x.v imm).toNat < 2 ^ 56 at legal
  change Places w _ _ _ _ _ (addressOf x.v imm) _ _ _ at places
  obtain ⟨v, issued, launched⟩ := go_issueLoad (signed := false) (dest := .regs) (spec := d.toNat) (checks := pure ()) places rfl
  have after : regs w v = regs w s1 := launched.regs.trans ((places_regs places).trans (regs_noted w x s1))
  have task : (bank w v).task = some w.task :=
    launched.task.trans ((places_sameS places).task.trans (((sameS_readSrc read).trans (sameS_noted x)).task.trans (acts_task issues.toActs)))
  rw [nextId_noted read] at issued launched
  let e : QEntry := { v := 0, wait := s.nextId, va := va, size := size, cls := c }
  have next := issue_written (n := n) (body := fun w => readSrc w a >>= fun x => noteAddress w x >>= fun _ =>
    checkVa (addressOf x.v imm) >>= fun _ => regsAct w >>= fun r => requireOpen ((sget [] r.q qn).length < 16) .reservedField >>= fun _ =>
    issueLoad w (addressOf x.v imm) size false c .regs d.toNat (pure ()) >>= fun id => setRegsAct w (fun r =>
      { r with q := sset [] r.q qn (sget [] r.q qn ++ [{ v := 0, wait := id, va := addressOf x.v imm, size := size, cls := c }]) }) >>= fun _ =>
    pure .next) (r := { regs w v with q := sset [] (regs w v).q qn (sget [] (regs w v).q qn ++ [e]) }) issues ?_ task
  · refine ⟨_, (runs g d a s).trans next, ?_, launched.withRegs _⟩
    rw [regs_withRegs, after]
  · rw [go_bind_ok read, go_bind_ok (go_noteAddress w x s1), go_bind_ok (go_checkVa legal _), go_bind_ok (go_regsAct w _),
      go_requireOpen_then (by rw [regs_noted]; exact decide_eq_true room), go_bind_ok issued,
      go_bind_ok (go_setRegsAct (SameBut.refl w v) _), go_pure]
    rfl

end

theorem memoryLoads : MemoryLoads := fun _ _ _ =>
  ⟨loadsPending_of_loadMem (fun _ _ _ _ => rfl) rfl, loadsPending_of_loadMem (fun _ _ _ _ => rfl) rfl,
   loadsPending_of_loadMem (fun _ _ _ _ => rfl) rfl, loadsPending_of_loadMem (fun _ _ _ _ => rfl) rfl⟩

theorem queueLoads : QueueLoads := fun _ _ _ =>
  ⟨loadsQueue_of_loadQ (fun _ _ _ _ => rfl) rfl, loadsQueue_of_loadQ (fun _ _ _ _ => rfl) rfl⟩

/-- Settles O12: the pieces' accesses are launched behind the room check, and their number is what D, or the queue's tail, waits on. -/
theorem loadsIssue : Obligations.LoadsIssue := ⟨memoryLoads, queueLoads⟩

end Sys2Proof.Proofs
end

section
/-!
PROOF. Stores, sector opcodes and atomics take their place (12 R318, R319, R321 to R324; 05 R115).
-/

namespace Sys2Proof.Proofs

open Sys2Proof.Machine Sys2Proof.Safety Sys2Proof.Claims

section
variable {w : Who} {g : Guard} {n : Nat} {s s0 s1 s2 t u v : State} {d a b : Spec} {x y z : Val} {q : BitVec 2} {c : BitVec 4} {imm : BitVec 32}
  {disp va : Word} {r before : Regs} {es : List BufEntry} {placed : List Access}

/-! ### The store buffer (05 R115) -/

/-- The bytes of a store enter the region's buffer. -/
def bufferedIn (w : Who) (es : List BufEntry) (s : State) : State := updBank s w.core w.bank fun k => { k with storeBuf := k.storeBuf ++ es }

theorem bank_bufferedIn (w : Who) (es : List BufEntry) (s : State) :
    bank w (bufferedIn w es s) = { bank w s with storeBuf := (bank w s).storeBuf ++ es } := bankOf_updBank s w.core w.bank _

theorem go_buffer (room : (bank w s).storeBuf.length + es.length ≤ 128) :
    (buffer w before es).go s = (.ok (), recLive (bufferedIn w es s) w.task) := by
  rw [buffer, go_state_then]
  simp [Nat.not_lt.mpr room, go_bind, bufferedIn, noteLive]

/-! ### st and stf (12 R318, R321) -/

theorem sameBut_of_reads (first : (readSrc w d).go s = (.ok y, s1)) (second : (readSrc w a).go s1 = (.ok x, s2)) : SameBut w s s2 :=
  fun r => ((readSrc_keeps second).1 r).trans ((readSrc_keeps first).1 r)

theorem recorded_withRegs (recorded : Recorded s t) (r : Regs) : Recorded (withRegs w s r) (withRegs w t r) := by
  obtain ⟨q, rfl⟩ := recorded
  exact ⟨q, rfl⟩

theorem withRegs_bufferedIn (same : SameBut w s t) (r : Regs) : withRegs w (bufferedIn w es t) r =
    updBank s w.core w.bank (fun k => { k with storeBuf := k.storeBuf ++ es, regs := r }) := by
  have moved : bufferedIn w es (withRegs w t r) = bufferedIn w es (withRegs w s r) := congrArg (bufferedIn w es) (same r)
  simp only [bufferedIn, withRegs, setRegs, updBank_updBank] at moved ⊢
  exact moved

theorem storeBuf_sameBut (same : SameBut w s t) : (bank w t).storeBuf = (bank w s).storeBuf := by rw [bank_sameBut same]

theorem storesBuffered_of_storeMem {ordered : Bool} {mk : Guard → Spec → Spec → Instr}
    (runs : ∀ g d a s, exec (mk g d a) s = storeMem g n d a c q imm ordered s) (at_ : sext32 imm = disp) : StoresBuffered ordered n disp c q mk := by
  intro w g s s1 s2 d a y x issues first second va size es legal aligned room
  subst at_
  have moved := sameBut_of_reads first second
  have buf : (bank w s2).storeBuf = (bank w s).storeBuf := storeBuf_sameBut moved
  have live : Recorded (bufferedIn w es s2) (recLive (bufferedIn w es s2) w.task) := recorded_recUpd _ _ _
  have task : (bank w (recLive (bufferedIn w es s2) w.task)).task = some w.task := by
    rw [bank, bankOf_recorded live, ← bank, bank_bufferedIn]
    exact moved.task.trans (acts_task issues.toActs)
  have regs' : regs w (recLive (bufferedIn w es s2) w.task) = regs w s2 := by
    rw [regs, regsOf, bankOf_recorded live, ← bank, bank_bufferedIn]
    rfl
  have kept : ((if ordered then require (va.toNat % size == 0) .alignment va else pure ()) : Act Unit).go s2 = (.ok (), s2) := by
    cases ordered
    · rfl
    · simp [aligned rfl]
  refine ⟨_, (runs g d a s).trans (issue_next (t := recLive (bufferedIn w es s2) w.task) issues ?_ task), ?_⟩
  · rw [go_bind_ok (go_regsAct w s), go_bind_ok first, go_bind_ok second, go_bind_ok (go_checkVa (va := addressOf x.v imm) legal s2)]
    have ends := go_bind_ok (go_buffer (before := regs w s) (room := buf ▸ room)) fun _ => (pure .next : Act Flow)
    cases ordered
    · exact ends
    · exact (go_bind_ok kept _).trans ends
  · rw [regs', ← withRegs_bufferedIn moved]
    exact recorded_withRegs live _

theorem memoryStores : MemoryStores := fun _ _ _ =>
  ⟨storesBuffered_of_storeMem (fun _ _ _ _ => rfl) rfl, storesBuffered_of_storeMem (fun _ _ _ _ => rfl) rfl,
   storesBuffered_of_storeMem (fun _ _ _ _ => rfl) rfl, storesBuffered_of_storeMem (fun _ _ _ _ => rfl) rfl⟩

/-! ### ld.sec, st.sec and cas.sec (12 R319, R323) -/

/-- A body that has launched its accesses and makes the task live. -/
theorem issue_launched {body : Who → Act Flow} {accs : List Access} {back : Load} (issues : Issues w g s) (launched : Launched w u t accs back)
    (stands : regs w u = r) (held : (bank w u).task = some w.task) (runs : (body w).go s = (.ok .next, recLive t w.task)) :
    ∃ v, issue g n body s = .next v ∧ regs w v = pcOn r n ∧ InFlight w u v accs back := by
  have live : Launched w u (recLive t w.task) accs back := launched.recorded (recorded_recUpd t w.task _)
  refine ⟨_, issue_next issues runs (live.task.trans held), ?_, live.withRegs _⟩
  rw [regs_withRegs, live.regs, stands]

theorem loadSec_issues (issues : Issues w g s) (first : (readSrc w d).go s = (.ok y, s1)) (second : (readSrc w a).go s1 = (.ok x, s2))
    {id : Nat} {u' : State} (bytes : SectorBytes w s (addressOf x.v imm) y.v.toNat 32)
    (places : Places w s2 .load 0 .rd c (addressOf x.v imm) 32 placed u)
    (issued : (issueLoad w (addressOf x.v imm) 32 false c (.sBytes y.v.toNat) 0 (sectorOwner w y.v.toNat)).go s2 = (.ok id, v))
    (check : (raceCheck w threadAgent (coreOf s w.core).phase y.v.toNat 32 true).go v = (.ok (), u')) :
    ∃ t, loadSec g n d a c imm s = .next t ∧ regs w t = pcOn (regs w s2) n ∧ InFlight w u t (forwarded w u placed (addressOf x.v imm) 32)
      { id := s.nextId, size := 32, signed := false, dest := .sBytes y.v.toNat, spec := 0, got := List.replicate 32 none } := by
  have moved := sameBut_of_reads first second
  have kept : SameS w s s2 := sameS_sameBut moved
  have bytes' := sectorBytes_of_sameS bytes kept
  have atPlace := sectorBytes_of_sameS bytes' (places_sameS places)
  obtain ⟨v', issued', launched⟩ := go_issueLoad (signed := false) (dest := .sBytes y.v.toNat) (spec := 0) places (go_sectorOwner atPlace.owner)
  obtain ⟨rfl, rfl⟩ : s2.nextId = id ∧ v' = v := by
    rw [issued'] at issued
    cases issued
    exact ⟨rfl, rfl⟩
  rw [nextId_sameBut moved] at launched issued
  have phase : (coreOf v' w.core).phase = (coreOf s w.core).phase :=
    launched.phase.trans (kept.trans (places_sameS places)).phase
  refine issue_launched issues (launched.shades (raceCheck_shades check)) (places_regs places)
    ((places_sameS places).task.trans (kept.task.trans (acts_task issues.toActs))) ?_
  rw [go_bind_ok first, go_bind_ok second, go_bind_ok (go_sectorAddresses bytes'), go_waitUntil_settled bytes'.settled, go_bind_ok issued,
    go_state_then, phase, go_bind_ok check]
  rfl

/-- The buffer's entry of a sector that S holds at offset `o` (12 R319). -/
def sectorEntry (w : Who) (s : State) (p : Part) (o : Nat) (va : Word) (c : BitVec 4) : BufEntry where
  va := va.toNat
  bytes := readS s w.core p o 32
  cls := c
  ordered := false
  off := 0
  size := 32
  fromS := some o

theorem storeSec_issues (issues : Issues w g s) (first : (readSrc w d).go s = (.ok y, s1)) (second : (readSrc w a).go s1 = (.ok x, s2))
    (bytes : SectorBytes w s (addressOf x.v imm) y.v.toNat 32)
    (check : (raceCheck w threadAgent (coreOf s w.core).phase y.v.toNat 32 false).go s2 = (.ok (), u)) (room : (bank w s).storeBuf.length < 128) :
    ∃ t, storeSec g n d a c imm s = .next t ∧ regs w t = pcOn (regs w s2) n ∧ t.mem = s.mem ∧
      (bank w t).storeBuf = (bank w s).storeBuf ++ [sectorEntry w u (bank w s).part y.v.toNat (addressOf x.v imm) c] := by
  have moved := sameBut_of_reads first second
  have kept : SameS w s s2 := sameS_sameBut moved
  have bytes' := sectorBytes_of_sameS bytes kept
  have shades := raceCheck_shades check
  have buf : (bank w u).storeBuf = (bank w s).storeBuf :=
    (congrArg Bank.storeBuf (shades.bank w.core w.bank)).trans (storeBuf_sameBut moved)
  have part : partOf u w = (bank w s).part := (kept.trans shades.sameS).part
  let es : List BufEntry := [sectorEntry w u (bank w s).part y.v.toNat (addressOf x.v imm) c]
  have live : Recorded (bufferedIn w es u) (recLive (bufferedIn w es u) w.task) := recorded_recUpd _ _ _
  have entered : bank w (recLive (bufferedIn w es u) w.task) = { bank w u with storeBuf := (bank w u).storeBuf ++ es } :=
    (bankOf_recorded live _ _).trans (bank_bufferedIn w es u)
  have next := issue_next (n := n) (body := fun w => regsAct w >>= fun before => readSrc w d >>= fun off => readSrc w a >>= fun x =>
    sectorAddresses w off.v (addressOf x.v imm) 32 >>= fun o => sectorOwner w o >>= fun _ => state >>= fun s => waitUntil (!sWaits s w o 32) >>=
    fun _ => state >>= fun s => raceCheck w threadAgent (coreOf s w.core).phase o 32 false >>= fun _ => state >>= fun s =>
    buffer w before [sectorEntry w s (partOf s w) o (addressOf x.v imm) c] >>= fun _ => pure .next) (t := recLive (bufferedIn w es u) w.task) issues ?_ ?_
  · refine ⟨_, next, ?_, ?_, ?_⟩
    · rw [regs_withRegs]
      exact congrArg (pcOn · n) ((congrArg Bank.regs entered).trans (shades.regs))
    · exact (field_recorded live State.mem fun _ _ => rfl).trans (shades.mem.trans (mem_sameBut moved))
    · rw [bank_withRegs, entered, ← buf]
  · rw [go_bind_ok (go_regsAct w s), go_bind_ok first, go_bind_ok second, go_bind_ok (go_sectorAddresses bytes'),
      go_bind_ok (go_sectorOwner bytes'.owner), go_waitUntil_settled bytes'.settled, go_state_then, kept.phase, go_bind_ok check, go_state_then, part]
    exact go_bind_ok (go_buffer (room := by rw [buf]; exact room)) _
  · rw [entered]
    exact (kept.trans shades.sameS).task.trans (acts_task issues.toActs)

theorem go_atomicTarget {aop : Option (BitVec 3)} (allowed : ∀ e ∈ placed, Access.target e ≠ .pool ∧
    (Access.target e = .host → (aop == some 0 || aop == some 4 || aop == some 7) = true)) (s : State) :
    (atomicTarget va aop placed).go s = (.ok (), s) := by
  have all : placed.all (fun a => a.target != .pool && (a.target != .host || (aop == some 0 || aop == some 4 || aop == some 7))) = true := by
    rw [List.all_eq_true]
    intro e mem
    obtain ⟨pool, host⟩ := allowed e mem
    by_cases atHost : e.target = .host
    · simp only [host atHost, Bool.or_true, Bool.and_true]
      exact bne_iff_ne.mpr pool
    · simp [bne_iff_ne.mpr pool, bne_iff_ne.mpr atHost]
  rw [atomicTarget, go_require]
  exact if_pos all

theorem casSector_issues (issues : Issues w g s) (first : (readSrc w d).go s = (.ok y, s1)) (second : (readSrc w a).go s1 = (.ok x, s2))
    {u1 u2 : State} (bytes : SectorBytes w s (addressOf x.v imm) y.v.toNat 64)
    (places : Places w s2 .casSec 2 .rdw c (addressOf x.v imm) 32 placed u)
    (targets : ∀ e ∈ placed, Access.target e ≠ .pool ∧ Access.target e ≠ .host)
    (reads : (raceCheck w threadAgent (coreOf s w.core).phase y.v.toNat 64 false).go u = (.ok (), u1))
    (writes : (raceCheck w threadAgent (coreOf s w.core).phase y.v.toNat 32 true).go u1 = (.ok (), u2)) :
    ∃ t, casSector g n d a c imm s = .next t ∧ regs w t = pcOn (regs w s2) n ∧
      InFlight w u t (placed.map (fun e => { e with data := readS u2 w.core (bank w s).part y.v.toNat 64, size := 32 }))
        { id := s.nextId, size := 32, signed := false, dest := .sBytes y.v.toNat, spec := 0, got := List.replicate 32 none } := by
  have moved := sameBut_of_reads first second
  have kept : SameS w s s2 := sameS_sameBut moved
  have bytes' := sectorBytes_of_sameS bytes kept
  have atPlace := sectorBytes_of_sameS bytes' (places_sameS places)
  have placedAt : SameS w s u := kept.trans (places_sameS places)
  have shades : Shades u u2 := shades_chains.trans (raceCheck_shades reads) (raceCheck_shades writes)
  have part : partOf u2 w = (bank w s).part := (placedAt.trans shades.sameS).part
  let l := placed.map (fun e => { e with data := readS u2 w.core (bank w s).part y.v.toNat 64 })
  have accesses : ∀ a ∈ l, a.kind.isBarrier = false := fun a mem => by
    obtain ⟨e, listed, rfl⟩ := List.mem_map.mp mem
    change (Access.kind e).isBarrier = false
    rw [places_kind places e listed]
    rfl
  obtain ⟨v, launch, launched⟩ := go_launchAccess (w := w) accesses (back :=
    { id := s.nextId, size := 32, signed := false, dest := .sBytes y.v.toNat, spec := 0, got := List.replicate 32 none }) u2
  have after := launched.after shades
  rw [List.map_map] at after
  refine issue_launched issues after (places_regs places) (placedAt.task.trans (acts_task issues.toActs)) ?_
  rw [go_bind_ok first, go_bind_ok second, go_bind_ok (go_sectorAddresses bytes'), go_waitUntil_settled bytes'.settled, go_bind_ok (go_newId s2),
    go_bind_ok places.1, go_bind_ok (go_atomicTarget (fun e mem => ⟨(targets e mem).1, fun atHost => absurd atHost (targets e mem).2⟩) u),
    go_bind_ok (go_sectorOwner atPlace.owner), go_bind_ok places.2, go_state_then, placedAt.phase, go_bind_ok reads, go_state_then,
    (placedAt.trans (raceCheck_shades reads).sameS).phase, go_bind_ok writes, go_state_then, part, nextId_sameBut moved]
  exact go_bind_ok launch _

theorem sectorOpcodes_of {ld st cas : Guard → Spec → Spec → Instr} (lds : ∀ g d a s, exec (ld g d a) s = loadSec g n d a c imm s)
    (sts : ∀ g d a s, exec (st g d a) s = storeSec g n d a c imm s) (cass : ∀ g d a s, exec (cas g d a) s = casSector g n d a c imm s)
    (at_ : sext32 imm = disp) : SectorOpcodes n disp ld st cas c := by
  intro w g s s1 s2 d a y x issues first second
  subst at_
  refine ⟨fun placed u u' v id bytes places issued check => ?_, fun u bytes check room => ?_,
    fun placed u u1 u2 bytes places targets reads writes => ?_⟩
  · rw [lds]
    exact loadSec_issues issues first second bytes places issued check
  · rw [sts]
    exact storeSec_issues issues first second bytes check room
  · rw [cass]
    exact casSector_issues issues first second bytes places targets reads writes

theorem sectorAccesses : SectorAccesses := fun _ _ =>
  ⟨sectorOpcodes_of (fun _ _ _ _ => rfl) (fun _ _ _ _ => rfl) (fun _ _ _ _ => rfl) rfl,
   sectorOpcodes_of (fun _ _ _ _ => rfl) (fun _ _ _ _ => rfl) (fun _ _ _ _ => rfl) rfl⟩

/-! ### Atomics (12 R322, R324) -/

theorem go_ite_bind {α β : Type} {p : Prop} [Decidable p] {m m' : Act α} {r : α} (run : (if p then m else m').go s = (.ok r, t)) (f : α → Act β) :
    (if p then m >>= f else m' >>= f).go s = (f r).go t := by
  by_cases holds : p
  · rw [if_pos holds] at run ⊢
    exact go_bind_ok run f
  · rw [if_neg holds] at run ⊢
    exact go_bind_ok run f

/-- The value an atomic compares with: that of D for atom.cas, and none else. -/
def comparand (w : Who) (aop : BitVec 3) (d : Spec) : Act Val := if aop = 7 then readSrc w d else pure ⟨0, .clean⟩

theorem atomic_issues {aop : BitVec 3} {sz log : Bool} (issues : Issues w g s) (register : d.toNat < 32)
    (ready : sget 0 (regs w s).gWait (physOf (regs w s).rb d.toNat) = 0) (compared : (comparand w aop d).go s = (.ok z, s))
    (first : (readSrc w a).go s = (.ok x, s1)) (second : (readSrc w b).go s1 = (.ok y, s2)) (legal : x.v.toNat < 2 ^ 56)
    (aligned : x.v.toNat % (if sz then 8 else 4) = 0) (places : Places w s2 .atomic 2 .rdw c x.v (if sz then 8 else 4) placed u)
    (targets : ∀ e ∈ placed, Access.target e ≠ .pool ∧ (Access.target e = .host → aop = 0 ∨ aop = 4 ∨ aop = 7)) :
    ∃ v, atomic g aop d a b sz log c s = .next v ∧
      regs w v = pcOn (pendD (regs w s2) (physOf (regs w s).rb d.toNat) s.nextId) 2 ∧
      InFlight w u v (placed.map (fun e => { e with aop := aop, opB := y.v, opD := z.v, log := log, size := if sz then 8 else 4 }))
        { id := s.nextId, size := if sz then 8 else 4, signed := decide (aop = 5 ∨ aop = 6), dest := .regs, spec := d.toNat,
          got := List.replicate (if sz then 8 else 4) none } := by
  have moved := sameBut_of_reads first second
  let l := placed.map (fun e => { e with aop := aop, opB := y.v, opD := z.v, log := log })
  have accesses : ∀ a ∈ l, a.kind.isBarrier = false := fun a mem => by
    obtain ⟨e, listed, rfl⟩ := List.mem_map.mp mem
    change (Access.kind e).isBarrier = false
    rw [places_kind places e listed]
    rfl
  obtain ⟨v, launch, launched⟩ := go_launchAccess (w := w) accesses (back :=
    { id := s.nextId, size := if sz then 8 else 4, signed := decide (aop = 5 ∨ aop = 6), dest := .regs, spec := d.toNat,
      got := List.replicate (if sz then 8 else 4) none }) u
  rw [List.map_map] at launched
  have regs' : regs w v = regs w s2 := launched.regs.trans (places_regs places)
  have task : (bank w v).task = some w.task :=
    launched.task.trans ((places_sameS places).task.trans (moved.task.trans (acts_task issues.toActs)))
  let r := pendD (regs w v) (physOf (regs w s).rb d.toNat) s.nextId
  have live : Recorded (withRegs w v r) (recLive (withRegs w v r) w.task) := recorded_recUpd _ _ _
  have banks : bank w (recLive (withRegs w v r) w.task) = { bank w v with regs := r } := (bankOf_recorded live _ _).trans (bank_withRegs w v r)
  have allowed : ∀ e ∈ placed, Access.target e ≠ .pool ∧
      (Access.target e = .host → (some aop == some 0 || some aop == some 4 || some aop == some 7) = true) := fun e mem =>
    ⟨(targets e mem).1, fun atHost => by simpa [or_assoc] using (targets e mem).2 atHost⟩
  refine ⟨_, issue_next (t := recLive (withRegs w v r) w.task) issues ?_ (by rw [banks]; exact task), ?_, ?_⟩
  · refine (go_ite_bind compared _).trans ?_
    have fits : (require (x.v.toNat % (if sz then 8 else 4) == 0) .alignment x.v).go s2 = (.ok (), s2) := by
      rw [go_require, if_pos (beq_iff_eq.mpr aligned)]
    rw [go_bind_ok (go_destReady_phys register ready), go_bind_ok first, go_bind_ok second, go_bind_ok (go_checkVa legal s2), go_bind_ok fits,
      go_bind_ok (go_newId s2), go_bind_ok places.1, go_bind_ok (go_atomicTarget allowed u), go_bind_ok places.2, nextId_sameBut moved,
      ← Bool.decide_or, go_bind_ok launch, go_bind_ok (go_setRegsAct (SameBut.refl w v) _)]
    rfl
  · rw [regs_withRegs]
    exact congrArg (pcOn · 2) ((congrArg Bank.regs banks).trans (congrArg (pendD · _ _) regs'))
  · refine inFlight_congr launched.inFlight ?_ ?_ ?_
    · rw [bank_withRegs, banks]
    · rw [bank_withRegs, banks]
    · exact field_recorded live State.mem fun _ _ => rfl

theorem atomicsIssue : AtomicsIssue := by
  intro i aop names w g s s1 s2 u d a b sz log c x y placed issues register ready first second size legal aligned places targets
  obtain ⟨runs, plain⟩ : (∀ s, exec (i g d a b sz log c) s = atomic g aop d a b sz log c s) ∧ aop ≠ 7 := by
    simp only [List.mem_cons, List.not_mem_nil, or_false, Prod.mk.injEq] at names
    obtain ⟨rfl, rfl⟩ | ⟨rfl, rfl⟩ | ⟨rfl, rfl⟩ | ⟨rfl, rfl⟩ | ⟨rfl, rfl⟩ | ⟨rfl, rfl⟩ | ⟨rfl, rfl⟩ := names
    all_goals exact ⟨fun _ => rfl, by decide⟩
  have compared : (comparand w aop d).go s = (.ok ⟨0, .clean⟩, s) := by rw [comparand, if_neg plain, go_pure]
  rw [runs]
  exact atomic_issues issues register ready compared first second legal aligned places fun e mem =>
    ⟨(targets e mem).1, fun atHost => (targets e mem).2 atHost |>.imp_right .inl⟩

/-- A register that has been read does not wait, and its reading leaves the state. -/
theorem register_of_readSrc (register : d.toNat < 32) (read : (readSrc w d).go s = (.ok z, s0)) :
    s0 = s ∧ sget 0 (regs w s).gWait (physOf (regs w s).rb d.toNat) = 0 := by
  have ready : ¬ DestWaits (regs w s) d := fun waits => by
    rw [go_readSrc_waits (.inl waits)] at read
    cases read
  obtain ⟨x, same⟩ := go_readSrc_register register ready
  rw [same] at read
  cases read
  exact ⟨rfl, gWait_of_not_destWaits register ready⟩

theorem compareAndSwapIssues : CompareAndSwapIssues := by
  intro w g s s0 s1 s2 u d a b sz log c z x y placed issues register read first second size legal aligned places targets
  obtain ⟨rfl, ready⟩ := register_of_readSrc register read
  exact atomic_issues (aop := 7) issues register ready read first second legal aligned places fun e mem => ⟨targets e mem, fun _ => .inr (.inr rfl)⟩

end

/-- Settles O13: no more than the buffer, or the accesses launched, changes beside the registers. -/
theorem storesIssue : Obligations.StoresIssue := ⟨memoryStores, sectorAccesses⟩

/-- Settles O14: the eight operations are one form; atom.cas reads D before. -/
theorem atomicsAreIssued : Obligations.AtomicsAreIssued := ⟨atomicsIssue, compareAndSwapIssues⟩

end Sys2Proof.Proofs
end

section
/-!
PROOF. What an access does when it performs (12 R316, R318, R319, R322, R323; 08 R201 to R203; 06 R158, R159).
-/

namespace Sys2Proof.Proofs

open Sys2Proof.Machine Sys2Proof.Safety Sys2Proof.Claims

/-! ### The bytes of a word and of memory -/

theorem leNat_lt (bs : List Byte) : leNat bs < 2 ^ (8 * bs.length) := by
  induction bs with
  | nil => exact Nat.one_pos
  | cons b r ih =>
    have byte : b.toNat < 256 := b.isLt
    have more : 2 ^ (8 * (r.length + 1)) = 256 * 2 ^ (8 * r.length) := by rw [Nat.mul_succ, pow_add, Nat.mul_comm]; rfl
    rw [leNat, List.length_cons, more]
    omega

theorem leBytes_leNat (bs : List Byte) : leBytes bs.length (leNat bs) = bs := by
  induction bs with
  | nil => rfl
  | cons b r ih =>
    have byte : b.toNat < 256 := b.isLt
    have rest : (b.toNat + 256 * leNat r) / 256 = leNat r := by omega
    have first : BitVec.ofNat 8 (b.toNat + 256 * leNat r) = b := BitVec.eq_of_toNat_eq (by rw [BitVec.toNat_ofNat]; omega)
    rw [leNat, List.length_cons, leBytes, rest, ih, first]

@[simp] theorem length_readBytes (s : State) (pa n : Nat) : (readBytes s pa n).length = n := by
  rw [readBytes, List.length_map, List.length_range]

theorem readBytes_succ (s : State) (pa n : Nat) : readBytes s pa (n + 1) = readByte s pa :: readBytes s (pa + 1) n := by
  rw [readBytes, List.range_succ_eq_map, List.map_cons, List.map_map, readBytes]
  refine congrArg (readByte s pa :: ·) (List.map_congr_left fun i _ => ?_)
  exact congrArg (readByte s) (by simp only [Nat.succ_eq_add_one]; omega)

/-- A byte stored where it was read changes none. -/
theorem readByte_writeByte_own (s : State) (pa a : Nat) : readByte (writeByte s pa (readByte s pa)) a = readByte s a := by
  by_cases key : memKey s a = memKey s pa
  · have moved : readByte (writeByte s pa (readByte s pa)) a = readByte (writeByte s pa (readByte s pa)) pa := congrArg (byteAt _) key
    rw [moved, readByte_writeByte_same]
    exact congrArg (byteAt s.mem) key.symm
  · exact readByte_writeByte_other _ key

theorem readByte_writeBytes_own (n a : Nat) : ∀ (s : State) (pa : Nat), readByte (writeBytes s pa (readBytes s pa n)) a = readByte s a := by
  induction n with
  | zero => exact fun _ _ => rfl
  | succ n ih =>
    intro s pa
    have rest : readBytes s (pa + 1) n = readBytes (writeByte s pa (readByte s pa)) (pa + 1) n :=
      List.map_congr_left fun i _ => (readByte_writeByte_own s pa _).symm
    rw [readBytes_succ, writeBytes, rest, ih, readByte_writeByte_own]

theorem memKey_congr {s t : State} (host : t.host = s.host) (a : Nat) : memKey t a = memKey s a := by
  unfold memKey poolDecoder poolDecOf
  rw [host]

theorem readByte_congr {s t : State} (host : t.host = s.host) (mem : t.mem = s.mem) (a : Nat) : readByte t a = readByte s a := by
  rw [readByte, readByte, memKey_congr host, mem]

/-! ### Bytes that come back -/

section
variable {s t s' t' u : State} {c b i k : Nat} {a : Access} {l : Load} {bs : List Byte}

theorem putAt_eq_come (whole : l.got.length = l.size) (inside : a.off + a.len ≤ l.size) (length : bs.length = a.len) :
    putAt l.got a.off bs = come l a bs := by
  have sized : (putAt l.got a.off bs).length = l.size := by
    simp only [putAt, List.length_append, List.length_take, List.length_map, List.length_drop]
    omega
  refine List.ext_getElem (by rw [sized, come, List.length_map, List.length_range]) fun j lt _ => ?_
  rw [sized] at lt
  have taken : (l.got.take a.off).length = a.off := by rw [List.length_take]; omega
  simp only [come, List.getElem_map, List.getElem_range, putAt]
  by_cases below : j < a.off
  · rw [List.getElem_append_left (by rw [List.length_append, taken]; omega), List.getElem_append_left (by rw [taken]; exact below),
      List.getElem_take, if_neg (by omega), List.getD_eq_getElem _ _ (by omega)]
  · by_cases within : j < a.off + a.len
    · rw [List.getElem_append_left (by rw [List.length_append, taken, List.length_map]; omega),
        List.getElem_append_right (by rw [taken]; omega), List.getElem_map, if_pos ⟨by omega, within⟩, List.getElem?_eq_getElem (by omega)]
      simp only [taken]
    · rw [List.getElem_append_right (by rw [List.length_append, taken, List.length_map]; omega), List.getElem_drop, if_neg (by omega),
        List.getD_eq_getElem _ _ (by omega)]
      congr 1
      rw [List.length_append, taken, List.length_map]
      omega

theorem any_isNone_iff (got : List (Option Byte)) : (got.any fun x => x.isNone) = true ↔ none ∈ got := by
  simp [List.any_eq_true, Option.isNone_iff_eq_none]

/-- What a load's return looks at, and what it leaves, decide whether it has returned. -/
theorem returned_congr (h : Returned s t c b a l bs) (regs : regsOf s' c b = regsOf s c b) (restart : (bankOf s' c b).restart = (bankOf s c b).restart)
    (part : (bankOf s' c b).part = (bankOf s c b).part) (overS : (bankOf s' c b).overS = (bankOf s c b).overS)
    (bytes : ∀ p, sByte s' c p = sByte s c p) (regs' : regsOf t' c b = regsOf t c b) (restart' : (bankOf t' c b).restart = (bankOf t c b).restart)
    (loads' : (bankOf t' c b).loads = (bankOf t c b).loads) (bytes' : ∀ p, sByte t' c p = sByte t c p) : Returned s' t' c b a l bs := by
  unfold Returned at h ⊢
  simpa only [regs, restart, part, overS, bytes, regs', restart', loads', bytes'] using h

theorem regsOf_pumped (h : Pumped c b s t) : regsOf t c b = regsOf s c b := h.field Bank.regs fun _ _ _ _ => rfl

theorem returned_pumped (h : Returned s t c b a l bs) (after : Pumped c b t t') : Returned s t' c b a l bs :=
  returned_congr h rfl rfl rfl rfl (fun _ => rfl) (regsOf_pumped after) (after.field Bank.restart fun _ _ _ _ => rfl)
    (after.field Bank.loads fun _ _ _ _ => rfl) (after.sByte c)

theorem returnBytes_of_unknown (unknown : (bankOf s c b).loads.find? (fun e => e.id == a.id) = none) : returnBytes s c b a bs = s := by
  rw [returnBytes]
  simp only [unknown]

/-- The bytes that have come, with those of a piece. -/
def keptPiece (s : State) (c b : Nat) (a : Access) (l : Load) (bs : List Byte) : State :=
  updBank s c b fun k => { k with loads := k.loads.map fun e => if e.id = l.id then { e with got := come l a bs } else e }

/-- The load is no longer awaited. -/
def dropLoad (s : State) (c b : Nat) (l : Load) : State := updBank s c b fun k => { k with loads := k.loads.filter (fun e => e.id != l.id) }

/-- The value that a load's bytes make. -/
def loadedWord (l : Load) (all : List Byte) : Word :=
  if l.signed then sext (8 * l.size) (leNat all) else BitVec.ofNat 64 (leNat all)

/-- What the recorder knows of a value that an access brings. -/
def loadedMark (a : Access) (l : Load) : Mark :=
  if a.kind == .load then .load l.size l.signed false (BitVec.ofNat 64 (a.va - a.off)) else .derived

/-- A load whose bytes have all come gives them to what waits for it. -/
def delivered (s : State) (c b : Nat) (a : Access) (l : Load) (all : List Byte) : State :=
  match l.dest with
  | .none => dropLoad s c b l
  | .sBytes o => writeBankS (dropLoad s c b l) c b o all
  | .regs =>
    let x : Val := ⟨loadedWord l all, loadedMark a l⟩
    updBank (dropLoad s c b l) c b (fun k => { k with regs := k.regs.fill l.id x, restart := k.restart.fill l.id x })

theorem returnBytes_eq (piece : PieceOf s c b a l) (length : bs.length = a.len) : returnBytes s c b a bs =
    if none ∈ come l a bs then keptPiece s c b a l bs else delivered s c b a l ((come l a bs).map fun x => x.getD 0) := by
  have put := putAt_eq_come piece.whole piece.inside length
  rw [returnBytes]
  simp only [piece.found, put, any_isNone_iff]
  rfl

theorem find?_keptPiece (piece : PieceOf s c b a l) :
    (bankOf (keptPiece s c b a l bs) c b).loads.find? (fun e => e.id == a.id) = some { l with got := come l a bs } := by
  have same : ((fun e : Load => e.id == a.id) ∘ fun e => if e.id = l.id then { e with got := come l a bs } else e) = fun e => e.id == a.id := by
    funext e
    simp only [Function.comp]
    split <;> rfl
  rw [keptPiece, bankOf_updBank]
  simp only [List.find?_map, same, piece.found, Option.map_some, if_true]

theorem regsOf_writeS (s : State) (p : Part) (o : Nat) (k : Nat) : regsOf (writeS s k p o bs) c b = regsOf s c b :=
  congrArg Bank.regs (bankOf_writeS s p o bs k c b)

theorem returned_returnBytes (piece : PieceOf s c b a l) (length : bs.length = a.len) : Returned s (returnBytes s c b a bs) c b a l bs := by
  have run := returnBytes_eq piece length
  refine ⟨fun missing => ?_, fun full regs => ?_, fun o full toS here => ?_⟩
  · rw [run, if_pos missing]
    exact ⟨by rw [regsOf, keptPiece, bankOf_updBank]; rfl, by rw [keptPiece, bankOf_updBank], find?_keptPiece piece⟩
  · rw [run, if_neg full, delivered, regs]
    refine ⟨loadedMark a l, ?_, ?_⟩
    · rw [regsOf, bankOf_updBank, dropLoad, bankOf_updBank]
      rfl
    · rw [bankOf_updBank, dropLoad, bankOf_updBank]
      rfl
  · have bank : bankOf (dropLoad s c b l) c b = { bankOf s c b with loads := (bankOf s c b).loads.filter (fun e => e.id != l.id) } :=
      bankOf_updBank s c b _
    have stays (p : Nat) : sByte (dropLoad s c b l) c p = sByte s c p := sByte_updBank s c b _ c p
    have sized : ((come l a bs).map fun x => x.getD 0).length = l.size := by rw [List.length_map, come, List.length_map, List.length_range]
    have written : writeBankS (dropLoad s c b l) c b o ((come l a bs).map fun x => x.getD 0) =
        writeS (dropLoad s c b l) c (bankOf s c b).part o ((come l a bs).map fun x => x.getD 0) := by
      rw [writeBankS]
      simp only [bank, here]
    rw [run, if_neg full, delivered, toS]
    simp only [written]
    refine ⟨?_, fun j lt => ?_, fun p out => ?_⟩
    · rw [regsOf_writeS, regsOf, bank]
      rfl
    · rw [sByte_writeS, sized, if_pos (by omega), Nat.add_sub_cancel_left]
    · rw [sByte_writeS, sized, if_neg (by omega), stays]

/-! ### The step -/

/-- The access leaves those in flight. -/
def leaves (s : State) (c b i : Nat) : State := updBank s c b fun k => { k with inflight := dropBarriers (removeAt k.inflight i) }

theorem go_when {m : Act Unit} {β : Type} {p : Prop} [Decidable p] (run : (if p then m else pure ()).go s = (.ok (), t)) (f : Unit → Act β) :
    (if p then m >>= f else f ()).go s = (f ()).go t := go_ite_bind run f

theorem go_set_then {β : Type} (f : Unit → Act β) : Act.go (set t >>= f) s = (f ()).go t := rfl

/-- What the access is and finds when it performs, where nothing holds it back and it has its turn. -/
theorem go_performInflight (may : MayPerform s c k b i a)
    (turn : (if a.kind == .atomic || a.kind == .casSec then atomicTurn c b a else pure ()).go s = (.ok (), u)) :
    ∃ t, (performInflight c b i).go s = (.ok (), t) ∧
      Pumped c b (returnBytes (leaves (performAccess u a).1 c b i) c b a (performAccess u a).2) t := by
  obtain ⟨t, run, pumped, -⟩ := go_pump c b (returnBytes (leaves (performAccess u a).1 c b i) c b a (performAccess u a).2)
  refine ⟨t, ?_, pumped⟩
  rw [performInflight, go_state_then]
  simp only [may.isIt]
  rw [go_needs_then (by rw [may.isLocal]; rfl), go_waitUntil_then may.clear, go_waitUntil_then (by rw [may.free]; rfl)]
  refine (go_when turn _).trans ?_
  rw [go_state_then, go_set_then, go_change_then, go_change_then]
  exact run

theorem exec_loadDataArrival {core : BitVec 8} (may : MayPerform s core.toNat k b i a) (kind : a.kind = .load)
    (run : (performInflight core.toNat b i).go s = (.ok (), t)) : exec (.loadDataArrival core k) s = .next t := by
  refine asStep_ok ?_
  rw [go_state_then]
  simp only [may.found]
  rw [go_needs_then (by rw [may.isIt, Option.map_some, kind]; rfl), run]

theorem go_storePerformed {core : BitVec 8} (may : MayPerform s core.toNat k b i a) (kind : a.kind.isWrite = true) :
    exec (.storePerformedAtHome core k) s = asStep (performInflight core.toNat b i) s := by
  have runs : exec (.storePerformedAtHome core k) s = execStorePerformedAtHome core k s := rfl
  have found : ((bankOf s core.toNat b).inflight[i]?).map (fun a => a.kind) = some a.kind := by rw [may.isIt, Option.map_some]
  rw [runs, execStorePerformedAtHome, asStep, asStep, go_state_then]
  simp only [may.found]
  rw [go_needs_then (by rw [found]; exact kind)]

theorem mem_updBank (s : State) (c b : Nat) (f : Bank → Bank) : (updBank s c b f).mem = s.mem := rfl

theorem host_updBank (s : State) (c b : Nat) (f : Bank → Bank) : (updBank s c b f).host = s.host := rfl

/-- A return changes banks and S alone. -/
theorem returnBytes_keeps {β : Type} (F : State → β) (keeps : ∀ s k, F { s with cores := k } = F s) : F (returnBytes s c b a bs) = F s := by
  have bank (s : State) (f : Bank → Bank) : F (updBank s c b f) = F s := keeps s _
  have store (s : State) (p : Part) (o : Nat) (all : List Byte) : F (writeS s c p o all) = F s := keeps s _
  unfold returnBytes writeBankS
  dsimp only
  split
  · rfl
  · split
    · exact bank _ _
    · split
      · exact bank _ _
      · split
        · exact (bank _ _).trans (bank _ _)
        · exact (store _ _ _ _).trans (bank _ _)
      · exact (bank _ _).trans (bank _ _)

/-- Memory, and what decodes an address, after an access that has performed. -/
theorem performed_keeps {β : Type} (F : State → β) (keeps : ∀ s k, F { s with cores := k } = F s)
    (after : Pumped c b (returnBytes (leaves s c b i) c b a bs) t) (pumped : ∀ s k d n f, F { s with cores := k, dies := d, net := n, fresh := f } = F s) :
    F t = F s := by
  obtain ⟨_, _, _, _, rfl⟩ := after.rest
  rw [pumped, returnBytes_keeps F keeps]
  exact keeps s _

theorem returned_performed (piece : PieceOf s c b a l) (length : bs.length = a.len)
    (after : Pumped c b (returnBytes (leaves s c b i) c b a bs) t) : Returned s t c b a l bs := by
  have bank : bankOf (leaves s c b i) c b = { bankOf s c b with inflight := dropBarriers (removeAt (bankOf s c b).inflight i) } := bankOf_updBank s c b _
  have piece' : PieceOf (leaves s c b i) c b a l := ⟨by rw [bank]; exact piece.found, piece.whole, piece.inside⟩
  exact returned_congr (returned_pumped (returned_returnBytes piece' length) after) (by rw [regsOf, regsOf, bank]) (by rw [bank])
    (by rw [bank]) (by rw [bank]) (fun p => (sByte_updBank s c b _ c p).symm) rfl rfl rfl fun _ => rfl

/-! ### Loads and stores -/

theorem loadedBytes_eq (length : a.fwd.length = a.len) :
    ((readBytes s a.pa a.len).zip (a.fwd ++ List.replicate a.len none)).map (fun e => e.2.getD e.1) =
      (List.range a.len).map fun j => (a.fwd.getD j none).getD (readByte s (a.pa + j)) := by
  refine List.ext_getElem (by simp [readBytes, length]) fun j lt _ => ?_
  have within : j < a.len := by simpa [readBytes, length] using lt
  simp [readBytes, length, within]

theorem loadDataArrives : LoadDataArrives := by
  intro s c k b i a l may kind piece length bytes
  obtain ⟨t, run, after⟩ := go_performInflight (u := s) may (by rw [kind]; rfl)
  have brings : performAccess s a = (s, bytes) := by
    unfold performAccess
    rw [kind]
    exact congrArg (Prod.mk s) (loadedBytes_eq length)
  rw [brings] at after
  exact ⟨t, exec_loadDataArrival may kind run, performed_keeps State.mem (fun _ _ => rfl) after fun _ _ _ _ _ => rfl,
    returned_performed piece (by simp [bytes]) after⟩

theorem sendVector_changes (s : State) (v : Nat) : ∃ h, sendVector s v = { s with host := h } := by
  unfold sendVector
  dsimp only
  split
  · exact ⟨_, rfl⟩
  · split
    · exact ⟨_, rfl⟩
    · exact ⟨s.host, rfl⟩

/-- A store brings nothing, and sends at most its message. -/
theorem performAccess_store (kind : a.kind = .store ∨ a.kind = .stf) :
    ∃ h, performAccess s a = ({ writeBytes s a.pa a.data with host := h }, []) := by
  unfold performAccess
  obtain kind | kind := kind
  all_goals
    rw [kind]
    dsimp only
    split
    · exact ⟨(writeBytes s a.pa a.data).host, rfl⟩
    · obtain ⟨h, sent⟩ := sendVector_changes (writeBytes s a.pa a.data) (a.notify - 1)
      exact ⟨h, by rw [sent]⟩

theorem storePerforms : StorePerforms := by
  intro s c k b i a may kind unknown
  have plain : (a.kind == .atomic || a.kind == .casSec) = false := by obtain kind | kind := kind <;> rw [kind] <;> rfl
  have write : a.kind.isWrite = true := by obtain kind | kind := kind <;> rw [kind] <;> rfl
  obtain ⟨t, run, after⟩ := go_performInflight (u := s) may (by rw [plain]; rfl)
  obtain ⟨h, stores⟩ := performAccess_store (s := s) kind
  rw [stores] at after
  dsimp only at after
  have same : bankOf { writeBytes s a.pa a.data with host := h } c.toNat b = bankOf s c.toNat b :=
    congrArg (fun k => sget Bank.reset (sget Core.reset k c.toNat).banks b) (writeBytes_cores a.data s a.pa)
  have bank : bankOf (leaves { writeBytes s a.pa a.data with host := h } c.toNat b i) c.toNat b =
      { bankOf s c.toNat b with inflight := dropBarriers (removeAt (bankOf s c.toNat b).inflight i) } := by
    rw [leaves, bankOf_updBank, same]
  have none : (bankOf (leaves { writeBytes s a.pa a.data with host := h } c.toNat b i) c.toNat b).loads.find? (fun e => e.id == a.id) = none := by
    rw [bank]
    exact List.find?_eq_none.mpr fun e mem => by simpa using unknown e mem
  have memory : t.mem = State.mem { writeBytes s a.pa a.data with host := h } :=
    performed_keeps State.mem (fun _ _ => rfl) after fun _ _ _ _ _ => rfl
  refine ⟨t, (go_storePerformed may write).trans (asStep_ok run), memory, ?_⟩
  rw [returnBytes_of_unknown none] at after
  rw [regsOf_pumped after, regsOf, bank]
  rfl

/-! ### Atomics (12 R322; 06 R158, R159) -/

/-- An atomic leaves its result, or, where it writes nothing, its result is what it read. -/
theorem atomicNew_eq (aop : BitVec 3) {n : Nat} (old : BitVec (8 * n)) (x y : Word) :
    atomicNew aop n old.toNat x y = some (atomicResult aop n old x y).toNat ∨
      (atomicNew aop n old.toNat x y = none ∧ atomicResult aop n old x y = old) := by
  have operand : x.toNat % 2 ^ (8 * n) = (x.setWidth (8 * n)).toNat := (BitVec.toNat_setWidth (8 * n) x).symm
  have expected : y.toNat % 2 ^ (8 * n) = (y.setWidth (8 * n)).toNat := (BitVec.toNat_setWidth (8 * n) y).symm
  simp only [atomicNew, atomicResult, operand, expected, BitVec.ofNat_toNat, BitVec.setWidth_eq]
  generalize x.setWidth (8 * n) = z
  generalize y.setWidth (8 * n) = e
  have ops : aop = 0 ∨ aop = 1 ∨ aop = 2 ∨ aop = 3 ∨ aop = 4 ∨ aop = 5 ∨ aop = 6 ∨ aop = 7 := by revert aop; decide
  obtain rfl | rfl | rfl | rfl | rfl | rfl | rfl | rfl := ops
  · exact .inl (congrArg some (BitVec.toNat_add old z).symm)
  · exact .inl (congrArg some (BitVec.toNat_and old z).symm)
  · exact .inl (congrArg some (BitVec.toNat_or old z).symm)
  · exact .inl (congrArg some (BitVec.toNat_xor old z).symm)
  · exact .inl rfl
  · refine .inl (congrArg some ?_)
    by_cases less : old.toInt < z.toInt <;> simp [BitVec.slt, less]
  · refine .inl (congrArg some ?_)
    by_cases less : old.toInt < z.toInt <;> simp [BitVec.slt, less]
  · by_cases equal : old = e
    · exact .inl (by simp [equal])
    · exact .inr (by simp [equal, BitVec.toNat_inj])

section
variable {q : Nat} {r : Option Nat} {x : State}

theorem go_atomicTurn_plain (plain : a.log = false ∨ ∀ l, ¬ Deterministic s c b l) : (atomicTurn c b a).go s = (.ok (), s) := by
  unfold atomicTurn
  split
  case isFalse => rfl
  case isTrue log =>
    obtain unlogged | free := plain
    · rw [unlogged] at log
      cases log
    · rw [go_state_then]
      split
      case h_1 => rfl
      case h_2 l launch =>
        obtain ⟨t, task, launch⟩ := Option.bind_eq_some_iff.mp launch
        obtain ⟨q, held, launch⟩ := Option.bind_eq_some_iff.mp launch
        dsimp only
        split
        case h_1 k known =>
          rw [if_neg fun det => free l ⟨t, q, k, task, held, launch, known, det⟩]
          rfl
        case h_2 => rfl

theorem go_atomicTurn_forced (log : a.log = true) (det : Deterministic s c b q)
    (winner : (forcedWinner q 2 (targetDie a.target) (a.pa / 32 % 2 ^ 26)).go s = (.ok r, x)) :
    (atomicTurn c b a).go s = match r with
      | some win => (waitUntil (win == c) >>= fun _ => logChoice q 2 (targetDie a.target) (a.pa / 32 % 2 ^ 26) c).go x
      | none => (logChoice q 2 (targetDie a.target) (a.pa / 32 % 2 ^ 26) c).go x := by
  obtain ⟨t, e, k, task, held, launch, known, determ⟩ := det
  unfold atomicTurn
  rw [if_pos log, go_state_then]
  simp only [task, held, launch, known, determ, Option.bind_some, if_true]
  rw [go_bind_ok winner]
  cases r <;> rfl

theorem go_atomicTurn (turn : HasTurn s c b a u) : (atomicTurn c b a).go s = (.ok (), u) ∧ bankOf u c b = bankOf s c b := by
  obtain ⟨rfl, plain⟩ | ⟨l, r, x, log, det, winner, mine, chosen, bank⟩ := turn
  · exact ⟨go_atomicTurn_plain plain, rfl⟩
  · refine ⟨(go_atomicTurn_forced log det winner).trans ?_, bank⟩
    obtain rfl | rfl := mine
    · exact chosen
    · exact (go_waitUntil_then (by simp) _).trans chosen

theorem piece_of_bank (bank : bankOf u c b = bankOf s c b) (piece : PieceOf s c b a l) : PieceOf u c b a l :=
  ⟨by rw [bank]; exact piece.found, piece.whole, piece.inside⟩

/-- An atomic and a sector compare-and-swap change memory alone. -/
theorem performAccess_cores (kind : a.kind = .atomic ∨ a.kind = .casSec) (s : State) : (performAccess s a).1.cores = s.cores := by
  unfold performAccess
  obtain kind | kind := kind
  all_goals
    rw [kind]
    dsimp only
    split
    · exact writeBytes_cores _ _ _
    · rfl

theorem returned_of_cores (cores : u.cores = s.cores) (h : Returned u t c b a l bs) : Returned s t c b a l bs := by
  have bank : bankOf s c b = bankOf u c b := congrArg (fun k => sget Bank.reset (sget Core.reset k c).banks b) cores.symm
  exact returned_congr h (congrArg Bank.regs bank) (congrArg Bank.restart bank) (congrArg Bank.part bank) (congrArg Bank.overS bank)
    (fun p => congrArg (fun k => sget 0 (sget Core.reset k c).sBytes p) cores.symm) rfl rfl rfl fun _ => rfl

/-- An atomic in place leaves its result in memory and brings what it read. -/
theorem performAccess_atomic (kind : a.kind = .atomic) (s : State) :
    ∃ v, performAccess s a = (v, readBytes s a.pa a.len) ∧ ∀ p, readByte v p = readByte (writeBytes s a.pa (leBytes a.len
      (atomicResult a.aop a.len (BitVec.ofNat (8 * a.len) (leNat (readBytes s a.pa a.len))) a.opB a.opD).toNat)) p := by
  have lt := leNat_lt (readBytes s a.pa a.len)
  have own := leBytes_leNat (readBytes s a.pa a.len)
  rw [length_readBytes] at lt own
  have old : (BitVec.ofNat (8 * a.len) (leNat (readBytes s a.pa a.len))).toNat = leNat (readBytes s a.pa a.len) := by
    rw [BitVec.toNat_ofNat, Nat.mod_eq_of_lt lt]
  have result := atomicNew_eq a.aop (BitVec.ofNat (8 * a.len) (leNat (readBytes s a.pa a.len))) a.opB a.opD
  rw [old] at result
  unfold performAccess
  rw [kind]
  dsimp only
  obtain written | ⟨stays, same⟩ := result
  · rw [written]
    exact ⟨_, rfl, fun _ => rfl⟩
  · rw [stays, same, old, own]
    exact ⟨_, rfl, fun p => (readByte_writeBytes_own a.len p s a.pa).symm⟩

theorem atomicPerforms : AtomicPerforms := by
  intro s c k b i a l may kind _ piece
  have write : a.kind.isWrite = true := by rw [kind]; rfl
  have takes : (a.kind == .atomic || a.kind == .casSec) = true := by rw [kind]; rfl
  refine ⟨fun u turn => ?_, fun q r u log det winner other => ?_⟩
  · obtain ⟨goes, bank⟩ := go_atomicTurn turn
    obtain ⟨t, run, after⟩ := go_performInflight (u := u) may (by rw [if_pos takes]; exact goes)
    obtain ⟨v, performs, bytes⟩ := performAccess_atomic kind u
    have cores : v.cores = u.cores := by
      have same := performAccess_cores (.inl kind) u
      rwa [performs] at same
    have same : bankOf v c.toNat b = bankOf u c.toNat b := congrArg (fun k => sget Bank.reset (sget Core.reset k c.toNat).banks b) cores
    rw [performs] at after
    dsimp only at after
    refine ⟨t, (go_storePerformed may write).trans (asStep_ok run), fun p => ?_, ?_⟩
    · rw [← bytes p]
      exact readByte_congr (performed_keeps State.host (fun _ _ => rfl) after fun _ _ _ _ _ => rfl)
        (performed_keeps State.mem (fun _ _ => rfl) after fun _ _ _ _ _ => rfl) p
    · have returned := returned_performed (piece_of_bank (same.trans bank) piece) (length_readBytes u a.pa a.len) after
      exact returned_of_cores cores returned
  · have waits : (atomicTurn c.toNat b a).go s = (.error .wait, u) :=
      (go_atomicTurn_forced log det winner).trans (go_bind_error (by simp [other]) _)
    refine (go_storePerformed may write).trans (asStep_wait ?_)
    rw [performInflight, go_state_then]
    simp only [may.isIt]
    rw [go_needs_then (by rw [may.isLocal]; rfl), go_waitUntil_then may.clear, go_waitUntil_then (by rw [may.free]; rfl), if_pos takes]
    exact go_bind_error waits _

theorem sectorSwapPerforms : SectorSwapPerforms := by
  intro s c k b i a l may kind unlogged sector length piece
  have write : a.kind.isWrite = true := by rw [kind]; rfl
  have takes : (a.kind == .atomic || a.kind == .casSec) = true := by rw [kind]; rfl
  obtain ⟨t, run, after⟩ := go_performInflight (u := s) may (by rw [if_pos takes]; exact go_atomicTurn_plain (.inl unlogged))
  have cores := performAccess_cores (.inr kind) s
  have performs : performAccess s a =
      (if readBytes s a.pa 32 = a.data.take 32 then writeBytes s a.pa (a.data.drop 32) else s, readBytes s a.pa 32) := by
    have whole : (a.data.drop 32).take 32 = a.data.drop 32 := List.take_of_length_le (by rw [List.length_drop, length])
    unfold performAccess
    rw [kind, sector]
    dsimp only
    rw [whole]
    simp only [beq_iff_eq]
    split <;> rfl
  rw [performs] at after cores
  have same := congrArg (fun k => sget Bank.reset (sget Core.reset k c.toNat).banks b) cores
  dsimp only at after
  exact ⟨t, (go_storePerformed may write).trans (asStep_ok run), performed_keeps State.mem (fun _ _ => rfl) after fun _ _ _ _ _ => rfl,
    returned_of_cores cores (returned_performed (piece_of_bank same piece) ((length_readBytes s a.pa 32).trans sector.symm) after)⟩

end

end

/-- Settles O15: the access in place performs, its bytes come back, and the sending that follows changes no byte and no register. -/
theorem accessesPerform : Obligations.AccessesPerform := ⟨loadDataArrives, storePerforms, atomicPerforms, sectorSwapPerforms⟩

end Sys2Proof.Proofs
end

section
/-!
PROOF. Fences, flushes and owner flips (12 R325 to R328; 08 R203, R204, R216; 09 R229).
-/

namespace Sys2Proof.Proofs

open Sys2Proof.Machine Sys2Proof.Safety Sys2Proof.Claims

section
variable {w : Who} {g : Guard} {s s1 t u : State} {a : Spec} {x : Val} {n : BitVec 8} {scope : BitVec 3} {mask : BitVec 16}

theorem go_waitUntil_stops {β : Type} {ok : Bool} (h : ok = false) (f : Unit → Act β) (s : State) :
    Act.go (waitUntil ok >>= f) s = (.error .wait, s) := go_bind_error (by simp [h]) f

theorem issue_stands {m : Nat} {body : Who → Act Flow} (issues : Issues w g s) (waits : (body w).go s = (.error .wait, t)) (same : SameBut w s t) :
    issue g m body s = .next (stood w s) := issueWith_stands issues ⟨t, waits, same⟩

/-! ### fence and tkwait -/

theorem exec_fence (g : Guard) (scope : BitVec 3) (mask : BitVec 16) (s : State) : exec (.fence g scope mask) s =
    issue g 2 (fun w => state >>= fun s => waitUntil (mask == 0 || performed (bank w s) mask (scope == 0)) >>= fun _ => newId >>= fun id =>
      change (fun s => updBank s w.core w.bank (fun k => leaveBarrier k mask id)) >>= fun _ => pure .next) s := rfl

theorem exec_tkwait (g : Guard) (s : State) : exec (.tkwait g) s =
    issue g 1 (fun w => state >>= fun s => waitUntil (bank w s).tickets.isEmpty >>= fun _ => pure .next) s := rfl

theorem leaveBarrier_appends (k : Bank) (mask : BitVec 16) (id : Nat) : ∃ l, leaveBarrier k mask id = { k with inflight := k.inflight ++ l } := by
  rw [leaveBarrier]
  split
  · exact ⟨_, rfl⟩
  · exact ⟨[], by rw [List.append_nil]⟩

theorem fence_completes (issues : Issues w g s) (done : mask = 0 ∨ performed (bank w s) mask (scope == 0) = true) :
    ∃ v, exec (.fence g scope mask) s = .next v ∧ regs w v = pcOn (regs w s) 2 ∧ v.mem = s.mem ∧
      (bank w v).storeBuf = (bank w s).storeBuf ∧ (bank w v).loads = (bank w s).loads ∧
      (bank w v).tickets = (bank w s).tickets ∧ ∀ a ∈ (bank w s).inflight, a ∈ (bank w v).inflight := by
  have passes : (mask == 0 || performed (bank w s) mask (scope == 0)) = true := by simpa using done
  obtain ⟨l, appends⟩ := leaveBarrier_appends (bank w s) mask s.nextId
  let t := updBank { s with nextId := s.nextId + 1 } w.core w.bank fun k => leaveBarrier k mask s.nextId
  have left : bank w t = { bank w s with inflight := (bank w s).inflight ++ l } := (bankOf_updBank _ w.core w.bank _).trans appends
  rw [exec_fence, issue_next (t := t) issues]
  · refine ⟨_, rfl, ?_, rfl, ?_, ?_, ?_, fun a mem => ?_⟩
    · rw [regs_withRegs, regs, regsOf, ← bank, left]
      rfl
    all_goals rw [bank_withRegs, left]
    exact List.mem_append_left _ mem
  · rw [go_state_then, go_waitUntil_then passes, go_bind_ok (go_newId s), go_change_then, go_pure]
  · rw [left]
    exact acts_task issues.toActs

theorem fencesComplete : FencesComplete := by
  intro w g s issues
  refine ⟨fun scope mask => ⟨fence_completes issues, fun ne missing => ?_⟩, fun none => ?_, fun some => ?_⟩
  · rw [exec_fence]
    refine issue_stands issues ?_ (SameBut.refl w s)
    rw [go_state_then]
    exact go_waitUntil_stops (by rw [beq_eq_false_iff_ne.mpr ne, missing]; rfl) _ s
  · rw [exec_tkwait, issue_next (t := s) issues _ (acts_task issues.toActs)]
    rw [go_state_then, go_waitUntil_then (by rw [none]; rfl), go_pure]
  · rw [exec_tkwait]
    refine issue_stands issues ?_ (SameBut.refl w s)
    rw [go_state_then]
    exact go_waitUntil_stops (by simpa using some) _ s

/-! ### iflush and isync -/

/-- The caches of every core in the scope are empty. -/
def flushed (scope : BitVec 3) (c : Nat) (s : State) : State :=
  (s.cores.map (fun e => e.1)).foldl (fun s d => if inScope scope c d then dropLines s d else s) s

theorem coreOf_flushed (scope : BitVec 3) (c d : Nat) (s : State) :
    (coreOf (flushed scope c s) d).icache = if inScope scope c d = true then [] else (coreOf s d).icache := by
  have read := read_foldl (read := coreOf) (upd := dropLines) (f := fun k : Core => { k with icache := [] }) (p := inScope scope c)
    (fun s d => coreOf_updCore s d _) (fun s d e ne => coreOf_updCore_other s _ ne) (fun _ => rfl) d s.cores s
  rw [flushed, List.foldl_map, read]
  by_cases within : inScope scope c d = true
  · by_cases listed : d ∈ s.cores.map (fun e => e.1)
    · rw [if_pos ⟨within, listed⟩, if_pos within]
    · rw [if_neg fun h => listed h.2, if_pos within, coreOf, sget_absent _ _ _ listed]
      rfl
  · rw [if_neg fun h => within h.1, if_neg within]

theorem bankOf_dropLines (s : State) (d c b : Nat) : bankOf (dropLines s d) c b = bankOf s c b := by
  by_cases same : c = d
  · subst same
    exact bankOf_updCore_data s c b fun _ => rfl
  · rw [bankOf, dropLines, coreOf_updCore_other _ _ same, bankOf]

theorem bankOf_flushed (scope : BitVec 3) (d c b : Nat) (s : State) : bankOf (flushed scope d s) c b = bankOf s c b :=
  foldl_keeps (g := fun s => bankOf s c b) (fun s e => by split; exacts [bankOf_dropLines s e c b, rfl]) _ _

theorem mem_flushed (scope : BitVec 3) (c : Nat) (s : State) : (flushed scope c s).mem = s.mem :=
  foldl_keeps (g := State.mem) (fun s e => by split <;> rfl) _ _

/-- The cores of a scope, as 08 Table 1 lists them. -/
theorem inScope_iff (scope : BitVec 3) (c d : Nat) : inScope scope c d = true ↔ (match scope.toNat with
    | 0 => d = c
    | 1 => d / 8 = c / 8
    | 2 => d / 64 = c / 64
    | _ => True) := by
  unfold inScope
  generalize scope.toNat = k
  rcases k with _ | _ | _ | k
  · exact beq_iff_eq.trans eq_comm
  · exact beq_iff_eq.trans eq_comm
  · exact beq_iff_eq.trans eq_comm
  · exact iff_of_true rfl trivial

theorem linesFlushed : LinesFlushed := by
  intro w g s issues
  have task := acts_task issues.toActs
  refine ⟨fun scope => ?_, ?_⟩
  · have same := bankOf_flushed scope w.core w.core w.bank s
    have runs : exec (.iflush g scope) s = issue g 1 (fun w => change (flushed scope w.core) >>= fun _ => pure .next) s := rfl
    refine ⟨_, runs.trans (issue_next (t := flushed scope w.core s) issues (go_change_then _ _) ?_), ?_, mem_flushed scope w.core s, fun d => ?_⟩
    · exact (congrArg Bank.task same).trans task
    · rw [regs_withRegs]
      exact congrArg (fun k : Bank => pcOn k.regs 1) same
    · have lines : (coreOf (withRegs w (flushed scope w.core s) (pcOn (regs w (flushed scope w.core s)) 1)) d).icache =
          if inScope scope w.core d = true then [] else (coreOf s d).icache :=
        (coreOf_updBank_field Core.icache (fun _ _ => rfl) _ _ _ _ d).trans (coreOf_flushed scope w.core d s)
      refine ⟨fun within => lines.trans (if_pos ((inScope_iff scope w.core d).mpr within)),
        fun out => lines.trans (if_neg fun within => out ((inScope_iff scope w.core d).mp within))⟩
  · have runs : exec (.isync g) s = issue g 1 (fun w => change (fun s => dropLines s w.core) >>= fun _ => pure .next) s := rfl
    have same := bankOf_dropLines s w.core w.core w.bank
    rw [runs, issue_next issues (go_change_then _ _) ((congrArg Bank.task same).trans task)]
    exact congrArg (fun k : Bank => Host.Outcome.next (withRegs w (dropLines s w.core) (pcOn k.regs 1))) same

/-! ### own.t and own.e -/

theorem slotOf_setSlot (s : State) (c n : Nat) (o : Slot) (k : Nat) : slotOf (setSlot s c n o) c k = if k = n then o else slotOf s c k := by
  rw [slotOf, setSlot, coreOf_updCore, sget_sset, slotOf]

theorem clearShadow_changes (s : State) (c n : Nat) : ∃ f : Core → Sparse Byte, clearShadow s c n = updCore s c (fun k => { k with sBytes := f k }) :=
  ⟨_, by rw [clearShadow]⟩

theorem slotOf_clearShadow (s : State) (c n k : Nat) : slotOf (clearShadow s c n) c k = slotOf s c k := by
  rw [slotOf, clearShadow, coreOf_updCore, slotOf]

theorem mem_clearShadow (s : State) (c n : Nat) : (clearShadow s c n).mem = s.mem := by
  obtain ⟨f, changes⟩ := clearShadow_changes s c n
  rw [changes]
  rfl

theorem bankOf_clearShadow (s : State) (c b n : Nat) : bankOf (clearShadow s c n) c b = bankOf s c b := by
  obtain ⟨f, changes⟩ := clearShadow_changes s c n
  rw [changes]
  exact bankOf_updCore_data s c b fun _ => rfl

theorem flip_same {c b slot : Nat} {e : Bool} (owner : (slotOf s c ((bankOf s c b).part.s0 + slot)).owner = e) : flip s c b slot e = s :=
  if_pos owner

/-- What the clearing of a slot's shadow words leaves, a flip changes as the slot's owner does. -/
theorem flip_field {β : Type} {c b slot : Nat} {e : Bool} (F : State → β) (clears : ∀ s n, F (clearShadow s c n) = F s)
    (other : ¬ (slotOf s c ((bankOf s c b).part.s0 + slot)).owner = e) : F (flip s c b slot e) =
      F (setSlot s c ((bankOf s c b).part.s0 + slot) { slotOf s c ((bankOf s c b).part.s0 + slot) with owner := e }) := by
  rw [Machine.flip, if_neg other]
  dsimp only
  split
  · exact clears _ _
  · rfl

theorem slotOf_flip (s : State) (c b slot : Nat) (e : Bool) (k : Nat) : slotOf (flip s c b slot e) c k =
    if k = (bankOf s c b).part.s0 + slot then { slotOf s c k with owner := e } else slotOf s c k := by
  by_cases owner : (slotOf s c ((bankOf s c b).part.s0 + slot)).owner = e
  · rw [flip_same owner]
    split
    case isTrue at_ => rw [at_, ← owner]
    case isFalse => rfl
  · rw [flip_field (slotOf · c k) (fun s n => slotOf_clearShadow s c n k) owner, slotOf_setSlot]
    split
    case isTrue at_ => rw [at_]
    case isFalse => rfl

theorem mem_flip (s : State) (c b slot : Nat) (e : Bool) : (flip s c b slot e).mem = s.mem := by
  by_cases owner : (slotOf s c ((bankOf s c b).part.s0 + slot)).owner = e
  · rw [flip_same owner]
  · exact flip_field State.mem (fun s n => mem_clearShadow s c n) owner

theorem bankOf_flip (s : State) (c b slot : Nat) (e : Bool) : bankOf (flip s c b slot e) c b = bankOf s c b := by
  by_cases owner : (slotOf s c ((bankOf s c b).part.s0 + slot)).owner = e
  · rw [flip_same owner]
  · exact (flip_field (bankOf · c b) (fun s n => bankOf_clearShadow s c b n) owner).trans (bankOf_updCore_data s c b fun _ => rfl)

/-- The state behind a flip of the slot, as the recorder may have seen it. -/
structure Flips (w : Who) (s t : State) (slot : Nat) (e : Bool) : Prop where
  recorded : Recorded (flip s w.core w.bank slot e) t

theorem bank_flips {slot : Nat} {e : Bool} (h : Flips w s t slot e) : bank w t = bank w s :=
  (bankOf_recorded h.recorded _ _).trans (bankOf_flip s w.core w.bank slot e)

theorem flipped_flips {slot : Nat} {e : Bool} (same : SameBut w s s1) (h : Flips w s1 t slot e) (r : Regs) : Flipped w s (withRegs w t r) slot e := by
  have alike := sameS_sameBut same
  refine ⟨?_, fun n => ?_⟩
  · exact (field_recorded h.recorded State.mem fun _ _ => rfl).trans ((mem_flip s1 _ _ _ _).trans (mem_sameBut same))
  · rw [withRegs, setRegs, slotOf_updBank, field_recorded h.recorded (slotOf · w.core n) fun _ _ => rfl, slotOf_flip, ← bank, alike.part,
      alike.slots]

theorem go_flipSlot (read : (readSrc w a).go s = (.ok x, s1)) (inside : (x.v.toNat + n.toNat) % 256 < (bank w s).part.sn) :
    (flipSlot w a n).go s = (.ok ((x.v.toNat + n.toNat) % 256), s1) := by
  have fits : (x.v.toNat + n.toNat) % 256 < (partOf s1 w).sn := by
    have part : partOf s1 w = (bank w s).part := (sameS_readSrc read).part
    rw [part]
    exact inside
  rw [flipSlot, go_bind_ok read, go_state_then, go_requireOpen_then (decide_eq_true fits), go_pure]

theorem slotBusy_withRegs (w : Who) (s : State) (r : Regs) (slot : Nat) :
    slotBusy (withRegs w s r) w.core w.bank slot = slotBusy s w.core w.bank slot := by
  have same : bankOf (withRegs w s r) w.core w.bank = { bankOf s w.core w.bank with regs := r } := bank_withRegs w s r
  rw [slotBusy, same, slotBusy]
  rfl

/-- A flip is complete once the registers' PC has moved on. -/
theorem issue_flips {body : Who → Act Flow} {slot : Nat} {e : Bool} (issues : Issues w g s) (same : SameBut w s s1) (flips : Flips w s1 t slot e)
    (runs : (body w).go s = (.ok .next, t)) : ∃ v, issue g 1 body s = .next v ∧ regs w v = pcOn (regs w s1) 1 ∧ Flipped w s v slot e := by
  refine ⟨_, issue_next issues runs ?_, ?_, flipped_flips same flips _⟩
  · exact (congrArg Bank.task (bank_flips flips)).trans (same.task.trans (acts_task issues.toActs))
  · rw [regs_withRegs]
    exact congrArg (fun k : Bank => pcOn k.regs 1) (bank_flips flips)

theorem flips_same {slot : Nat} {e : Bool} (owner : (slotOf s w.core ((bank w s).part.s0 + slot)).owner = e) : Flips w s s slot e :=
  ⟨by rw [flip_same owner]; exact recorded_refl s⟩

theorem flips_recFlip (w : Who) (s : State) (slot : Nat) (e : Bool) : Flips w s (recFlip (flip s w.core w.bank slot e) w.task slot e) slot e :=
  ⟨recorded_recUpd _ _ _⟩

theorem exec_ownT (g : Guard) (a : Spec) (n : BitVec 8) (s : State) : exec (.ownT g a n) s =
    issue g 1 (fun w => flipSlot w a n >>= fun slot => state >>= fun s => requireOpen (!ringHolds (bank w s) slot) .ownerViolation >>= fun _ =>
      state >>= fun t => if (slotOf t w.core ((bank w s).part.s0 + slot)).owner = true then waitUntil (!slotBusy t w.core w.bank slot) >>= fun _ =>
        change (fun s => recFlip (flip s w.core w.bank slot false) w.task slot false) >>= fun _ => pure .next
      else pure .next) s := rfl

theorem ownT_flips {slot : Nat} (issues : Issues w g s) (read : (readSrc w a).go s = (.ok x, s1)) (at_ : slot = (x.v.toNat + n.toNat) % 256)
    (inside : slot < (bank w s).part.sn) (noRing : ringHolds (bank w s) slot = false)
    (free : (slotOf s w.core ((bank w s).part.s0 + slot)).owner = false ∨ slotBusy s w.core w.bank slot = false) :
    ∃ v, exec (.ownT g a n) s = .next v ∧ regs w v = pcOn (regs w s1) 1 ∧ Flipped w s v slot false := by
  subst at_
  have same := (readSrc_keeps read).1
  have alike := sameS_sameBut same
  have rings : ringHolds (bank w s1) ((x.v.toNat + n.toNat) % 256) = false := by
    rw [ringHolds, alike.rings]
    exact noRing
  rw [exec_ownT]
  by_cases engines : (slotOf s1 w.core ((bank w s1).part.s0 + (x.v.toNat + n.toNat) % 256)).owner = true
  · have idle : slotBusy s1 w.core w.bank ((x.v.toNat + n.toNat) % 256) = false := by
      rw [alike.part, alike.slots] at engines
      rw [field_sameBut same (slotBusy · w.core w.bank _) fun s r => slotBusy_withRegs w s r _]
      exact free.resolve_left fun thread => by rw [thread] at engines; cases engines
    refine issue_flips issues same (flips_recFlip w s1 _ false) ?_
    rw [go_bind_ok (go_flipSlot read inside), go_state_then, go_requireOpen_then (by rw [rings]; rfl), go_state_then, if_pos engines,
      go_waitUntil_then (by rw [idle]; rfl), go_change_then, go_pure]
  · refine issue_flips issues same (flips_same (Bool.eq_false_iff.mpr engines)) ?_
    rw [go_bind_ok (go_flipSlot read inside), go_state_then, go_requireOpen_then (by rw [rings]; rfl), go_state_then, if_neg engines, go_pure]

theorem exec_ownE (g : Guard) (a : Spec) (n : BitVec 8) (s : State) : exec (.ownE g a n) s =
    issue g 1 (fun w => flipSlot w a n >>= fun slot => state >>= fun s =>
      if (!(slotOf s w.core ((bank w s).part.s0 + slot)).owner) = true then waitUntil (!sWaits s w (2048 * slot) 2048) >>= fun _ =>
        change (fun s => recFlip (flip s w.core w.bank slot true) w.task slot true) >>= fun _ => pure .next
      else pure .next) s := rfl

theorem ownE_flips {slot : Nat} (issues : Issues w g s) (read : (readSrc w a).go s = (.ok x, s1)) (at_ : slot = (x.v.toNat + n.toNat) % 256)
    (inside : slot < (bank w s).part.sn)
    (free : (slotOf s w.core ((bank w s).part.s0 + slot)).owner = true ∨ sWaits s w (2048 * slot) 2048 = false) :
    ∃ v, exec (.ownE g a n) s = .next v ∧ regs w v = pcOn (regs w s1) 1 ∧ Flipped w s v slot true := by
  subst at_
  have same := (readSrc_keeps read).1
  have alike := sameS_sameBut same
  rw [exec_ownE]
  by_cases engines : (slotOf s1 w.core ((bank w s1).part.s0 + (x.v.toNat + n.toNat) % 256)).owner = true
  · refine issue_flips issues same (flips_same engines) ?_
    rw [go_bind_ok (go_flipSlot read inside), go_state_then, if_neg (by rw [engines]; decide), go_pure]
  · have settled : sWaits s1 w (2048 * ((x.v.toNat + n.toNat) % 256)) 2048 = false := by
      rw [alike.part, alike.slots] at engines
      exact (alike.sWaits _ _).trans (free.resolve_left engines)
    refine issue_flips issues same (flips_recFlip w s1 _ true) ?_
    rw [go_bind_ok (go_flipSlot read inside), go_state_then, if_pos (by rw [Bool.eq_false_iff.mpr engines]; rfl),
      go_waitUntil_then (by rw [settled]; rfl), go_change_then, go_pure]

end

theorem ownerFlips : OwnerFlips := by
  intro w g s s1 a n x issues read slot inside
  exact ⟨fun noRing free => ownT_flips issues read rfl inside noRing free, fun free => ownE_flips issues read rfl inside free⟩

/-- Settles O16: each completes from what it looks at; a flip of a slot that has its owner already is none. -/
theorem fencesAndOwners : Obligations.FencesAndOwners := ⟨fencesComplete, linesFlushed, ownerFlips⟩

end Sys2Proof.Proofs
end

section
/-!
PROOF. A commit and the fold operations (05 R115, R131 to R134; 12 R318, R329 to R331; 06 R160).
-/

namespace Sys2Proof.Proofs

open Sys2Proof.Machine Sys2Proof.Safety Sys2Proof.Claims

section
variable {w : Who} {g : Guard} {n : Nat} {s s1 t u v : State} {placed : List Access} {l : List BufEntry}

/-! ### A region begins (12 R331) -/

/-- The state behind an instruction of `n` slices that begins a region. -/
def regionBegun (w : Who) (n : Nat) (s : State) : State :=
  updBank s w.core w.bank fun k => { k with regs := pcOn k.regs n, restart := pcOn k.regs n, restartTgt := false, region := s.nextId }

@[simp] theorem bank_regionBegun (w : Who) (n : Nat) (s : State) : bank w (regionBegun w n s) =
    { bank w s with regs := pcOn (regs w s) n, restart := pcOn (regs w s) n, restartTgt := false, region := s.nextId } :=
  bankOf_updBank s w.core w.bank _

theorem regs_regionBegun (w : Who) (n : Nat) (s : State) : regs w (regionBegun w n s) = pcOn (regs w s) n := by
  rw [regs, regsOf, ← bank, bank_regionBegun]

theorem restart_regionBegun (w : Who) (n : Nat) (s : State) : (bank w (regionBegun w n s)).restart = regs w (regionBegun w n s) := by
  rw [regs, regsOf, ← bank, bank_regionBegun]

theorem issue_region {body : Who → Act Flow} (issues : Issues w g s) (runs : (body w).go s = (.ok .region, t))
    (holds : (bank w t).task = some w.task) : issue g n body s = .next (regionBegun w n t) := by
  have task : (bankOf t w.core w.bank).task = some w.task := holds
  rw [issue_ok issues runs, advance, if_pos task]
  rfl

/-! ### What a commit keeps (12 R318, R331) -/

/-- An agent's registers, its task and what contexts are granted are as they were. -/
structure CommitKeeps (w : Who) (s t : State) : Prop where
  regs : regs w t = regs w s
  task : (bank w t).task = (bank w s).task
  ctxs : t.ctxs = s.ctxs

theorem commitKeeps_chains (w : Who) : Chains (CommitKeeps w) where
  refl _ := ⟨rfl, rfl, rfl⟩
  trans h k := ⟨k.regs.trans h.regs, k.task.trans h.task, k.ctxs.trans h.ctxs⟩

theorem commitKeeps_of_reads {m : Act Access} (h : Keeps Machine.Reads m) : Keeps (CommitKeeps w) m := fun s =>
  ⟨congrArg Bank.regs ((h s).banks _ _), congrArg Bank.task ((h s).banks _ _), (h s).ctxs⟩

theorem keeps_commit_placeStores (w : Who) (l : List BufEntry) : ∀ last, Keeps (CommitKeeps w) (placeStores w last l) := by
  have C := commitKeeps_chains w
  induction l with
  | nil => exact fun _ => Keeps.pure C _
  | cons e r ih =>
    have entered (id : Nat) : Keeps (CommitKeeps w) (placeStore w id e >>= fun a => placeStores w id r >>= fun l => pure (a :: l)) :=
      Keeps.bind C (commitKeeps_of_reads (keeps_placeStore w id e)) fun _ => Keeps.bind C (ih id) fun _ => Keeps.pure C _
    have numbered : Keeps (CommitKeeps w) newId := fun _ => ⟨rfl, rfl, rfl⟩
    exact fun last => Keeps.ite (Keeps.bind C numbered entered) (entered last)

theorem commitKeeps_updBank {f : Bank → Bank} (keeps : ∀ k, (f k).regs = k.regs ∧ (f k).task = k.task) (s : State) :
    CommitKeeps w s (updBank s w.core w.bank f) := by
  have bank : bank w (updBank s w.core w.bank f) = f (bank w s) := bankOf_updBank s w.core w.bank f
  exact ⟨(congrArg Bank.regs bank).trans (keeps _).1, (congrArg Bank.task bank).trans (keeps _).2, rfl⟩

theorem keeps_commit_pump (w : Who) : Keeps (CommitKeeps w) (pump w.core w.bank) := by
  intro s
  obtain ⟨t, run, pumped, -⟩ := go_pump w.core w.bank s
  rw [run]
  exact ⟨regsOf_pumped pumped, pumped.field Bank.task fun _ _ _ _ => rfl, pumped.ctxs⟩

theorem keeps_commitRegion (w : Who) : Keeps (CommitKeeps w) (commitRegion w false) := by
  have C := commitKeeps_chains w
  refine Keeps.bind C (Keeps.state C) fun _ => Keeps.bind C (Keeps.waitUntil C _) fun _ => ?_
  refine Keeps.bind C (keeps_commit_placeStores w _ _) fun _ => Keeps.bind C (Keeps.state C) fun s => ?_
  refine Keeps.bind C (Keeps.waitUntil C _) fun _ => Keeps.bind C (Keeps.change fun t => commitKeeps_updBank (fun _ => ?_) t) fun _ => ?_
  · exact ⟨rfl, rfl⟩
  · exact Keeps.bind C (keeps_commit_pump w) fun _ => Keeps.pure C _

theorem commit_keeps (commit : (commitRegion w false).go s = (.ok (), u)) : CommitKeeps w s u := by
  have keeps := keeps_commitRegion w s
  rwa [commit] at keeps

/-! ### commit (12 R331) -/

theorem yields_placeStore (w : Who) (id : Nat) (e : BufEntry) : Yields (fun a => a.kind.isBarrier = false) (placeStore w id e) := by
  have kind : (if e.ordered then AccKind.stf else .store).isBarrier = false := by cases e.ordered <;> rfl
  unfold placeStore
  split
  · refine yields_bind fun s => ?_
    dsimp only
    split
    · exact yields_trap _ _
    · exact yields_bind fun _ => yields_pure kind
  · refine yields_bind_of (yields_placePiece w id _ _ _ _ _ _) fun a same => ?_
    have access : a.kind.isBarrier = false := same ▸ kind
    dsimp only
    split
    · exact yields_bind fun _ => yields_bind fun _ => yields_pure access
    · exact yields_pure access

theorem yields_placeStores (w : Who) (l : List BufEntry) : ∀ last, Yields (fun r => ∀ a ∈ r, (Access.kind a).isBarrier = false) (placeStores w last l) := by
  induction l with
  | nil => exact fun last => yields_pure fun a mem => by cases mem
  | cons e r ih =>
    have entered (id : Nat) : Yields (fun r => ∀ a ∈ r, (Access.kind a).isBarrier = false)
        (placeStore w id e >>= fun a => placeStores w id r >>= fun l => pure (a :: l)) :=
      yields_bind_of (yields_placeStore w id e) fun a ha => yields_bind_of (ih id) fun l hl => yields_pure fun b mem => by
        obtain rfl | mem := List.mem_cons.mp mem
        · exact ha
        · exact hl b mem
    intro last
    rw [placeStores]
    split
    · exact yields_bind entered
    · exact entered last

/-- The buffered stores join the accesses in flight, and the state behind the commit is what a restart goes back to. -/
def released (w : Who) (placed : List Access) (s : State) : State :=
  updBank s w.core w.bank fun k =>
    { k with storeBuf := [], inflight := k.inflight ++ placed, restart := k.regs, restartTgt := k.mustTgt, region := s.nextId }

theorem go_commitRegion_marked (tickets : (bank w s).tickets = []) (places : (placeStores w 0 (bank w s).storeBuf).go s = (.ok placed, u))
    (free : ∀ a ∈ placed, a.remote = false → writeStalls u a.pa a.len = false) :
    ∃ t, (commitRegion w true).go s = (.ok (), recMark t w.task) ∧ Pumped w.core w.bank (released w placed u) t ∧
      ∀ a ∈ placed, a.remote = false → a ∈ (bank w t).inflight := by
  have unstalled : placed.any (fun a => !a.remote && writeStalls u a.pa a.len) = false := by
    rw [List.any_eq_false]
    intro a mem
    cases remote : a.remote
    · simp [free a mem remote]
    · simp
  have inflight : (bank w (released w placed u)).inflight = (bank w u).inflight ++ placed := congrArg Bank.inflight (bankOf_updBank u w.core w.bank _)
  obtain ⟨t, run, pumped, held⟩ := go_pump w.core w.bank (released w placed u)
  refine ⟨t, ?_, pumped, fun a mem here => held a ?_ here (yields_placeStores w _ 0 _ _ _ places a mem)⟩
  · rw [commitRegion, go_state_then]
    dsimp only
    rw [go_waitUntil_then (by rw [tickets]; rfl), go_bind_ok places, go_state_then, go_waitUntil_then (by rw [unstalled]; rfl), go_change_then]
    exact (go_bind_ok run _).trans rfl
  · rw [← bank, inflight]
    exact List.mem_append_right _ mem

theorem exec_commit (g : Guard) (s : State) : exec (.commit g) s = issue g 1 (fun w => commitRegion w true >>= fun _ => pure .region) s := rfl

/-- Settles O18: every access of the buffer is placed before any enters; sending keeps those at home, and the step begins the region. -/
theorem commitReleases : Obligations.CommitReleases := by
  refine ⟨fun w s settled => go_commitRegion_settled settled, fun w g s u placed issues tickets places free => ?_⟩
  obtain ⟨t, run, pumped, held⟩ := go_commitRegion_marked tickets places free
  have kept : CommitKeeps w s u := by
    have keeps := keeps_commit_placeStores w (bank w s).storeBuf 0 s
    rwa [places] at keeps
  have entered : bank w (released w placed u) = _ := bankOf_updBank u w.core w.bank _
  have marked : Recorded t (recMark t w.task) := recorded_recUpd _ _ _
  have banks : bank w (recMark t w.task) = bank w t := bankOf_recorded marked _ _
  have regs' : regs w (recMark t w.task) = regs w s := by
    rw [regs, regsOf, ← bank, banks]
    exact (regsOf_pumped pumped).trans ((congrArg Bank.regs entered).trans kept.regs)
  have task : (bank w (recMark t w.task)).task = some w.task := by
    rw [banks, bank, pumped.field Bank.task fun _ _ _ _ => rfl, ← bank, entered]
    exact kept.task.trans (acts_task issues.toActs)
  rw [exec_commit]
  refine ⟨_, issue_region issues (go_bind_ok run _) task, ?_, restart_regionBegun w 1 _, ?_, ?_, fun a mem here => ?_⟩
  · rw [regs_regionBegun, regs']
  · rw [bank_regionBegun, banks, bank, pumped.field Bank.storeBuf fun _ _ _ _ => rfl, ← bank, entered]
  · exact (field_recorded marked State.mem fun _ _ => rfl).trans pumped.mem
  · rw [bank_regionBegun, banks]
    exact held a mem here

end

end Sys2Proof.Proofs
end

section
/-!
PROOF. The fold operations (05 R131 to R134; 06 R160; 12 R329).
-/

namespace Sys2Proof.Proofs

open Sys2Proof.Machine Sys2Proof.Safety Sys2Proof.Claims

section
variable {w : Who} {g : Guard} {s s1 t u v : State} {a d : Spec} {x : Val} {n : BitVec 8} {f : Nat}

/-! ### What a change of a fold leaves -/

/-- The collectives of a fold start anew: what that leaves (02 R23). -/
theorem resetCollSeq_keeps {β : Type} (F : State → β) (net : ∀ s n, F { s with net := n } = F s)
    (seqs : ∀ s c (q : Core → Sparse (BitVec 16)), F (updCore s c (fun k => { k with collSeq := q k })) = F s) (s : State) (f : Nat) : F (resetCollSeq s f) = F s := by
  rw [resetCollSeq]
  refine (foldl_keeps (g := F) (fun s e => ?_) _ _).trans (net s _)
  exact seqs s e.1 _

theorem folds_resetCollSeq (s : State) (f : Nat) : (resetCollSeq s f).folds = s.folds :=
  resetCollSeq_keeps State.folds (fun _ _ => rfl) (fun _ _ _ => rfl) s f

theorem mem_resetCollSeq (s : State) (f : Nat) : (resetCollSeq s f).mem = s.mem :=
  resetCollSeq_keeps State.mem (fun _ _ => rfl) (fun _ _ _ => rfl) s f

theorem bankOf_updCore_seqs (s : State) (d : Nat) (q : Core → Sparse (BitVec 16)) (c b : Nat) :
    bankOf (updCore s d (fun k => { k with collSeq := q k })) c b = bankOf s c b := by
  by_cases same : c = d
  · subst same
    exact bankOf_updCore_data s c b fun _ => rfl
  · rw [bankOf, coreOf_updCore_other _ _ same, bankOf]

theorem bankOf_resetCollSeq (s : State) (f c b : Nat) : bankOf (resetCollSeq s f) c b = bankOf s c b :=
  resetCollSeq_keeps (bankOf · c b) (fun _ _ => rfl) (fun s d q => bankOf_updCore_seqs s d q c b) s f

/-- A mask is set, or a generation ends: either leaves all that the beginning of collectives anew and a fold written leave. -/
theorem setFoldMask_keeps {β : Type} (F : State → β) (reset : ∀ s f, F (resetCollSeq s f) = F s) (written : ∀ s f k, F (setFold s f k) = F s)
    (s : State) (f : Nat) (m : BitVec 256) : F (setFoldMask s f m) = F s := by
  rw [setFoldMask]
  split
  · exact (reset _ f).trans (written s f _)
  · exact written s f _

theorem completeGeneration_keeps {β : Type} (F : State → β) (reset : ∀ s f, F (resetCollSeq s f) = F s)
    (written : ∀ s f k, F (setFold s f k) = F s) (s : State) (f : Nat) : F (completeGeneration s f) = F s := by
  rw [completeGeneration]
  dsimp only
  split
  · split
    · exact (reset _ f).trans (written s f _)
    · exact written s f _
  · rfl

theorem foldOf_congr (folds : t.folds = s.folds) (k : Nat) : foldOf t k = foldOf s k := congrArg (sget Fold.reset · k) folds

theorem foldOf_updBank (s : State) (c b : Nat) (h : Bank → Bank) (k : Nat) : foldOf (updBank s c b h) k = foldOf s k := foldOf_congr rfl k

theorem foldOf_resetCollSeq (s : State) (f k : Nat) : foldOf (resetCollSeq s f) k = foldOf s k := foldOf_congr (folds_resetCollSeq s f) k

theorem foldOf_setFoldMask (s : State) (f : Nat) (m : BitVec 256) : foldOf (setFoldMask s f m) f =
    if (foldOf s f).eff = 0 then { foldOf s f with eff := m, pend := m, pflag := false } else { foldOf s f with pend := m, pflag := true } := by
  rw [setFoldMask]
  split
  · rw [foldOf_resetCollSeq, foldOf_setFold]
  · rw [foldOf_setFold]

theorem foldOf_setFoldMask_other (s : State) {f k : Nat} (m : BitVec 256) (other : k ≠ f) : foldOf (setFoldMask s f m) k = foldOf s k := by
  rw [setFoldMask]
  split
  · rw [foldOf_resetCollSeq, foldOf_setFold_other _ _ other]
  · rw [foldOf_setFold_other _ _ other]

theorem foldOf_completeGeneration (s : State) (f : Nat) : foldOf (completeGeneration s f) f =
    if (foldOf s f).eff ≠ 0 ∧ (foldOf s f).arr = (foldOf s f).eff then { foldOf s f with
      gen := (foldOf s f).gen + 1, arr := 0, eff := if (foldOf s f).pflag then (foldOf s f).pend else (foldOf s f).eff, pflag := false }
    else foldOf s f := by
  have cond : ((foldOf s f).eff != 0 && (foldOf s f).arr == (foldOf s f).eff) = true ↔ (foldOf s f).eff ≠ 0 ∧ (foldOf s f).arr = (foldOf s f).eff := by
    rw [Bool.and_eq_true, bne_iff_ne, beq_iff_eq]
  rw [completeGeneration]
  dsimp only
  by_cases ends : (foldOf s f).eff ≠ 0 ∧ (foldOf s f).arr = (foldOf s f).eff
  · rw [if_pos (cond.mpr ends), if_pos ends]
    cases pending : (foldOf s f).pflag
    · simp only [Bool.false_eq_true, if_false, foldOf_setFold]
    · simp only [if_true, foldOf_resetCollSeq, foldOf_setFold]
  · rw [if_neg fun h => ends (cond.mp h), if_neg ends]

/-! ### What the recorder captures of folds (06 R143) -/

theorem recorded_foldl {α : Type} {h : State → α → State} (one : ∀ s e, Recorded s (h s e)) (l : List α) : ∀ s, Recorded s (l.foldl h s) := by
  induction l with
  | nil => exact recorded_refl
  | cons e r ih => exact fun s => recorded_trans (one s e) (ih _)

theorem recorded_recNewSem (s : State) (l : Nat) : Recorded s (recNewSem s l).1 := by
  unfold recNewSem
  split
  · exact recorded_refl s
  · split
    · exact recorded_refl s
    · exact ⟨_, rfl⟩

/-- The semaphores of a fold's groups, one by one. -/
theorem recorded_newSems {α β : Type} (h : State × β → α → State × β) (one : ∀ p e, Recorded p.1 (h p e).1) (l : List α) :
    ∀ p, Recorded p.1 (l.foldl h p).1 := by
  induction l with
  | nil => exact fun p => recorded_refl p.1
  | cons e r ih => exact fun p => recorded_trans (one p e) (ih _)

theorem recorded_recFoldSems (s : State) (l f : Nat) (gen : BitVec 16) (groups : List (List Nat)) : Recorded s (recFoldSems s l f gen groups).1 := by
  unfold recFoldSems
  split
  · exact recorded_refl s
  · split
    · exact recorded_refl s
    · dsimp only
      split
      · exact recorded_refl s
      · exact recorded_trans (recorded_newSems (β := List (Nat × Nat)) _ (fun p _ => recorded_recNewSem p.1 l) groups (s, [])) ⟨_, rfl⟩

theorem recorded_recFold (s : State) (t c f : Nat) (members : BitVec 256) (gen : BitVec 16) (arrival : Bool) :
    Recorded s (recFold s t c f members gen arrival) := by
  unfold recFold
  split
  · exact recorded_refl s
  · dsimp only
    split
    · exact recorded_trans (recorded_recUpd _ _ _) (recorded_recUpd _ _ _)
    · have sems (s : State) (h : RecTask → RecTask) (l : Nat) (groups : List (List Nat)) :
          Recorded s (recFoldSems (recUpd s t h) l f gen groups).1 :=
        recorded_trans (recorded_recUpd s t h) (recorded_recFoldSems _ l f gen groups)
      split
      · exact recorded_trans (sems _ _ _ _) (recorded_foldl (fun s e => by split; exacts [recorded_recUpd _ _ _, recorded_refl s]) _ _)
      · exact recorded_trans (sems _ _ _ _) (recorded_foldl (fun s e => recorded_recUpd _ _ _) _ _)

/-! ### fold.set (05 R132) -/

theorem go_foldGranted_of {f : Nat} (granted : Granted w s f) : (foldGranted w f).go s = (.ok (), s) := by
  obtain ⟨k, live, has⟩ := granted
  exact go_foldGranted live has

theorem folds_sameBut (same : SameBut w s t) : t.folds = s.folds := field_sameBut same State.folds fun _ _ => rfl

theorem folds_recorded (h : Recorded s t) : t.folds = s.folds := field_recorded h State.folds fun _ _ => rfl

theorem foldMaskSet : FoldMaskSet := by
  intro w g s s1 u a n x issues granted read bytes check m f
  change (raceCheck w threadAgent _ _ 32 _).go _ = _ at check
  have kept : SameS w s (noted w x s1) := (sameS_readSrc read).trans (sameS_noted x)
  have here := threadBytes_of_sameS bytes kept
  have shades := raceCheck_shades check
  have part : partOf u w = (bank w s).part := (kept.trans shades.sameS).part
  have folds : u.folds = s.folds :=
    shades.folds.trans ((folds_recorded (recorded_noted w x s1)).trans (folds_sameBut (readSrc_keeps read).1))
  have mem : u.mem = s.mem :=
    shades.mem.trans ((field_recorded (recorded_noted w x s1) State.mem fun _ _ => rfl).trans (mem_sameBut (readSrc_keeps read).1))
  have banks : bank w (setFoldMask u n.toNat m) = bank w u :=
    setFoldMask_keeps (bank w) (fun s f => bankOf_resetCollSeq s f _ _) (fun _ _ _ => rfl) u n.toNat m
  have task : (bank w (setFoldMask u n.toNat m)).task = some w.task := by
    rw [banks]
    exact (kept.trans shades.sameS).task.trans (acts_task issues.toActs)
  have runs : exec (.foldSet g a n) s = issue g 1 (fun w => foldGranted w n.toNat >>= fun _ => readSrc w a >>= fun x => noteAddress w x >>= fun _ =>
    checkS w x.v 32 32 >>= fun o => state >>= fun s => waitUntil (!sWaits s w o 32) >>= fun _ => state >>= fun s =>
    raceCheck w threadAgent (coreOf s w.core).phase o 32 false >>= fun _ =>
    change (fun s => setFoldMask s n.toNat (BitVec.ofNat 256 (leNat (readS s w.core (partOf s w) o 32)))) >>= fun _ => pure .next) s := rfl
  refine ⟨_, runs.trans (issue_next (t := setFoldMask u n.toNat m) issues ?_ task), ?_, ?_, ?_, fun k other => ?_⟩
  · rw [go_bind_ok (go_foldGranted_of granted), go_bind_ok read, go_bind_ok (go_noteAddress w x s1), go_bind_ok (go_checkS here),
      go_waitUntil_settled here.settled, go_state_then, kept.phase, go_bind_ok check, go_change_then, part, go_pure]
  · rw [regs_withRegs, regs, regsOf, ← bank, banks]
    exact congrArg (pcOn · 1) (shades.regs.trans (regs_noted w x s1))
  · exact (setFoldMask_keeps State.mem mem_resetCollSeq (fun _ _ _ => rfl) u n.toNat m).trans mem
  · exact (foldOf_setFoldMask u n.toNat m).trans (by rw [foldOf_congr folds])
  · exact (foldOf_setFoldMask_other u m other).trans (foldOf_congr folds k)

/-! ### fold.arr (05 R132 to R134) -/

/-- The core has arrived at the fold, as the recorder captures it; the generation may have ended. -/
def arrived (w : Who) (f : Nat) (s : State) : State :=
  completeGeneration (setFold (recFold (recMark s w.task) w.task w.core f (foldOf s f).eff (foldOf s f).gen true) f
    { foldOf s f with arr := (foldOf s f).arr ||| BitVec.ofNat 256 (2 ^ w.core) }) f

theorem bank_arrived (w : Who) (f : Nat) (s : State) : bank w (arrived w f s) = bank w s := by
  rw [arrived, completeGeneration_keeps (bank w) (fun s f => bankOf_resetCollSeq s f _ _) fun _ _ _ => rfl]
  exact bankOf_recorded (recorded_trans (recorded_recUpd _ _ _) (recorded_recFold _ _ _ _ _ _ _)) _ _

theorem foldOf_arrived (w : Who) (f : Nat) (s : State) : foldOf (arrived w f s) f =
    if (foldOf s f).eff ≠ 0 ∧ (foldOf s f).arr ||| BitVec.ofNat 256 (2 ^ w.core) = (foldOf s f).eff then { foldOf s f with
      gen := (foldOf s f).gen + 1, arr := 0, eff := if (foldOf s f).pflag then (foldOf s f).pend else (foldOf s f).eff, pflag := false }
    else { foldOf s f with arr := (foldOf s f).arr ||| BitVec.ofNat 256 (2 ^ w.core) } := by
  rw [arrived, foldOf_completeGeneration, foldOf_setFold]

theorem go_arrive (granted : Granted w s f) (commit : (commitRegion w false).go s = (.ok (), u)) (body : bodyTaskOf u w = none)
    (member : maskHas (foldOf u f).eff w.core = true) (new : maskHas (foldOf u f).arr w.core = false) (done : corePerformed u w.core = true) :
    (arrive w f).go s = (.ok (foldOf u f).gen, arrived w f u) := by
  have granted' : Granted w u f := by
    obtain ⟨k, live, has⟩ := granted
    exact ⟨k, (congrArg (aget · w.ctx) (commit_keeps commit).ctxs).trans live, has⟩
  rw [arrive, go_bind_ok commit, go_bind_ok (go_foldGranted_of granted'), go_state_then]
  dsimp only
  rw [go_requireOpen_then member, go_waitUntil_then done, go_waitUntil_then (by rw [new]; rfl), body]
  rfl

theorem exec_foldArr (g : Guard) (d : Spec) (n : BitVec 8) (s : State) : exec (.foldArr g d n) s =
    issue g 1 (fun w => destReady w d >>= fun p => arrive w n.toNat >>= fun gen =>
      setRegsAct w (fun r => push (gWrite r p ⟨gen.setWidth 64, .clean⟩) ⟨gen.setWidth 64, .clean⟩) >>= fun _ => pure .region) s := rfl

theorem foldArrival : FoldArrival := by
  intro w g s u d n issues granted register ready commit body f member new done arr
  have kept := commit_keeps commit
  let r := push (gWrite (regs w s) (physOf (regs w s).rb d.toNat) ⟨f.gen.setWidth 64, .clean⟩) ⟨f.gen.setWidth 64, .clean⟩
  have regs' : regs w (arrived w n.toNat u) = regs w s := (congrArg Bank.regs (bank_arrived w n.toNat u)).trans kept.regs
  have task : (bank w (arrived w n.toNat u)).task = some w.task :=
    (congrArg Bank.task (bank_arrived w n.toNat u)).trans (kept.task.trans (acts_task issues.toActs))
  rw [exec_foldArr]
  refine ⟨_, issue_region (t := withRegs w (arrived w n.toNat u) r) issues ?_ (task_withRegs _ task), ?_, restart_regionBegun w 1 _, ?_⟩
  · rw [go_bind_ok (go_destReady_phys register ready), go_bind_ok (go_arrive granted commit body member new done),
      go_bind_ok (go_setRegsAct (SameBut.refl w _) _), regs', go_pure]
  · rw [regs_regionBegun, regs_withRegs]
  · rw [regionBegun, foldOf_updBank, withRegs, setRegs, foldOf_updBank, foldOf_arrived]

/-! ### fold.wait and fold.aw (06 R160) -/

/-- The task goes on behind its fold: the recorder captures the return, and the core's fold phase goes up. -/
def returnedFold (w : Who) (f : Nat) (gen : BitVec 16) (s : State) : State :=
  updCore (recFold s w.task w.core f (foldOf s f).eff gen false) w.core fun k => { k with phase := k.phase + 1 }

theorem go_foldReturn (w : Who) (f : Nat) (gen : BitVec 16) (s : State) : (foldReturn w f gen).go s = (.ok (), returnedFold w f gen s) := rfl

theorem recorded_return (w : Who) (f : Nat) (gen : BitVec 16) (s : State) : Recorded s (recFold s w.task w.core f (foldOf s f).eff gen false) :=
  recorded_recFold s w.task w.core f (foldOf s f).eff gen false

theorem bank_returnedFold (w : Who) (f : Nat) (gen : BitVec 16) (s : State) : bank w (returnedFold w f gen s) = bank w s := by
  rw [bank, returnedFold, bankOf_updCore_data (f := fun k => { k with phase := k.phase + 1 }) (h := fun _ => rfl)]
  exact bankOf_recorded (recorded_return w f gen s) w.core w.bank

theorem phase_returnedFold (w : Who) (f : Nat) (gen : BitVec 16) (s : State) :
    (coreOf (returnedFold w f gen s) w.core).phase = (coreOf s w.core).phase + 1 := by
  rw [returnedFold, coreOf_updCore]
  exact congrArg (· + 1) (field_recorded (recorded_return w f gen s) (fun s => (coreOf s w.core).phase) fun _ _ => rfl)

theorem folds_returnedFold (w : Who) (f : Nat) (gen : BitVec 16) (s : State) : (returnedFold w f gen s).folds = s.folds := by
  rw [← folds_recorded (recorded_return w f gen s)]
  rfl

theorem mem_returnedFold (w : Who) (f : Nat) (gen : BitVec 16) (s : State) : (returnedFold w f gen s).mem = s.mem := by
  rw [← field_recorded (recorded_return w f gen s) State.mem fun _ _ => rfl]
  rfl

theorem ofNat_eq_setWidth (x : Word) : BitVec.ofNat 16 x.toNat = x.setWidth 16 := BitVec.eq_of_toNat_eq (by simp)

theorem exec_foldWait (g : Guard) (a : Spec) (n : BitVec 8) (s : State) : exec (.foldWait g a n) s =
    issue g 1 (fun w => foldGranted w n.toNat >>= fun _ => readSrc w a >>= fun x => state >>= fun s =>
      waitUntil ((foldOf s n.toNat).gen != BitVec.ofNat 16 x.v.toNat) >>= fun _ =>
      foldReturn w n.toNat (BitVec.ofNat 16 x.v.toNat) >>= fun _ => pure .next) s := rfl

theorem foldWait_returns (issues : Issues w g s) (granted : Granted w s n.toNat) (read : (readSrc w a).go s = (.ok x, s1))
    (moved : (foldOf s n.toNat).gen ≠ x.v.setWidth 16) :
    ∃ v, exec (.foldWait g a n) s = .next v ∧ regs w v = pcOn (regs w s1) 1 ∧ v.mem = s.mem ∧
      (coreOf v w.core).phase = (coreOf s w.core).phase + 1 ∧ foldOf v n.toNat = foldOf s n.toNat := by
  have same := (readSrc_keeps read).1
  have folds := folds_sameBut same
  have passes : ((foldOf s1 n.toNat).gen != BitVec.ofNat 16 x.v.toNat) = true := by
    rw [foldOf_congr folds, ofNat_eq_setWidth]
    exact bne_iff_ne.mpr moved
  have banks := bank_returnedFold w n.toNat (BitVec.ofNat 16 x.v.toNat) s1
  rw [exec_foldWait]
  refine ⟨_, issue_next (t := returnedFold w n.toNat (BitVec.ofNat 16 x.v.toNat) s1) issues ?_ ?_, ?_, ?_, ?_, ?_⟩
  · rw [go_bind_ok (go_foldGranted_of granted), go_bind_ok read, go_state_then, go_waitUntil_then passes, go_bind_ok (go_foldReturn _ _ _ _), go_pure]
  · rw [banks]
    exact same.task.trans (acts_task issues.toActs)
  · rw [regs_withRegs]
    exact congrArg (fun k : Bank => pcOn k.regs 1) banks
  · exact (mem_returnedFold _ _ _ _).trans (mem_sameBut same)
  · rw [withRegs, setRegs, phase_updBank, phase_returnedFold, (sameS_sameBut same).phase]
  · exact (foldOf_congr ((folds_returnedFold _ _ _ _).trans folds) _)

theorem foldWait_waits (issues : Issues w g s) (granted : Granted w s n.toNat) (read : (readSrc w a).go s = (.ok x, s1))
    (stays : (foldOf s n.toNat).gen = x.v.setWidth 16) : exec (.foldWait g a n) s = .next (stood w s) := by
  have same := (readSrc_keeps read).1
  rw [exec_foldWait]
  refine issue_stands issues (t := s1) ?_ same
  rw [go_bind_ok (go_foldGranted_of granted), go_bind_ok read, go_state_then]
  refine go_waitUntil_stops ?_ _ s1
  rw [foldOf_congr (folds_sameBut same), ofNat_eq_setWidth, stays]
  exact bne_self_eq_false _

/-- What the task awaits is kept while it waits, and is gone when it goes on. -/
def awaitingSet (w : Who) (e : Option (Nat × BitVec 16)) (s : State) : State := updBank s w.core w.bank fun k => { k with awaiting := e }

theorem foldAw_returns {gen : BitVec 16} (issues : Issues w g s) (awaits : (bank w s).awaiting = some (n.toNat, gen))
    (moved : (foldOf s n.toNat).gen ≠ gen) :
    ∃ v, exec (.foldAw g n) s = .next v ∧ regs w v = pcOn (regs w s) 1 ∧ (bank w v).restart = regs w v ∧
      (bank w v).awaiting = none ∧ (coreOf v w.core).phase = (coreOf s w.core).phase + 1 := by
  let e := awaitingSet w none (awaitingSet w (some (n.toNat, gen)) s)
  have banks : bank w (returnedFold w n.toNat gen e) = { bank w s with awaiting := none } := by
    have set_ : bank w e = { bank w s with awaiting := none } := by
      simp only [e, awaitingSet, bank, updBank_updBank, bankOf_updBank]
    rw [bank_returnedFold, set_]
  refine ⟨_, issue_region (t := returnedFold w n.toNat gen e) issues ?_ ?_, ?_, restart_regionBegun w 1 _, ?_, ?_⟩
  · rw [go_state_then]
    simp only [awaits, if_true, pure_bind]
    rw [go_change_then, go_state_then]
    refine (go_waitUntil_then ?_ _).trans ?_
    · exact bne_iff_ne.mpr moved
    · rw [go_change_then]
      exact go_bind_ok (go_foldReturn _ _ _ _) _
  · rw [banks]
    exact acts_task issues.toActs
  · rw [regs_regionBegun, regs, regsOf, ← bank, banks]
    rfl
  · rw [bank_regionBegun, banks]
  · rw [regionBegun, phase_updBank, phase_returnedFold]
    exact congrArg (· + 1) ((phase_updBank _ _ _ _ _).trans (phase_updBank s _ _ _ _))

theorem foldWaits : FoldWaits := fun _ _ _ _ issues granted =>
  ⟨fun _ _ _ read => ⟨foldWait_returns issues granted read, foldWait_waits issues granted read⟩, fun _ => foldAw_returns issues⟩

end

/-- Settles O17: an arrival is the commit, then the bit of the core in the mask; the last one ends the generation. -/
theorem foldOperations : Obligations.FoldOperations := ⟨foldMaskSet, foldArrival, foldWaits⟩

end Sys2Proof.Proofs
end

section
/-!
PROOF. sysrd, and the writes of the registers of the restart state (12 R332, R333; 09 R238, R244; 02 R33).
-/

namespace Sys2Proof.Proofs

open Sys2Proof.Machine Sys2Proof.Safety Sys2Proof.Claims

section
variable {w : Who} {g : Guard} {s s1 t u v : State} {a d : Spec} {x : Val} {n : Nat} {word : Word} {r r' : Regs}

/-! ### sysrd -/

theorem result_eq_some (written : result r d x = some r') : d.toNat < 32 ∧ sget 0 r.gWait (physOf r.rb d.toNat) = 0 ∧
    r' = push (gWrite r (physOf r.rb d.toNat) x) x := by
  unfold result at written
  dsimp only at written
  split at written
  case isTrue ready =>
    cases written
    refine ⟨ready.1, ready.2, ?_⟩
    rw [gWrite]
    split <;> rfl
  case isFalse => cases written

/-- What the recorder knows of a register read (06 R144). -/
def registerMark (n : Nat) : Mark := if n = 0 || n = 1 then .clean else .derived

theorem sysRead_plain (plain : n ≠ 6) : sysRead g d n s = issue g 1 (fun w => destReady w d >>= fun p => readSy w n >>= fun v =>
    setRegsAct w (fun r => push (gWrite r p ⟨v, registerMark n⟩) ⟨v, registerMark n⟩) >>= fun _ => pure .next) s := by
  unfold sysRead
  simp only [if_neg plain]
  rfl

theorem readsWord_of_readSy {k : BitVec 12} (issues : Issues w g s) (plain : k.toNat ≠ 6) (value : (readSy w k.toNat).go s = (.ok word, s)) :
    ReadsWord w g s k word := by
  refine fun d => ⟨registerMark k.toNat, fun r written => ?_⟩
  obtain ⟨register, ready, rfl⟩ := result_eq_some written
  have runs : exec (.sysrd g d k) s = sysRead g d k.toNat s := rfl
  rw [runs, sysRead_plain plain]
  refine issue_written issues ?_ (acts_task issues.toActs)
  rw [go_bind_ok (go_destReady_phys register ready), go_bind_ok value, go_bind_ok (go_setRegsAct (SameBut.refl w s) _), go_pure]

theorem go_readSy_of_sysValue (value : sysValue w s n = some word) : n ≠ 6 ∧ (readSy w n).go s = (.ok word, s) := by
  unfold sysValue at value
  split at value
  all_goals cases value
  all_goals exact ⟨by decide, rfl⟩

theorem xinvBit_eq (x : Option Word) : BitVec.ofNat 64 (bitAt 62 x.isSome) = if x = none then 0 else 0x4000000000000000 := by
  cases x <;> rfl

theorem go_readSy_mon {m : Context} (above : 0x400 ≤ n) (below : n < 0xC00) (listed : (n - 0x400) % 32 < 20) (live : ctxOf s w.ctx = some m)
    (granted : m.monMask.getLsbD ((n - 0x400) / 32) = true) :
    (readSy w n).go s = (.ok (monWord (sget Monitor.reset s.host.mon ((n - 0x400) / 32)) ((n - 0x400) % 32)), s) := by
  have number : monNumber n = some ((n - 0x400) / 32, (n - 0x400) % 32) := by
    rw [monNumber, if_pos (by simp [above, below, listed])]
  unfold readSy
  rw [go_state_then]
  dsimp only
  split
  case h_20 =>
    simp only [number, live]
    rw [go_requireOpen_then granted, go_pure]
  all_goals omega

theorem systemReads : SystemReads := by
  intro w g s issues
  refine ⟨fun n v value => ?_, ?_, fun x live => ?_, fun closed => ?_, fun k x above below listed live granted => ?_⟩
  · obtain ⟨plain, reads⟩ := go_readSy_of_sysValue value
    exact readsWord_of_readSy issues plain reads
  · rw [← xinvBit_eq]
    exact readsWord_of_readSy issues (by decide) rfl
  · have reads : (readSy w 0x00A).go s = (.ok (match ctxOf s w.ctx with | some x => ckptWord x.ckpt | none => 0), s) := rfl
    rw [live] at reads
    exact readsWord_of_readSy issues (by decide) reads
  · refine readsWord_of_readSy issues (by decide) ?_
    have reads : (readSy w 0x009).go s = (if (bank w s).window then drawWord >>= fun v => pure (BitVec.ofNat 64 (v.toNat % 20001 * 2 ^ 32))
      else pure 0 : Act Word).go s := rfl
    rw [closed] at reads
    exact reads
  · exact readsWord_of_readSy issues (by omega) (go_readSy_mon above below listed live granted)

/-! ### A read of SY_ELOG (09 R238) -/

/-- The oldest entry of the core's error log is gone. -/
def elogTaken (w : Who) (s : State) : State :=
  match (coreOf s w.core).elog with
  | [] => s
  | _ :: r => updCore s w.core (fun k => { k with elog := r })

theorem go_takeElog (w : Who) (s : State) : (takeElog w).go s = (.ok ((coreOf s w.core).elog.headD 0), elogTaken w s) := by
  rw [takeElog, go_state_then, elogTaken]
  cases (coreOf s w.core).elog <;> rfl

theorem elog_elogTaken (w : Who) (s : State) : (coreOf (elogTaken w s) w.core).elog = (coreOf s w.core).elog.tail := by
  rw [elogTaken]
  cases entries : (coreOf s w.core).elog with
  | nil => exact entries
  | cons e r => rw [coreOf_updCore]; rfl

theorem bank_elogTaken (w : Who) (s : State) : bank w (elogTaken w s) = bank w s := by
  rw [elogTaken]
  split
  · rfl
  · exact bankOf_updCore_data s w.core w.bank fun _ => rfl

theorem sysRead_elog (g : Guard) (d : Spec) (s : State) : sysRead g d 6 s = issue g 1 (fun w => commitRegion w false >>= fun _ =>
    destReady w d >>= fun p => takeElog w >>= fun v => change (fun s => recMark s w.task) >>= fun _ =>
    setRegsAct w (fun r => push (gWrite r p ⟨v, .derived⟩) ⟨v, .derived⟩) >>= fun _ => pure .region) s := rfl

theorem errorLogRead : ErrorLogRead := by
  intro w g s u d issues register ready commit v x
  have kept := commit_keeps commit
  have marked : Recorded (elogTaken w u) (recMark (elogTaken w u) w.task) := recorded_recUpd _ _ _
  have banks : bank w (recMark (elogTaken w u) w.task) = bank w u := (bankOf_recorded marked _ _).trans (bank_elogTaken w u)
  have regs' : regs w (recMark (elogTaken w u) w.task) = regs w s := (congrArg Bank.regs banks).trans kept.regs
  have task : (bank w (recMark (elogTaken w u) w.task)).task = some w.task :=
    (congrArg Bank.task banks).trans (kept.task.trans (acts_task issues.toActs))
  let r := push (gWrite (regs w s) (physOf (regs w s).rb d.toNat) x) x
  have next : sysRead g d 6 s = .next (regionBegun w 1 (withRegs w (recMark (elogTaken w u) w.task) r)) := by
    rw [sysRead_elog]
    refine issue_region issues ?_ (task_withRegs _ task)
    have ready' : sget 0 (regs w u).gWait (physOf (regs w u).rb d.toNat) = 0 := by rwa [kept.regs]
    rw [go_bind_ok commit, go_bind_ok (go_destReady_phys register ready'), go_bind_ok (go_takeElog w u), go_change_then,
      go_bind_ok (go_setRegsAct (SameBut.refl w _) _), kept.regs, regs', go_pure]
  refine ⟨_, next, next, ?_, ?_, restart_regionBegun w 1 _⟩
  · rw [regs_regionBegun, regs_withRegs]
  · have log : (coreOf (regionBegun w 1 (withRegs w (recMark (elogTaken w u) w.task) r)) w.core).elog =
        (coreOf (recMark (elogTaken w u) w.task) w.core).elog :=
      (coreOf_updBank_field Core.elog (fun _ _ => rfl) _ _ _ _ _).trans (coreOf_updBank_field Core.elog (fun _ _ => rfl) _ _ _ _ _)
    rw [log, ← elog_elogTaken]
    exact field_recorded marked (fun s => (coreOf s w.core).elog) fun _ _ => rfl

/-! ### syswr of the restart state (12 R332, Table 17) -/

theorem fld_bit (x : Word) (n : Nat) : (fld x n 1 == 0) = !x.getLsbD n := by
  rw [fld, BitVec.getLsbD, Nat.testBit_eq_decide_div_mod_eq]
  rcases Nat.mod_two_eq_zero_or_one (x.toNat / 2 ^ n) with even | odd
  · simp [even]
  · simp [odd]

theorem fld_low (x : Word) : fld x 0 5 = x.toNat % 32 := by simp [fld]

theorem recorded_recLive (s : State) (t : Nat) : Recorded s (recLive s t) := recorded_recUpd _ _ _

theorem recorded_written (noted : Recorded (withRegs w s r) t) (holds : (bank w s).task = some w.task) :
    Recorded (withRegs w s (pcOn r n)) (advance w n .next t) := by
  have moved := recorded_advance (n := n) (task_withRegs r holds) noted
  rwa [regs_withRegs, withRegs_withRegs] at moved

/-- A write that a recording takes for live data (06 R144). -/
theorem write_recorded {body : Who → Act Flow} (issues : Issues w g s)
    (runs : (body w).go s = (.ok .next, recLive (withRegs w s r) w.task)) :
    ∃ v, issue g 1 body s = .next v ∧ Recorded (withRegs w s (pcOn r 1)) v :=
  ⟨_, issue_ok issues runs, recorded_written (recorded_recLive _ _) (acts_task issues.toActs)⟩

section
variable {ok : Word → Bool} {f : Word → Regs → Regs} {rest : Who → Word → Act Flow}
  (issues : Issues w g s) (read : (readSrc w a).go s = (.ok x, s1))
include issues read

/-- A value that the register does not take. -/
theorem write_traps (refused : ok x.v = false) :
    issue g 1 (fun w => readSrc w a >>= fun x => requireOpen (ok x.v) .reservedField >>= fun _ => rest w x.v) s =
      .next (raiseNow w 1 .reservedField none (stood w s)) := by
  refine issue_traps issues (readSrc_keeps read).1 ((go_bind_ok read _).trans (go_bind_error ?_ _))
  rw [go_requireOpen, if_neg (by simp [refused])]

theorem write_completes (taken : ok x.v = true) :
    issue g 1 (fun w => readSrc w a >>= fun x => requireOpen (ok x.v) .reservedField >>= fun _ => setRegsAct w (f x.v) >>= fun _ =>
      pure .next) s = .next (withRegs w s (pcOn (f x.v (regs w s1)) 1)) := by
  refine issue_written issues ?_ (acts_task issues.toActs)
  rw [go_bind_ok read, go_requireOpen_then taken, go_bind_ok (go_setRegsAct (readSrc_keeps read).1 (f x.v)), go_pure]

end

end

/-- SY_EVEC's write: a line's address. -/
theorem exec_syswr_evec (g : Guard) (a : Spec) (s : State) : exec (.syswr g 2 a) s = issue g 1 (fun w => readSrc w a >>= fun x =>
    requireOpen (fld x.v 0 5 == 0) .reservedField >>= fun _ => setRegsAct w (fun r => { r with evec := x.v }) >>= fun _ =>
    change (fun s => recLive s w.task) >>= fun _ => pure .next) s := rfl

/-- SY_EPC's write: the pair of the depth. -/
theorem exec_syswr_epc (g : Guard) (a : Spec) (s : State) : exec (.syswr g 3 a) s = issue g 1 (fun w => readSrc w a >>= fun x =>
    setRegsAct w (fun r => if r.depth = 1 then { r with epc0 := x.v } else if r.depth = 2 then { r with epc1 := x.v } else r) >>= fun _ =>
    change (fun s => recLive s w.task) >>= fun _ => pure .next) s := rfl

/-- SY_ESTAT's write: only its reserved fields are looked at. -/
theorem exec_syswr_estat (g : Guard) (a : Spec) (s : State) : exec (.syswr g 4 a) s = issue g 1 (fun w => readSrc w a >>= fun x =>
    requireOpen (fld x.v 24 40 == 0 && fld x.v 2 6 == 0) .reservedField >>= fun _ =>
    change (fun s => recLive s w.task) >>= fun _ => pure .next) s := rfl

/-- Settles O22: each number's register is read where it stands; the log's is read behind its commit. -/
theorem systemRegisterReads : Obligations.SystemRegisterReads := ⟨systemReads, errorLogRead⟩

/-- Settles O23: the value decides at once, by its mode, its alignment or its reserved fields, between the write and the trap. -/
theorem taskRegisterWrites : Obligations.TaskRegisterWrites := by
  intro w g s s1 a x issues read r
  have same := (readSrc_keeps read).1
  refine ⟨fun mode => ?_, fun mode => ?_, fun mode => ?_, fun mode => ?_, fun line => ?_, fun line => ?_, ?_, fun high low => ?_,
    fun reserved => ?_⟩
  · exact write_completes (ok := fun v => v.toNat ≤ 4) (f := fun v r => { r with rm := v }) issues read (decide_eq_true mode)
  · exact write_traps (ok := fun v => v.toNat ≤ 4) (rest := fun w v => setRegsAct w (fun r => { r with rm := v }) >>= fun _ => pure .next)
      issues read (decide_eq_false (by omega))
  · refine write_completes (ok := routeOk) (f := fun v r => { r with route := routeTaken v }) issues read ?_
    rw [routeOk, fld_bit, mode]
    rfl
  · refine write_traps (ok := routeOk) (rest := fun w v => setRegsAct w (fun r => { r with route := routeTaken v }) >>= fun _ =>
      pure .next) issues read ?_
    rw [routeOk, fld_bit, mode]
    rfl
  · rw [exec_syswr_evec]
    refine write_recorded issues ?_
    rw [go_bind_ok read, go_requireOpen_then (by simpa [fld_low] using line), go_bind_ok (go_setRegsAct same _), go_change_then, go_pure]
  · rw [exec_syswr_evec]
    refine write_traps (ok := fun v => fld v 0 5 == 0) (rest := fun w v => setRegsAct w (fun r => { r with evec := v }) >>= fun _ =>
      change (fun s => recLive s w.task) >>= fun _ => pure .next) issues read ?_
    simpa [fld_low] using line
  · rw [exec_syswr_epc]
    refine write_recorded issues ?_
    rw [go_bind_ok read, go_bind_ok (go_setRegsAct same _), go_change_then, go_pure]
  · rw [exec_syswr_estat]
    have zero : (fld x.v 24 40 == 0 && fld x.v 2 6 == 0) = true := by simp [fld_eq_zero_iff, high, low]
    have moved : Recorded (withRegs w s (pcOn r 1)) (advance w 1 .next (recLive s1 w.task)) := by
      rw [← show withRegs w s1 (pcOn r 1) = withRegs w s (pcOn r 1) from same _]
      exact recorded_advance (same.task.trans (acts_task issues.toActs)) (recorded_recLive s1 w.task)
    refine ⟨_, issue_ok issues ?_, moved⟩
    rw [go_bind_ok read, go_requireOpen_then zero, go_change_then, go_pure]
  · rw [exec_syswr_estat]
    refine write_traps (ok := fun v => fld v 24 40 == 0 && fld v 2 6 == 0) (rest := fun w _ =>
      change (fun s => recLive s w.task) >>= fun _ => pure .next) issues read ?_
    simpa only [Bool.and_eq_false_iff, beq_eq_false_iff_ne, ne_eq, fld_eq_zero_iff] using reserved

end Sys2Proof.Proofs
end

section
/-!
PROOF. Engine commands: their dispatch (09 R218, R219; 13 R336), their start and their micro-steps (09 R234, R237; 13 R337, R338).
-/

namespace Sys2Proof.Proofs

open Sys2Proof.Machine Sys2Proof.Safety Sys2Proof.Claims

/-! ### What the recorder and the queues leave -/

theorem recorded_recOrder (s : State) (t a b : Nat) : Recorded s (recOrder s t a b) := by
  unfold recOrder
  split
  · exact recorded_refl s
  · split
    · exact recorded_refl s
    · split
      · exact recorded_refl s
      · split
        · exact recorded_recUpd s t _
        · exact recorded_trans (recorded_recNewSem s _) (recorded_recUpd _ t _)

theorem recorded_recHolds (w : Who) (s : State) : Recorded s (recHolds w s) := by
  unfold recHolds
  split
  · exact recorded_foldl (fun s (p : Nat × Nat) => recorded_recOrder s w.task p.1 p.2) _ s
  · exact recorded_refl s

theorem bankOf_setQueue (s : State) (c b e : Nat) (q : List Cmd) :
    bankOf (setQueue s c b e q) c b = { bankOf s c b with queues := sset [] (bankOf s c b).queues e q } := bankOf_updBank s c b _

theorem queueOf_setQueue (s : State) (c b e : Nat) (q : List Cmd) (k : Nat) :
    queueOf (setQueue s c b e q) c b k = if k = e then q else queueOf s c b k := by
  rw [queueOf, bankOf_setQueue, sget_sset, queueOf]

theorem queueOf_of_bank {s t : State} {c b : Nat} (same : bankOf t c b = bankOf s c b) (e : Nat) : queueOf t c b e = queueOf s c b e :=
  congrArg (fun k : Bank => sget [] k.queues e) same

/-! ### Dispatch (13 R336; 09 R218) -/

section
variable {w : Who} {s u u' : State} {i : Instr} {sp : CmdSpec} {c m : Cmd}

/-- The command stands behind the others of its queue, and the recorder has captured it. -/
def entered (w : Who) (sp : CmdSpec) (m : Cmd) (s : State) : State :=
  recHolds w (recCmd (setQueue s w.core w.bank sp.queue (queueOf s w.core w.bank sp.queue ++ [m])) w.task (recStream sp.queue m.issuer) m
    (isSend m.instr))

theorem recorded_entered (w : Who) (sp : CmdSpec) (m : Cmd) (s : State) :
    Recorded (setQueue s w.core w.bank sp.queue (queueOf s w.core w.bank sp.queue ++ [m])) (entered w sp m s) :=
  recorded_trans (recorded_recUpd _ w.task _) (recorded_recHolds w _)

theorem bank_entered (w : Who) (sp : CmdSpec) (m : Cmd) (s : State) : bank w (entered w sp m s) =
    { bank w s with queues := sset [] (bank w s).queues sp.queue (queueOf s w.core w.bank sp.queue ++ [m]) } :=
  (bankOf_recorded (recorded_entered w sp m s) w.core w.bank).trans (bankOf_setQueue s w.core w.bank _ _)

theorem queueOf_entered (w : Who) (sp : CmdSpec) (m : Cmd) (s : State) (q : Nat) : queueOf (entered w sp m s) w.core w.bank q =
    if q = sp.queue then queueOf s w.core w.bank sp.queue ++ [m] else queueOf s w.core w.bank q :=
  (queueOf_of_bank (bankOf_recorded (recorded_entered w sp m s) w.core w.bank) q).trans (queueOf_setQueue s w.core w.bank _ _ q)

theorem regs_entered (w : Who) (sp : CmdSpec) (m : Cmd) (s : State) : regs w (entered w sp m s) = regs w s := by
  have same : (bank w (entered w sp m s)).regs = (bank w s).regs := by rw [bank_entered]
  exact same

theorem queueOf_withRegs (w : Who) (s : State) (r : Regs) (q : Nat) :
    queueOf (withRegs w s r) w.core w.bank q = queueOf s w.core w.bank q := by
  rw [queueOf, withRegs, setRegs, bankOf_updBank, queueOf]

theorem go_dispatchCmd (room : (queueOf s w.core w.bank sp.queue).length < 16)
    (check : (sp.check w { c with id := s.nextId }).go { s with nextId := s.nextId + 1 } = (.ok m, u))
    (race : (raceRanges w (coreOf u w.core).phase m.ranges).go u = (.ok (), u')) (control : m.starter = false) :
    (dispatchCmd w sp c).go s = (.ok (), entered w sp m u') := by
  unfold dispatchCmd
  rw [go_state_then, go_waitUntil_then (decide_eq_true (show _ < queueCap from room)), go_bind_ok (go_newId s), go_bind_ok check,
    go_state_then, go_bind_ok race, go_state_then, go_change_then, go_change_then, go_change_then, go_state_then]
  split
  · rw [control]
    rfl
  · rfl

theorem go_dispatchCmd_full (full : 16 ≤ (queueOf s w.core w.bank sp.queue).length) : (dispatchCmd w sp c).go s = (.error .wait, s) :=
  (go_state_then _).trans (go_bind_error (by simp [Nat.not_lt.mpr (show queueCap ≤ _ from full)]) _)

theorem exec_issueCmd (spec : specOf i = some sp) (issues : Issues w unguarded s) : exec i s = issueCmd i sp s := by
  rw [exec_command spec, runCommand, issues.actor]

theorem commandsEnterQueues : CommandsEnterQueues := by
  intro i sp w s u u' m spec issues room check race holds control
  have task : (bank w (entered w sp m u')).task = some w.task := by rw [bank_entered, holds]
  have body : (dispatchCmd w sp (newCmd i ((regs w s).rm.setWidth 3) (regs w s).pc 0 false (regs w s).route) >>= fun _ =>
      (pure Flow.next : Act Flow)).go s = (.ok .next, entered w sp m u') := go_bind_ok (go_dispatchCmd room check race control) _
  have step : exec i s = .next (withRegs w (entered w sp m u') (pcOn (regs w (entered w sp m u')) (encode i).length)) := by
    rw [exec_issueCmd spec issues, issueCmd, issue_ok issues (go_bind_ok (go_regsAct w s) _ |>.trans body), advance_next task]
  refine ⟨_, step, ?_, fun q other => ?_, ?_, ?_⟩
  · rw [queueOf_withRegs, queueOf_entered, if_pos rfl]
  · rw [queueOf_withRegs, queueOf_entered, if_neg other]
  · exact field_recorded (recorded_entered w sp m u') State.mem fun _ _ => rfl
  · rw [regs_withRegs, regs_entered]

theorem fullQueueWaits : FullQueueWaits := by
  intro i sp w s spec issues full
  have waits : (dispatchCmd w sp (newCmd i ((regs w s).rm.setWidth 3) (regs w s).pc 0 false (regs w s).route) >>= fun _ =>
      (pure Flow.next : Act Flow)).go s = (.error .wait, s) := go_bind_error (go_dispatchCmd_full full) _
  rw [exec_issueCmd spec issues, issueCmd, issue]
  exact issueWith_stands issues ⟨s, go_bind_ok (go_regsAct w s) _ |>.trans waits, SameBut.refl w s⟩

end

/-- Settles O29: the checks pass, the command is put behind its queue's others, and what the recorder then notes changes no bank. -/
theorem commandsDispatch : Obligations.CommandsDispatch := ⟨commandsEnterQueues, fullQueueWaits⟩

/-! ### Start and micro-steps (13 R337, R338; 09 R234) -/

section
variable {e : Eng} {i : Instr} {sp : CmdSpec} {s s1 u : State} {last : Bool}

/-- The command has left its queue after its last micro-step, and stands there after another. -/
def afterMicro (e : Eng) (last : Bool) (s : State) : State :=
  if last = true then retireCmd s e.w.core e.w.bank e.e e.cmd.id else s

theorem queueOf_retireCmd (s : State) (c b e id : Nat) :
    queueOf (retireCmd s c b e id) c b e = (queueOf s c b e).filter (fun m => m.id != id) := by
  rw [retireCmd, queueOf_setQueue, if_pos rfl]

theorem not_stillHeld_retired (e : Eng) (s : State) : stillHeld (retireCmd s e.w.core e.w.bank e.e e.cmd.id) e = false := by
  rw [stillHeld, queueOf_retireCmd, List.any_eq_false]
  intro m hm
  have gone : m.id ≠ e.cmd.id := by simpa using (List.mem_filter.mp hm).2
  simp [gone]

/-- What the engine's turn leaves after a micro-step. -/
theorem exec_of_runMicro (turn : AtEngine e i sp s) (micro : (runMicro sp e).go s = (.ok (), afterMicro e last u)) :
    exec i s = .next (if last then retired e u else stepped sp e u) := by
  rw [exec_atEngine turn, micro]
  cases last
  · rfl
  · exact congrArg Host.Outcome.next (if_neg (by simp [afterMicro, not_stillHeld_retired]))

theorem go_runStarted (runs : mayRun s e.w.core e.w.bank e.e e.k e.cmd = true) (micro : (sp.micro e).go s = (.ok last, u)) :
    (runStarted sp e).go s = (.ok (), afterMicro e last u) := by
  rw [runStarted, go_state_then, go_waitUntil_then runs, go_bind_ok micro]
  cases last <;> rfl

theorem go_runMicro_started (turn : AtEngine e i sp s) (started : e.cmd.started = true) : (runMicro sp e).go s = (runStarted sp e).go s := by
  rw [runMicro, go_state_then, if_neg (by simp [turn.dispatched]), if_neg (by simp [started])]

theorem exec_microStep (turn : AtEngine e i sp s) (started : e.cmd.started = true)
    (runs : mayRun s e.w.core e.w.bank e.e e.k e.cmd = true) (micro : (sp.micro e).go s = (.ok last, u)) :
    exec i s = .next (if last then retired e u else stepped sp e u) :=
  exec_of_runMicro turn ((go_runMicro_started turn started).trans (go_runStarted runs micro))

theorem microSteps : MicroSteps := by
  intro e i sp s u turn started runs
  refine ⟨fun last micro => exec_microStep turn started runs micro, fun t info traps => ?_⟩
  have stops : (runStarted sp e).go s = (.error (.trap t info), u) := by
    rw [runStarted, go_state_then, go_waitUntil_then runs, go_bind_error traps]
  rw [exec_atEngine turn, go_runMicro_started turn started, stops]

theorem commandsStart : CommandsStart := by
  intro e i sp s s1 u last turn waiting control
  have raw : ¬ e.cmd.raw = true := by simp [turn.dispatched]
  have unstarted : (!e.cmd.started) = true := by rw [waiting]; rfl
  refine ⟨fun may ready => ?_, fun held => ?_⟩
  · intro s2 runs micro
    refine exec_of_runMicro turn ?_
    rw [runMicro, go_state_then, if_neg raw, if_pos unstarted, go_waitUntil_then may, go_bind_ok ready, if_pos rfl, changeCmd,
      go_change_then]
    exact go_runStarted runs micro
  · have waits : (runMicro sp e).go s = (.error .wait, s) := by
      rw [runMicro, go_state_then, if_neg raw, if_pos unstarted, held]
      rfl
    rw [exec_atEngine turn, waits]
    exact congrArg Host.Outcome.next (countHeld_plain control _)

end

/-- Settles O30: the engine's turn is the command's micro-step, behind the tests of its start. -/
theorem commandsRun : Obligations.CommandsRun := ⟨microSteps, commandsStart⟩

end Sys2Proof.Proofs
end

section
/-!
SUPPORT FOR PROOFS. A micro-step on its way: what an engine's command, the slots, S, C and the rings hold between its actions (09 R229,
R230, R237; 13 R338, R339).
-/

namespace Sys2Proof.Proofs

open Sys2Proof.Machine Sys2Proof.Safety Sys2Proof.Claims

/-! ### Loops that go over every element -/

section
variable {α β : Type} {l : List α} {s : State}

/-- A loop in which each element does its part of what the loop keeps. -/
theorem go_forIn_along {f : α → β → Act (ForInStep β)} (v : List α → β) (P : List α → State → Prop)
    (turn : ∀ done, ∀ a ∈ l, ∀ t, P done t → ∃ u, (f a (v done)).go t = (.ok (.yield (v (done ++ [a]))), u) ∧ P (done ++ [a]) u)
    (start : P [] s) : ∃ t, (forIn l (v []) f).go s = (.ok (v l), t) ∧ P l t := by
  suffices rest : ∀ (r done : List α) (s : State), done ++ r = l → P done s → ∃ t, (forIn r (v done) f).go s = (.ok (v l), t) ∧ P l t from
    rest l [] s rfl start
  intro r
  induction r with
  | nil =>
    intro done s whole holds
    rw [List.append_nil] at whole
    subst whole
    exact ⟨s, rfl, holds⟩
  | cons a r ih =>
    intro done s whole holds
    obtain ⟨u, run, kept⟩ := turn done a (whole ▸ by simp) s holds
    rw [List.forIn_cons, go_bind_ok run]
    exact ih (done ++ [a]) u (by simpa using whole) kept

/-- Actions, one for each element, under which something stands. -/
theorem go_mapM {f : α → Act β} {g : α → β} (P : State → Prop) (turn : ∀ a ∈ l, ∀ t, P t → ∃ u, (f a).go t = (.ok (g a), u) ∧ P u)
    (start : P s) : ∃ t, (l.mapM f).go s = (.ok (l.map g), t) ∧ P t := by
  induction l generalizing s with
  | nil => exact ⟨s, by rw [List.mapM_nil]; rfl, start⟩
  | cons a l ih =>
    obtain ⟨u, run, kept⟩ := turn a (by simp) s start
    obtain ⟨t, runs, stands⟩ := ih (fun b hb => turn b (by simp [hb])) kept
    exact ⟨t, by rw [List.mapM_cons, go_bind_ok run, go_bind_ok runs]; rfl, stands⟩

end

theorem go_erequire_then {α : Type} {e : Eng} {ok : Bool} {t : Trap} {low : Nat} {s : State} (h : ok = true) (f : Unit → Act α) :
    Act.go (erequire e ok t low >>= f) s = (f ()).go s := go_bind_ok (by rw [erequire, if_pos h]; rfl) f

theorem go_erequire {e : Eng} {ok : Bool} {t : Trap} {low : Nat} {s : State} (h : ok = true) : (erequire e ok t low).go s = (.ok (), s) := by
  rw [erequire, if_pos h]
  rfl

/-! ### What an engine works on -/

/-- Memory, struck places, packets, S, C and the rings of a command's core and bank. -/
structure Stores where
  mem : List Host.Cell
  flaws : List Flaw
  net : Net
  bytes : Sparse Byte
  words : Sparse (BitVec 32)
  rings : Sparse Word

/-- The slots and the command's queue as well. -/
structure View extends Stores where
  slots : Sparse Slot
  queue : List Cmd

def viewOf (e : Eng) (s : State) : View :=
  { mem := s.mem, flaws := s.flaws, net := s.net, bytes := (coreOf s e.w.core).sBytes, words := (coreOf s e.w.core).cWords,
    rings := (bankOf s e.w.core e.w.bank).rings, slots := (coreOf s e.w.core).slots, queue := queueOf s e.w.core e.w.bank e.e }

def storesAt (e : Eng) (s : State) : Stores := (viewOf e s).toStores

section
variable (e : Eng) (s : State)

theorem viewOf_recorded {s t : State} (noted : Recorded s t) : viewOf e t = viewOf e s := field_recorded noted (viewOf e) fun _ _ => rfl

theorem viewOf_updBank (f : Bank → Bank) : viewOf e (updBank s e.w.core e.w.bank f) = { viewOf e s with
    rings := (f (bankOf s e.w.core e.w.bank)).rings, queue := sget [] (f (bankOf s e.w.core e.w.bank)).queues e.e } := by
  have stands {β : Type} (F : Core → β) (keeps : ∀ k m, F { k with banks := m } = F k) :=
    coreOf_updBank_field F keeps s e.w.core e.w.bank f e.w.core
  simp only [viewOf, queueOf, bankOf_updBank, updBank_mem, updBank_flaws, updBank_net, stands Core.sBytes (fun _ _ => rfl),
    stands Core.cWords (fun _ _ => rfl), stands Core.slots (fun _ _ => rfl)]

theorem viewOf_setQueue (q : List Cmd) : viewOf e (setQueue s e.w.core e.w.bank e.e q) = { viewOf e s with queue := q } := by
  rw [setQueue, viewOf_updBank, sget_sset_same]
  rfl

theorem viewOf_updCore (f : Core → Core) (banks : ∀ k, (f k).banks = k.banks) : viewOf e (updCore s e.w.core f) = { viewOf e s with
    bytes := (f (coreOf s e.w.core)).sBytes, words := (f (coreOf s e.w.core)).cWords, slots := (f (coreOf s e.w.core)).slots } := by
  simp only [viewOf, queueOf, bankOf, coreOf_updCore, banks, updCore_mem, updCore_flaws, updCore_net]

theorem viewOf_setSlot (n : Nat) (x : Slot) : viewOf e (setSlot s e.w.core n x) =
    { viewOf e s with slots := sset Slot.reset (viewOf e s).slots n x } := viewOf_updCore e s _ fun _ => rfl

theorem viewOf_writeS (o : Nat) (bs : List Byte) : viewOf e (writeS s e.w.core e.part o bs) =
    { viewOf e s with bytes := ssetAll 0 (viewOf e s).bytes (2048 * e.part.s0 + o) bs } := viewOf_updCore e s _ fun _ => rfl

theorem viewOf_writeC (tile row col : Nat) (v : BitVec 32) : viewOf e (writeC s e.w.core tile row col v) =
    { viewOf e s with words := sset 0 (viewOf e s).words (cKey tile row col) v } := viewOf_updCore e s _ fun _ => rfl

theorem viewOf_setRing (n : Nat) (v : Word) : viewOf e (setRing s e.w.core e.w.bank n v) =
    { viewOf e s with rings := sset 0 (viewOf e s).rings n v } := viewOf_updBank e s _

/-- Bytes stored one after another. -/
def bytesAfter (p : Part) (W : List (Nat × List Byte)) (m : Sparse Byte) : Sparse Byte :=
  W.foldl (fun m o => ssetAll 0 m (2048 * p.s0 + o.1) o.2) m

theorem viewOf_writes (W : List (Nat × List Byte)) : ∀ s, viewOf e (W.foldl (fun s o => writeS s e.w.core e.part o.1 o.2) s) =
    { viewOf e s with bytes := bytesAfter e.part W (viewOf e s).bytes } := by
  induction W with
  | nil => exact fun _ => rfl
  | cons o W ih =>
    intro s
    rw [List.foldl_cons, ih, viewOf_writeS]
    rfl

/-- Words of C stored one after another. -/
theorem viewOf_foldl_writeC {α : Type} (tile row col : α → Nat) (v : α → BitVec 32) (l : List α) : ∀ s,
    viewOf e (l.foldl (fun s a => writeC s e.w.core (tile a) (row a) (col a) (v a)) s) = { viewOf e s with
      words := l.foldl (fun m a => sset 0 m (cKey (tile a) (row a) (col a)) (v a)) (viewOf e s).words } := by
  induction l with
  | nil => exact fun _ => rfl
  | cons a l ih =>
    intro s
    rw [List.foldl_cons, ih, viewOf_writeC]
    rfl

theorem sByte_eq (n : Nat) : sByte s e.w.core n = sget 0 (viewOf e s).bytes n := rfl
theorem readS_eq (off n : Nat) : readS s e.w.core e.part off n = sgetAll 0 (viewOf e s).bytes (2048 * e.part.s0 + off) n := rfl
theorem readC_eq (tile row col : Nat) : readC s e.w.core tile row col = sget 0 (viewOf e s).words (cKey tile row col) := rfl
theorem ringOf_eq (n : Nat) : ringOf s e.w.core e.w.bank n = sget 0 (viewOf e s).rings n := rfl
theorem slotOf_eq (n : Nat) : slotOf s e.w.core n = sget Slot.reset (viewOf e s).slots n := rfl

end

/-! ### The command in its queue -/

/-- An action on the commands of one number. -/
def onId (id : Nat) (g : Cmd → Cmd) (c : Cmd) : Cmd := if c.id = id then g c else c

/-- A change of a command that leaves its number and that it has started. -/
def Steady (g : Cmd → Cmd) : Prop := ∀ c, (g c).id = c.id ∧ (g c).started = c.started

/-- The command `m` stands where the micro-step's command stood: the first of its number in the queue, which otherwise is as it was. -/
structure Held (e : Eng) (s : State) (m : Cmd) (t : State) : Prop where
  now : (viewOf e t).queue.find? (fun c => c.id == e.cmd.id) = some m
  queue : ∃ g, Steady g ∧ g e.cmd = m ∧ (viewOf e t).queue = (viewOf e s).queue.map (onId e.cmd.id g)

section
variable {e : Eng} {s t u : State} {m : Cmd} {g : Cmd → Cmd}

theorem Held.start (found : (queueOf s e.w.core e.w.bank e.e).find? (fun c => c.id == e.cmd.id) = some e.cmd) : Held e s e.cmd s where
  now := found
  queue := ⟨id, fun _ => ⟨rfl, rfl⟩, rfl, (List.map_id'' (fun _ => ite_self _) _).symm⟩

theorem Held.of_queue (held : Held e s m t) (same : (viewOf e u).queue = (viewOf e t).queue) : Held e s m u :=
  ⟨same ▸ held.now, same ▸ held.queue⟩

theorem viewOf_updCmd (e : Eng) (s : State) (g : Cmd → Cmd) : viewOf e (updCmd s e.w.core e.w.bank e.e e.cmd.id g) =
    { viewOf e s with queue := (viewOf e s).queue.map (onId e.cmd.id g) } := viewOf_setQueue e s _

theorem id_onId {id : Nat} (steady : Steady g) (c : Cmd) : (onId id g c).id = c.id := by
  rw [onId]
  split
  · exact (steady c).1
  · rfl

theorem onId_onId {id : Nat} {h : Cmd → Cmd} (steady : Steady g) (c : Cmd) : onId id h (onId id g c) = onId id (fun c => h (g c)) c := by
  by_cases same : c.id = id
  · simp [onId, same, (steady c).1]
  · simp [onId, same]

/-- The first command of a number after a change of all of that number. -/
theorem find_map_onId {id : Nat} {q : List Cmd} (steady : Steady g) (found : q.find? (fun c => c.id == id) = some m) :
    (q.map (onId id g)).find? (fun c => c.id == id) = some (g m) := by
  have number : m.id = id := by simpa using List.find?_some found
  rw [List.find?_map, show (fun c : Cmd => c.id == id) ∘ onId id g = fun c => c.id == id from funext fun c => by
    simp [id_onId steady], found]
  simp [onId, number]

theorem Held.change (held : Held e s m t) (steady : Steady g) : Held e s (g m) (updCmd t e.w.core e.w.bank e.e e.cmd.id g) where
  now := by
    rw [viewOf_updCmd]
    exact find_map_onId steady held.now
  queue := by
    obtain ⟨h, still, is, queue⟩ := held.queue
    refine ⟨fun c => g (h c), fun c => ⟨(steady _).1.trans (still c).1, (steady _).2.trans (still c).2⟩, congrArg g is, ?_⟩
    rw [viewOf_updCmd, queue, List.map_map]
    exact List.map_congr_left fun c _ => onId_onId still c

theorem Held.go_cmdNow (held : Held e s m t) : (cmdNow e).go t = (.ok m, t) := by
  have now : (queueOf t e.w.core e.w.bank e.e).find? (fun c => c.id == e.cmd.id) = some m := held.now
  rw [cmdNow, go_state_then, now]
  rfl

theorem Held.becomes (held : Held e s m t) (stands : (queueOf s e.w.core e.w.bank e.e)[e.k]? = some e.cmd) : Becomes e t m := by
  obtain ⟨g, -, is, queue⟩ := held.queue
  rw [Becomes, show queueOf t e.w.core e.w.bank e.e = _ from queue, List.getElem?_map, show (viewOf e s).queue[e.k]? = _ from stands]
  simp [onId, is]

theorem Held.not_stillHeld (held : Held e s m t) (started : e.cmd.started = true)
    (alone : ∀ c ∈ queueOf s e.w.core e.w.bank e.e, c.id = e.cmd.id → c = e.cmd) : stillHeld t e = false := by
  obtain ⟨g, steady, -, queue⟩ := held.queue
  rw [stillHeld, show queueOf t e.w.core e.w.bank e.e = _ from queue, List.any_map, List.any_eq_false]
  intro c listed
  by_cases same : c.id = e.cmd.id
  · have goes : (onId e.cmd.id g c).started = true := by rw [onId, if_pos same, (steady c).2, alone c listed same, started]
    simp [goes]
  · simp [onId, same]

end

/-! ### The turn, and its end -/

/-- A started command's turn in a device that no ECC error has struck; it is the first of its number in its queue. -/
structure MicroTurn (e : Eng) (i : Instr) (sp : CmdSpec) (s : State) : Prop extends AtEngine e i sp s where
  started : e.cmd.started = true
  mayRun : mayRun s e.w.core e.w.bank e.e e.k e.cmd = true
  sound : s.flaws = []
  found : (queueOf s e.w.core e.w.bank e.e).find? (fun c => c.id == e.cmd.id) = some e.cmd

section
variable {e : Eng} {i : Instr} {sp : CmdSpec} {s u : State} {m : Cmd}

theorem microTurn_of_engineTurn (turn : EngineTurn e i sp s) : MicroTurn e i sp s where
  toAtEngine := turn.toAtEngine
  started := turn.started
  mayRun := turn.mayRun
  sound := turn.sound
  found := by
    have stands : e.cmd ∈ queueOf s e.w.core e.w.bank e.e := List.mem_of_getElem? turn.holds
    have some : ((queueOf s e.w.core e.w.bank e.e).find? (fun c => c.id == e.cmd.id)).isSome = true :=
      List.find?_isSome.mpr ⟨e.cmd, stands, by simp⟩
    obtain ⟨c, first⟩ := Option.isSome_iff_exists.mp some
    rw [first, turn.alone c (List.mem_of_find?_eq_some first) (by simpa using List.find?_some first)]

/-- A turn whose micro-step answers ends with what the micro-step leaves; after the last the command has left its queue, after another it
stands there. -/
theorem exec_ends {p : Prop} [Decidable p] (turn : MicroTurn e i sp s) (run : (sp.micro e).go s = (.ok (decide p), u)) (held : Held e s m u)
    (alone : ¬ p → ∀ c ∈ queueOf s e.w.core e.w.bank e.e, c.id = e.cmd.id → c = e.cmd) :
    ∃ t, exec i s = .next t ∧ storesAt e t = storesAt e u ∧ (viewOf e t).slots = (viewOf e u).slots ∧ (p → Gone e t) ∧
      (¬ p → Becomes e t m) := by
  have step := exec_microStep turn.toAtEngine turn.started turn.mayRun run
  by_cases last : p
  · rw [if_pos (decide_eq_true last), retired] at step
    have view := (viewOf_recorded e (recorded_recHolds e.w (retireCmd u e.w.core e.w.bank e.e e.cmd.id))).trans (viewOf_setQueue e u _)
    refine ⟨_, step, (congrArg View.toStores view).trans rfl, (congrArg View.slots view).trans rfl, fun _ c listed => ?_,
      fun more => absurd last more⟩
    rw [show queueOf _ e.w.core e.w.bank e.e = _ from congrArg View.queue view] at listed
    simpa using (List.mem_filter.mp listed).2
  · rw [if_neg (by simpa using last), stepped, if_neg (by simp [held.not_stillHeld turn.started (alone last)])] at step
    have view := viewOf_recorded e (recorded_recHolds e.w u)
    exact ⟨_, step, congrArg View.toStores view, congrArg View.slots view, fun done => absurd done last,
      fun _ => (held.of_queue (congrArg View.queue view)).becomes turn.holds⟩

theorem exec_turn_ends {p : Prop} [Decidable p] (turn : EngineTurn e i sp s) (run : (sp.micro e).go s = (.ok (decide p), u))
    (held : Held e s m u) : ∃ t, exec i s = .next t ∧ storesAt e t = storesAt e u ∧ (viewOf e t).slots = (viewOf e u).slots ∧
      (p → Gone e t) ∧ (¬ p → Becomes e t m) :=
  exec_ends (microTurn_of_engineTurn turn) run held fun _ => turn.alone

end

end Sys2Proof.Proofs
end

section
/-!
SUPPORT FOR PROOFS. Operands of engines in S, between the actions of a micro-step: tags, sources and destinations (09 R229, R230; 13 R339,
R355).
-/

namespace Sys2Proof.Proofs

open Sys2Proof.Machine Sys2Proof.Safety Sys2Proof.Claims

/-! ### Tags and stamps -/

/-- The tag that a slot of a command's partition carries. -/
def slotTag (e : Eng) (s : State) (i : Nat) : TileTag :=
  ((slotOf s e.w.core (e.part.s0 + i)).fmt, (slotOf s e.w.core (e.part.s0 + i)).geo)

/-- A micro-step that began in `s` has come to `t`: each tag still is what the command has seen first, the slots `D` and no others that it
had not stamped before are stamped `tag` or will be, the stores hold `σ`, and no owner has changed. -/
structure Midway (e : Eng) (s : State) (tag : TileTag) (D : List Nat) (σ : Stores) (t : State) : Prop where
  stores : storesAt e t = σ
  owner : ∀ i, (slotOf t e.w.core i).owner = (slotOf s e.w.core i).owner
  marks : ∃ tags stamped, Held e s { e.cmd with tags := tags, stamped := stamped } t ∧
    (∀ i, (aget tags i).getD (slotTag e t i) = tagOf e s i) ∧ (∀ i ∈ D, i ∈ stamped) ∧
    ∀ i ∈ stamped, i ∉ e.cmd.stamped → slotTag e t i = tag

section
variable {e : Eng} {s t u : State} {tag : TileTag} {D : List Nat} {σ τ : Stores} {off n size : Nat} {W : List (Nat × List Byte)}

theorem Midway.start (tag : TileTag) (found : (queueOf s e.w.core e.w.bank e.e).find? (fun c => c.id == e.cmd.id) = some e.cmd) :
    Midway e s tag [] (storesAt e s) s where
  stores := rfl
  owner _ := rfl
  marks := ⟨e.cmd.tags, e.cmd.stamped, Held.start found, fun _ => rfl, fun _ h => absurd h List.not_mem_nil, fun _ h k => absurd h k⟩

theorem slotOf_of_slots (same : (viewOf e u).slots = (viewOf e t).slots) (i : Nat) : slotOf u e.w.core i = slotOf t e.w.core i :=
  congrArg (fun m => sget Slot.reset m i) same

theorem Midway.store (mid : Midway e s tag D σ t) (slots : (viewOf e u).slots = (viewOf e t).slots)
    (queue : (viewOf e u).queue = (viewOf e t).queue) (stores : storesAt e u = τ) : Midway e s tag D τ u where
  stores := stores
  owner i := by rw [slotOf_of_slots slots, mid.owner]
  marks := by
    obtain ⟨tags, stamped, held, first, all, marked⟩ := mid.marks
    have same (i : Nat) : slotTag e u i = slotTag e t i := by rw [slotTag, slotOf_of_slots slots, slotTag]
    exact ⟨tags, stamped, held.of_queue queue, fun i => by rw [same, first], all, fun i hi new => by rw [same, marked i hi new]⟩

theorem slotTag_updBank (e : Eng) (s : State) (f : Bank → Bank) (i : Nat) : slotTag e (updBank s e.w.core e.w.bank f) i = slotTag e s i := by
  simp only [slotTag, slotOf_updBank]

theorem Midway.go_touchTag (mid : Midway e s tag D σ t) (i : Nat) :
    ∃ u, (touchTag e i).go t = (.ok (tagOf e s i), u) ∧ Midway e s tag D σ u ∧
      ∃ tags stamped, Held e s { e.cmd with tags := tags, stamped := stamped } u ∧ (aget tags i).isSome = true := by
  obtain ⟨tags, stamped, held, first, all, marked⟩ := mid.marks
  cases seen : aget tags i with
  | some x =>
    have is : x = tagOf e s i := by rw [← first i, seen, Option.getD_some]
    refine ⟨t, ?_, mid, tags, stamped, held, by rw [seen]; rfl⟩
    rw [touchTag, go_bind_ok held.go_cmdNow]
    dsimp only
    rw [seen, is]
    rfl
  | none =>
    have is : slotTag e t i = tagOf e s i := by rw [← first i, seen, Option.getD_none]
    have steady : Steady (fun m => { m with tags := aset m.tags i (slotTag e t i) }) := fun _ => ⟨rfl, rfl⟩
    refine ⟨updCmd t e.w.core e.w.bank e.e e.cmd.id (fun m => { m with tags := aset m.tags i (slotTag e t i) }), ?_, ?_,
      aset tags i (slotTag e t i), stamped, held.change steady, by rw [aget_aset_same]; rfl⟩
    · rw [touchTag, go_bind_ok held.go_cmdNow]
      dsimp only
      rw [seen, go_state_then, changeCmd, go_change_then, ← is]
      rfl
    · refine ⟨?_, fun k => ?_, aset tags i (slotTag e t i), stamped, held.change steady, fun k => ?_, all, fun k hk new => ?_⟩
      · rw [← mid.stores, storesAt, viewOf_updCmd]
        rfl
      · rw [updCmd, setQueue, slotOf_updBank, mid.owner]
      · rw [updCmd, setQueue, slotTag_updBank]
        by_cases same : k = i
        · rw [same, aget_aset_same, Option.getD_some, is]
        · rw [aget_aset_other _ _ same, first]
      · rw [updCmd, setQueue, slotTag_updBank, marked k hk new]

/-! ### Sources -/

theorem Midway.go_checkBytes (mid : Midway e s tag D σ t) (owned : Owned e s off n) : (checkBytes e off n).go t = (.ok (), t) := by
  have owners : ((slotsOf off n).all fun i => (slotOf t e.w.core (e.part.s0 + i)).owner) = true :=
    List.all_eq_true.mpr fun i hi => by rw [mid.owner, owned.2 i hi]
  rw [checkBytes, go_erequire_then (decide_eq_true owned.1), go_state_then, go_erequire owners]

/-- The bytes of a source, where none is struck. -/
def takenS (e : Eng) (σ : Stores) (off n : Nat) : List Byte := sgetAll 0 σ.bytes (2048 * e.part.s0 + off) n

theorem readS_eq_takenS (e : Eng) (s : State) (off n : Nat) : readS s e.w.core e.part off n = takenS e (storesAt e s) off n := rfl

theorem struckS_sound {t : State} (sound : t.flaws = []) (e : Eng) (off n : Nat) : struckS t e off n = [] := by
  rw [struckS, sound]
  rfl

theorem Midway.flaws (mid : Midway e s tag D σ t) (sound : σ.flaws = []) : t.flaws = [] := by
  rw [← sound, ← mid.stores]
  rfl

theorem Midway.go_getBytes (mid : Midway e s tag D σ t) (sound : σ.flaws = []) (owned : Owned e s off n) :
    (getBytes e size off n).go t = (.ok (takenS e σ off n), t) := by
  rw [getBytes, go_bind_ok (mid.go_checkBytes owned), go_state_then, readS_eq_takenS, mid.stores, struckS_sound (mid.flaws sound)]
  rfl

theorem Midway.go_getTagged (mid : Midway e s tag D σ t) (sound : σ.flaws = []) {x : TileTag} (readable : Readable e s x off n) :
    ∃ u, (getTagged e x size off n).go t = (.ok (takenS e σ off n), u) ∧ Midway e s tag D σ u := by
  obtain ⟨u, loop, kept⟩ := go_forIn_along (l := slotsOf off n) (s := t) (fun _ => PUnit.unit) (fun _ => Midway e s tag D σ)
    (f := fun i _ => touchTag e i >>= fun t => erequire e (t == x) .formatMismatch off >>= fun _ => pure (.yield PUnit.unit))
    (fun _ i hi t mid => by
      obtain ⟨u, touch, kept, -⟩ := mid.go_touchTag i
      refine ⟨u, ?_, kept⟩
      rw [go_bind_ok touch, go_erequire_then (by rw [readable.2 i hi, beq_self_eq_true])]
      rfl) mid
  exact ⟨u, by rw [getTagged, go_bind_ok (mid.go_getBytes sound readable.1)]; exact go_bind_ok loop _, kept⟩

/-! ### Destinations -/

/-- One slot is stamped, unless it is already. -/
def stampTurn (e : Eng) (tag : TileTag) (i : Nat) : Act (ForInStep PUnit) := do
  let _ ← touchTag e i
  let m ← cmdNow e
  if !m.stamped.contains i then
    change (fun s => setSlot s e.w.core (e.part.s0 + i) { slotOf s e.w.core (e.part.s0 + i) with fmt := tag.1, geo := tag.2 })
    changeCmd e (fun m => { m with stamped := m.stamped ++ [i] })
    pure (.yield PUnit.unit)
  else pure (.yield PUnit.unit)

theorem Midway.go_stampTurn (mid : Midway e s tag D σ t) (i : Nat) :
    ∃ u, (stampTurn e tag i).go t = (.ok (.yield PUnit.unit), u) ∧ Midway e s tag (D ++ [i]) σ u := by
  obtain ⟨u, touch, mid, tags, stamped, held, seen⟩ := mid.go_touchTag i
  obtain ⟨tags', stamped', held', first, all, marked⟩ := mid.marks
  have same : tags = tags' ∧ stamped = stamped' := by
    have one := Option.some.inj (held.now.symm.trans held'.now)
    exact ⟨congrArg Cmd.tags one, congrArg Cmd.stamped one⟩
  obtain ⟨rfl, rfl⟩ := same
  rw [stampTurn, go_bind_ok touch, go_bind_ok held.go_cmdNow]
  by_cases done : i ∈ stamped
  · rw [if_neg (by simpa using done)]
    refine ⟨u, rfl, mid.stores, mid.owner, tags, stamped, held, first, fun k hk => ?_, marked⟩
    rcases List.mem_append.mp hk with old | new
    · exact all k old
    · rwa [List.mem_singleton.mp new]
  · have view := viewOf_setSlot e u (e.part.s0 + i) { slotOf u e.w.core (e.part.s0 + i) with fmt := tag.1, geo := tag.2 }
    have steady : Steady (fun m => { m with stamped := m.stamped ++ [i] }) := fun _ => ⟨rfl, rfl⟩
    rw [if_pos (by simpa using done), go_change_then, changeCmd, go_change_then]
    have stampTag (k : Nat) : slotTag e (setSlot u e.w.core (e.part.s0 + i)
        { slotOf u e.w.core (e.part.s0 + i) with fmt := tag.1, geo := tag.2 }) k = if k = i then tag else slotTag e u k := by
      by_cases here : k = i
      · simp [slotTag, slotOf_setSlot, here]
      · simp [slotTag, slotOf_setSlot, here]
    refine ⟨_, rfl, ?_, fun k => ?_, tags, stamped ++ [i], (held.of_queue ((congrArg View.queue view).trans rfl)).change steady, fun k => ?_,
      fun k hk => ?_, fun k hk new => ?_⟩
    · rw [← mid.stores, storesAt, viewOf_updCmd, view]
      rfl
    · rw [updCmd, setQueue, slotOf_updBank, slotOf_setSlot, ← mid.owner]
      split
      · next here => rw [here]
      · rfl
    · rw [updCmd, setQueue, slotTag_updBank, stampTag, ← first k]
      split
      · next here =>
        obtain ⟨x, is⟩ := Option.isSome_iff_exists.mp seen
        rw [here, is, Option.getD_some, Option.getD_some]
      · rfl
    · rcases List.mem_append.mp hk with old | one
      · exact List.mem_append_left _ (all k old)
      · exact List.mem_append_right _ one
    · rw [updCmd, setQueue, slotTag_updBank, stampTag]
      split
      · rfl
      · next other =>
        exact marked k ((List.mem_append.mp hk).resolve_right fun one => other (List.mem_singleton.mp one)) new

theorem Midway.go_stampSlots (mid : Midway e s tag D σ t) (l : List Nat) :
    ∃ u, (stampSlots e tag.1 tag.2 l).go t = (.ok (), u) ∧ Midway e s tag (D ++ l) σ u := by
  have whole : Midway e s tag (D ++ []) σ t := by rwa [List.append_nil]
  obtain ⟨u, loop, kept⟩ := go_forIn_along (l := l) (s := t) (fun _ => PUnit.unit) (fun done => Midway e s tag (D ++ done) σ)
    (f := fun i _ => stampTurn e tag i) (fun done i _ t mid => by rw [← List.append_assoc]; exact mid.go_stampTurn i) whole
  exact ⟨u, go_bind_ok loop _, kept⟩

/-- A destination is written: its slots carry the tag and its bytes stand in S. -/
theorem Midway.go_putBytes (mid : Midway e s tag D σ t) {bs : List Byte} (owned : Owned e s off bs.length) :
    ∃ u, (putBytes e tag.1 tag.2 off bs).go t = (.ok (), u) ∧
      Midway e s tag (D ++ slotsOf off bs.length) { σ with bytes := ssetAll 0 σ.bytes (2048 * e.part.s0 + off) bs } u := by
  obtain ⟨u, stamp, mid'⟩ := mid.go_stampSlots (slotsOf off bs.length)
  have view := viewOf_writeS e u off bs
  refine ⟨writeS u e.w.core e.part off bs, ?_, ?_⟩
  · rw [putBytes, go_bind_ok (mid.go_checkBytes owned), go_bind_ok stamp]
    rfl
  · refine mid'.store ((congrArg View.slots view).trans rfl) ((congrArg View.queue view).trans rfl) ?_
    rw [← mid'.stores, storesAt, view]
    rfl

/-- The slots that writes touch. -/
def stampedBy (W : List (Nat × List Byte)) : List Nat := W.flatMap fun o => slotsOf o.1 o.2.length

theorem stampedBy_append (W X : List (Nat × List Byte)) : stampedBy (W ++ X) = stampedBy W ++ stampedBy X := List.flatMap_append

theorem bytesAfter_append (p : Part) (W X : List (Nat × List Byte)) (m : Sparse Byte) :
    bytesAfter p (W ++ X) m = bytesAfter p X (bytesAfter p W m) := List.foldl_append

/-- The stores with writes in S. -/
def Stores.wrote (σ : Stores) (p : Part) (W : List (Nat × List Byte)) : Stores := { σ with bytes := bytesAfter p W σ.bytes }

theorem Stores.wrote_append (σ : Stores) (p : Part) (W X : List (Nat × List Byte)) : (σ.wrote p W).wrote p X = σ.wrote p (W ++ X) := by
  simp only [Stores.wrote, bytesAfter_append]

/-- Of a micro-step that wrote `W` the state after it holds what a statement says of it. -/
theorem Midway.lands (mid : Midway e s tag (stampedBy W) ((storesAt e s).wrote e.part W) t) (owned : ∀ o ∈ W, Owned e s o.1 o.2.length)
    (stores : storesAt e u = storesAt e t) (slots : (viewOf e u).slots = (viewOf e t).slots) : Lands e s u tag W := by
  obtain ⟨tags, stamped, -, -, all, marked⟩ := mid.marks
  refine ⟨fun n => ?_, fun o listed i touched new => ?_⟩
  · rw [sByte_eq, sByte_eq, viewOf_writes, show (viewOf e u).bytes = (storesAt e u).bytes from rfl, stores, mid.stores]
    rfl
  · have mark := marked i (all i (List.mem_flatMap.mpr ⟨o, listed, touched⟩)) new
    have owner := (mid.owner (e.part.s0 + i)).trans ((owned o listed).2 i touched)
    rw [slotOf_of_slots slots, ← mark, slotTag, ← owner]

/-- Writes one after another, of bytes that are known before. -/
theorem Midway.go_putAll (mid : Midway e s tag D σ t) {α : Type} {l : List α} (at_ : α → Nat) (bs : α → List Byte)
    (owned : ∀ a ∈ l, Owned e s (at_ a) (bs a).length) :
    ∃ u, Act.go (forIn l PUnit.unit fun a _ => putBytes e tag.1 tag.2 (at_ a) (bs a) >>= fun _ => pure (ForInStep.yield PUnit.unit)) t =
        (.ok PUnit.unit, u) ∧
      Midway e s tag (D ++ stampedBy (l.map fun a => (at_ a, bs a))) (σ.wrote e.part (l.map fun a => (at_ a, bs a))) u := by
  refine go_forIn_along (fun _ => PUnit.unit)
    (fun done => Midway e s tag (D ++ stampedBy (done.map fun a => (at_ a, bs a))) (σ.wrote e.part (done.map fun a => (at_ a, bs a))))
    (fun done a listed t mid => ?_) (by rwa [List.map_nil, stampedBy, List.flatMap_nil, List.append_nil])
  obtain ⟨u, put, kept⟩ := mid.go_putBytes (owned a listed)
  refine ⟨u, go_bind_ok put _, ?_⟩
  rw [List.map_append, stampedBy_append, ← Stores.wrote_append, ← List.append_assoc]
  simpa [stampedBy, Stores.wrote, bytesAfter] using kept

/-- The command moves on at the end of a micro-step. -/
theorem Midway.go_changeCmd (mid : Midway e s tag D σ t) {g : Cmd → Cmd} (steady : Steady g) :
    ∃ u tags stamped, (changeCmd e g).go t = (.ok (), u) ∧ storesAt e u = σ ∧ (viewOf e u).slots = (viewOf e t).slots ∧
      Held e s (g { e.cmd with tags := tags, stamped := stamped }) u := by
  obtain ⟨tags, stamped, held, -⟩ := mid.marks
  have view := viewOf_updCmd e t g
  refine ⟨_, tags, stamped, rfl, ?_, (congrArg View.slots view).trans rfl, held.change steady⟩
  rw [← mid.stores, storesAt, view]
  rfl

end

/-! ### The elements of a micro-step -/

/-- The model takes the places of a micro-step that are left as the statements do. -/
theorem filterMap_eq_filter (per from_ n : Nat) :
    (List.range per).filterMap (fun k => if from_ + k < n then some (from_ + k) else none) =
      ((List.range per).map (from_ + ·)).filter (· < n) := by
  rw [← List.filterMap_eq_filter, List.filterMap_map]
  refine List.filterMap_congr fun k _ => ?_
  simp [Option.guard]

theorem filterMap_eq_todoOf (e : Eng) (per n : Nat) :
    (List.range per).filterMap (fun k => if e.cmd.upc + k < n then some (e.cmd.upc + k) else none) = todoOf e per n :=
  filterMap_eq_filter per e.cmd.upc n

theorem lt_of_mem_todoOf {e : Eng} {per n k : Nat} (listed : k ∈ todoOf e per n) : k < n := by
  simpa using (List.mem_filter.mp listed).2

/-- An action that is taken on a condition and changes nothing. -/
theorem go_ite_then {β : Type} {c : Prop} [Decidable c] {m : Act Unit} {k : Unit → Act β} {s : State} (h : c → m.go s = (.ok (), s)) :
    Act.go (if c then m >>= k else k ()) s = (k ()).go s := by
  split
  · next holds => exact go_bind_ok (h holds) k
  · rfl

/-- A command that has moved on stands at its new µPC. -/
theorem becomes_upc {e : Eng} {u : State} {n : Nat}
    (moved : ∃ tags stamped, Becomes e u { e.cmd with tags := tags, stamped := stamped, upc := n }) : ∃ c, Becomes e u c ∧ c.upc = n := by
  obtain ⟨tags, stamped, here⟩ := moved
  exact ⟨_, here, rfl⟩

/-- What a turn leaves where its micro-step has written `W`: memory as it was, S with the writes, and the command gone after its last
micro-step or moved on. -/
theorem exec_lands {e : Eng} {i : Instr} {sp : CmdSpec} {s t : State} {tag : TileTag} {W : List (Nat × List Byte)} {p : Prop} [Decidable p]
    {g : Cmd → Cmd} (turn : MicroTurn e i sp s) (mid : Midway e s tag (stampedBy W) ((storesAt e s).wrote e.part W) t)
    (run : (sp.micro e).go s = Act.go (changeCmd e g >>= fun _ => pure (decide p)) t) (steady : Steady g)
    (owned : ∀ o ∈ W, Owned e s o.1 o.2.length)
    (alone : ¬ p → ∀ c ∈ queueOf s e.w.core e.w.bank e.e, c.id = e.cmd.id → c = e.cmd) :
    ∃ u, exec i s = .next u ∧ storesAt e u = (storesAt e s).wrote e.part W ∧ Lands e s u tag W ∧ (p → Gone e u) ∧
      (¬ p → ∃ tags stamped, Becomes e u (g { e.cmd with tags := tags, stamped := stamped })) := by
  obtain ⟨v, tags, stamped, change, stores, slots, held⟩ := mid.go_changeCmd steady
  rw [go_bind_ok change] at run
  obtain ⟨u, step, stores', slots', gone, becomes⟩ := exec_ends turn run held alone
  exact ⟨u, step, stores'.trans stores, mid.lands owned (stores'.trans (stores.trans mid.stores.symm)) (slots'.trans slots), gone,
    fun more => ⟨tags, stamped, becomes more⟩⟩

end Sys2Proof.Proofs
end

section
/-!
PROOF. The vector engine: commands that map elements, and reductions (13 R357 to R364, R367; 10 R264, R265, R267, R273).
-/

namespace Sys2Proof.Proofs

open Sys2Proof.Machine Sys2Proof.Safety Sys2Proof.Claims

/-! ### Mapped commands (13 R354, R355) -/

/-- The bytes of the widest operand. -/
def widest (tags : List TileTag) (size : Nat) : Nat := tags.foldl (fun m t => Nat.max m (sizeOf' t.1)) size

/-- The elements that a micro-step of a mapped command takes. -/
def mapTodo (ms : MapSpec) (e : Eng) (tags : List TileTag) (size : Nat) : List Nat := todoOf e (256 / widest tags size) ms.n

/-- The encoding of one element of D. -/
def mapElem (ms : MapSpec) (e : Eng) (s : State) (ops : List (Region × TileTag)) (tags : List TileTag) (size k : Nat) : Nat :=
  ms.value e tags k (ms.d.at size k) (ops.map fun x => raw e s (x.1.at (sizeOf' x.2.1) k) (sizeOf' x.2.1))

/-- What a micro-step of a mapped command needs: the tags fit, and at the first one each source is aligned and overlaps with D at most
element by element; the elements it takes can be read and written. -/
structure MapReady (ms : MapSpec) (srcs : List Region) (accept : TileTag → Bool) (tags : List TileTag) (dt : TileTag) (e : Eng) (s : State) :
    Prop where
  sources : ms.srcs = srcs.map fun r => ⟨r, accept⟩
  tags_eq : tags = srcs.map fun r => tagOf e s (r.base / 2048)
  accepts : ∀ x ∈ srcs.zip tags, accept x.2 = true ∧ (!ms.x || isInteger x.2.1) = true
  dest : ∀ t, (ms.dest e tags).go t = (.ok dt, t)
  first : e.cmd.upc = 0 → ∀ x ∈ srcs.zip tags, x.1.base % sizeOf' x.2.1 = 0 ∧ ((x.1 = ms.d ∧ sizeOf' x.2.1 = sizeOf' dt.1) ∨
    bytesMeet x.1.base (x.1.span (sizeOf' x.2.1) ms.n) ms.d.base (ms.d.span (sizeOf' dt.1) ms.n) = false)
  owned : ∀ k ∈ mapTodo ms e tags (sizeOf' dt.1), Owned e s (ms.d.at (sizeOf' dt.1) k) (sizeOf' dt.1)
  readable : ∀ k ∈ mapTodo ms e tags (sizeOf' dt.1), ∀ x ∈ srcs.zip tags,
    Readable e s x.2 (x.1.at (sizeOf' x.2.1) k) (sizeOf' x.2.1)

section
variable {ms : MapSpec} {srcs : List Region} {accept : TileTag → Bool} {tags : List TileTag} {dt tag : TileTag} {e : Eng} {s t : State}
  {D : List Nat} {σ : Stores}

theorem MapReady.zip_eq (ready : MapReady ms srcs accept tags dt e s) :
    ms.srcs.zip tags = (srcs.zip tags).map fun x => (⟨x.1, accept⟩, x.2) := by
  rw [ready.sources, List.zip_map_left]
  rfl

theorem MapReady.go_touchTags (ready : MapReady ms srcs accept tags dt e s) (mid : Midway e s tag D σ t) :
    ∃ u, (ms.srcs.mapM fun x => touchTag e (x.reg.base / 2048)).go t = (.ok tags, u) ∧ Midway e s tag D σ u := by
  obtain ⟨u, run, kept⟩ := go_mapM (l := ms.srcs) (g := fun x => tagOf e s (x.reg.base / 2048)) (Midway e s tag D σ)
    (fun x _ t mid => by
      obtain ⟨u, touch, kept, -⟩ := mid.go_touchTag (x.reg.base / 2048)
      exact ⟨u, touch, kept⟩) mid
  refine ⟨u, ?_, kept⟩
  rw [run, ready.tags_eq, ready.sources, List.map_map]
  rfl

theorem MapReady.go_mapFirst (ready : MapReady ms srcs accept tags dt e s) (zero : e.cmd.upc = 0) (t : State) :
    (mapFirst ms e tags).go t = (.ok (), t) := by
  have each {x : Src × TileTag} (listed : x ∈ ms.srcs.zip tags) : x.1.accept x.2 = true ∧ (!ms.x || isInteger x.2.1) = true ∧
      (x.1.reg.base % sizeOf' x.2.1 == 0) = true := by
    rw [ready.zip_eq] at listed
    obtain ⟨y, here, rfl⟩ := List.mem_map.mp listed
    exact ⟨(ready.accepts y here).1, (ready.accepts y here).2, beq_iff_eq.mpr (ready.first zero y here).1⟩
  rw [mapFirst, go_bind_ok (go_forIn_keeps fun x listed => by rw [go_erequire_then (each listed).1]; rfl),
    go_bind_ok (go_forIn_keeps fun x listed => by rw [go_erequire_then (each listed).2.1, go_erequire_then (each listed).2.2]; rfl)]
  rfl

theorem MapReady.go_mapOverlap (ready : MapReady ms srcs accept tags dt e s) (zero : e.cmd.upc = 0) (t : State) :
    (mapOverlap ms e tags (sizeOf' dt.1)).go t = (.ok (), t) := by
  rw [mapOverlap, go_bind_ok (go_forIn_keeps fun x listed => ?_)]
  · rfl
  · rw [ready.zip_eq] at listed
    obtain ⟨y, here, rfl⟩ := List.mem_map.mp listed
    refine go_bind_ok (go_erequire ?_) _
    rcases (ready.first zero y here).2 with ⟨same, size⟩ | apart
    · simp [same, size]
    · simp [apart]

/-- The encodings of one element's sources. -/
theorem MapReady.go_raws (ready : MapReady ms srcs accept tags dt e s) (mid : Midway e s tag D (storesAt e s) t) (sound : s.flaws = [])
    {k : Nat} (listed : k ∈ mapTodo ms e tags (sizeOf' dt.1)) :
    ∃ u, ((ms.srcs.zip tags).mapM fun x => getTagged e x.2 (sizeOf' x.2.1) (x.1.reg.at (sizeOf' x.2.1) k) (sizeOf' x.2.1) >>= fun bs =>
        pure (leNat bs)).go t =
        (.ok ((srcs.zip tags).map fun x => raw e s (x.1.at (sizeOf' x.2.1) k) (sizeOf' x.2.1)), u) ∧ Midway e s tag D (storesAt e s) u := by
  obtain ⟨u, run, kept⟩ := go_mapM (l := ms.srcs.zip tags)
    (f := fun x => getTagged e x.2 (sizeOf' x.2.1) (x.1.reg.at (sizeOf' x.2.1) k) (sizeOf' x.2.1) >>= fun bs => pure (leNat bs))
    (g := fun x => raw e s (x.1.reg.at (sizeOf' x.2.1) k) (sizeOf' x.2.1))
    (Midway e s tag D (storesAt e s)) (fun x here t mid => by
      rw [ready.zip_eq] at here
      obtain ⟨y, there, rfl⟩ := List.mem_map.mp here
      obtain ⟨u, read, kept⟩ := mid.go_getTagged sound (ready.readable k listed y there)
      exact ⟨u, go_bind_ok read _, kept⟩) mid
  refine ⟨u, ?_, kept⟩
  rw [run, ready.zip_eq, List.map_map]
  rfl

/-- The micro-step: it reads the elements of all sources, and then writes. -/
theorem MapReady.go_mapMicro (ready : MapReady ms srcs accept tags dt e s) (sound : s.flaws = [])
    (found : (queueOf s e.w.core e.w.bank e.e).find? (fun c => c.id == e.cmd.id) = some e.cmd) :
    let todo := mapTodo ms e tags (sizeOf' dt.1)
    let out := todo.map fun k => (ms.d.at (sizeOf' dt.1) k, leBytes (sizeOf' dt.1) (mapElem ms e s (srcs.zip tags) tags (sizeOf' dt.1) k))
    ∃ t, Midway e s dt (stampedBy out) ((storesAt e s).wrote e.part out) t ∧
      (mapMicro ms e).go s = Act.go (changeCmd e (fun c => { c with upc := e.cmd.upc + todo.length }) >>= fun _ =>
        pure (decide (ms.n ≤ e.cmd.upc + todo.length))) t := by
  intro todo out
  obtain ⟨s1, touch, mid1⟩ := ready.go_touchTags (Midway.start dt found)
  obtain ⟨s2, reads, mid2⟩ := go_forIn_along (l := todo)
    (fun done => done.map fun k => (ms.d.at (sizeOf' dt.1) k, mapElem ms e s (srcs.zip tags) tags (sizeOf' dt.1) k))
    (fun _ => Midway e s dt [] (storesAt e s))
    (f := fun k out => ((ms.srcs.zip tags).mapM fun x => getTagged e x.2 (sizeOf' x.2.1) (x.1.reg.at (sizeOf' x.2.1) k) (sizeOf' x.2.1) >>=
        fun bs => pure (leNat bs)) >>= fun raws =>
      pure (.yield (out ++ [(ms.d.at (sizeOf' dt.1) k, ms.value e tags k (ms.d.at (sizeOf' dt.1) k) raws)])))
    (fun done k listed t mid => by
      obtain ⟨u, raws, kept⟩ := ready.go_raws mid sound listed
      refine ⟨u, ?_, kept⟩
      rw [go_bind_ok raws, List.map_append]
      rfl) mid1
  obtain ⟨s3, writes, mid3⟩ := mid2.go_putAll (fun o : Nat × Nat => o.1) (fun o => leBytes (sizeOf' dt.1) o.2)
    (l := todo.map fun k => (ms.d.at (sizeOf' dt.1) k, mapElem ms e s (srcs.zip tags) tags (sizeOf' dt.1) k)) fun o listed => by
      obtain ⟨k, here, rfl⟩ := List.mem_map.mp listed
      rw [length_leBytes]
      exact ready.owned k here
  rw [List.nil_append, List.map_map] at mid3
  refine ⟨s3, mid3, ?_⟩
  rw [mapMicro, go_bind_ok touch]
  refine (go_ite_then fun zero => ready.go_mapFirst zero s1).trans ?_
  refine (go_bind_ok (ready.dest s1) _).trans ?_
  refine (go_ite_then fun zero => ready.go_mapOverlap zero s1).trans ?_
  dsimp only
  rw [filterMap_eq_todoOf]
  exact (go_bind_ok reads _).trans (go_bind_ok writes _)

/-- What the command's turn leaves. -/
theorem MapReady.exec_mapCmd {i : Instr} {sp : CmdSpec} (ready : MapReady ms srcs accept tags dt e s) (turn : MicroTurn e i sp s)
    (spec : specOf i = some (mapCmd ms)) :
    let todo := mapTodo ms e tags (sizeOf' dt.1)
    let out := todo.map fun k => (ms.d.at (sizeOf' dt.1) k, leBytes (sizeOf' dt.1) (mapElem ms e s (srcs.zip tags) tags (sizeOf' dt.1) k))
    (¬ ms.n ≤ e.cmd.upc + todo.length → ∀ c ∈ queueOf s e.w.core e.w.bank e.e, c.id = e.cmd.id → c = e.cmd) →
    ∃ u, exec i s = .next u ∧ storesAt e u = (storesAt e s).wrote e.part out ∧ Lands e s u dt out ∧
      (ms.n ≤ e.cmd.upc + todo.length → Gone e u) ∧
      (¬ ms.n ≤ e.cmd.upc + todo.length → ∃ m, Becomes e u m ∧ m.upc = e.cmd.upc + todo.length) := by
  intro todo out alone
  obtain rfl : sp = mapCmd ms := Option.some.inj (turn.spec.symm.trans spec)
  obtain ⟨t, mid, run⟩ := ready.go_mapMicro turn.sound turn.found
  obtain ⟨u, step, stores, lands, gone, becomes⟩ := exec_lands turn mid run (fun _ => ⟨rfl, rfl⟩) (fun o listed => by
    obtain ⟨k, here, rfl⟩ := List.mem_map.mp listed
    rw [length_leBytes]
    exact ready.owned k here) alone
  exact ⟨u, step, stores, lands, gone, fun more => becomes_upc (becomes more)⟩

end

/-- Encodings of elements with some tags. -/
def Encodings (raws : List Nat) (tags : List TileTag) : Prop := List.Forall₂ (fun r t => r < 2 ^ (8 * sizeOf' t.1)) raws tags

theorem length_readS (s : State) (c : Nat) (p : Part) (off n : Nat) : (readS s c p off n).length = n := by
  rw [readS, sgetAll, List.length_map, List.length_range]

theorem raw_lt (e : Eng) (s : State) (off n : Nat) : raw e s off n < 2 ^ (8 * n) := by
  have bound := leNat_lt (readS s e.w.core e.part off n)
  rwa [length_readS] at bound

theorem encodings_raws (e : Eng) (s : State) (at_ : Region × TileTag → Nat) (tag : Region → TileTag) (srcs : List Region) :
    Encodings ((srcs.zip (srcs.map tag)).map fun x => raw e s (at_ x) (sizeOf' x.2.1)) (srcs.map tag) := by
  induction srcs with
  | nil => exact .nil
  | cons r srcs ih => exact .cons (raw_lt e s _ _) ih

/-- A mapped command of the model is what the statement of one says, where its tags, its destination and its values are. -/
theorem maps_of_mapCmd {i : Instr} {ms : MapSpec} {srcs : List Region} {accept : TileTag → Bool} {dest : List TileTag → TileTag}
    {legal : List TileTag → Bool} {value : Eng → List TileTag → Nat → Nat → List Nat → Nat} (spec : specOf i = some (mapCmd ms))
    (sources : ms.srcs = srcs.map fun r => ⟨r, accept⟩)
    (accepts : ∀ tags, legal tags = true → ∀ t ∈ tags, accept t = true ∧ (!ms.x || isInteger t.1) = true)
    (dests : ∀ e tags, legal tags = true → ∀ t, (ms.dest e tags).go t = (.ok (dest tags), t))
    (values : ∀ e (tag : Region → TileTag) k off raws, legal (srcs.map tag) = true → Encodings raws (srcs.map tag) →
      ms.value e (srcs.map tag) k off raws = value e (srcs.map tag) k off raws) :
    Maps i ms.d ms.n srcs dest legal value := by
  intro e sp s turn tags ops dt size todo out fits first places
  have ready : MapReady ms srcs accept tags dt e s :=
    { sources := sources, tags_eq := rfl, dest := dests e tags fits, first := first
      accepts := fun x listed => accepts tags fits x.2 (List.of_mem_zip listed).2
      owned := fun k listed => (places k listed).1, readable := fun k listed => (places k listed).2 }
  have same : (mapTodo ms e tags (sizeOf' dt.1)).map (fun k => (ms.d.at (sizeOf' dt.1) k,
      leBytes (sizeOf' dt.1) (mapElem ms e s (srcs.zip tags) tags (sizeOf' dt.1) k))) = out :=
    List.map_congr_left fun k _ => by rw [mapElem, values e _ _ _ _ fits (encodings_raws e s _ _ srcs)]
  obtain ⟨u, step, stores, lands, gone, becomes⟩ := ready.exec_mapCmd (microTurn_of_engineTurn turn) spec fun _ => turn.alone
  rw [same] at stores lands
  exact ⟨u, step, congrArg Stores.mem stores, lands, gone, fun more => becomes (Nat.not_le.mpr more)⟩

/-! ### Commands with the destination format F (13 R356 to R358, R363) -/

theorem numericTags_each {v : V3Args} {tags : List TileTag} (fits : numericTags v tags = true) :
    ∀ t ∈ tags, isNumeric t = true ∧ (!v.x || isInteger t.1) = true := by
  rw [numericTags, Bool.and_eq_true, Bool.and_eq_true] at fits
  obtain ⟨⟨-, numeric⟩, whole⟩ := fits
  intro t listed
  refine ⟨List.all_eq_true.mp numeric t listed, ?_⟩
  rw [Bool.or_eq_true] at whole ⊢
  exact whole.imp_right fun all => List.all_eq_true.mp all t listed

theorem maps_mapF {i : Instr} {v : V3Args} {srcs : List Region} {readsD : Bool} {value : Eng → List TileTag → Nat → Nat → List Nat → Nat}
    (spec : specOf i = some (mapCmd (mapF v srcs readsD value))) :
    Maps i (regD v) v.n.toNat srcs (fun _ => (v.f, 0)) (numericTags v) value :=
  maps_of_mapCmd spec rfl (fun _ => numericTags_each) (fun _ _ _ _ => rfl) fun _ _ _ _ _ _ _ => rfl

theorem map_zip_eq_zipWith {α β γ : Type} (f : β → α → γ) : ∀ (l : List α) (m : List β),
    (l.zip m).map (fun x => f x.2 x.1) = List.zipWith f m l
  | [], [] => rfl
  | [], _ :: _ => rfl
  | _ :: _, [] => rfl
  | a :: l, b :: m => congrArg (f b a :: ·) (map_zip_eq_zipWith f l m)

/-- The model's result of arithmetic is the statement's. -/
theorem arithValue_eq_resultOf (v : V3Args) (ints : List Int → Int) (nums : Bool → List Machine.Num → Machine.Num) :
    arithValue v.f v.x ints (fun e => nums (isRdn e)) = resultOf v ints nums := by
  funext e tags k off raws
  rw [arithValue, resultOf]
  dsimp only
  have whole : (raws.zip tags).map (fun o => widenInt o.2.1 o.1) = List.zipWith (fun t r => widenInt t.1 r) tags raws :=
    map_zip_eq_zipWith (fun (t : TileTag) r => widenInt t.1 r) raws tags
  have exact_ : (raws.zip tags).map (fun o => widen o.2.1 o.1) = List.zipWith (fun t r => widen t.1 r) tags raws :=
    map_zip_eq_zipWith (fun (t : TileTag) r => widen t.1 r) raws tags
  rw [whole, exact_]
  rfl

theorem computes_of_mapF {mk : V3Args → Instr} {srcs : V3Args → List Region} {readsD : Bool} {ints : List Int → Int}
    {nums : Bool → List Machine.Num → Machine.Num}
    (spec : ∀ v, specOf (mk v) = some (mapCmd (mapF v (srcs v) readsD (arithValue v.f v.x ints (fun e => nums (isRdn e)))))) :
    Computes mk srcs ints nums := fun v => by
  have maps := maps_mapF (spec v)
  rwa [arithValue_eq_resultOf] at maps

theorem transcends_of_transSpec {mk : V3Args → Instr} {fn : Machine.Num → Machine.Num} (spec : ∀ v, specOf (mk v) = some (transSpec fn v)) :
    Transcends mk fn := fun v => maps_mapF (spec v)

theorem vectorElements : VectorElements :=
  ⟨computes_of_mapF fun _ => rfl, computes_of_mapF fun _ => rfl, computes_of_mapF fun _ => rfl, computes_of_mapF fun _ => rfl,
   computes_of_mapF fun _ => rfl, computes_of_mapF fun _ => rfl, computes_of_mapF fun _ => rfl, computes_of_mapF fun _ => rfl,
   fun _ => maps_mapF rfl, transcends_of_transSpec fun _ => rfl, transcends_of_transSpec fun _ => rfl,
   transcends_of_transSpec fun _ => rfl, transcends_of_transSpec fun _ => rfl, transcends_of_transSpec fun _ => rfl,
   transcends_of_transSpec fun _ => rfl, transcends_of_transSpec fun _ => rfl⟩

end Sys2Proof.Proofs
end

section
/-!
PROOF. The vector engine: lane operations, compares, selection, moves and fills (13 R359 to R361, R367; 10 R273).
-/

namespace Sys2Proof.Proofs

open Sys2Proof.Machine Sys2Proof.Safety Sys2Proof.Claims

/-! ### Commands whose destination takes A's tag -/

/-- Encodings of two elements. -/
theorem encodings_pair {raws : List Nat} {t u : TileTag} (read : Encodings raws [t, u]) :
    ∃ a b, raws = [a, b] ∧ a < 2 ^ (8 * sizeOf' t.1) ∧ b < 2 ^ (8 * sizeOf' u.1) := by
  obtain _ | ⟨first, rest⟩ := read
  obtain _ | ⟨second, none⟩ := rest
  cases none
  exact ⟨_, _, rfl, first, second⟩

theorem maps_mapA {i : Instr} {v : V3Args} {srcs : List Region} {readsD : Bool} {accept : TileTag → Bool} {same : List TileTag → Bool}
    {legal : List TileTag → Bool} {value value' : Eng → List TileTag → Nat → Nat → List Nat → Nat}
    (spec : specOf i = some (mapCmd (mapA v srcs readsD accept same value')))
    (fits : ∀ tags, legal tags = true → (∀ t ∈ tags, accept t = true) ∧ same tags = true)
    (values : ∀ e (tag : Region → TileTag) k off raws, legal (srcs.map tag) = true → Encodings raws (srcs.map tag) →
      value' e (srcs.map tag) k off raws = value e (srcs.map tag) k off raws) :
    Maps i (regD v) v.n.toNat srcs (fun tags => tags.getD 0 (0, 0)) legal value :=
  maps_of_mapCmd spec rfl (fun tags ok t listed => ⟨(fits tags ok).1 t listed, rfl⟩)
    (fun _ tags ok _ => go_erequire_then (fits tags ok).2 _) values

/-! ### Lane operations (13 R359) -/

theorem lanes_of_bitsSpec {mk : V3Args → Instr} {op op' : TileTag → Nat → Nat → Nat → Nat}
    (spec : ∀ v, specOf (mk v) = some (bitsSpec v op'))
    (ops : ∀ t a b, isBits t = true → b < 2 ^ (8 * sizeOf' t.1) → op' t (8 * sizeOf' t.1) a b = op t (8 * sizeOf' t.1) a b) :
    Lanes mk op := fun v => by
  have both {tags : List TileTag} (ok : tags.all (fun t => isBits t && sizeOf' t.1 == sizeOf' (tags.getD 0 (0, 0)).1) = true) :
      ∀ t ∈ tags, isBits t = true ∧ sizeOf' t.1 = sizeOf' (tags.getD 0 (0, 0)).1 := fun t listed => by
    simpa using List.all_eq_true.mp ok t listed
  refine maps_mapA (spec v) (fun tags ok => ⟨fun t listed => (both ok t listed).1, ?_⟩) fun e tag k off raws ok read => ?_
  · exact List.all_eq_true.mpr fun t listed => beq_iff_eq.mpr (both ok t listed).2
  · obtain ⟨a, b, rfl, -, second⟩ := encodings_pair read
    have size := (both ok (tag (regB v)) (by simp)).2
    exact ops (tag (regA v)) a b (both ok (tag (regA v)) (by simp)).1 (size ▸ second)

/-- An arithmetic shift of a lane (10 R273). -/
theorem laneShr_eq (t : TileTag) (w a b : Nat) (fits : b < 2 ^ w) : laneShr t w a b = if t.1 = 0 then (if w ≤ b then 0 else a / 2 ^ b)
    else if w ≤ b then (if (BitVec.ofNat w a).msb then 2 ^ w - 1 else 0) else ((BitVec.ofNat w a).sshiftRight b).toNat := by
  rw [laneShr, shiftRightA, BitVec.toNat_ofNat, Nat.mod_eq_of_lt fits]
  split
  · rfl
  · split
    · split
      · exact BitVec.toNat_allOnes
      · rfl
    · rfl

/-! ### Compares, selection, moves, fills (13 R360, R361, R367) -/

/-- The model's condition is the statement's. -/
theorem condNum_eq_holds {c : Nat} (known : c ≤ 5) (a b : Machine.Num) : condNum c a b = holds c a b := by
  unfold condNum holds
  rw [← Bool.not_or]
  cases a.isNan || b.isNan
  case true =>
    rw [if_pos rfl]
    interval_cases c <;> simp
  case false => interval_cases c <;> cases ltNum a b <;> cases ltNum b a <;> rfl

theorem maps_vCmp (v : V3Args) (known : v.f.toNat ≤ 5) : Maps (.vCmp v) (regD v) v.n.toNat [regA v, regB v] (fun tags => tags.getD 0 (0, 0))
    (fun tags => tags.all (fun t => isNumeric t || t == (0, 0))) (fun _ tags _ _ raws =>
      let x := List.zipWith (fun t r => widen t.1 r) tags raws
      if holds v.f.toNat (first x) (second x) then roundTo (tags.getD 0 (0, 0)).1 rne one else 0) := by
  refine maps_mapA rfl (fun tags ok => ⟨List.all_eq_true.mp ok, rfl⟩) fun e tag k off raws _ read => ?_
  obtain ⟨a, b, rfl, -, -⟩ := encodings_pair read
  dsimp only
  rw [condNum_eq_holds known]
  rfl

theorem maps_vSel (v : V3Args) : Maps (.vSel v) (regD v) v.n.toNat [regA v, regB v, regD v] (fun tags => tags.getD 0 (0, 0))
    (fun tags => tags.all (fun t => isMove t && t == tags.getD 0 (0, 0)))
    (fun _ _ _ _ raws => if raws.getD 2 0 ≠ 0 then raws.getD 0 0 else raws.getD 1 0) := by
  refine maps_mapA rfl (fun tags ok => ?_) fun e tag k off raws _ _ => ?_
  · have both (t : TileTag) (listed : t ∈ tags) := (Bool.and_eq_true _ _).mp (List.all_eq_true.mp ok t listed)
    exact ⟨fun t listed => (both t listed).1, List.all_eq_true.mpr fun t listed => (both t listed).2⟩
  · simp only [bne_iff_ne]

theorem maps_vMov (v : V3Args) : Maps (.vMov v) (regD v) v.n.toNat [regA v] (fun tags => if v.f = 0 then tags.getD 0 (0, 0) else (v.f, 0))
    (fun tags => tags.all isMove && (v.f == 0 || (isMove (v.f, 0) && sizeOf' v.f == sizeOf' (tags.getD 0 (0, 0)).1)))
    (fun _ _ _ _ raws => raws.getD 0 0) := by
  refine maps_of_mapCmd (accept := isMove)
    (ms := { mapA v [regA v] false isMove (fun _ => true) (fun _ _ _ _ raws => raws.getD 0 0) with dest := movDest v, dsize := movSize v })
    rfl rfl (fun tags ok t listed => ⟨?_, rfl⟩) (fun e tags ok t => ?_) fun _ _ _ _ _ _ _ => rfl
  · exact List.all_eq_true.mp ((Bool.and_eq_true _ _).mp ok).1 t listed
  · have kind := ((Bool.and_eq_true _ _).mp ok).2
    change (movDest v e tags).go t = _
    rw [movDest]
    by_cases raw : v.f = 0
    · rw [if_pos raw, if_pos raw]
      rfl
    · rw [if_neg raw, if_neg raw]
      exact go_erequire_then (((Bool.or_eq_true _ _).mp kind).resolve_left (by simpa using raw)) _

/-- A mapped command without sources. -/
theorem maps_mapV2 {i : Instr} {v : V2Args} {fmts : Act Unit} {value : Eng → Nat → Nat → Nat} (spec : specOf i = some (mapV2 v fmts value))
    (legal : List TileTag → Bool) : Maps i ⟨v.d.toNat, v.sd⟩ v.n.toNat [] (fun _ => (v.f, 0)) legal (fun e _ k off _ => value e k off) :=
  maps_of_mapCmd (accept := fun _ => true) spec rfl (fun _ _ _ _ => ⟨rfl, rfl⟩) (fun _ _ _ _ => rfl) fun _ _ _ _ _ _ _ => rfl

theorem maps_vFill (v : V2Args) (plain : v.x = false) : Maps (.vFill v) ⟨v.d.toNat, v.sd⟩ v.n.toNat [] (fun _ => (v.f, 0))
    (fun _ => isNumeric (v.f, 0)) (fun e _ _ off _ => roundTo v.f (rndAt e.cmd.mode e.key off 0) (Machine.Num.ofInt v.imm.toInt)) := by
  have maps := maps_mapV2 (i := .vFill v) (v := v) rfl (fun _ => isNumeric (v.f, 0))
  simpa only [plain, Bool.false_eq_true, if_false, numResult] using maps

theorem vectorMoves : VectorMoves :=
  ⟨lanes_of_bitsSpec (fun _ => rfl) fun _ _ _ _ _ => rfl, lanes_of_bitsSpec (fun _ => rfl) fun _ _ _ _ _ => rfl,
   lanes_of_bitsSpec (fun _ => rfl) fun _ _ _ _ _ => rfl, lanes_of_bitsSpec (fun _ => rfl) fun _ _ _ _ _ => rfl,
   lanes_of_bitsSpec (fun _ => rfl) fun t a b _ fits => laneShr_eq t _ a b fits, maps_vCmp, maps_vSel, maps_vMov,
   fun v => maps_mapV2 rfl fun _ => isNumeric (v.f, 0), maps_vFill⟩

end Sys2Proof.Proofs
end

section
/-!
PROOF. The vector engine: reductions (13 R364).
-/

namespace Sys2Proof.Proofs

open Sys2Proof.Machine Sys2Proof.Safety Sys2Proof.Claims

/-! ### One segment of a reduction (13 R364) -/

/-- The places of the elements of the segment `k`. -/
def segmentPlaces (v : V3Args) (size k : Nat) : List Nat := (List.range (segLen v)).map fun j => (regA v).at size (segLen v * k + j)

theorem segLen_eq (v : V3Args) : segLen v = if v.b.extractLsb' 0 16 = 0 then v.n.toNat else (v.b.extractLsb' 0 16).toNat := by
  rw [segLen]
  exact if_congr (BitVec.toNat_eq (y := 0)).symm rfl rfl

/-- What a micro-step of a reduction needs: a source of numbers, aligned and apart from D at the first one; its segment can be read and its
element of D written. -/
structure ReduceReady (v : V3Args) (f : BitVec 6) (t : TileTag) (e : Eng) (s : State) : Prop where
  tag : t = tagOf e s (v.a.toNat / 2048)
  numeric : isNumeric t = true
  whole : v.x = true → isInteger t.1 = true
  first : e.cmd.upc = 0 → v.a.toNat % sizeOf' t.1 = 0 ∧ bytesMeet v.a.toNat ((regA v).span (sizeOf' t.1) v.n.toNat) v.d.toNat
    ((regD v).span (sizeOf' f) (v.n.toNat / segLen v)) = false
  readable : ∀ o ∈ segmentPlaces v (sizeOf' t.1) e.cmd.upc, Readable e s t o (sizeOf' t.1)
  owned : Owned e s ((regD v).at (sizeOf' f) e.cmd.upc) (sizeOf' f)

section
variable {v : V3Args} {f : BitVec 6} {t tag : TileTag} {e : Eng} {s u : State} {D : List Nat}

theorem ReduceReady.go_reduceFirst (ready : ReduceReady v f t e s) (zero : e.cmd.upc = 0) (u : State) :
    (reduceFirst v e t (sizeOf' f) (v.n.toNat / segLen v)).go u = (.ok (), u) := by
  obtain ⟨aligned, apart⟩ := ready.first zero
  have whole : (!v.x || isInteger t.1) = true := by
    cases x : v.x
    · rfl
    · exact ready.whole x
  rw [reduceFirst, go_erequire_then ready.numeric, go_erequire_then whole, go_erequire_then (beq_iff_eq.mpr aligned)]
  exact go_erequire (by rw [apart]; rfl)

/-- The encodings of a segment. -/
theorem ReduceReady.go_segment (ready : ReduceReady v f t e s) (sound : s.flaws = []) (mid : Midway e s tag D (storesAt e s) u) :
    ∃ w, (segment e v t (segLen v * e.cmd.upc) (segLen v)).go u =
        (.ok ((segmentPlaces v (sizeOf' t.1) e.cmd.upc).map fun o => raw e s o (sizeOf' t.1)), w) ∧ Midway e s tag D (storesAt e s) w := by
  rw [segmentPlaces, List.map_map]
  exact go_mapM (Midway e s tag D (storesAt e s)) (fun j listed u mid => by
    obtain ⟨w, read, kept⟩ := mid.go_getTagged sound (ready.readable _ (List.mem_map.mpr ⟨j, listed, rfl⟩))
    exact ⟨w, go_bind_ok read _, kept⟩) mid

end

/-- A reduction of the model is what the statement of one says, where its values are. -/
theorem reduces_of_reduceSpec {i : Instr} {v : V3Args} {f : BitVec 6} {fmts : Act Unit} {fn : SegFn}
    (spec : specOf i = some (reduceSpec v f fmts fn)) : Reduces i v f fn := by
  intro e sp s turn
  rw [← segLen_eq v]
  intro t size l k place elems numeric whole first readable owned
  obtain rfl : sp = reduceSpec v f fmts fn := Option.some.inj (turn.spec.symm.trans spec)
  have ready : ReduceReady v f t e s :=
    { tag := rfl, numeric := numeric, whole := whole, first := first, readable := readable, owned := owned }
  let out := leBytes (sizeOf' f) (fn e t place (elems.map fun o => raw e s o size))
  obtain ⟨s1, touch, mid1, -⟩ := (Midway.start (f, 0) (microTurn_of_engineTurn turn).found).go_touchTag (v.a.toNat / 2048)
  obtain ⟨s2, reads, mid2⟩ := ready.go_segment turn.sound mid1
  obtain ⟨s3, put, mid3⟩ := mid2.go_putBytes (off := place) (bs := out) (by rwa [length_leBytes])
  have run : (reduceMicro v f fn e).go s = Act.go (changeCmd e (fun c => { c with upc := e.cmd.upc + 1 }) >>= fun _ =>
      pure (decide (v.n.toNat / segLen v ≤ e.cmd.upc + 1))) s3 := by
    rw [reduceMicro, go_bind_ok touch]
    refine (go_ite_then fun zero => ready.go_reduceFirst zero s1).trans ?_
    exact (go_bind_ok reads _).trans (go_bind_ok put _)
  obtain ⟨u, step, stores, lands, gone, becomes⟩ := exec_lands (W := [(place, out)]) (microTurn_of_engineTurn turn)
    (by simpa [stampedBy, Stores.wrote, bytesAfter] using mid3) run (fun _ => ⟨rfl, rfl⟩) (by simpa [out, length_leBytes] using owned)
    fun _ => turn.alone
  exact ⟨u, step, congrArg Stores.mem stores, lands, gone, fun more => becomes_upc (becomes (Nat.not_le.mpr more))⟩

theorem vectorReductions : VectorReductions := fun _ =>
  ⟨fun _ => ⟨reduces_of_reduceSpec rfl, reduces_of_reduceSpec rfl, reduces_of_reduceSpec rfl⟩, reduces_of_reduceSpec rfl⟩

end Sys2Proof.Proofs
end

section
/-!
PROOF. The vector engine on one INT32 element (13 R357 to R359), and its results as a whole.
-/

namespace Sys2Proof.Proofs

open Sys2Proof.Machine Sys2Proof.Safety Sys2Proof.Claims

/-! ### Numbers written to S and read back -/

theorem leNat_leBytes (n : Nat) : ∀ v, leNat (leBytes n v) = v % 256 ^ n := by
  induction n with
  | zero => exact fun v => (Nat.mod_one v).symm
  | succ n ih =>
    intro v
    rw [leBytes, leNat, ih, pow_succ', Nat.mod_mul, BitVec.toNat_ofNat]

theorem readS_congr {s t : State} {c : Nat} (same : ∀ n, sByte t c n = sByte s c n) (p : Part) (off n : Nat) :
    readS t c p off n = readS s c p off n :=
  List.map_congr_left fun _ _ => same _

theorem readS_writeS_same (s : State) (c : Nat) (p : Part) (off : Nat) (bs : List Byte) :
    readS (writeS s c p off bs) c p off bs.length = bs := by
  refine List.ext_getElem (length_readS _ c p off _) fun k _ below => ?_
  have byte : (readS (writeS s c p off bs) c p off bs.length)[k]'(by rwa [length_readS]) =
      sByte (writeS s c p off bs) c (2048 * p.s0 + off + k) := by simp [readS, sgetAll, sByte]
  rw [byte, sByte_writeS, if_pos ⟨by omega, by omega⟩, Nat.add_sub_cancel_left, List.getD_eq_getElem _ _ below]

/-! ### One element of four bytes -/

theorem slotsOf_aligned {off : Nat} (aligned : off % 4 = 0) : slotsOf off 4 = [off / 2048] := by
  rw [slotsOf, if_neg (by decide), show (off + 4 - 1) / 2048 - off / 2048 + 1 = 1 by omega]
  rfl

/-- Aligned words in different slots do not meet. -/
theorem bytesMeet_of_slots {a d : Nat} (alignedA : a % 4 = 0) (alignedD : d % 4 = 0) (apart : a / 2048 ≠ d / 2048) :
    bytesMeet a 4 d 4 = false := by
  rw [bytesMeet, Bool.and_eq_false_iff, decide_eq_false_iff_not, decide_eq_false_iff_not]
  omega

theorem Region.at_zero (r : Region) (size : Nat) : r.at size 0 = r.base := by simp [Region.at]

theorem Region.span_one (r : Region) (size : Nat) : r.span size 1 = size := by simp [Region.span]

section
variable {fmt : BitVec 6} {e : Eng} {v : V3Args} {s : State}

theorem owned_word {off : Nat} (aligned : off % 4 = 0) (inside : off + 4 ≤ 2048 * e.part.sn)
    (owner : (slotOf s e.w.core (e.part.s0 + off / 2048)).owner = true) : Owned e s off 4 := by
  refine ⟨inside, fun i listed => ?_⟩
  rw [slotsOf_aligned aligned, List.mem_singleton] at listed
  rw [listed, owner]

theorem readable_word {off : Nat} (aligned : off % 4 = 0) (inside : off + 4 ≤ 2048 * e.part.sn)
    (slot : slotOf s e.w.core (e.part.s0 + off / 2048) = { owner := true, fmt := 8, geo := 0 }) (fresh : e.cmd.tags = []) :
    Readable e s (8, 0) off 4 := by
  refine ⟨owned_word aligned inside (by rw [slot]), fun i listed => ?_⟩
  rw [slotsOf_aligned aligned, List.mem_singleton] at listed
  rw [listed, tagOf, fresh, slot]
  rfl

theorem scratchWord_writeS (off x : Nat) : scratchWord e (writeS s e.w.core e.part off (leBytes 4 x)) off = BitVec.ofNat 32 x := by
  have back := readS_writeS_same s e.w.core e.part off (leBytes 4 x)
  rw [length_leBytes] at back
  rw [scratchWord, back, leNat_leBytes]
  exact BitVec.eq_of_toNat_eq (by simp)

theorem mapTodo_one {ms : MapSpec} (one : ms.n = 1) (first : e.cmd.upc = 0) : mapTodo ms e [(8, 0), (8, 0)] 4 = [0] := by
  rw [mapTodo, one, todoOf, first]
  decide

/-- Mapped commands that take two INT32 elements to one: `accept` is what they accept of a source, `f` what their values compute. -/
structure MapsWords (mk : V3Args → Instr) (ms : V3Args → MapSpec) (accept : TileTag → Bool) (fmt : BitVec 6)
    (f : BitVec 32 → BitVec 32 → BitVec 32) : Prop where
  spec : ∀ v, specOf (mk v) = some (mapCmd (ms v))
  region : ∀ v, (ms v).d = regD v
  count : ∀ v, (ms v).n = v.n.toNat
  sources : ∀ v, (ms v).srcs = [regA v, regB v].map fun r => ⟨r, accept⟩
  plain : ∀ v, v.x = false → (ms v).x = false
  accepts : accept (8, 0) = true
  dest : ∀ v e t, v.f = fmt → ((ms v).dest e [(8, 0), (8, 0)]).go t = (.ok (8, 0), t)
  values : ∀ v e off a b, v.f = fmt → v.x = false →
    BitVec.ofNat 32 ((ms v).value e [(8, 0), (8, 0)] 0 off [a, b]) = f (BitVec.ofNat 32 a) (BitVec.ofNat 32 b)

theorem MapsWords.mapReady {mk : V3Args → Instr} {ms : V3Args → MapSpec} {accept : TileTag → Bool} {f : BitVec 32 → BitVec 32 → BitVec 32}
    (maps : MapsWords mk ms accept fmt f) (ops : OneInt32 fmt e v s) :
    MapReady (ms v) [regA v, regB v] accept [(8, 0), (8, 0)] (8, 0) e s := by
  have one : (ms v).n = 1 := (maps.count v).trans (by rw [ops.one]; rfl)
  have todo := mapTodo_one one ops.first
  have readA := readable_word ops.alignedA ops.insideA ops.slotA ops.untouched.1
  have readB := readable_word ops.alignedB ops.insideB ops.slotB ops.untouched.1
  have tagA : tagOf e s (v.a.toNat / 2048) = (8, 0) := readA.2 _ (by simp [slotsOf_aligned ops.alignedA])
  have tagB : tagOf e s (v.b.toNat / 2048) = (8, 0) := readB.2 _ (by simp [slotsOf_aligned ops.alignedB])
  have both {x : Region × TileTag} (listed : x ∈ [regA v, regB v].zip [((8 : BitVec 6), (0 : BitVec 4)), (8, 0)]) :
      x = (regA v, (8, 0)) ∨ x = (regB v, (8, 0)) := by simpa using listed
  refine ⟨maps.sources v, ?_, fun x listed => ⟨?_, ?_⟩, fun t => maps.dest v e t ops.format, fun _ x listed => ?_, fun k listed => ?_,
    fun k listed x source => ?_⟩
  · simp [regA, regB, tagA, tagB]
  · obtain rfl | rfl := both listed <;> exact maps.accepts
  · rw [maps.plain v ops.wraps]
    rfl
  · rw [one, maps.region, Region.span_one, Region.span_one]
    obtain rfl | rfl := both listed
    · exact ⟨ops.alignedA, .inr (bytesMeet_of_slots ops.alignedA ops.alignedD ops.slots.1)⟩
    · exact ⟨ops.alignedB, .inr (bytesMeet_of_slots ops.alignedB ops.alignedD ops.slots.2.1)⟩
  · obtain rfl : k = 0 := List.mem_singleton.mp (todo ▸ listed)
    rw [maps.region, Region.at_zero]
    exact owned_word ops.alignedD ops.insideD ops.slotD
  · obtain rfl : k = 0 := List.mem_singleton.mp (todo ▸ listed)
    rw [Region.at_zero]
    obtain rfl | rfl := both source
    · exact readA
    · exact readB

theorem MapsWords.computesInt32 {mk : V3Args → Instr} {ms : V3Args → MapSpec} {accept : TileTag → Bool}
    {f : BitVec 32 → BitVec 32 → BitVec 32} (maps : MapsWords mk ms accept fmt f) : ComputesInt32 mk fmt f := by
  intro e v sp s turn started mayRun ops
  have one : (ms v).n = 1 := (maps.count v).trans (by rw [ops.one]; rfl)
  have todo := mapTodo_one one ops.first
  have size : sizeOf' ((8 : BitVec 6), (0 : BitVec 4)).1 = 4 := rfl
  have micro : MicroTurn e (mk v) sp s := { turn with started := started, mayRun := mayRun, sound := ops.sound, found := ops.found }
  have last : (ms v).n ≤ e.cmd.upc + (mapTodo (ms v) e [(8, 0), (8, 0)] 4).length := by
    rw [todo, one, ops.first]
    decide
  obtain ⟨u, step, stores, ⟨bytes, marks⟩, gone, -⟩ := (maps.mapReady ops).exec_mapCmd micro (maps.spec v) fun more => absurd last more
  rw [size, todo, maps.region, List.map_singleton, Region.at_zero] at bytes marks
  replace bytes : ∀ n, sByte u e.w.core n = sByte (writeS s e.w.core e.part v.d.toNat (leBytes 4 _)) e.w.core n := bytes
  have queue : e.e = 1 := turn.queue.trans (by rw [Option.some.inj (turn.spec.symm.trans (maps.spec v))]; rfl)
  refine ⟨u, step, ?_, fun n outside => ?_, ?_, congrArg Stores.mem stores, fun m listed => gone last m (by rwa [queue])⟩
  · rw [scratchWord, readS_congr bytes]
    refine (scratchWord_writeS v.d.toNat _).trans ?_
    simp only [mapElem, maps.region, Region.at_zero]
    exact maps.values v e v.d.toNat (raw e s v.a.toNat 4) (raw e s v.b.toNat 4) ops.format ops.wraps
  · rw [bytes, sByte_writeS, length_leBytes, if_neg (by omega)]
  · exact marks _ (List.mem_singleton.mpr rfl) _ (by simp [length_leBytes, slotsOf_aligned ops.alignedD, regD]) (by simp [ops.untouched.2])

end

theorem mapsWords_mapF {mk : V3Args → Instr} {ints : List Int → Int} {nums : Eng → List Machine.Num → Machine.Num}
    {f : BitVec 32 → BitVec 32 → BitVec 32}
    (spec : ∀ v, specOf (mk v) = some (mapCmd (mapF v [regA v, regB v] false (arithValue v.f v.x ints nums))))
    (wraps : ∀ x y : BitVec 32, BitVec.ofInt 32 (ints [x.toInt, y.toInt]) = f x y) :
    MapsWords mk (fun v => mapF v [regA v, regB v] false (arithValue v.f v.x ints nums)) isNumeric 8 f where
  spec := spec
  region _ := rfl
  count _ := rfl
  sources _ := rfl
  plain _ x := x
  accepts := by decide
  dest v e t format := by rw [← format]; rfl
  values v e off a b format x := by
    rw [← wraps]
    simp only [mapF, arithValue, format, x]
    exact (BitVec.ofNat_toNat _ _).trans (BitVec.setWidth_eq _)

theorem mapsWords_bits {mk : V3Args → Instr} {op : TileTag → Nat → Nat → Nat → Nat} {f : BitVec 32 → BitVec 32 → BitVec 32}
    (spec : ∀ v, specOf (mk v) = some (bitsSpec v op))
    (lanes : ∀ a b, BitVec.ofNat 32 (op (8, 0) 32 a b) = f (BitVec.ofNat 32 a) (BitVec.ofNat 32 b)) :
    MapsWords mk (fun v => mapA v [regA v, regB v] false isBits sameSize (bitsValue op)) isBits 0 f where
  spec := spec
  region _ := rfl
  count _ := rfl
  sources _ := rfl
  plain _ _ := rfl
  accepts := by decide
  dest _ _ _ _ := rfl
  values _ _ _ a b _ _ := lanes a b

theorem ofInt_min (x y : BitVec 32) : BitVec.ofInt 32 (min x.toInt y.toInt) = if x.toInt ≤ y.toInt then x else y := by
  rw [min_def]
  split <;> exact BitVec.ofInt_toInt

theorem ofInt_max (x y : BitVec 32) : BitVec.ofInt 32 (max x.toInt y.toInt) = if x.toInt ≤ y.toInt then y else x := by
  rw [max_def]
  split <;> exact BitVec.ofInt_toInt

theorem ofInt_sub (x y : BitVec 32) : BitVec.ofInt 32 (x.toInt - y.toInt) = x - y := by
  rw [sub_eq_add_neg, BitVec.ofInt_add, BitVec.ofInt_neg, BitVec.ofInt_toInt, BitVec.ofInt_toInt, ← BitVec.sub_eq_add_neg]

theorem vectorIntegers : VectorIntegers :=
  ⟨(mapsWords_mapF (fun _ => rfl) fun x y => by simp [int0, int1, BitVec.ofInt_add]).computesInt32,
   (mapsWords_mapF (fun _ => rfl) fun x y => ofInt_sub x y).computesInt32,
   (mapsWords_mapF (fun _ => rfl) fun x y => by simp [int0, int1, BitVec.ofInt_mul]).computesInt32,
   (mapsWords_mapF (fun _ => rfl) fun x y => ofInt_min x y).computesInt32,
   (mapsWords_mapF (fun _ => rfl) fun x y => ofInt_max x y).computesInt32,
   (mapsWords_bits (fun _ => rfl) fun _ _ => BitVec.ofNat_and).computesInt32,
   (mapsWords_bits (fun _ => rfl) fun _ _ => BitVec.ofNat_or).computesInt32,
   (mapsWords_bits (fun _ => rfl) fun _ _ => BitVec.ofNat_xor).computesInt32⟩

/-- Settles O31: the turn of a mapped command or a reduction reads what its elements name, and lands the values in D. -/
theorem vectorResults : Obligations.VectorResults := ⟨vectorIntegers, vectorElements, vectorMoves, vectorReductions⟩

end Sys2Proof.Proofs
end

section
/-!
SUPPORT FOR PROOFS. Words of C, tiles in S and rings, between the actions of a matrix micro-step (09 R228, R231; 13 R338 to R340).
-/

namespace Sys2Proof.Proofs

open Sys2Proof.Machine Sys2Proof.Safety Sys2Proof.Claims

/-! ### The end of a micro-step that stores anything -/

/-- What a turn leaves where its micro-step has come to the stores `σ` and moves the command on. -/
theorem exec_leaves {e : Eng} {i : Instr} {sp : CmdSpec} {s t : State} {tag : TileTag} {D : List Nat} {σ : Stores} {p : Prop} [Decidable p]
    {g : Cmd → Cmd} (turn : EngineTurn e i sp s) (mid : Midway e s tag D σ t)
    (run : (sp.micro e).go s = Act.go (changeCmd e g >>= fun _ => pure (decide p)) t) (steady : Steady g) :
    ∃ u, exec i s = .next u ∧ storesAt e u = σ ∧ (p → Gone e u) ∧
      (¬ p → ∃ tags stamped, Becomes e u (g { e.cmd with tags := tags, stamped := stamped })) := by
  obtain ⟨v, tags, stamped, change, stores, -, held⟩ := mid.go_changeCmd steady
  rw [go_bind_ok change] at run
  obtain ⟨u, step, stores', -, gone, becomes⟩ := exec_turn_ends turn run held
  exact ⟨u, step, stores'.trans stores, gone, fun more => ⟨tags, stamped, becomes more⟩⟩

section
variable {e : Eng} {s t u : State} {tag : TileTag} {D : List Nat} {σ : Stores}

theorem keepsS_of_bytes (same : (storesAt e t).bytes = (storesAt e s).bytes) : KeepsS e s t := fun n => by
  rw [sByte_eq, sByte_eq]
  exact congrArg (sget 0 · n) same

theorem readC_of_words (same : (storesAt e t).words = (storesAt e s).words) (tile i j : Nat) :
    readC t e.w.core tile i j = readC s e.w.core tile i j := by
  rw [readC_eq, readC_eq]
  exact congrArg (sget 0 · _) same

theorem ringOf_of_rings (same : (storesAt e t).rings = (storesAt e s).rings) (n : Nat) :
    ringOf t e.w.core e.w.bank n = ringOf s e.w.core e.w.bank n := by
  rw [ringOf_eq, ringOf_eq]
  exact congrArg (sget 0 · n) same

/-! ### Words of C (09 R228) -/

/-- Rows and columns of a tile are numbered from 0 to 127. -/
theorem cKey_inj {k l i i' j j' : Nat} (row : i < 128) (col : j < 128) (row' : i' < 128) (col' : j' < 128)
    (same : cKey k i j = cKey l i' j') : k = l ∧ i = i' ∧ j = j' := by
  simp only [cKey] at same
  omega

/-- The stores with words of a tile written. -/
def Stores.wroteC (σ : Stores) (tile : Nat) (out : Nat × Nat → BitVec 32) (cells : List (Nat × Nat)) : Stores :=
  { σ with words := cells.foldl (fun m c => sset 0 m (cKey tile c.1 c.2) (out c)) σ.words }

theorem Stores.wroteC_append (σ : Stores) (tile : Nat) (out : Nat × Nat → BitVec 32) (l r : List (Nat × Nat)) :
    (σ.wroteC tile out l).wroteC tile out r = σ.wroteC tile out (l ++ r) := by
  simp only [Stores.wroteC, List.foldl_append]

theorem viewOf_foldl_wroteC (e : Eng) (tile : Nat) (out : Nat × Nat → BitVec 32) (cells : List (Nat × Nat)) (t : State) :
    viewOf e (cells.foldl (fun s c => writeC s e.w.core tile c.1 c.2 (out c)) t) =
      { viewOf e t with toStores := (storesAt e t).wroteC tile out cells } :=
  viewOf_foldl_writeC e (fun _ => tile) Prod.fst Prod.snd out cells t

/-- A micro-step writes words of a tile. -/
theorem Midway.wroteC (mid : Midway e s tag D σ t) (tile : Nat) (out : Nat × Nat → BitVec 32) (cells : List (Nat × Nat)) :
    Midway e s tag D (σ.wroteC tile out cells) (cells.foldl (fun s c => writeC s e.w.core tile c.1 c.2 (out c)) t) := by
  have view := viewOf_foldl_wroteC e tile out cells t
  refine mid.store ((congrArg View.slots view).trans rfl) ((congrArg View.queue view).trans rfl) ?_
  rw [storesAt, view, mid.stores]

/-- Values written one after another, as the last one for each place. -/
theorem sget_foldl_sset {α β : Type} [DecidableEq β] (d : β) (key : α → Nat) (v : α → β) (n : Nat) (w : β) (l : List α)
    (all : ∀ a ∈ l, key a = n → v a = w) : ∀ m : Sparse β,
      sget d (l.foldl (fun m a => sset d m (key a) (v a)) m) n = if ∃ a ∈ l, key a = n then w else sget d m n := by
  induction l with
  | nil => exact fun m => (if_neg (by simp)).symm
  | cons a l ih =>
    intro m
    rw [List.foldl_cons, ih (fun b hb => all b (by simp [hb])), sget_sset]
    by_cases rest : ∃ b ∈ l, key b = n
    · rw [if_pos rest, if_pos (by obtain ⟨b, listed, here⟩ := rest; exact ⟨b, by simp [listed], here⟩)]
    · by_cases here : key a = n
      · rw [if_neg rest, if_pos here.symm, if_pos ⟨a, by simp, here⟩, all a (by simp) here]
      · rw [if_neg rest, if_neg (Ne.symm here), if_neg]
        rintro ⟨b, listed, there⟩
        obtain rfl | old := List.mem_cons.mp listed
        · exact here there
        · exact rest ⟨b, old, there⟩

/-- A word of C after writes of words of one tile. -/
theorem readC_of_wroteC {tile : Nat} {out : Nat × Nat → BitVec 32} {cells : List (Nat × Nat)}
    (stores : (storesAt e t).words = ((storesAt e s).wroteC tile out cells).words) (within : ∀ c ∈ cells, c.1 < 128 ∧ c.2 < 128)
    {k i j : Nat} (row : i < 128) (col : j < 128) :
    readC t e.w.core k i j = if k = tile ∧ (i, j) ∈ cells then out (i, j) else readC s e.w.core k i j := by
  have key {c : Nat × Nat} (listed : c ∈ cells) (here : cKey tile c.1 c.2 = cKey k i j) : tile = k ∧ c = (i, j) := by
    obtain ⟨same, rows, cols⟩ := cKey_inj (within c listed).1 (within c listed).2 row col here
    exact ⟨same, Prod.ext rows cols⟩
  rw [readC_eq, show (viewOf e t).words = _ from stores, Stores.wroteC,
    sget_foldl_sset 0 _ _ _ (out (i, j)) cells fun c listed here => congrArg out (key listed here).2]
  refine if_congr ⟨?_, ?_⟩ rfl rfl
  · rintro ⟨c, listed, here⟩
    obtain ⟨rfl, rfl⟩ := key listed here
    exact ⟨rfl, listed⟩
  · rintro ⟨rfl, listed⟩
    exact ⟨(i, j), listed, rfl⟩

theorem keepsS_of_wroteC {tile : Nat} {out : Nat × Nat → BitVec 32} {cells : List (Nat × Nat)}
    (stores : storesAt e t = (storesAt e s).wroteC tile out cells) : KeepsS e s t :=
  keepsS_of_bytes ((congrArg Stores.bytes stores).trans rfl)

/-! ### Reads where no ECC error has struck (09 R238) -/

theorem cWord_sound (sound : t.flaws = []) (tile i j : Nat) : cWord t e tile i j = readC t e.w.core tile i j := by
  rw [cWord, sound]
  rfl

theorem reportC_sound (sound : t.flaws = []) (tile : Nat) (cells : List (Nat × Nat)) : reportC t e tile cells = t := by
  rw [reportC, sound]
  rfl

theorem reportTile_sound (sound : t.flaws = []) (x : TileTag) (base vectors kn : Nat) : reportTile t e x base vectors kn = t := by
  rw [reportTile, sound]
  rfl

/-- An element of a tile is a function of S. -/
theorem tileElem_congr (sound : s.flaws = []) (sound' : t.flaws = []) (same : KeepsS e s t) (x : TileTag) (table : List Byte)
    (base v k : Nat) : tileElem t e x table base v k = tileElem s e x table base v k := by
  simp only [tileElem, sound, sound', same _]

/-! ### Tags of tiles (13 R339, R340) -/

theorem Midway.go_tileTag (mid : Midway e s tag D σ t) {r : Word} {slot : Nat} {x : TileTag} (tags : ∀ k < ringTsz r, tagOf e s (slot + k) = x)
    (whole : tileSlots x = ringTsz r) (some : 1 ≤ ringTsz r) : ∃ u, (tileTag e r slot).go t = (.ok x, u) ∧ Midway e s tag D σ u := by
  obtain ⟨v, touch, kept, -⟩ := mid.go_touchTag slot
  rw [show tagOf e s slot = x from tags 0 some] at touch
  have fits : (tileSlots x == ringTsz r && tileSlots x != 0) = true := by
    rw [whole]
    simp
    omega
  obtain ⟨u, loop, kept'⟩ := go_forIn_along (l := List.range (ringTsz r)) (s := v) (fun _ => PUnit.unit) (fun _ => Midway e s tag D σ)
    (f := fun i _ => touchTag e (slot + i) >>= fun u => erequire e (u == x) .formatMismatch (2048 * (slot + i)) >>= fun _ =>
      pure (.yield PUnit.unit))
    (fun _ i listed t mid => by
      obtain ⟨u, touch, kept, -⟩ := mid.go_touchTag (slot + i)
      rw [tags i (List.mem_range.mp listed)] at touch
      refine ⟨u, ?_, kept⟩
      rw [go_bind_ok touch, go_erequire_then (beq_self_eq_true x)]
      rfl) kept
  refine ⟨u, ?_, kept'⟩
  rw [tileTag, go_bind_ok touch, go_erequire_then fits]
  exact go_bind_ok loop _

/-! ### Errors and monitors that are noted -/

theorem viewOf_dataError (e : Eng) (t : State) (eng : Nat) (space : Bool) (unit row col : Nat) :
    viewOf e (dataError t e.w.core eng space unit row col) = viewOf e t := by
  rw [dataError, viewOf_updCore _ _ _ fun _ => by dsimp only; split <;> rfl]
  dsimp only
  split <;> rfl

theorem viewOf_monTake (e : Eng) (t : State) (die src : Nat) (core : Option Nat) (v : BitVec 32) : viewOf e (monTake t die src core v) = viewOf e t :=
  foldl_keeps (g := viewOf e) (fun s n => (rfl : viewOf e (setMon s n _) = viewOf e s)) _ _

end

end Sys2Proof.Proofs
end

section
/-!
PROOF. Moves of the matrix engine: m.acopy, m.aload, m.astore, m.perm (13 R346 to R348).
-/

namespace Sys2Proof.Proofs

open Sys2Proof.Machine Sys2Proof.Safety Sys2Proof.Claims

/-! ### m.acopy (13 R347) -/

/-- The places of a tile in the order that a copy takes them. -/
def tileWalk : List (Nat × Nat) := (List.range 16384).map fun a => (a / 128, a % 128)

theorem within_tileWalk {c : Nat × Nat} (listed : c ∈ tileWalk) : c.1 < 128 ∧ c.2 < 128 := by
  obtain ⟨a, below, rfl⟩ := List.mem_map.mp listed
  have := List.mem_range.mp below
  dsimp only
  omega

theorem mem_tileWalk {i j : Nat} (row : i < 128) (col : j < 128) : (i, j) ∈ tileWalk :=
  List.mem_map.mpr ⟨128 * i + j, List.mem_range.mpr (by omega), Prod.ext (by dsimp only; omega) (by dsimp only; omega)⟩

theorem copyTile_sound {e : Eng} {s : State} (sound : s.flaws = []) (dst src : Nat) : copyTile s e dst src =
    tileWalk.foldl (fun t c => writeC t e.w.core dst c.1 c.2 (readC s e.w.core src c.1 c.2)) s := by
  simp only [copyTile, reportC_sound sound, cWord_sound sound, tileWalk, List.foldl_map]

theorem acopy_results (acc cnt src : BitVec 6) (e : Eng) (sp : CmdSpec) (s : State) (turn : EngineTurn e (.mAcopy acc cnt src) sp s) :
    let k := if src.toNat < acc.toNat then cnt.toNat - e.cmd.upc else e.cmd.upc
    ∃ t, exec (.mAcopy acc cnt src) s = .next t ∧ t.mem = s.mem ∧ KeepsS e s t ∧
      (∀ i < 128, ∀ j < 128, readC t e.w.core (e.part.c0 + acc.toNat + k) i j = readC s e.w.core (e.part.c0 + src.toNat + k) i j) ∧
      KeepsC e s t (e.part.c0 + acc.toNat + k) 128 128 ∧ (cnt.toNat + 1 ≤ e.cmd.upc + 1 → Gone e t) ∧
      (e.cmd.upc + 1 < cnt.toNat + 1 → ∃ c, Becomes e t c ∧ c.upc = e.cmd.upc + 1) := by
  intro k
  obtain rfl : sp = acopySpec acc cnt src := Option.some.inj (turn.spec.symm.trans rfl)
  have mid := (Midway.start (0, 0) (microTurn_of_engineTurn turn).found).wroteC (e.part.c0 + acc.toNat + k)
    (fun c => readC s e.w.core (e.part.c0 + src.toNat + k) c.1 c.2) tileWalk
  rw [← copyTile_sound turn.sound] at mid
  obtain ⟨u, step, stores, gone, becomes⟩ := exec_leaves (p := cnt.toNat + 1 ≤ e.cmd.upc + 1)
    (g := fun c => { c with upc := e.cmd.upc + 1 }) turn mid (go_change_then _ _) fun _ => ⟨rfl, rfl⟩
  have words {n i j : Nat} (row : i < 128) (col : j < 128) := readC_of_wroteC (congrArg Stores.words stores) (fun _ => within_tileWalk)
    (k := n) row col
  refine ⟨u, step, congrArg Stores.mem stores, keepsS_of_wroteC stores, fun i row j col => ?_,
    fun n i j row col other => ?_, gone, fun more => becomes_upc (becomes (Nat.not_le.mpr more))⟩
  · rw [words row col, if_pos ⟨rfl, mem_tileWalk row col⟩]
  · rw [words row col, if_neg fun here => by omega]

/-! ### m.aload and m.astore (13 R348) -/

theorem mem_tileCells {rows : List Nat} {i j : Nat} : (i, j) ∈ tileCells rows ↔ i ∈ rows ∧ j < 128 := by
  simp [tileCells]

theorem tileCells_append (l r : List Nat) : tileCells (l ++ r) = tileCells l ++ tileCells r := List.flatMap_append

theorem rows16_eq (e : Eng) (rows : Nat) : rows16 e rows = todoOf e 16 rows := filterMap_eq_todoOf e 16 rows

/-- The word `j` of the row `i` of an FP32 block in S. -/
def fp32Word (e : Eng) (s : State) (off : Nat) (c : Nat × Nat) : BitVec 32 :=
  BitVec.ofNat 32 (leNat (((readS s e.w.core e.part (off + 512 * c.1) 512).drop (4 * c.2)).take 4))

theorem setTileRow_eq (e : Eng) (s t : State) (off tile i : Nat) :
    setTileRow t e.w.core tile i (readS s e.w.core e.part (off + 512 * i) 512) =
      (tileCells [i]).foldl (fun t c => writeC t e.w.core tile c.1 c.2 (fp32Word e s off c)) t := by
  simp only [setTileRow, tileCells, List.flatMap_cons, List.flatMap_nil, List.append_nil, List.foldl_map, fp32Word]

section
variable {off : BitVec 19} {rows : BitVec 8} {acc : BitVec 6} {e : Eng} {sp : CmdSpec} {s : State}

theorem go_aloadRows {tag : TileTag} (mid : Midway e s tag [] (storesAt e s) s) (sound : s.flaws = []) (tile : Nat) {todo : List Nat}
    (readable : ∀ i ∈ todo, Readable e s (1, 0) (off.toNat + 512 * i) 512) :
    ∃ u, Act.go (forIn todo PUnit.unit fun i _ => getTagged e (1, 0) 4 (off.toNat + 512 * i) 512 >>= fun bs =>
        change (fun s => setTileRow s e.w.core tile i bs) >>= fun _ => pure (ForInStep.yield PUnit.unit)) s = (.ok PUnit.unit, u) ∧
      Midway e s tag [] ((storesAt e s).wroteC tile (fp32Word e s off.toNat) (tileCells todo)) u := by
  refine go_forIn_along (fun _ => PUnit.unit)
    (fun done => Midway e s tag [] ((storesAt e s).wroteC tile (fp32Word e s off.toNat) (tileCells done))) (fun done i listed t mid => ?_) mid
  obtain ⟨v, read, kept⟩ := mid.go_getTagged (size := 4) sound (readable i listed)
  replace kept := kept.wroteC tile (fp32Word e s off.toNat) (tileCells [i])
  rw [Stores.wroteC_append, ← tileCells_append, ← setTileRow_eq] at kept
  exact ⟨_, by rw [go_bind_ok read]; rfl, kept⟩

/-- The rows of a tile as m.astore takes them. -/
theorem tileRow_eq {tag : TileTag} {D : List Nat} {σ : Stores} {t : State} (mid : Midway e s tag D σ t) (sound : s.flaws = [])
    (flaws : σ.flaws = (storesAt e s).flaws) (words : σ.words = (storesAt e s).words) (tile i : Nat) :
    tileRow t e tile i = rowBytes e s tile i := by
  have same : (storesAt e t).words = (storesAt e s).words := by rw [mid.stores, words]
  simp only [tileRow, cWord_sound (mid.flaws (flaws.trans sound)), readC_of_words same]
  rfl

theorem length_rowBytes (e : Eng) (s : State) (tile i : Nat) : (rowBytes e s tile i).length = 512 := by
  simp [rowBytes, length_leBytes]

/-- The writes of m.astore for some rows. -/
def storedRows (e : Eng) (s : State) (off tile : Nat) (rows : List Nat) : List (Nat × List Byte) :=
  rows.map fun i => (off + 512 * i, rowBytes e s tile i)

theorem go_astoreRows (mid : Midway e s (1, 0) [] (storesAt e s) s) (sound : s.flaws = []) (tile : Nat) {todo : List Nat}
    (owned : ∀ i ∈ todo, Owned e s (off.toNat + 512 * i) 512) :
    ∃ u, Act.go (forIn todo PUnit.unit fun i _ => state >>= fun t => putBytes e 1 0 (off.toNat + 512 * i) (tileRow t e tile i) >>= fun _ =>
        pure (ForInStep.yield PUnit.unit)) s = (.ok PUnit.unit, u) ∧
      Midway e s (1, 0) (stampedBy (storedRows e s off.toNat tile todo))
        ((storesAt e s).wrote e.part (storedRows e s off.toNat tile todo)) u := by
  refine go_forIn_along (fun _ => PUnit.unit) (fun done => Midway e s (1, 0) (stampedBy (storedRows e s off.toNat tile done))
    ((storesAt e s).wrote e.part (storedRows e s off.toNat tile done))) (fun done i listed t mid => ?_) mid
  obtain ⟨u, put, kept⟩ := mid.go_putBytes (bs := rowBytes e s tile i) (by rw [length_rowBytes]; exact owned i listed)
  refine ⟨u, ?_, ?_⟩
  · rw [go_state_then, tileRow_eq mid sound rfl rfl, go_bind_ok put]
    rfl
  · rw [storedRows, List.map_append, stampedBy_append, ← Stores.wrote_append]
    simpa [stampedBy, Stores.wrote, bytesAfter, storedRows] using kept

theorem aload_results (turn : EngineTurn e (.mAload off rows acc) sp s) (few : rows.toNat < 128) :
    let todo := todoOf e 16 (rows.toNat + 1)
    let tile := e.part.c0 + acc.toNat
    (∀ i ∈ todo, Readable e s (1, 0) (off.toNat + 512 * i) 512) →
    ∃ t, exec (.mAload off rows acc) s = .next t ∧ t.mem = s.mem ∧ KeepsS e s t ∧
      (∀ i ∈ todo, ∀ j < 128, readC t e.w.core tile i j = fp32Word e s off.toNat (i, j)) ∧
      (∀ k i j, i < 128 → j < 128 → (k ≠ tile ∨ i ∉ todo) → readC t e.w.core k i j = readC s e.w.core k i j) ∧
      (rows.toNat + 1 ≤ e.cmd.upc + todo.length → Gone e t) ∧
      (e.cmd.upc + todo.length < rows.toNat + 1 → ∃ c, Becomes e t c ∧ c.upc = e.cmd.upc + todo.length) := by
  intro todo tile readable
  obtain rfl : sp = aloadSpec off rows acc := Option.some.inj (turn.spec.symm.trans rfl)
  obtain ⟨t, loop, mid⟩ := go_aloadRows (Midway.start (0, 0) (microTurn_of_engineTurn turn).found) turn.sound tile readable
  have run : ((aloadSpec off rows acc).micro e).go s = Act.go (changeCmd e (fun c => { c with upc := e.cmd.upc + todo.length }) >>= fun _ =>
      pure (decide (rows.toNat + 1 ≤ e.cmd.upc + todo.length))) t := by
    simp only [aloadSpec, rows16_eq]
    exact go_bind_ok loop _
  obtain ⟨u, step, stores, gone, becomes⟩ := exec_leaves turn mid run fun _ => ⟨rfl, rfl⟩
  have row {i : Nat} (listed : i ∈ todo) : i < 128 := by
    have := lt_of_mem_todoOf listed
    omega
  have words {k i j : Nat} (below : i < 128) (col : j < 128) := readC_of_wroteC (congrArg Stores.words stores)
    (fun c listed => ⟨row (mem_tileCells.mp listed).1, (mem_tileCells.mp listed).2⟩) (k := k) below col
  refine ⟨u, step, congrArg Stores.mem stores, keepsS_of_wroteC stores, fun i listed j col => ?_, fun k i j below col other => ?_, gone,
    fun more => becomes_upc (becomes (Nat.not_le.mpr more))⟩
  · rw [words (row listed) col, if_pos ⟨rfl, mem_tileCells.mpr ⟨listed, col⟩⟩]
  · rw [words below col, if_neg fun here => other.elim (· here.1) (· (mem_tileCells.mp here.2).1)]

theorem astore_results (turn : EngineTurn e (.mAstore off rows acc) sp s) :
    let todo := todoOf e 16 (rows.toNat + 1)
    let tile := e.part.c0 + acc.toNat
    (∀ i ∈ todo, Owned e s (off.toNat + 512 * i) 512) →
    ∃ t, exec (.mAstore off rows acc) s = .next t ∧ t.mem = s.mem ∧
      (∀ k i j, readC t e.w.core k i j = readC s e.w.core k i j) ∧ Lands e s t (1, 0) (storedRows e s off.toNat tile todo) ∧
      (rows.toNat + 1 ≤ e.cmd.upc + todo.length → Gone e t) ∧
      (e.cmd.upc + todo.length < rows.toNat + 1 → ∃ c, Becomes e t c ∧ c.upc = e.cmd.upc + todo.length) := by
  intro todo tile owned
  obtain rfl : sp = astoreSpec off rows acc := Option.some.inj (turn.spec.symm.trans rfl)
  have micro := microTurn_of_engineTurn turn
  obtain ⟨t, loop, mid⟩ := go_astoreRows (Midway.start (1, 0) micro.found) turn.sound tile owned
  have run : ((astoreSpec off rows acc).micro e).go s = Act.go (changeCmd e (fun c => { c with upc := e.cmd.upc + todo.length }) >>= fun _ =>
      pure (decide (rows.toNat + 1 ≤ e.cmd.upc + todo.length))) t := by
    simp only [astoreSpec, rows16_eq]
    refine (go_bind_ok loop _).trans ?_
    rw [go_change_then, reportC_sound (mid.flaws turn.sound)]
  obtain ⟨u, step, stores, lands, gone, becomes⟩ := exec_lands micro mid run (fun _ => ⟨rfl, rfl⟩) (fun o listed => by
    obtain ⟨i, here, rfl⟩ := List.mem_map.mp listed
    rw [length_rowBytes]
    exact owned i here) fun _ => turn.alone
  exact ⟨u, step, congrArg Stores.mem stores, readC_of_words ((congrArg Stores.words stores).trans rfl), lands, gone,
    fun more => becomes_upc (becomes (Nat.not_le.mpr more))⟩

end

/-! ### m.perm (13 R346) -/

/-- Bytes that writes do not touch. -/
theorem takenS_wrote_apart {e : Eng} {off n : Nat} {W : List (Nat × List Byte)}
    (apart : ∀ o ∈ W, o.1 + o.2.length ≤ off ∨ off + n ≤ o.1) (σ : Stores) : takenS e (σ.wrote e.part W) off n = takenS e σ off n := by
  induction W generalizing σ with
  | nil => rfl
  | cons o W ih =>
    rw [show o :: W = [o] ++ W from rfl, ← Stores.wrote_append, ih (fun x listed => apart x (by simp [listed]))]
    refine List.map_congr_left fun k below => ?_
    have := List.mem_range.mp below
    have := apart o (by simp)
    exact (sget_ssetAll 0 o.2 _ _ _).trans (if_neg (by omega))

/-- A row of m.perm: each column takes the element that its column of Q names, or zero. -/
def permRow (size : Nat) (q row : List Byte) : List Byte :=
  (List.range 128).flatMap fun j =>
    let v := leNat ((q.drop (16 * j)).take 16)
    if v = 0 then List.replicate size (0 : Byte) else (row.drop (size * Nat.log2 v)).take size

theorem length_permRow_le (size : Nat) (q row : List Byte) : (permRow size q row).length ≤ 128 * size := by
  rw [permRow, List.length_flatMap]
  refine (List.sum_le_card_nsmul _ size fun n listed => ?_).trans (by simp)
  obtain ⟨j, -, rfl⟩ := List.mem_map.mp listed
  dsimp only
  split
  · simp
  · exact List.length_take_le _ _

section
variable {m : PmArgs} {e : Eng} {sp : CmdSpec} {s : State}

/-- The writes of m.perm for some rows. -/
def permWrites (m : PmArgs) (e : Eng) (s : State) (size : Nat) (rows : List Nat) : List (Nat × List Byte) :=
  rows.map fun i => (m.d.toNat + 128 * size * i,
    permRow size e.cmd.block (readS s e.w.core e.part (m.a.toNat + 128 * size * i) (128 * size)))

/-- No write of m.perm touches a row of A. -/
theorem permWrites_apart {size i : Nat} {rows : List Nat} (count : Nat)
    (apart : m.d.toNat + 128 * size * count ≤ m.a.toNat ∨ m.a.toNat + 128 * size * count ≤ m.d.toNat) (within : ∀ k ∈ rows, k < count)
    (below : i < count) : ∀ o ∈ permWrites m e s size rows, o.1 + o.2.length ≤ m.a.toNat + 128 * size * i ∨
      m.a.toNat + 128 * size * i + 128 * size ≤ o.1 := by
  intro o listed
  obtain ⟨k, here, rfl⟩ := List.mem_map.mp listed
  have short := length_permRow_le size e.cmd.block (readS s e.w.core e.part (m.a.toNat + 128 * size * k) (128 * size))
  have ends {j : Nat} (h : j < count) : 128 * size * j + 128 * size ≤ 128 * size * count := Nat.mul_le_mul_left (128 * size) h
  have := ends (within k here)
  have := ends below
  dsimp only
  omega

theorem go_permRows {tag : TileTag} {todo : List Nat} {t : State} (mid : Midway e s tag [] (storesAt e s) t) (sound : s.flaws = [])
    (count : Nat) (within : ∀ i ∈ todo, i < count)
    (apart : m.d.toNat + 128 * sizeOf' tag.1 * count ≤ m.a.toNat ∨ m.a.toNat + 128 * sizeOf' tag.1 * count ≤ m.d.toNat)
    (readable : ∀ i ∈ todo, Readable e s tag (m.a.toNat + 128 * sizeOf' tag.1 * i) (128 * sizeOf' tag.1))
    (owned : ∀ o ∈ permWrites m e s (sizeOf' tag.1) todo, Owned e s o.1 o.2.length) :
    ∃ u, Act.go (forIn todo PUnit.unit fun i _ =>
        getTagged e tag (sizeOf' tag.1) (m.a.toNat + 128 * sizeOf' tag.1 * i) (128 * sizeOf' tag.1) >>= fun row =>
        putBytes e tag.1 tag.2 (m.d.toNat + 128 * sizeOf' tag.1 * i) (permRow (sizeOf' tag.1) e.cmd.block row) >>= fun _ =>
          pure (ForInStep.yield PUnit.unit)) t = (.ok PUnit.unit, u) ∧
      Midway e s tag (stampedBy (permWrites m e s (sizeOf' tag.1) todo))
        ((storesAt e s).wrote e.part (permWrites m e s (sizeOf' tag.1) todo)) u := by
  refine (go_forIn_along (fun _ => PUnit.unit) (fun done t => (∀ i ∈ done, i < count) ∧
    Midway e s tag (stampedBy (permWrites m e s (sizeOf' tag.1) done)) ((storesAt e s).wrote e.part (permWrites m e s (sizeOf' tag.1) done)) t)
    ?_ ⟨fun _ h => absurd h List.not_mem_nil, mid⟩).imp fun u h => ⟨h.1, h.2.2⟩
  rintro done i listed t ⟨before, mid⟩
  obtain ⟨v, read, mid⟩ := mid.go_getTagged (size := sizeOf' tag.1) sound (readable i listed)
  rw [takenS_wrote_apart (permWrites_apart count apart before (within i listed)), ← readS_eq_takenS] at read
  obtain ⟨u, put, kept⟩ := mid.go_putBytes (owned _ (List.mem_map.mpr ⟨i, listed, rfl⟩))
  refine ⟨u, ?_, fun k here => ?_, ?_⟩
  · rw [go_bind_ok read]
    exact go_bind_ok put _
  · rcases List.mem_append.mp here with old | new
    · exact before k old
    · exact List.mem_singleton.mp new ▸ within i listed
  · rw [permWrites, List.map_append, stampedBy_append, ← Stores.wrote_append]
    simpa [stampedBy, Stores.wrote, bytesAfter, permWrites] using kept

theorem perm_results (turn : EngineTurn e (.mPerm m) sp s) :
    let tag := tagOf e s (m.a.toNat / 2048)
    let size := sizeOf' tag.1
    let todo := todoOf e 8 (m.rows.toNat + 1)
    let writes := permWrites m e s size todo
    tag.2 = 0 → size ≠ 0 →
    (m.d.toNat + 128 * size * (m.rows.toNat + 1) ≤ m.a.toNat ∨ m.a.toNat + 128 * size * (m.rows.toNat + 1) ≤ m.d.toNat) →
    (∀ i ∈ todo, Readable e s tag (m.a.toNat + 128 * size * i) (128 * size)) → (∀ o ∈ writes, Owned e s o.1 o.2.length) →
    ∃ t, exec (.mPerm m) s = .next t ∧ t.mem = s.mem ∧ Lands e s t tag writes ∧
      (m.rows.toNat + 1 ≤ e.cmd.upc + todo.length → Gone e t) := by
  intro tag size todo writes plain some apart readable owned
  obtain rfl : sp = permSpec m := Option.some.inj (turn.spec.symm.trans rfl)
  have micro := microTurn_of_engineTurn turn
  obtain ⟨s1, touch, mid1, -⟩ := (Midway.start tag micro.found).go_touchTag (m.a.toNat / 2048)
  obtain ⟨s2, loop, mid2⟩ := go_permRows mid1 turn.sound (m.rows.toNat + 1) (fun _ => lt_of_mem_todoOf) apart readable owned
  have fits : (tag.2 == 0 && size != 0) = true := by simpa using ⟨plain, some⟩
  have run : (permMicro m e).go s = Act.go (changeCmd e (fun c => { c with upc := e.cmd.upc + todo.length }) >>= fun _ =>
      pure (decide (m.rows.toNat + 1 ≤ e.cmd.upc + todo.length))) s2 := by
    rw [permMicro, go_bind_ok touch, go_erequire_then fits]
    dsimp only
    rw [filterMap_eq_todoOf]
    exact go_bind_ok loop _
  obtain ⟨u, step, stores, lands, gone, -⟩ := exec_lands micro mid2 run (fun _ => ⟨rfl, rfl⟩) owned fun _ => turn.alone
  exact ⟨u, step, congrArg Stores.mem stores, lands, gone⟩

end

theorem matrixMoves : MatrixMoves :=
  ⟨acopy_results, fun _ _ _ _ _ _ few => ⟨fun turn => aload_results turn few, fun turn => astore_results turn⟩,
   fun _ _ _ _ turn => perm_results turn⟩

end Sys2Proof.Proofs
end

section
/-!
PROOF. The epilogue, images for other cores, m.bind (13 R349 to R353; 02 R33, R34).
-/

namespace Sys2Proof.Proofs

open Sys2Proof.Machine Sys2Proof.Safety Sys2Proof.Claims

section
variable {m : EpArgs} {e : Eng} {sp : CmdSpec} {s t : State} {tag : TileTag} {D : List Nat} {σ : Stores}

/-! ### Rows through scale, bias and activation (13 R350) -/

theorem Midway.go_epVector (mid : Midway e s tag D (storesAt e s) t) (sound : s.flaws = []) {on : Bool} {off : Nat}
    (readable : on = true → Readable e s (1, 0) off 512) :
    ∃ u, (epVector e on off).go t = (.ok (epiFloats e s on off), u) ∧ Midway e s tag D (storesAt e s) u := by
  cases on
  · exact ⟨t, rfl, mid⟩
  · obtain ⟨u, read, kept⟩ := mid.go_getTagged (size := 4) sound (readable rfl)
    exact ⟨u, go_bind_ok read _, kept⟩

/-- The values of a row, where the tile still is as it was. -/
theorem Midway.epRow_eq (mid : Midway e s tag D σ t) (sound : s.flaws = []) (flaws : σ.flaws = (storesAt e s).flaws)
    (words : σ.words = (storesAt e s).words) (i : Nat) :
    epRow t e m (epiFloats e s m.sen m.scale.toNat) (epiFloats e s m.ben m.bias.toNat) i = epiRow m e s i := by
  have same : (storesAt e t).words = (storesAt e s).words := by rw [mid.stores, words]
  simp only [epRow, cWord_sound (mid.flaws (flaws.trans sound)), readC_of_words same]
  rfl

/-! ### m.epi (13 R349 to R351) -/

/-- The writes of an epilogue for some rows. -/
def epiWrites (m : EpArgs) (e : Eng) (s : State) (rows : List Nat) : List (Nat × List Byte) :=
  (rows.flatMap fun i => epOut e m m.d.toNat i (epiRow m e s i)).map fun o => (m.d.toNat + o.1, o.2)

theorem epiWrites_append (l r : List Nat) : epiWrites m e s (l ++ r) = epiWrites m e s l ++ epiWrites m e s r := by
  rw [epiWrites, List.flatMap_append, List.map_append]
  rfl

theorem go_epiRows {rows : List Nat} (mid : Midway e s (m.f, epGeo m) [] (storesAt e s) t) (sound : s.flaws = [])
    (owned : ∀ o ∈ epiWrites m e s rows, Owned e s o.1 o.2.length) :
    ∃ u, Act.go (forIn rows PUnit.unit fun i _ => state >>= fun t =>
        (forIn (epOut e m m.d.toNat i (epRow t e m (epiFloats e s m.sen m.scale.toNat) (epiFloats e s m.ben m.bias.toNat) i)) PUnit.unit
          fun o _ => putBytes e m.f (epGeo m) (m.d.toNat + o.1) o.2 >>= fun _ => pure (ForInStep.yield PUnit.unit)) >>= fun _ =>
        pure (ForInStep.yield PUnit.unit)) t = (.ok PUnit.unit, u) ∧
      Midway e s (m.f, epGeo m) (stampedBy (epiWrites m e s rows)) ((storesAt e s).wrote e.part (epiWrites m e s rows)) u := by
  refine go_forIn_along (fun _ => PUnit.unit) (fun done t => Midway e s (m.f, epGeo m) (stampedBy (epiWrites m e s done))
    ((storesAt e s).wrote e.part (epiWrites m e s done)) t) (fun done i listed t mid => ?_) mid
  obtain ⟨u, loop, kept⟩ := mid.go_putAll (l := epOut e m m.d.toNat i (epiRow m e s i)) (fun o => m.d.toNat + o.1) (fun o => o.2)
    fun o here => owned (m.d.toNat + o.1, o.2) (List.mem_map.mpr ⟨o, List.mem_flatMap.mpr ⟨i, listed, here⟩, rfl⟩)
  refine ⟨u, ?_, ?_⟩
  · rw [go_state_then, mid.epRow_eq sound rfl rfl]
    exact go_bind_ok loop _
  · rw [epiWrites_append, stampedBy_append, ← Stores.wrote_append]
    simpa [epiWrites] using kept

theorem epi_results (turn : EngineTurn e (.mEpi m) sp s) (reads : EpiReads m e s) :
    let todo := todoOf e 8 (m.rows.toNat + 1)
    let writes := epiWrites m e s todo
    (∀ o ∈ writes, Owned e s o.1 o.2.length) →
    ∃ t, exec (.mEpi m) s = .next t ∧ t.mem = s.mem ∧ Lands e s t (m.f, if m.mx then 1 else 0) writes ∧
      (∀ k i j, readC t e.w.core k i j = readC s e.w.core k i j) ∧ (m.rows.toNat + 1 ≤ e.cmd.upc + todo.length → Gone e t) ∧
      (e.cmd.upc + todo.length < m.rows.toNat + 1 → ∃ c, Becomes e t c ∧ c.upc = e.cmd.upc + todo.length) := by
  intro todo writes owned
  obtain rfl : sp = epiSpec m := Option.some.inj (turn.spec.symm.trans rfl)
  have micro := microTurn_of_engineTurn turn
  obtain ⟨s1, scale, mid1⟩ := (Midway.start (m.f, epGeo m) micro.found).go_epVector turn.sound reads.1
  obtain ⟨s2, bias, mid2⟩ := mid1.go_epVector turn.sound reads.2
  obtain ⟨s3, loop, mid3⟩ := go_epiRows mid2 turn.sound owned
  have run : (epiMicro m e).go s = Act.go (changeCmd e (fun c => { c with upc := e.cmd.upc + todo.length }) >>= fun _ =>
      pure (decide (m.rows.toNat + 1 ≤ e.cmd.upc + todo.length))) s3 := by
    rw [epiMicro, go_bind_ok scale, go_bind_ok bias, filterMap_eq_todoOf]
    refine (go_bind_ok loop _).trans ?_
    rw [go_change_then, reportC_sound (mid3.flaws turn.sound)]
  obtain ⟨u, step, stores, lands, gone, becomes⟩ := exec_lands micro mid3 run (fun _ => ⟨rfl, rfl⟩) owned fun _ => turn.alone
  exact ⟨u, step, congrArg Stores.mem stores, lands, readC_of_words ((congrArg Stores.words stores).trans rfl), gone,
    fun more => becomes_upc (becomes (Nat.not_le.mpr more))⟩

/-! ### m.epi.send (13 R352; 02 R33, R34) -/

/-- A route takes its packet into the queues of a die's ports only. -/
theorem viewOf_postArrival (e : Eng) (s : State) (x : Arrival) : ∃ rt, viewOf e (postArrival s x) =
    { viewOf e s with net := { s.net with arrivals := s.net.arrivals ++ [{ x with route := rt }] } } := by
  obtain ⟨dies, fresh, route⟩ := pickRoute_changes s (coreDie x.fromCore) (coreDie x.core)
  refine ⟨(pickRoute s (coreDie x.fromCore) (coreDie x.core)).2, ?_⟩
  rw [postArrival, route]
  rfl

/-- Rows of the image are converted into the command's buffer. -/
theorem epiSend_rows (turn : EngineTurn e (.mEpiSend m) sp s) (reads : EpiReads m e s) (more : e.cmd.phase < m.rows.toNat + 1) :
    let slot := (e.cmd.route.extractLsb' 24 8).toNat
    let todo := ((List.range 8).map (e.cmd.phase + ·)).filter (· < m.rows.toNat + 1)
    ∃ t c, exec (.mEpiSend m) s = .next t ∧ t.mem = s.mem ∧ KeepsS e s t ∧ Becomes e t c ∧ c.phase = e.cmd.phase + todo.length ∧
      c.buf = layOver (epBytes m) e.cmd.buf (todo.flatMap (fun i => epOut e m (2048 * slot) i (epiRow m e s i))) := by
  intro slot todo
  obtain rfl : sp = epiSendSpec m := Option.some.inj (turn.spec.symm.trans rfl)
  obtain ⟨s1, scale, mid1⟩ := (Midway.start (0, 0) (microTurn_of_engineTurn turn).found).go_epVector turn.sound reads.1
  obtain ⟨s2, bias, mid2⟩ := mid1.go_epVector turn.sound reads.2
  let out := todo.flatMap fun i => epOut e m (2048 * slot) i (epiRow m e s i)
  have run : (sendMicro m e).go s = Act.go (changeCmd e (fun c =>
      { c with phase := e.cmd.phase + todo.length, buf := layOver (epBytes m) c.buf out }) >>= fun _ => pure (decide False)) s2 := by
    rw [sendMicro]
    dsimp only
    rw [if_pos more, go_bind_ok scale, go_bind_ok bias, filterMap_eq_filter, go_state_then, go_change_then,
      reportC_sound (mid2.flaws turn.sound)]
    simp only [mid2.epRow_eq turn.sound rfl rfl, routeSlot, fld_eq_toNat_extractLsb']
    rfl
  obtain ⟨u, step, stores, -, becomes⟩ := exec_leaves turn mid2 run fun _ => ⟨rfl, rfl⟩
  obtain ⟨tags, stamped, here⟩ := becomes not_false
  exact ⟨u, _, step, congrArg Stores.mem stores, keepsS_of_bytes (congrArg Stores.bytes stores), here, rfl, rfl⟩

/-- The whole image leaves for its core. -/
theorem epiSend_image (turn : EngineTurn e (.mEpiSend m) sp s) (whole : m.rows.toNat + 1 ≤ e.cmd.phase)
    (own : (e.cmd.route.extractLsb' 50 6).toNat = s.gang.gidx.toNat)
    (room : (dieOf s ((e.cmd.route.extractLsb' 0 8).toNat / 64)).held.length < 32) :
    let r := e.cmd.route
    ∃ t rt, exec (.mEpiSend m) s = .next t ∧ t.mem = s.mem ∧ KeepsS e s t ∧ Gone e t ∧
      t.net.arrivals = s.net.arrivals ++ [{
        rsw := false, fromCore := e.w.core, fromBank := e.w.bank, core := (r.extractLsb' 0 8).toNat,
        off := 2048 * (r.extractLsb' 24 8).toNat, bytes := e.cmd.buf,
        tags := List.replicate ((e.cmd.buf.length + 2047) / 2048) (m.f, if m.mx then 1 else 0),
        add := decide (r.extractLsb' 48 2 = 1), ctr := (r.extractLsb' 42 6).toNat, cen := r.getLsbD 41,
        phase := (coreOf s e.w.core).phase, cmd := e.cmd.id, route := rt }] := by
  intro r
  obtain rfl : sp = epiSendSpec m := Option.some.inj (turn.spec.symm.trans rfl)
  let image : Arrival :=
    { rsw := false, fromCore := e.w.core, fromBank := e.w.bank, core := routeCore r, off := 2048 * routeSlot r, bytes := e.cmd.buf,
      tags := List.replicate ((e.cmd.buf.length + 2047) / 2048) (m.f, epGeo m), add := routeMode r == 1, ctr := routeCtr r,
      cen := routeCen r, phase := (coreOf s e.w.core).phase, cmd := e.cmd.id, route := 0 }
  have held : routeDev r = s.gang.gidx.toNat := by rw [routeDev, fld_eq_toNat_extractLsb', own]
  have free : (routeDev r != s.gang.gidx.toNat || decide ((dieOf s (coreDie (routeCore r))).held.length < 32)) = true := by
    rw [routeCore, fld_eq_toNat_extractLsb', coreDie, decide_eq_true room, Bool.or_true]
  have run : (sendMicro m e).go s = (.ok (decide True), postArrival s image) := by
    rw [sendMicro]
    dsimp only
    rw [if_neg (Nat.not_lt.mpr whole), go_state_then, go_waitUntil_then free, sendImage, go_change_then, if_pos held]
    rfl
  obtain ⟨rt, view⟩ := viewOf_postArrival e s image
  obtain ⟨u, step, stores, -, gone, -⟩ := exec_turn_ends turn run
    ((Held.start (microTurn_of_engineTurn turn).found).of_queue ((congrArg View.queue view).trans rfl))
  replace stores := stores.trans (congrArg View.toStores view)
  refine ⟨u, rt, step, (congrArg Stores.mem stores).trans rfl, keepsS_of_bytes ((congrArg Stores.bytes stores).trans rfl), gone trivial, ?_⟩
  refine (congrArg (fun σ => σ.net.arrivals) stores).trans ?_
  have mode : decide (r.extractLsb' 48 2 = 1) = (routeMode r == 1) := by
    rw [routeMode, fld_eq_toNat_extractLsb', Bool.eq_iff_iff, decide_eq_true_iff, beq_iff_eq, BitVec.toNat_eq]
    rfl
  simp only [image, mode, routeCore, routeSlot, routeCtr, fld_eq_toNat_extractLsb']
  rfl

/-! ### m.bind (13 R353) -/

theorem bind_results (off : BitVec 19) (ring : BitVec 3) (turn : EngineTurn e (.mBind off ring) sp s) :
    let v := leWord (readS s e.w.core e.part off.toNat 8)
    (∀ c ∈ queueOf s e.w.core e.w.bank 2, feedsRing ring.toNat c = true → c.started = false ∧ e.cmd.id ≤ c.id) →
    Owned e s off.toNat 8 → bindTrap s e.w.core e.part v = none →
    ∃ t, exec (.mBind off ring) s = .next t ∧ t.mem = s.mem ∧ KeepsS e s t ∧ Gone e t ∧
      ringOf t e.w.core e.w.bank ring.toNat = v &&& 0xFFFFFE00FFFFFFFF ∧
      ∀ n ≠ ring.toNat, ringOf t e.w.core e.w.bank n = ringOf s e.w.core e.w.bank n := by
  intro v idle owned legal
  obtain rfl : sp = bindSpec off ring := Option.some.inj (turn.spec.symm.trans rfl)
  have mid := Midway.start (0, 0) (microTurn_of_engineTurn turn).found
  have still : ((queueOf s e.w.core e.w.bank 2).all fun c => !(feedsRing ring.toNat c && (c.started || c.id < e.cmd.id))) = true := by
    refine List.all_eq_true.mpr fun c listed => ?_
    by_cases feeds : feedsRing ring.toNat c = true
    · obtain ⟨waits, behind⟩ := idle c listed feeds
      simp [waits, behind]
    · simp [feeds]
  have run : ((bindSpec off ring).micro e).go s = (.ok (decide True), setRing s e.w.core e.w.bank ring.toNat (ringTaken v)) := by
    simp only [bindSpec]
    rw [go_state_then, go_waitUntil_then still, go_bind_ok (mid.go_getBytes turn.sound owned), go_state_then, ← readS_eq_takenS, legal]
    rfl
  have view := viewOf_setRing e s ring.toNat (ringTaken v)
  obtain ⟨u, step, stores, -, gone, -⟩ := exec_turn_ends turn run
    ((Held.start (microTurn_of_engineTurn turn).found).of_queue ((congrArg View.queue view).trans rfl))
  replace stores := stores.trans (congrArg View.toStores view)
  have rings (n : Nat) : ringOf u e.w.core e.w.bank n = if n = ring.toNat then ringTaken v else ringOf s e.w.core e.w.bank n := by
    rw [ringOf_eq, show (viewOf e u).rings = _ from congrArg Stores.rings stores, sget_sset]
    rfl
  refine ⟨u, step, (congrArg Stores.mem stores).trans rfl, keepsS_of_bytes ((congrArg Stores.bytes stores).trans rfl), gone trivial, ?_,
    fun n other => by rw [rings, if_neg other]⟩
  rw [rings, if_pos rfl, ringTaken]
  rfl

end

theorem epilogueResults : EpilogueResults :=
  ⟨fun _ _ _ _ turn reads => epi_results turn reads,
   fun _ _ _ _ turn reads => ⟨epiSend_rows turn reads, epiSend_image turn⟩,
   fun off ring _ _ _ turn => bind_results off ring turn⟩

end Sys2Proof.Proofs
end

section
/-!
PROOF. Multiply-accumulate (13 R340 to R344; 10 R269), and the matrix engine's results as a whole.
-/

namespace Sys2Proof.Proofs

open Sys2Proof.Machine Sys2Proof.Safety Sys2Proof.Claims

/-! ### Rings that give up tiles (09 R231) -/

theorem viewOf_popRing (e : Eng) (s : State) (ring n : Nat) : viewOf e (popRing s e.w.core e.w.bank ring n) =
    { viewOf e s with rings := sset 0 (viewOf e s).rings ring (ringPopped (ringOf s e.w.core e.w.bank ring) n) } := by
  rw [popRing]
  dsimp only
  rw [viewOf_setRing, viewOf_monTake]

section
variable {f : MmaForm} {m : MmArgs} {e : Eng} {i : Instr} {sp : CmdSpec} {ra rb : Word} {ta tb tag : TileTag} {s t : State} {D : List Nat}
  {σ : Stores}

/-! ### One K-group (13 R343, R344) -/

/-- A value that is read on a condition. -/
theorem go_ite_value {α β : Type} {c : Prop} [Decidable c] {m : Act α} {y a : α} {k : α → Act β} {s t : State}
    (h : (if c then m else pure y).go s = (.ok a, t)) : Act.go (if c then m >>= k else pure y >>= k) s = (k a).go t := by
  by_cases holds : c
  · rw [if_pos holds] at h ⊢
    exact go_bind_ok h k
  · rw [if_neg holds] at h ⊢
    exact go_bind_ok h k

/-- The lattice table of a form. -/
def mmaTable (vq : Bool) (m : MmArgs) (e : Eng) (s : State) : List Byte :=
  if vq = true then readS s e.w.core e.part (2048 * m.ls.toNat) 1024 else []

theorem Midway.go_mmaTable (mid : Midway e s tag D (storesAt e s) t) (sound : s.flaws = []) {vq : Bool}
    (lattice : vq = true → Owned e s (2048 * m.ls.toNat) 1024) :
    (if vq then getBytes e 4 (2048 * m.ls.toNat) 1024 else pure []).go t = (.ok (mmaTable vq m e s), t) := by
  cases vq
  · rfl
  · exact mid.go_getBytes sound (lattice rfl)

/-- Reserved T5 bytes are noted in the error log only. -/
theorem Midway.go_logT5 (mid : Midway e s tag D σ t) (x : TileTag) (base cols kn : Nat) :
    ∃ u, (logT5 e x base cols kn).go t = (.ok (), u) ∧ Midway e s tag D σ u := by
  rw [logT5]
  split
  case isFalse => exact ⟨t, rfl, mid⟩
  refine (go_forIn_along (l := List.range cols) (fun _ => PUnit.unit) (fun _ => Midway e s tag D σ) (fun _ v _ t mid => ?_) mid).imp
    fun u h => ⟨go_bind_ok h.1 _, h.2⟩
  refine (go_forIn_along (l := List.range ((kn + 4) / 5)) (fun _ => PUnit.unit) (fun _ => Midway e s tag D σ) (fun _ b _ t mid => ?_) mid).imp
    fun u h => ⟨go_bind_ok h.1 _, h.2⟩
  dsimp only
  rw [go_state_then]
  split
  · have view := viewOf_dataError e t 0 false ((base + 8 * v + b) / 2048) 0 ((base + 8 * v + b) % 2048)
    exact ⟨_, rfl, mid.store (congrArg View.slots view) (congrArg View.queue view) ((congrArg View.toStores view).trans mid.stores)⟩
  · exact ⟨t, rfl, mid⟩

/-- The words that a multiply writes. -/
def mmaCells (m : MmArgs) : List (Nat × Nat) :=
  (List.range (m.rows.toNat + 1)).flatMap fun i => (List.range (m.cols.toNat + 1)).map fun j => (i, j)

theorem mem_mmaCells {r c : Nat} : (r, c) ∈ mmaCells m ↔ r ≤ m.rows.toNat ∧ c ≤ m.cols.toNat := by
  simp [mmaCells]

/-- The model's sum is the statement's, between the actions of the micro-step. -/
theorem Midway.mmaElem_eq (mid : Midway e s tag D (storesAt e s) t) (sound : s.flaws = []) (zero vq : Bool) (c : Nat × Nat) :
    mmaElem t e m (e.cmd.upc == 0 && zero) ta tb (mmaTable vq m e s) (2048 * ringSlot ra (ringHead ra + e.cmd.upc))
      (2048 * ringSlot rb (ringHead rb + e.cmd.upc)) (Nat.min 32 (m.kc.toNat - 32 * e.cmd.upc)) e.cmd.upc c.1 c.2 =
      accumulated zero vq m e ra rb ta tb s c.1 c.2 := by
  have bytes : KeepsS e s t := keepsS_of_bytes (congrArg Stores.bytes mid.stores)
  have words := readC_of_words (congrArg Stores.words mid.stores)
  have begins : (e.cmd.upc == 0 && zero) = true ↔ zero = true ∧ e.cmd.upc = 0 := by
    rw [Bool.and_eq_true, beq_iff_eq, and_comm]
  simp only [mmaElem, accumulated, tileElem_congr sound (mid.flaws sound) bytes, cWord_sound (mid.flaws sound), words, begins]
  rfl

/-- The micro-step up to the move of the command. -/
theorem go_mmaMicro (turn : MmaTurn f.vq m e i sp ra rb ta tb s) :
    ∃ t, Midway e s (0, 0) [] ((storesAt e s).wroteC (e.part.c0 + m.acc.toNat)
        (fun c => accumulated f.zero f.vq m e ra rb ta tb s c.1 c.2) (mmaCells m)) t ∧
      (mmaMicro f m e).go s = Act.go (changeCmd e (fun c => { c with upc := e.cmd.upc + 1 }) >>= fun _ =>
        if e.cmd.upc + 1 < (m.kc.toNat + 31) / 32 then pure false
        else do
          change (fun s => popRing s e.w.core e.w.bank m.ra.toNat ((m.kc.toNat + 31) / 32))
          if m.ra != m.rb then change (fun s => popRing s e.w.core e.w.bank m.rb.toNat ((m.kc.toNat + 31) / 32))
          pure true) t := by
  have sound := turn.sound
  obtain ⟨enabledA, enabledB⟩ := turn.enabled
  obtain ⟨fitsA, fitsB⟩ := turn.fits
  obtain ⟨thereA, thereB⟩ := turn.there
  obtain ⟨wholeA, wholeB, someA, someB⟩ := turn.whole
  obtain ⟨s1, tagA, mid1⟩ := (Midway.start (0, 0) (microTurn_of_engineTurn turn.toEngineTurn).found).go_tileTag turn.tagsA wholeA someA
  obtain ⟨s2, tagB, mid2⟩ := mid1.go_tileTag turn.tagsB wholeB someB
  obtain ⟨s3, log, mid3⟩ := mid2.go_logT5 tb (2048 * ringSlot rb (ringHead rb + e.cmd.upc)) (m.cols.toNat + 1)
    (Nat.min 32 (m.kc.toNat - 32 * e.cmd.upc))
  refine ⟨_, mid3.wroteC _ _ _, ?_⟩
  rw [mmaMicro, go_state_then]
  dsimp only
  rw [turn.ringA, turn.ringB]
  refine (go_ite_then fun _ => go_erequire (by simp [enabledA, enabledB, fitsA, fitsB])).trans ?_
  rw [go_waitUntil_then (by simp [thereA, thereB]), go_bind_ok tagA, go_bind_ok tagB, go_erequire_then turn.pair]
  refine (go_ite_value (mid2.go_mmaTable sound turn.lattice)).trans ?_
  rw [go_bind_ok log, go_state_then, go_change_then, reportTile_sound (mid3.flaws sound), reportTile_sound (mid3.flaws sound)]
  refine (go_ite_then fun _ => by rw [go_change, reportC_sound (mid3.flaws sound)]).trans ?_
  rw [go_change_then, List.foldl_map]
  simp only [mid3.mmaElem_eq sound]
  rfl

/-! ### The turn of a multiply -/

/-- Words of ROWS x COLS take their sums; no other word changes. -/
theorem mma_words {u : State} (zero vq : Bool) (stores : (storesAt e u).words = ((storesAt e s).wroteC (e.part.c0 + m.acc.toNat)
      (fun c => accumulated zero vq m e ra rb ta tb s c.1 c.2) (mmaCells m)).words) (rows : m.rows.toNat < 128) (cols : m.cols.toNat < 128) :
    (∀ r ≤ m.rows.toNat, ∀ c ≤ m.cols.toNat,
      readC u e.w.core (e.part.c0 + m.acc.toNat) r c = accumulated zero vq m e ra rb ta tb s r c) ∧
    KeepsC e s u (e.part.c0 + m.acc.toNat) (m.rows.toNat + 1) (m.cols.toNat + 1) := by
  have words {k i j : Nat} (row : i < 128) (col : j < 128) := readC_of_wroteC stores (fun c listed => by
    have := mem_mmaCells.mp (show (c.1, c.2) ∈ mmaCells m from listed)
    omega) (k := k) row col
  refine ⟨fun r row c col => ?_, fun k i j row col other => ?_⟩
  · rw [words (by omega) (by omega), if_pos ⟨rfl, mem_mmaCells.mpr ⟨row, col⟩⟩]
  · rw [words row col, if_neg]
    rintro ⟨same, listed⟩
    have := mem_mmaCells.mp listed
    omega

/-- A K-group that is not the last one moves the command on. -/
theorem exec_mmaGroup (turn : MmaTurn f.vq m e i (mmaSpec f m) ra rb ta tb s) (more : e.cmd.upc + 1 < (m.kc.toNat + 31) / 32) :
    ∃ u, exec i s = .next u ∧ storesAt e u = (storesAt e s).wroteC (e.part.c0 + m.acc.toNat)
        (fun c => accumulated f.zero f.vq m e ra rb ta tb s c.1 c.2) (mmaCells m) ∧
      ∃ c, Becomes e u c ∧ c.upc = e.cmd.upc + 1 := by
  obtain ⟨t, mid, run⟩ := go_mmaMicro turn
  rw [if_pos more] at run
  obtain ⟨u, step, stores, -, becomes⟩ := exec_leaves (p := False) turn.toEngineTurn mid run fun _ => ⟨rfl, rfl⟩
  obtain ⟨tags, stamped, here⟩ := becomes not_false
  exact ⟨u, step, stores, _, here, rfl⟩

/-- The stores after the groups' tiles have left their rings. -/
def Stores.popped (σ : Stores) (m : MmArgs) (ra rb : Word) (n : Nat) : Stores :=
  { σ with rings := if m.ra = m.rb then sset 0 σ.rings m.ra.toNat (ringPopped ra n)
      else sset 0 (sset 0 σ.rings m.ra.toNat (ringPopped ra n)) m.rb.toNat (ringPopped rb n) }

theorem go_popTiles (m : MmArgs) (e : Eng) (v : State) (n : Nat) :
    ∃ w, Act.go (change (fun s => popRing s e.w.core e.w.bank m.ra.toNat n) >>= fun _ =>
        if m.ra != m.rb then change (fun s => popRing s e.w.core e.w.bank m.rb.toNat n) >>= fun _ => pure true else pure true) v =
        (.ok (decide True), w) ∧
      viewOf e w = { viewOf e v with
        toStores := (storesAt e v).popped m (ringOf v e.w.core e.w.bank m.ra.toNat) (ringOf v e.w.core e.w.bank m.rb.toNat) n } := by
  have view := viewOf_popRing e v m.ra.toNat n
  rw [go_change_then]
  by_cases same : m.ra = m.rb
  · refine ⟨_, by rw [if_neg (by simpa using same)]; rfl, ?_⟩
    rw [view, Stores.popped, if_pos same]
    rfl
  · have other : m.rb.toNat ≠ m.ra.toNat := fun h => same (BitVec.eq_of_toNat_eq h.symm)
    refine ⟨_, by rw [if_pos (by simpa using same)]; rfl, ?_⟩
    rw [viewOf_popRing, ringOf_eq, view, sget_sset_other _ _ _ other, Stores.popped, if_neg same]
    rfl

/-- The last K-group takes the tiles from the rings and retires the command. -/
theorem exec_mmaLast (turn : MmaTurn f.vq m e i (mmaSpec f m) ra rb ta tb s) (last : (m.kc.toNat + 31) / 32 ≤ e.cmd.upc + 1) :
    ∃ u, exec i s = .next u ∧ storesAt e u = ((storesAt e s).wroteC (e.part.c0 + m.acc.toNat)
        (fun c => accumulated f.zero f.vq m e ra rb ta tb s c.1 c.2) (mmaCells m)).popped m ra rb ((m.kc.toNat + 31) / 32) ∧ Gone e u := by
  obtain ⟨t, mid, run⟩ := go_mmaMicro turn
  obtain ⟨v, tags, stamped, change, stores, -, held⟩ := mid.go_changeCmd (g := fun c => { c with upc := e.cmd.upc + 1 }) fun _ => ⟨rfl, rfl⟩
  have rings (n : Nat) := ringOf_of_rings (e := e) (s := s) (t := v) ((congrArg Stores.rings stores).trans rfl) n
  obtain ⟨w, pops, view⟩ := go_popTiles m e v ((m.kc.toNat + 31) / 32)
  rw [go_bind_ok change, if_neg (Nat.not_lt.mpr last), pops] at run
  rw [stores, rings, rings, turn.ringA, turn.ringB] at view
  obtain ⟨u, step, same, -, gone, -⟩ := exec_turn_ends turn.toEngineTurn run (held.of_queue ((congrArg View.queue view).trans rfl))
  exact ⟨u, step, same.trans (congrArg View.toStores view), gone trivial⟩

/-- What the rings hold after their tiles have left; both are one ring's where the command names one ring twice. -/
theorem ringOf_popped {u : State} {n : Nat} (one : m.ra = m.rb → ra = rb)
    (stores : (storesAt e u).rings = (σ.popped m ra rb n).rings) :
    ringOf u e.w.core e.w.bank m.ra.toNat = ringPopped ra n ∧ ringOf u e.w.core e.w.bank m.rb.toNat = ringPopped rb n := by
  rw [ringOf_eq, ringOf_eq, show (viewOf e u).rings = _ from stores, Stores.popped]
  by_cases same : m.ra = m.rb
  · simp [same, one same]
  · have other : m.ra.toNat ≠ m.rb.toNat := fun h => same (BitVec.eq_of_toNat_eq h)
    simp [same, sget_sset_other _ _ _ other]

end

theorem matrixMultiplies_of_spec {f : MmaForm} {m : MmArgs} {e : Eng} {i : Instr} {sp : CmdSpec} {ra rb : Word} {ta tb : TileTag} {s : State}
    (spec : specOf i = some (mmaSpec f m)) (turn : MmaTurn f.vq m e i sp ra rb ta tb s) :
    let tile := e.part.c0 + m.acc.toNat
    let groups := (m.kc.toNat + 31) / 32
    ∃ t, exec i s = .next t ∧ t.mem = s.mem ∧ KeepsS e s t ∧
      (m.rows.toNat < 128 → m.cols.toNat < 128 →
        (∀ r ≤ m.rows.toNat, ∀ c ≤ m.cols.toNat, readC t e.w.core tile r c = accumulated f.zero f.vq m e ra rb ta tb s r c) ∧
        KeepsC e s t tile (m.rows.toNat + 1) (m.cols.toNat + 1)) ∧
      (e.cmd.upc + 1 < groups → (∃ c, Becomes e t c ∧ c.upc = e.cmd.upc + 1) ∧
        ∀ n, ringOf t e.w.core e.w.bank n = ringOf s e.w.core e.w.bank n) ∧
      (groups ≤ e.cmd.upc + 1 → Gone e t ∧ ringOf t e.w.core e.w.bank m.ra.toNat = ringPopped ra groups ∧
        ringOf t e.w.core e.w.bank m.rb.toNat = ringPopped rb groups) := by
  intro tile groups
  obtain rfl : sp = mmaSpec f m := Option.some.inj (turn.spec.symm.trans spec)
  by_cases more : e.cmd.upc + 1 < groups
  · obtain ⟨u, step, stores, becomes⟩ := exec_mmaGroup turn more
    exact ⟨u, step, congrArg Stores.mem stores, keepsS_of_wroteC stores, mma_words f.zero f.vq (congrArg Stores.words stores),
      fun _ => ⟨becomes, ringOf_of_rings ((congrArg Stores.rings stores).trans rfl)⟩, fun last => absurd last (Nat.not_le.mpr more)⟩
  · obtain ⟨u, step, stores, gone⟩ := exec_mmaLast turn (Nat.not_lt.mp more)
    have one (same : m.ra = m.rb) : ra = rb := by rw [← turn.ringA, ← turn.ringB, same]
    exact ⟨u, step, congrArg Stores.mem stores, keepsS_of_bytes ((congrArg Stores.bytes stores).trans rfl),
      mma_words f.zero f.vq ((congrArg Stores.words stores).trans rfl), fun few => absurd few more,
      fun _ => ⟨gone, ringOf_popped one (congrArg Stores.rings stores)⟩⟩

theorem matrixMultiplies : MatrixMultiplies := by
  intro zero vq m e sp ra rb ta tb s i turn
  have spec : specOf i = some (mmaSpec ⟨zero, vq⟩ m) := by cases zero <;> cases vq <;> rfl
  exact matrixMultiplies_of_spec spec turn

/-- Settles O19: each micro-step of the matrix engine comes to the words, bytes and rings that the statement gives. -/
theorem matrixResults : Obligations.MatrixResults := ⟨matrixMultiplies, matrixMoves, epilogueResults⟩

end Sys2Proof.Proofs
end
